-- ==== Sys2Proof/Word.lean ====
section
/-! DEFINITION. Widths of the identifiers and words of the AVN32 (00_scope.md, R10 and R15). -/

namespace Sys2Proof

/-- One byte. -/
abbrev Byte := BitVec 8
/-- A register or an entry word (R405: every register is 32 bits wide). -/
abbrev Word := BitVec 32
/-- Device ID (R10). -/
abbrev DevId := BitVec 20
/-- Tenant ID (R10). -/
abbrev Tenant := BitVec 12
/-- Baton ID (R10): home device, tenant, slot, generation. -/
abbrev BatonId := BitVec 64
/-- Leg ID (R10, R182): 12-bit index, 16-bit generation. -/
abbrev LegId := BitVec 28
/-- Lane number 0 to 11 (R10). -/
abbrev LaneNo := Fin 12
/-- PCIe function: 0 the physical function, 1 to 64 the virtual ones (R374). -/
abbrev Func := Fin 65
/-- A SHA-384 digest as a number of 384 bits (R295 to R297). -/
abbrev Digest := BitVec 384
/-- An FP32 bit pattern (R57). -/
abbrev F32 := BitVec 32

end Sys2Proof
end

