-- ==== Sys2Proof/Syntax.lean ====
section
/-! DEFINITION. The commands of the block: one constructor of `Instr` per row of opcode_table.json, with the
decoded fields of the command's record, frame or event as operands. -/

namespace Sys2Proof

/-- The parties that access registers (R405, R408). -/
inductive Accessor where
  | pf
  | vf (n : Fin 64)
  | spi
  | uart
  | jtag
deriving DecidableEq, Repr

/-- The head of a command record (R380): issuing function, TENANT, USER, and whether every RSV bit is clear. -/
structure HostHdr where
  func : Func
  tenant : Tenant
  user : BitVec 64
  rsvClear : Bool
deriving DecidableEq, Repr

/-- Ring descriptor (R160). -/
structure RingDesc where
  base : BitVec 64
  cons : BitVec 64
  log2 : Byte
  func : Byte
  vector : BitVec 16
  notify : Byte
  serve : DevId
  rsvClear : Bool
deriving DecidableEq, Repr

/-- Sampler settings block (R148). -/
structure Sampler where
  seed : BitVec 64
  temp : F32
  topK : BitVec 16
  topP : F32
  minP : F32
  rep : F32
  freq : F32
  pres : F32
  track : Byte
  rsvClear : Bool
deriving DecidableEq, Repr

/-- A Steeple pattern image (R154). Each range is its 8-byte entry; NEXT runs state by state, 16 classes each. -/
structure Pattern where
  len : Nat
  nstates : Byte
  nranges : Byte
  flags : Byte
  state : Byte
  accept : BitVec 256
  ranges : List (BitVec 64)
  next : List Byte
  rsvClear : Bool
deriving DecidableEq, Repr

/-- Submission block (R382) with the prompt tokens it points at. -/
structure SubmitBlock where
  sampler : Sampler
  ring : RingDesc
  ttft : Word
  tbt : BitVec 24
  promptLen : BitVec 23
  maxNew : BitVec 23
  model : Byte
  npat : Byte
  patterns : List Pattern
  blockLen : Nat
  rsvClear : Bool
  tokens : List Word
deriving DecidableEq, Repr

/-- Extension operands of a RESUME (R380): tokens and the new bound. -/
structure ExtArg where
  tokens : List Word
  maxNew : BitVec 23
deriving DecidableEq, Repr

/-- SQ_OPEN operands (R380, R219). -/
structure SqOpenArg where
  queue : BitVec 16
  target : DevId
  pathTable : Byte
  mode : Byte
  rxCtx : BitVec 16
  descLog2 : Byte
  cplLog2 : Byte
  vector : BitVec 16
  descRing : BitVec 64
  cplRing : BitVec 64
  rateMax : Word
deriving DecidableEq, Repr

/-- RQ_OPEN operands (R380, R249). -/
structure RqOpenArg where
  rxCtx : BitVec 16
  queue : BitVec 16
  source : DevId
  bufLog2 : Byte
  vector : BitVec 16
  counter : BitVec 16
  bufRing : BitVec 64
  cplRing : BitVec 64
deriving DecidableEq, Repr

/-- Bib update record (R273). -/
structure BibRecord where
  key : BitVec 128
  care : BitVec 128
  prio : BitVec 16
  part : BitVec 4
  op : Byte
  result : BitVec 64
  rsvClear : Bool
deriving DecidableEq, Repr

/-- A descriptor (R220). -/
structure Descriptor where
  op : Byte
  ctl : Byte
  waitCtr : BitVec 16
  waitVal : Word
  incCtr : BitVec 16
  len : Word
  localKey : BitVec 16
  localOff : BitVec 48
  rkey : BitVec 16
  remote : BitVec 64
  operand0 : BitVec 64
  operand1 : BitVec 64
  user : BitVec 64
  rsvClear : Bool
deriving DecidableEq, Repr

/-- A receive buffer entry (R249). -/
structure RxBuffer where
  localKey : BitVec 16
  localOff : BitVec 48
  len : Word
  rsvClear : Bool
deriving DecidableEq, Repr

/-- A received Track frame. `head` is header bytes 0 to 15 as received (R213 on fabric ports 0 to 15, R216 on
relay ports 16 to 18); the other fields are those past byte 15. `mac`: the destination address, first byte uppermost (R212).
`tagDei`: the DEI bit of its 802.1Q tag (R270). `rsvTail`: the RSV bits past byte 15, which a relay header alone has. `fcsOk`: the
Ethernet FCS of a fabric frame is right; `linkCrc`: the CRC of a relay frame as received (R216). -/
structure Frame where
  port : Fin 19
  head : BitVec 128
  psn : Word
  txTime : Word
  planTag : BitVec 64
  tenant : Tenant
  kgen : BitVec 4
  rkey : BitVec 16
  aux : Word
  addr : BitVec 64
  payload : List Byte
  rsvTail : BitVec 16
  tagDei : Bool
  mac : BitVec 48
  fcsOk : Bool
  linkCrc : Word
deriving DecidableEq, Repr

/-- PTP messages that the device takes part in (R211): a grandmaster's or a bridge's Sync, a delay request, the answer to one. -/
inductive PtpKind where
  | sync | delayReq | delayResp
deriving DecidableEq, Repr

/-- A PTP message. `time`: the device's PTP time as a Sync or a delay response sets it, from its contents, the timestamps and the
measured path delay; of a delay request, the time at which it came. -/
structure PtpMsg where
  kind : PtpKind
  domain : Byte
  time : Nat
deriving DecidableEq, Repr

/-- A MARSHAL payload (R324); MTYPE is the command's own. -/
structure MarMsg where
  mtype : Byte
  kind : Byte
  sender : DevId
  subject : DevId
  epoch : BitVec 16
  round : BitVec 48
  crc : Word
  rsvClear : Bool
deriving DecidableEq, Repr

/-- Control-class parts of a baton (R173). `list` is the baton list of a SWAP leg (R181). -/
inductive CtlKind where
  | record | log | counts | steeple | share | map | list
deriving DecidableEq, Repr

/-- One item that a leg moves (R178, R189): its map entry without LOC, its baton and its image size. -/
structure LegItem where
  baton : BatonId
  kind : BitVec 2
  state : BitVec 2
  copy : Bool
  layer : BitVec 10
  index : BitVec 16
  bytes : Nat
deriving DecidableEq, Repr

/-- What a request between two BTN blocks asks (R181, R185, R195, R203; log 17): `opens` a leg at its target, `pull` asks the
device where a baton rests for a RESUME leg, `add` lists pages that joined an open SWAP leg, `hold` says that a baton whose
HANDOFF leg is open is to park after the commit. -/
inductive LegAsk where
  | opens | pull | add | hold
deriving DecidableEq, Repr

/-- A leg request (R180, R195) as the requester's BTN states it: its own leg ID, for `add` and `hold` the target's leg ID, and
what R174, R176 and R205 check before a leg opens: the record's RSV bits, COUNTER, the ORIGIN bits, FLAGS.CANCELLED, STATE, an
extension that comes with a resume, and the states that the patterns need. `lead`: the lead share's parts come with it. -/
structure LegReq where
  ask : LegAsk
  type : BitVec 4
  src : DevId
  entry : LegId
  leg : LegId
  srcLane : LaneNo
  dstLane : LaneNo
  batons : List BatonId
  digest : Digest
  nshares : Byte
  counterOk : Bool
  originOk : Bool
  recordRsvClear : Bool
  cancelled : Bool
  ended : Bool
  ext : Bool
  lead : Bool
  states : Nat
  items : List LegItem
deriving DecidableEq, Repr

/-- The page header that stands before a page (R192). -/
structure PageHdr where
  baton : BatonId
  leg : BitVec 32
  ordinal : Word
  map : BitVec 64
  bytes : Word
  crc : Word
deriving DecidableEq, Repr

/-- How a control part reaches the target of a leg: inside the device with its bytes as they arrived, or in a LEG_CTL frame. -/
inductive CtlRx where
  | here (leg : LegId) (part : CtlKind) (bytes : List Byte)
  | track (f : Frame)
deriving DecidableEq, Repr

/-- Number formats (R57, R440 codes). -/
inductive Fmt where
  | int4 | int8 | e2m1 | e2m3 | e3m2 | e4m3 | e5m2 | bf16 | fp16 | fp32 | int32 | mxfp4 | mxfp8e4 | mxfp8e5 | cb3 | e8m0
deriving DecidableEq, Repr

/-- Vector-unit operations (R77). -/
inductive VecFn where
  | add | sub | mul | div | recip | sqrt | rsqrt | exp | exp2 | log | log2 | tanh | max | min
deriving DecidableEq, Repr

/-- Vector reductions (R78). -/
inductive RedFn where
  | sum | sumsq | max | min
deriving DecidableEq, Repr

/-- Where an operand's stored bytes lie: given with the work, or in the operand SRAM of the core in a lane position (R37). -/
inductive Src where
  | given (bytes : List Byte)
  | sram (pos : Fin 24) (addr : Nat) (len : Nat)
deriving DecidableEq, Repr

/-- An operand along its reduction dimension, in the stored form of its format: blocks of R64 and R66, or single elements. -/
structure Opnd where
  fmt : Fmt
  src : Src
deriving DecidableEq, Repr

/-- Operand SRAM of the core in a lane position, from an address on: where a result goes. -/
structure Dst where
  pos : Fin 24
  addr : Nat
deriving DecidableEq, Repr

/-- One operation that a slot's kernel runs. The kernel's own code is not user-visible (R440), so which operations it runs, and
the activations and weights they run on, arrive with the slot. The formats, the reduction length and SPLIT_K of a matrix operation
are those of record `op` of the slot's kernel. What the device does by itself in a slot is no operation of this list: sealing
(R126), selection (R137), exchange (R248), staging (R109) and the switch of SRAM state (R107). -/
inductive Work where
  /-- One row of outputs of R73 or R75: a row of A, and for each output its column of B and its bias. -/
  | matrix (op : Nat) (a : Src) (cols : List (Src × Option F32)) (dst : Dst)
  /-- The model's last matrix operation for one sequence: one column and bias per vocabulary entry, logits to Judge (R85). -/
  | logits (baton : BatonId) (op : Nat) (a : Src) (cols : List (Src × Option F32))
  | vector (f : VecFn) (a b : Opnd) (dst : Dst)
  | reduce (f : RedFn) (x : Opnd) (dst : Dst)
  | convert (fmt : Fmt) (x : Opnd) (dst : Dst)
  | quantise (fmt : Fmt) (x : Opnd) (dst : Dst)
  | cb3 (block : Src) (dst : Dst)
  /-- R80: one key from its coefficients, with the basis of a layer and KV head of the slot's model. -/
  | lowRank (layer head : Nat) (coef : Src) (dst : Dst)
  /-- R82 to R84, R127: query record `op`, one query head at a position over the sequence's attention list, for the KV head that it
  shares. -/
  | attend (baton : BatonId) (layer head pos : Nat) (op : Nat) (q : Src) (dst : Dst)
  /-- R124: append one position's key and value vectors, per KV head, into the open page of a layer. -/
  | append (baton : BatonId) (layer : Nat) (pos : Nat) (keys vals : List Opnd)
  /-- R135: the probe of a layer from the step's queries, per KV head in ascending query head. -/
  | probe (baton : BatonId) (layer : Nat) (queries : List (List Opnd))
  /-- R29: (baton, expert) routes of one layer. -/
  | route (layer : Nat) (routes : List (BatonId × Nat))
  /-- R81: matrix-unit cycles stalled on the expander. -/
  | stall (cycles : Nat)
deriving DecidableEq, Repr

/-- A slot record of a lap table (R97). -/
structure Slot where
  type : BitVec 4
  preempt : Bool
  stream : Bool
  model : BitVec 2
  subbatch : BitVec 6
  kernel : BitVec 16
  budget : BitVec 25
  cores : BitVec 24
  deps : List (BitVec 10)
  hbmRd : Word
  hbmWr : Word
  param : BitVec 16
  rsvClear : Bool
deriving DecidableEq, Repr

/-- A lap table (R96): header fields, slot records, and whether its RSV bytes are zero and its CRC is right. -/
structure LapTable where
  nslots : BitVec 16
  periodUs : BitVec 16
  quietUs : Byte
  models : Byte
  batchMax : BitVec 16
  subbatches : Byte
  preemptGap : Byte
  overrunLimit : Byte
  promptQueueMax : Word
  slots : List Slot
  rsvClear : Bool
  crcOk : Bool
deriving DecidableEq, Repr

/-- A (device, lane) entry of a PARK or HANDOFF list (R299, R302). -/
structure Target where
  dev : DevId
  lane : BitVec 4
deriving DecidableEq, Repr

/-- One matrix operation record of a kernel table (R440). -/
structure KernelOp where
  kernel : BitVec 16
  fmtA : Byte
  fmtB : Byte
  fmtOut : Byte
  k : Word
  bounds : List Nat
  rsvClear : Bool
deriving DecidableEq, Repr

/-- SYSTEM section (R298); groups as (GROUP, device IDs in share order). -/
structure SystemSec where
  epoch : BitVec 16
  scheme : Byte
  quietUs : Byte
  periodUs : BitVec 16
  devices : Word
  regions : Word
  lapBase : BitVec 64
  activate : BitVec 48
  deadline : BitVec 48
  groups : List (BitVec 16 × List DevId)
  rsvClear : Bool
deriving DecidableEq, Repr

/-- DEVICE section (R299); `ctrLap` lists the counters in LAP mode, `spares` per die. -/
structure DeviceSec where
  leader : Byte
  idleLaps : Byte
  handoffWait : Byte
  holdLimit : Byte
  scrubS : Word
  spares : Vector (List Byte) 4
  park : List Target
  ctrLap : List (BitVec 12)
  rsvClear : Bool
deriving DecidableEq, Repr

/-- One TENANT record (R300). -/
structure TenantRec where
  enabled : Bool
  cls : BitVec 5
  slotQuota : BitVec 17
  ceiling : BitVec 24
  paged2m : BitVec 24
  rsvClear : Bool
deriving DecidableEq, Repr

/-- MODEL section (R301, R440). `digestOk`: the stored MODEL_DIGEST equals the SHA-384 of bytes 48 to the end. -/
structure ModelSec where
  number : Nat
  digest : Digest
  digestOk : Bool
  weightDigest : Digest
  weightBytes : BitVec 64
  arithMode : Byte
  lrRank : Byte
  headDim : BitVec 16
  segBlocks : BitVec 16
  attnScale : F32
  kvHeads : Byte
  retrieve : Byte
  layers : BitVec 16
  windowTokens : Word
  topk : BitVec 16
  runs : Byte
  vocab : Word
  sampleRows : Word
  maxLen : Word
  nkern : Nat
  ops : List KernelOp
  rsvClear : Bool
deriving DecidableEq, Repr

/-- LANE section (R302). -/
structure LaneSec where
  role : BitVec 2
  dirEntries : BitVec 16
  model : Vector Byte 4
  mflags : Vector Byte 4
  cores : Vector Byte 24
  windowKib : BitVec 16
  weight2m : Word
  slot4k : BitVec 16
  kvFlags : Byte
  reserve : Word
  shared : Word
  runCells : Word
  guar : BitVec 16
  cap : BitVec 16
  handoff : List Target
  exch : List (BitVec 10 × BitVec 12)
  table : Option LapTable
  rsvClear : Bool
deriving DecidableEq, Repr

/-- A queue record of the PACER section (R303). -/
structure PacQueue where
  qlimitKib : BitVec 16
  weight : Byte
  rate : Word
  burstKib : BitVec 16
deriving DecidableEq, Repr

/-- A meter record of the PACER section (R303). -/
structure PacMeter where
  cir : Word
  pir : Word
  cbsKib : BitVec 16
  pbsKib : BitVec 16
deriving DecidableEq, Repr

/-- A port record of the PACER section (R303). -/
structure PacPort where
  legQ : Byte
  overhead : Byte
  police : Byte
  pcp : BitVec 15
  maxFrame : BitVec 16
  queues : Vector PacQueue 32
  meters : Vector PacMeter 30
  rsvClear : Bool
deriving DecidableEq, Repr

/-- A partition record of the BIB section (R304). -/
structure BibPart where
  base : BitVec 16
  ngroups : BitVec 16
  tenant : Tenant
  priv : Bool
  userBtn : Bool
  casc : Bool
  rsvClear : Bool
deriving DecidableEq, Repr

/-- BIB section (R304). -/
structure BibSec where
  cascade : Byte
  deadline : Byte
  parts : List BibPart
  rsvClear : Bool
deriving DecidableEq, Repr

/-- A directory entry (R293); `crcOk`: the section's CRC-32C agrees. -/
structure DirEntry where
  type : Byte
  index : Byte
  offset : Word
  length : Word
  crcOk : Bool
  rsvClear : Bool
deriving DecidableEq, Repr

/-- A meet-plan image (R292 to R304), fields decoded. `keyHash` is the SHA-384 of SIG bytes 0 to 95, `sigValid` the
verdict of the ECDSA P-384 check over the image digest (R295), `planDigest` the SHA-384 of SYSTEM (R296). -/
structure PlanImage where
  magic : Word
  format : BitVec 16
  nsect : BitVec 16
  totalBytes : Word
  targetDev : DevId
  hdrRsvClear : Bool
  dir : List DirEntry
  keyHash : Digest
  sigValid : Bool
  planDigest : Digest
  system : SystemSec
  device : DeviceSec
  tenants : List (Tenant × TenantRec)
  models : List ModelSec
  lanes : Vector LaneSec 12
  pacer : Vector PacPort 19
  bib : Option BibSec
deriving DecidableEq, Repr

/-- A firmware update image (R365), fields decoded; the three verdicts are those of the R366 checks. -/
structure FwImage where
  magic : Word
  format : BitVec 16
  rev : Word
  romMin : Byte
  bodyBytes : Word
  rsvClear : Bool
  keyHash : Digest
  sigValid : Bool
  tagValid : Bool
deriving DecidableEq, Repr

/-- One sample of every sensor (R426): 0.0625 degree units, and module input power in W. -/
structure ThermalReading where
  die : Vector Int 4
  bolzil : Int
  stack : Vector Int 12
  power : Nat
deriving DecidableEq, Repr

/-- Rail readings of a telemetry update (R399): mV and 0.1 A per main rail, W in all, and whether a rail is outside its
window. -/
structure RailReading where
  mv : Vector (BitVec 16) 8
  da : Vector (BitVec 16) 8
  power : BitVec 16
  outOfWindow : Bool
deriving DecidableEq, Repr

/-- What a lane test found (R357): failed core positions with unit and word, failing rows (bank, row, word), and whether
a listed row's bank had no spare row left. -/
structure TestFinding where
  cores : List (Fin 24 × Bool × Nat)
  rows : List (Nat × Nat × Nat)
  noSpareRow : Bool
deriving DecidableEq, Repr

/-- A cascade ring packet (R287). -/
structure RingPacket where
  key : BitVec 128
  tag : Byte
  part : BitVec 4
  hit : Bool
  pos : BitVec 2
  addr : BitVec 16
  result : BitVec 64
  crc : Byte
deriving DecidableEq, Repr

/-- Clock inputs (R423). -/
inductive ClockIn where
  | sys | eth | ref
deriving DecidableEq, Repr

/-- An outcome of a CXL port's training (R388): link width, size in 256 MiB units, and an acceptable device. -/
structure CapTrain where
  up16 : Bool
  up8 : Bool
  sizeUnits : Nat
  deviceOk : Bool
deriving DecidableEq, Repr

/-- The tuning registers of R237. -/
inductive TuneReg where
  | rto | ccCfg | rateMin
deriving DecidableEq, Repr

/-- A channel end: a queue or context by number, or the system context of a peer (R238). -/
inductive Chan where
  | num (n : BitVec 13)
  | sys (peer : DevId)
deriving DecidableEq, Repr

/-- The commands. -/
inductive Instr where
  -- host commands (R380)
  | submit (h : HostHdr) (blk : SubmitBlock)
  | pause (h : HostHdr) (baton : BatonId)
  | resume (h : HostHdr) (baton : BatonId) (ring : Option RingDesc) (ext : Option ExtArg)
  | cancel (h : HostHdr) (baton : BatonId)
  | release (h : HostHdr) (baton : BatonId)
  | extend (h : HostHdr) (baton : BatonId) (tokens : List Word)
  | audit (h : HostHdr) (baton : BatonId) (fromPos toPos : Word) (repair : Bool)
  | regionAlloc (h : HostHdr) (flags : Byte) (len : BitVec 64)
  | regionFree (h : HostHdr) (rkey : BitVec 16)
  | sqOpen (h : HostHdr) (arg : SqOpenArg)
  | rqOpen (h : HostHdr) (arg : RqOpenArg)
  | sqClose (h : HostHdr) (queue : BitVec 16)
  | rqClose (h : HostHdr) (queue : BitVec 16)
  | bibUpdate (h : HostHdr) (part : BitVec 4) (records : List BibRecord)
  | bibLookup (h : HostHdr) (part : Byte) (key : BitVec 128)
  | planLoad (h : HostHdr) (totalBytes : Word)
  | planWithdraw (h : HostHdr)
  | laneDrain (h : HostHdr) (lane : Byte)
  | laneServe (h : HostHdr) (lane : Byte)
  | laneTest (h : HostHdr) (lane : Byte) (mode : Byte)
  | weightPut (h : HostHdr) (len : BitVec 64) (digest : Digest) (data : List (Nat × Byte))
  | stageVariant (h : HostHdr) (lane : Byte) (model : Byte)
  -- doorbells (R377)
  | commandRingTail (f : Func) (tenant : Tenant) (tail : Word)
  | completionRingHead (f : Func) (tenant : Tenant) (head : Word)
  | descriptorRingTail (f : Func) (queue : BitVec 13) (tail : Word) (descs : List Descriptor)
  | trackCompletionRingHead (f : Func) (queue : BitVec 13) (head : Word)
  | bufferRingTail (f : Func) (queue : BitVec 12) (tail : Word) (bufs : List RxBuffer)
  | descriptorSplit (queue : BitVec 13)
  -- register commands
  | marCmdFenceAdmin (a : Accessor)
  | marCmdReadmit (a : Accessor)
  | marCmdSwap (a : Accessor)
  | fwuStage (a : Accessor)
  | activate (a : Accessor) (slotB : Bool)
  | confirm (a : Accessor)
  | rom (a : Accessor)
  | lcTransitionRequest (a : Accessor) (v : Word) (authOk : Bool)
  | deviceSoftwareReset (a : Accessor) (v : Word)
  | blockSoftwareReset (a : Accessor) (v : Word)
  | laneReset (a : Accessor) (v : Word)
  | mchTestStart (a : Accessor) (lane : LaneNo) (v : Word)
  | capRetrain (a : Accessor) (port : Fin 4) (v : Word)
  | rlyDemote (a : Accessor) (link : Fin 3) (v : Word)
  | portFenceWrite (a : Accessor) (v : Word)
  | teCtrWrite (a : Accessor) (v : Word)
  | tePathEntryWrite (a : Accessor) (v : Word)
  | teKgenWrite (a : Accessor) (system : Bool) (v : Word)
  | teTuningWrite (a : Accessor) (reg : TuneReg) (v : Word)
  | glbEvtWrite (a : Accessor) (enable : Bool) (v : Word)
  | rcRead (a : Accessor) (off len : Nat)
  | loReadLatch (a : Accessor) (off len : Nat)
  | unmappedRead (a : Accessor) (off len : Nat)
  | registerWrite (a : Accessor) (off : Nat) (v : Word) (full : Bool)
  -- SPI (R391 to R394)
  | spiRead (w : Word) (edges : Nat)
  | spiWrite (w : Word) (edges : Nat)
  | spiDataWord (w : Word) (edges : Nat)
  | spiNoop (w : Word) (edges : Nat)
  | spiFrameDiscard (edges : Nat)
  -- UART (R395 to R398)
  | uartByteRx (b : Byte) (stopOk parityOk early : Bool)
  | uartRead (addr : BitVec 24) (crcOk opOk : Bool)
  | uartWrite (addr : BitVec 24) (v : Word) (crcOk opOk : Bool)
  | uartPacketGap
  -- I2C (R399, R400)
  | i2cReadByte (code : Byte)
  | i2cReadWord (code : Byte)
  | alertResponse
  | i2cSclTimeout
  | telemetryUpdate (r : RailReading)
  -- JTAG (R401)
  | extest (cells : BitVec 32)
  | idcode
  | samplePreload (cells : BitVec 32)
  | clamp
  | highz
  | debug
  | bypass (code : Byte)
  | tapReset
  -- resets and start-up
  | powerOnReset
  | mainBrownout (rails : BitVec 8)
  | resetPin
  | resetPinRelease
  | railGood (r : Fin 8)
  | pcieFundamentalReset
  | perstRelease
  | functionLevelReset (f : Func)
  | pcieConfigRequest (f : Func)
  | pcieLinkDownAfterFatal
  | standbyRelease
  | fuseLoadDone
  | strapSampled (codes : Vector Byte 9)
  | pllLock
  | bolzilMarchDone (ok : Bool)
  | dieLinksTrained
  | coreMarchDone (failed : List (Fin 4 × Nat))
  | stackTrainingDone (failed : List (LaneNo × Bool)) (cap : Vector CapTrain 4)
  | startupStackTestDone (failed : List LaneNo)
  | bootImageChecked (bootMs : BitVec 16)
  -- clocks, temperature, Coach
  | sysclkFail
  | refclkFail
  | ethclkFail
  | clockRecovered (c : ClockIn)
  | thermalSample (r : ThermalReading)
  | coachWatchdog
  | coachRestartTimeout
  | coachServesAgain
  -- laps and slots
  | lapBoundary
  | commitPoint
  | lapSyncEdge (offset : Int)
  | syncLost
  | syncRegained
  | slotStart (lane : LaneNo) (slot : Nat) (work : List Work)
  | slotComplete (lane : LaneNo) (slot : Nat) (cycles : Nat) (source : Option DevId)
  | stragglerReport (dev : DevId)
  | weightHalfFull (lane : LaneNo)
  | judgeReturn (lane : LaneNo) (baton : BatonId)
  | lapTableReady (lane : LaneNo)
  | lapTableLate (lane : LaneNo)
  | variantLanded (lane : LaneNo) (digest : Digest)
  -- pages
  | capCopyDone (baton : BatonId) (layer : BitVec 10) (index : BitVec 16)
  | pageFetchDone (baton : BatonId) (layer : BitVec 10) (index : BitVec 16)
  | heatDirLate (lane : LaneNo)
  | batonResident (baton : BatonId)
  | holdLimitPark (baton : BatonId)
  | handoffWaitExpired (baton : BatonId)
  -- failures and tests
  | coreFailure (die : Fin 4) (core : Nat)
  | coreStopTimeout (lane : LaneNo) (position : Fin 24)
  | hbmUncorrectable (lane : LaneNo) (bank row : Nat)
  | stewardFault (lane : LaneNo)
  | hbcFault (lane : LaneNo)
  | dieLinkFault (die : Fin 4)
  | mchTestDone (lane : LaneNo) (found : TestFinding)
  -- legs
  | legRequest (f : Option Frame) (r : LegReq)
  | legControlPartRx (x : CtlRx)
  | clearRx (f : Frame)
  | legPageRx (f : Frame)
  | xzPageWritten (leg : LegId) (ordinal : Nat) (hdr : PageHdr)
  | legCommitRx (f : Frame)
  | legAbortRx (f : Frame)
  | legIdleTimeout (leg : LegId)
  | legSourceTimeout (leg : LegId)
  | spillDone (baton : BatonId)
  | recallDone (baton : BatonId)
  | controlScrub (baton : BatonId)
  | auditDone (baton : BatonId)
  -- Track frames
  | write (f : Frame)
  | readReq (f : Frame)
  | readResp (f : Frame)
  | atomicAdd (f : Frame)
  | fetchAdd (f : Frame)
  | cmpSwap (f : Frame)
  | atomicResp (f : Frame)
  | send (f : Frame)
  | ack (f : Frame)
  | nack (f : Frame)
  | ringRx (f : Frame)
  | heartbeat (f : Frame) (m : MarMsg)
  | echo (f : Frame) (m : MarMsg)
  | suspect (f : Frame) (m : MarMsg)
  | fence (f : Frame) (m : MarMsg)
  | readmit (f : Frame) (m : MarMsg)
  | report (f : Frame) (m : MarMsg) (entry : List Word)
  | nontrackFrameRx (port : Fin 16)
  | ptpFrameRx (port : Fin 16) (m : PtpMsg)
  | pfcFrameRx (port : Fin 16) (priority : BitVec 3) (pause : Nat)
  | pfcPauseEnd (port : Fin 16) (priority : BitVec 3)
  | relayCreditReturn (link : Fin 3) (cls : BitVec 2) (units : Nat)
  | pacerChoose (port : Fin 19)
  | retxTimeout (chan : Chan) (psn : Word)
  | ackTimer (chan : Chan)
  | rateIncrease (chan : Chan)
  | pageFaultRetry (queue : BitVec 13) (psn : Word)
  | pagePresent (tenant : Tenant) (page : Nat)
  | rxNoBufferRetry (queue : BitVec 13) (message : Word)
  | systemContextIdle (peer : DevId)
  | rlyLaneOut (link : Fin 3) (lane : Fin 17)
  | rlyLinkTrained (link : Fin 3) (peer : DevId) (tagCur tagNext : BitVec 64) (failed : List (Fin 17))
  | capLinkDown (port : Fin 4)
  -- Bib
  | bibEngineDone
  | bibBatchLate
  | bibRingPacket (p : RingPacket)
  | bibCascadeTimeout (tag : Byte)
  | bibRingHoldDrop
  -- meet plan
  | planImageFetched (img : PlanImage)
  | planChecked
  | planDeadlinePassed
  | laneBuildDone (lane : LaneNo) (digest : List Digest)
  -- Marshal timers
  | heartbeatSend (round : BitVec 48)
  | heartbeatDue (round : BitVec 48)
  | echoDue (round : BitVec 48)
  | tallyClose (round : BitVec 48)
  -- firmware and life cycle
  | fwuStageDone (img : FwImage)
  | healthyTimer
  | confirmWindowExpired
  | lcIntentBurned (readBack : Word)
  | lcWorkDone
  -- interrupt holdoffs and link events
  | evtMsiHoldoff
  | lapTableReplacement (lane : LaneNo) (table : LapTable) (swapLap deadlineLap : BitVec 48)
  | portDown (port : Fin 16)
  | portUp (port : Fin 16)
  | relayLinkDown (link : Fin 3)
  | capPortTrained (port : Fin 4) (r : CapTrain)
  | pcieLinkUp (width : Byte) (speed : BitVec 4) (flit : Bool)
  | ptpLockLost
  | blockResetRelease (block : Fin 10)
  | contextMsiXHoldoff (tenant : Tenant)
deriving DecidableEq, Repr

end Sys2Proof
end

