-- ==== Sys2Proof/Decode.lean ====
section
/-! DEFINITION. Commands spelled by the table's bits. No row of opcode_table.json gives bits: a command reaches the block as a
record, a frame or an event, whose fields the constructors of `Instr` carry. -/

namespace Sys2Proof

/-- No word spells a command, since no row of the table has bits. -/
def decodeTableWord (_nbits _w : Nat) : Option Instr := none

end Sys2Proof
end

