-- ==== Sys2Proof/Config.lean ====
section
/-! DEFINITION. Values the spec leaves open, as constants without a body: no proof can see what they are. -/

namespace Sys2Proof.Config

/-- A 32-bit value that the spec does not fix, fresh at each use: applied to the counter `State.free` (log 4). One use is
SRG's reading of CONS in host memory (R164). -/
opaque freeWord : Nat → BitVec 32

/-- The FP32 result of vector-unit function `fn` at an operand for which 2^-199 absolute precision does not decide the
rounding that R77 asks for (log 12). -/
opaque undecided : Nat → BitVec 32 → BitVec 32

/-- What vector-unit function `fn` gives at operands for which R77's exact mathematical result does not exist (log 59). -/
opaque noResult : Nat → BitVec 32 → BitVec 32 → BitVec 32

/-- Prompt tokens that a pre-emptible slot's kernel hosts per lap; Terlyn gives it with the kernel (R110), whose code is not
user-visible (log 10). -/
opaque preemptCap : BitVec 16 → Nat

/-- Where in a core's SRAM a kernel that runs prompt work finds the length table (R131); the kernel's code is not user-visible (log 22). -/
opaque lenTableAt : BitVec 16 → Nat

/-- The one PTP domain (R211): the fabric manager sets it, by a means that the spec does not give (log 69). -/
opaque ptpDomain : BitVec 8

/-- Whether a return authorisation's public key and signature verify (R360), for its 52 words: SHA-384 and ECDSA P-384 are left
uninterpreted where a plain register write carries the request (log 19). -/
opaque authValid : List (BitVec 32) → Bool

end Sys2Proof.Config
end

