-- ==== Sys2Proof/Machine/Crc.lean ====
section
/-! DEFINITION. The two checksums the device forms: CRC-32C (Castagnoli, reflected, start and final complement all ones) and the
CRC-8 of R287 (polynomial 0x07). -/

namespace Sys2Proof.Machine

open Sys2Proof

/-- One bit of the reflected division by 0x82F63B78. -/
def crc32cBit (c : Word) : Word :=
  if c.getLsbD 0 then (c >>> 1) ^^^ 0x82F63B78 else c >>> 1

def crc32cBits : Nat → Word → Word
  | 0, c => c
  | n + 1, c => crc32cBits n (crc32cBit c)

def crc32cByte (c : Word) (b : Byte) : Word := crc32cBits 8 (c ^^^ b.setWidth 32)

/-- CRC-32C of a byte string. -/
def crc32c (bs : List Byte) : Word := ~~~ (bs.foldl crc32cByte 0xFFFFFFFF)

def crc8Bit (c : Byte) : Byte := if c.getLsbD 7 then (c <<< 1) ^^^ 0x07 else c <<< 1

def crc8Bits : Nat → Byte → Byte
  | 0, c => c
  | n + 1, c => crc8Bits n (crc8Bit c)

/-- CRC-8 of a byte string, polynomial 0x07, starting at zero (R287). -/
def crc8 (bs : List Byte) : Byte := bs.foldl (fun c b => crc8Bits 8 (c ^^^ b)) 0

end Sys2Proof.Machine
end

