-- ==== Sys2Proof/Machine/State.lean ====
section
/-! DEFINITION. The state of the AVN32 block as plain data, and `State.reset`, the state right after a power-on reset
(R340). Every register of 16_register_map.md and of the owning chapters is a field or is computed from fields by
Machine/RegRead.lean. -/

namespace Sys2Proof.Machine

open Sys2Proof

/-- Why the machine could stop with a fault. No command of this block raises it: R406 completes every access, and R12
reports every failure by a finish code. It stands so that the interface has a fault type; stopping with it would be safe. -/
inductive Fault where
  /-- An access outside every address space of the spec. Raised by no command (safe). -/
  | outsideEverySpace
deriving DecidableEq, Repr

/-- Why a command could have no meaning. -/
inductive Refusal where
  /-- A row whose meaning the model does not have; raised by Dispatch only (safe). -/
  | notModelled (mnemonic : String)
deriving DecidableEq, Repr

/-- A sparse table: keys ascending, each once. -/
abbrev Tbl (α : Type) := List (Nat × α)

/-- A memory: listed bytes, addresses strictly rising, no listed zero (an unlisted address reads zero, log 5). -/
abbrev Mem := List Host.Cell

/-- Finish codes (R12). -/
inductive Finish where
  | ok | discarded | stalled | refused | fenced | keyDenied | pageFaultResent | planMismatch | deadTarget | heldNoPage
  | cancelledDropped | abandoned | falseStart | lapOverrun | laneRetired | auditMismatch
deriving DecidableEq, Repr

/-- Pins the device drives (R349). -/
inductive Pin where
  | fatalN | alertN | lapSync | tdo
deriving DecidableEq, Repr

/-- How a frame stands with its sender (R228, R230, R236): its timer in us, 0 before the first start, and when that runs out; its
RETRY_US, 0 before a page fault, and when a faulted frame goes again; and whether an acknowledgement covered it while a response is
awaited. -/
structure Retx where
  timerUs : Nat
  dueAt : Option Nat
  faultUs : Nat
  faultAt : Option Nat
  acked : Bool
deriving DecidableEq, Repr

/-- A frame just formed. -/
def Retx.new : Retx := ⟨0, none, 0, none, false⟩

/-- A frame formed by TE (R213 to R216). `sq` is the send queue it belongs to, none for device traffic. -/
structure TxFrame where
  op : Byte
  cls : BitVec 2
  flags : BitVec 16
  dst : DevId
  path : Nat
  dstCh : BitVec 14
  psn : Word
  planTag : BitVec 64
  tenant : Tenant
  kgen : BitVec 4
  rkey : BitVec 16
  aux : Word
  addr : BitVec 64
  payload : List Byte
  vlan : BitVec 12
  sq : Option Nat
  rt : Retx
deriving DecidableEq, Repr

/-- What the device drives outwards. -/
inductive Out where
  /-- A Track frame with its bytes, from the destination address on a fabric port, from the link header to the CRC on a relay link. -/
  | frame (port : Nat) (pcp : BitVec 3) (time : Word) (f : TxFrame) (bytes : List Byte)
  /-- A link control word that returns credits (R217). -/
  | credit (link : Nat) (cls : BitVec 2) (units : Nat)
  /-- A PTP delay request, or the answer to one with its receive time (R211). -/
  | ptp (port : Nat) (kind : PtpKind) (time : Nat)
  | msix (func : Nat) (vector : Nat)
  | hostWrite (func : Nat) (addr : BitVec 64) (words : List Word)
  | regValue (a : Accessor) (off : Nat) (v : Word)
  | spiMiso (w : Word)
  | uartTx (bytes : List Byte)
  | i2cData (bytes : List Byte)
  | i2cNack
  | jtag (code : Byte) (value : Word)
  | pin (p : Pin) (low : Bool)
  | matchOut (p : RingPacket)
  | configRetry (func : Func)
  | configServed (func : Func)
  | errFatal
  | linkDetect
  | replacement (lane : LaneNo) (code : Finish)
deriving DecidableEq, Repr

/-! ### Clocks, laps, global registers -/

/-- PTP time (R94, GLB_PTP) and the clock inputs (R424). -/
structure Clk where
  now : Nat
  sysOk : Bool
  ethOk : Bool
  refOk : Bool
  sysFail : Bool
  ethFail : Bool
  refFail : Bool
  ptpLock : Bool
  ptpHold : Option Nat
deriving DecidableEq, Repr

/-- The lap timer (R89 to R95). -/
structure Lap where
  period : Nat
  quiet : Nat
  count : BitVec 48
  base : BitVec 64
  running : Bool
  inQuiet : Bool
  boundaryAt : Nat
  leader : Bool
  leadPos : BitVec 2
  source : BitVec 2
  syncLost : Bool
  offset : BitVec 16
deriving DecidableEq, Repr

/-- The registers of 16_register_map.md that belong to no block. -/
structure Glb where
  bolzilStep : BitVec 4
  poletteStep : BitVec 4
  evt : BitVec 13
  evtEn : BitVec 13
  evtVector : BitVec 11
  evtHold : Bool
  evtLater : Bool
  errKind : BitVec 2
  errPath : BitVec 3
  errOffset : BitVec 24
  errCnt : Word
  scratch : Word
  heatSelCnt : Word
  fatal : Bool
deriving DecidableEq, Repr

/-- COACH_STATUS.STATE (R51). -/
inductive CoachPhase where
  | booting | awaiting | serving | restarting | halted
deriving DecidableEq, Repr

/-- Why Coach is away (R51, R369). -/
inductive CoachPause where
  | none | watchdog | service
deriving DecidableEq, Repr

/-- A completion before its PHASE is set (R383): `lead` are body words 0 and 1 past the finish code, `body` those from byte
8 on. -/
structure Cpl where
  code : Finish
  lead : Word × Word
  second : Bool
  body : List Word
  user : BitVec 64
  op : Byte
  reason : Byte
  tenant : Tenant
deriving DecidableEq, Repr

structure Coach where
  late : List Cpl
  romRev : Byte
  imageActive : Bool
  restarts : Byte
  phase : CoachPhase
  pause : CoachPause
deriving DecidableEq, Repr

/-- One accessor's select copies and _HI latches (R408, R409). -/
structure Sel where
  srgTenant : BitVec 12
  teTenant : BitVec 12
  teCtr : BitVec 12
  tePath : BitVec 14
  pac : BitVec 21
  pacTenant : BitVec 12
  bibPart : BitVec 4
  marRing : BitVec 7
  hifCtx : BitVec 12
  lapCountHi : Word
  tagCurHi : Word
  tagNextHi : Word
  lapBaseHi : Word
  ptpHi : Word
deriving DecidableEq, Repr

def Sel.zero : Sel := ⟨0, 0, 0, 0, 0, 0, 0, 0, 0, 0, 0, 0, 0, 0⟩

/-! ### Start, fuses, firmware -/

/-- Start-up milestones of R350, the supply pins, and whether the strap is still to be sampled (R346). -/
structure Boot where
  railGood : BitVec 8
  stbyReleased : Bool
  fusesLoaded : Bool
  strapDue : Bool
  strapDone : Bool
  resetN : Bool
  perstN : Bool
  mainStart : Bool
  fabricUp : Bool
  coachUp : Bool
  dieLinksUp : Bool
  coreMarch : Bool
  stacksTrained : Bool
  stackTest : Bool
  imageChecked : Bool
deriving DecidableEq, Repr

/-- STA: causes, strap, boot, resets held, throttle and trip (R340 to R347, R427 to R431). `power` holds the samples of the
last 1 ms. -/
structure Sta where
  rail : BitVec 4
  afterFatal : Bool
  software : Bool
  pinCause : Bool
  brownout : Bool
  por : Bool
  unstable : Bool
  code : Byte
  mode : BitVec 2
  pos : BitVec 2
  bootMs : BitVec 16
  failStage : BitVec 4
  blockHeld : BitVec 10
  laneRefused : BitVec 12
  fatalPin : Bool
  boot : Boot
  tl : Vector Nat 4
  tUp : Vector Nat 4
  tChg : Vector Nat 4
  pl : Nat
  pUp : Nat
  pChg : Nat
  throttleCnt : Word
  dieTemp : Vector Int 4
  bolzilTemp : Int
  stackTemp : Vector Int 12
  power : List Nat
  coolSince : Vector (Option Nat) 4
  lowSince : Option Nat
  hotAtTrip : List Nat
  tripped : Bool
  tripTemp : BitVec 12
  tripSource : BitVec 5
  polStopped : Bool
deriving DecidableEq, Repr

/-- A fuse key group: its bits and its CRC-32C (R348). -/
structure KeyGroup where
  value : BitVec 384
  crc : Word
deriving DecidableEq, Repr

/-- Life-cycle states (R358). -/
inductive LcState where
  | blank | provisioned | field | returned | scrapped | invalid
deriving DecidableEq, Repr

/-- A running transition (R360): none, burning INTENT_k, doing the work. -/
inductive LcRun where
  | idle
  | intent (k : Fin 4)
  | work (k : Fin 4)
deriving DecidableEq, Repr

structure Fus where
  serial : BitVec 128
  hbmCode : Byte
  pinMap : Word
  sramRepair : BitVec 4096
  coreFailed : Vector (BitVec 74) 4
  intent : Vector Word 4
  commit : Vector Word 4
  planKey : KeyGroup
  fwKey : KeyGroup
  family : KeyGroup
  returnKey : KeyGroup
  pinActive : Bool
  lc : LcState
  pending : Bool
  pendingTo : BitVec 3
  crcBad : BitVec 4
  lcPartial : Bool
  keyData : Vector Word 52
  lcResult : Byte
  lcRun : LcRun
deriving DecidableEq, Repr

/-- States of an image-store slot (R367). -/
inductive SlotState where
  | empty | staging | staged | trial | good | rejected
deriving DecidableEq, Repr

structure FwSlot where
  state : SlotState
  image : Option FwImage
deriving DecidableEq, Repr

/-- Which firmware runs (FWU_SLOT.RUNNING). -/
inductive Running where
  | rom | a | b
deriving DecidableEq, Repr

/-- The command that FWU runs (R368). -/
inductive FwuOp where
  | none
  | stage (slotB : Bool) (len : BitVec 24)
  | activate (slotB : Bool)
  | rom
deriving DecidableEq, Repr

/-- Firmware update. `fallback`: a fallback's service pause is due or runs (R370). -/
structure Fwu where
  addrLo : Word
  addrHi : Word
  len : BitVec 24
  result : Byte
  reason : Byte
  op : FwuOp
  fallback : Bool
  slotA : FwSlot
  slotB : FwSlot
  fellBack : Bool
  healthy : Bool
  running : Running
  windowS : BitVec 12
  rev : Word
  fallbackCnt : Word
deriving DecidableEq, Repr

/-! ### Meet plan loader -/

/-- A plan in force or staged: the image that passed the checks. -/
abbrev Plan := PlanImage

/-- A PLAN_LOAD between its command and its checks (R307). -/
inductive MplLoad where
  | idle
  | fetching (h : HostHdr) (totalBytes : Word)
  | fetched (h : HostHdr) (totalBytes : Word) (img : PlanImage)
deriving DecidableEq, Repr

structure Mpl where
  current : Option Plan
  staged : Option Plan
  load : MplLoad
  stagedCmd : Option HostHdr
  late : Bool
  grace : Bool
  devSet : Bool
  devId : DevId
  epoch : BitVec 16
  tagCur : BitVec 64
  tagNext : BitVec 64
  refuseLane : BitVec 4
  refuseSection : Byte
  refuseReason : Byte
  laneClass : BitVec 24
  due : Bool
  firstLap : Nat
deriving DecidableEq, Repr

/-! ### Lanes -/

/-- Control states of a lane (R52). -/
inductive LaneCtl where
  | unassigned | serving | draining | stopped | testing | retired
deriving DecidableEq, Repr

/-- A slot's progress in the lap (R99, R100). -/
inductive SlotPhase where
  | waiting | running | complete
deriving DecidableEq, Repr

/-- A slot's scoreboard entry. `todo` are operations of the running slot that wait for an append or a seal (R124, R127), `sealed`
the pages that a SEAL slot has sealed. -/
structure SlotRun where
  pending : Nat
  phase : SlotPhase
  startAt : Nat
  excess : Nat
  todo : List Work
  sealed : Nat
deriving DecidableEq, Repr

/-- The weight window (R108): the streamed slot whose load runs, each half's slot and bytes once it is full, and the half that the
next load fills. -/
structure WeightWin where
  loading : Option Nat
  halves : Vector (Option (Nat × Nat)) 2
  next : Fin 2
deriving DecidableEq, Repr

/-- An entry of the ragged-batch length table (R131). -/
structure LenEntry where
  slot : Nat
  count : Nat
  start : Nat
  row : Nat
  last : Bool
deriving DecidableEq, Repr

/-- A pending lap-table replacement (R113). -/
structure Replacement where
  swapLap : BitVec 48
  deadlineLap : BitVec 48
  ready : Bool
deriving DecidableEq, Repr

/-- LST_TABLE_STATUS and both table copies (R113). -/
structure Tables where
  fg : Bool
  copyA : Option LapTable
  copyB : Option LapTable
  repl : Option Replacement
  late : Bool
  reason : Byte
deriving DecidableEq, Repr

/-- The steward's schedule and queues (R99 to R112). `experts` are the running lap's counts of expert capacity use by slot and
expert, `expertsDone` those of the last lap that committed (R91). -/
structure Steward where
  batch : List (BatonId × Nat)
  joinQ : List (BitVec 48 × BatonId)
  promptQ : List (BatonId × Nat)
  preemptQ : List (BatonId × Nat × Nat)
  lastPreempt : Tbl Nat
  preempted : Option Nat
  slots : List SlotRun
  win : WeightWin
  experts : Tbl Nat
  expertsDone : Tbl Nat
  lenTable : List LenEntry
  hardRun : Nat
  lapLost : Bool
  overrunStop : Bool
  stopNext : Bool
  soft : Word
  missedLap : Word
  preemptCnt : Word
  lastHard : Bool
  lastSlot : BitVec 10
  lastExcess : BitVec 21
deriving DecidableEq, Repr

/-- Page storage and the heat directory of a lane (R121, R141 to R143). `owner` gives the tenant that each shared slot in use is
charged to (R45). `dirHeld` counts the laps of a Coach restart within the
running rebuild, which did not advance it. -/
structure LaneKv where
  slotSize : BitVec 9
  reserveFree : List Nat
  sharedFree : List Nat
  owner : Tbl Nat
  reserveSize : Nat
  clean : BitVec 24
  runFree : List Nat
  sealLeft : Nat
  heldCnt : Word
  holdParkCnt : Word
  sealCnt : Word
  fetchCnt : Word
  reclaimCnt : Word
  heatNan : Word
  dirA : List BatonId
  dirB : List BatonId
  dirFg : Bool
  dirMax : Nat
  dirStart : Option (BitVec 48)
  dirHeld : Nat
  dirPend : List (Bool × BatonId)
  dirLate : Bool
deriving DecidableEq, Repr

/-- A row of a stack's repair list with the lap of its last error (R331). -/
structure BadRow where
  bank : Nat
  row : Nat
  lap : BitVec 48
deriving DecidableEq, Repr

structure LaneHbc where
  trained : Bool
  repaired : Byte
  eccCe : Word
  eccUe : Word
  rows : List BadRow
deriving DecidableEq, Repr

/-- The march engine of a lane (R353 to R357). -/
structure LaneMch where
  result : Byte
  progress : Byte
  fail : Bool
  busy : Bool
  mode : BitVec 3
  failUnit : BitVec 2
  failPos : BitVec 5
  failWord : BitVec 30
  cmd : Option HostHdr
deriving DecidableEq, Repr

/-- A lane build (R306): none, weights copying, or waiting for its boundary. -/
inductive Build where
  | none | copying | built
deriving DecidableEq, Repr

/-- One lane position's core (CORE_MAP_i). -/
structure CorePos where
  spare : Bool
  core : BitVec 7
deriving DecidableEq, Repr

/-- A lane. `drainAt` and `serveAt` are the times at which the first waiting command of each kind came, `builtAt` that at which a
build ended (R50); `heldUntil`: a lane reset holds the lane until then (R344). `staged` are the bytes of the variant being staged that have landed
(R109); `curModel` is the MODEL index whose SRAM state the cores hold, and `sramSave` the states saved to the stack, byte a of
position i at 655,360 i + a (R107). -/
structure Lane where
  role : BitVec 2
  epoch : BitVec 16
  ctl : LaneCtl
  dataOpen : Bool
  cause : Byte
  destructed : Bool
  drainReq : Bool
  serveReq : Bool
  drainCmds : List HostHdr
  serveCmds : List HostHdr
  drainAt : Nat
  serveAt : Nat
  builtAt : Nat
  heldUntil : Nat
  build : Build
  sec : Option LaneSec
  models : Vector (Option Nat) 4
  stagingCmd : Option (HostHdr × Nat)
  variantReady : Option Nat
  staged : Nat
  curModel : Nat
  sramSave : Tbl Mem
  cores : Vector CorePos 24
  subst : List (Nat × Nat)
  arith : BitVec 5
  stallCnt : Word
  tables : Tables
  st : Steward
  kv : LaneKv
  hbc : LaneHbc
  mch : LaneMch
deriving DecidableEq, Repr

/-! ### Requests and batons -/

/-- Phases of a request (R24, R175). -/
inductive ReqPhase where
  | prompt | handoff | generation | parking | parked | resuming | ended
deriving DecidableEq, Repr

/-- Host commands waiting for a request's boundary (R24). -/
inductive ReqCmd where
  | pause (h : HostHdr)
  | resume (h : HostHdr) (ring : Option RingDesc) (ext : Option ExtArg)
  | cancel (h : HostHdr)
  | release (h : HostHdr)
  | extend (h : HostHdr) (tokens : List Word)
deriving DecidableEq, Repr

/-- A page map entry (R178) with the page slots, or run cell, it occupies, its last-use lap (R46) and the positions
committed in it (R125); `wrote` marks the places whose append has run, `sealedNow` that the lap's seal has written the image in
`sealSlot` (R126, R127). In a cache lane the image begins `off` bytes into its first slot and its page header is kept (R193);
`index_` are its eight index entries in a prompt or generation lane (R122). -/
structure PageEnt where
  kind : BitVec 2
  state : BitVec 2
  copy : Bool
  layer : BitVec 10
  index : BitVec 16
  slots : List Nat
  lastUse : BitVec 48
  filled : Nat
  lapNew : Bool
  sealSlot : Option Nat
  wrote : BitVec 128
  sealedNow : Bool
  tierAddr : Nat
  off : Nat
  hdr : List Byte
  index_ : List (BitVec 64)
deriving DecidableEq, Repr

/-- A heat record (R133): KMAX and KMIN codes per head. -/
structure HeatRec where
  run : Bool
  layer : Nat
  index : Nat
  pages : Nat
  kmax : List (List Byte)
  kmin : List (List Byte)
deriving DecidableEq, Repr

/-- A control part at rest: its bytes and the CRC-32C held for it (R179, R202). -/
structure CtlCopy where
  tier : Bool
  part : CtlKind
  bytes : List Byte
  crc : Word
deriving DecidableEq, Repr

/-- An entry of a stream ring (R161) as four words without PHASE; `token`: it is a TOKEN entry, `replay`: it takes the lap in
which it is written (R165). -/
structure RingEnt where
  token : Bool
  notice : Bool
  replay : Bool
  words : List Word
deriving DecidableEq, Repr

/-- A running audit (R206): its range, and the lane and scratch slots that it holds. -/
structure AuditRun where
  cmd : HostHdr
  fromPos : Word
  toPos : Word
  repair : Bool
  lane : LaneNo
  scratch : List Nat
deriving DecidableEq, Repr

/-- Sampling state of a request (R148 to R158). -/
structure Sampling where
  settings : Sampler
  counts : List (BitVec 18 × BitVec 14)
  patterns : List Pattern
  counter : Nat
  maxNew : Nat
  drawn : Nat
deriving DecidableEq, Repr

/-- Stream position and split timers of a request (R160 to R168). `consLap` is the lap in which CONS was last read again and `irqLap`
that of the ring's last interrupt; `lapIrq`: an entry written since then asks for one. -/
structure Stream where
  ring : RingDesc
  produced : Word
  phase : Bool
  written : BitVec 22
  any : Bool
  tokenEntries : Word
  window : List RingEnt
  cons : Word
  consLap : Option (BitVec 48)
  closed : Bool
  ttftTarget : Word
  tbtTarget : BitVec 24
  ttftStart : Nat
  lastCommit : Nat
  missed : Nat
  cause : BitVec 4
  ext : Bool
  resumed : Bool
  lapIrq : Bool
  irqLap : Option (BitVec 48)
deriving DecidableEq, Repr

/-- Why a resting share is lost: its control state (R202), its lane (R333), its holder (R204) or its port (R390). -/
inductive Loss where
  | control | lane | device | port
deriving DecidableEq, Repr

/-- A request. `cmds` are its queued host commands with their times of arrival; `done` positions have their KV appended and
`take` are to be appended in the running lap; `extQ` and `extCmds` are extension tokens and the commands they came with;
`landing` is what a resume under way brings; `readyAt` the time at which its last listed page landed, `residentAt` that of its
residency; `shares` are the share table entries that arrived with the baton (R178); `pulledBy` is the device that asked for a
RESUME leg which could not open yet, and whether it brings an extension (R22); `spillDue` is a SPILL that waits for Coach (R51); `replay`: this is the scratch sequence of an audit (R207). -/
structure Req where
  id : BatonId
  phase : ReqPhase
  lane : Option LaneNo
  model : Nat
  digest : Digest
  nshares : Nat
  hdr : HostHdr
  promptLen : Nat
  prompt : List Word
  done : Nat
  take : Nat
  log : List Word
  samp : Sampling
  strm : Stream
  endReason : Byte
  stopPattern : Nat
  cancelled : Bool
  cancelPos : Nat
  auditFail : Bool
  cmds : List (ReqCmd × Nat)
  waitPark : List (Byte × HostHdr)
  waitLand : List (Byte × HostHdr)
  parkNext : Bool
  parkWhy : Finish
  missNow : BitVec 4
  held : Nat
  heldPrev : Bool
  expertWait : Bool
  logits : Option (List F32)
  draw : Option (Option (BitVec 18))
  pages : List PageEnt
  heat : List HeatRec
  probe : List (Nat × List (List F32))
  probeNew : List (Nat × List (List F32))
  sel : List (Nat × List Nat)
  selNew : List (Nat × List Nat)
  heatNew : List HeatRec
  listed : Bool
  extQ : List Word
  extCmds : List (HostHdr × Nat)
  resident : Bool
  handoffWait : Nat
  moveTried : Nat
  lost : Option Loss
  capPort : Option (Fin 4)
  tierBytes : Nat
  copies : List CtlCopy
  audit : Option AuditRun
  replay : Bool
  epoch : BitVec 16
  lastLap : BitVec 48
  finalOwed : Bool
  landing : Option (Option RingDesc × Option ExtArg)
  readyAt : Nat
  residentAt : Nat
  shares : List (List Byte)
  pulledBy : Option (DevId × Bool)
  spillDue : Option (LaneNo × Option (Fin 4 × Nat × Nat))
deriving DecidableEq, Repr

/-! ### Judge, Steeple, stream rings -/

structure Jdg where
  nanCnt : Word
  trackFull : Word
  noCand : Word
deriving DecidableEq, Repr

structure Stp where
  free : Nat
  stopCnt : Word
deriving DecidableEq, Repr

/-- A tenant's stream defaults and violation counters (R168). -/
structure SrgTenant where
  ttft : Word
  tbt : BitVec 24
  ttftViol : Word
  tbtViol : Word
deriving DecidableEq, Repr

structure Srg where
  dropCnt : Word
  ringFull : Word
  tenants : Tbl SrgTenant
  ttftHist : Vector Word 16
  tbtHist : Vector Word 16
deriving DecidableEq, Repr

/-! ### Exchange zone and legs -/

/-- A waiting shared-pool request (R187): lane, granules, leg index. -/
structure XzWait where
  lane : LaneNo
  granules : Nat
  leg : Nat
deriving DecidableEq, Repr

structure Xz where
  sharedFree : Nat
  held : Vector Nat 12
  reserveFree : Vector Nat 12
  ctlFree : Nat
  lateDrop : Word
  hdrBad : Word
  waiting : List XzWait
deriving DecidableEq, Repr

/-- States of a leg (R183); COMMITTED and ABORTED free the entry. -/
inductive LegState where
  | opened | clearing | landed | sending | releasing
deriving DecidableEq, Repr

/-- One item of an open leg at this device: cleared granules (reserve, shared), bytes arrived, written, the slots
allocated for it with the image's offset in the first, and the frame that brought its header. -/
structure LegPage where
  item : LegItem
  cleared : Bool
  reserveGr : Nat
  sharedGr : Nat
  arrived : Nat
  written : Bool
  slots : List Nat
  off : Nat
  head : Option Frame
deriving DecidableEq, Repr

/-- A control part on its way into this device (R189): its number, the bytes that arrived by offset, and its length once the
frame that carries LAST is here. -/
structure PartRx where
  part : Nat
  chunks : List (Nat × List Byte)
  total : Option Nat
deriving DecidableEq, Repr

/-- A leg at this device (R180 to R185). `atTarget`: this device is the target; `localLeg`: both ends are here. Control parts go
by number (log 17): at the target `partsLeft` are awaited, `partRx` under way, `partFails` their failures and `partBytes` those
that passed; at the source `partsLeft` are still to send, `ctlOff` frames of the first are gone. `ctlBlocks`: control-buffer
blocks granted and not yet filled. `sent`: pages sent. `peerId`: the other end's leg ID, which a source learns from the target's
first CLEAR. `states`: Steeple states taken at acceptance. `hold`: the baton parks after the commit (R185). `replay`: the leg copies
parts into an audit's scratch slots (R206). `tier`: capacity-tier space allocated: port, address, bytes. -/
structure Leg where
  index : Nat
  gen : BitVec 16
  type : BitVec 4
  atTarget : Bool
  localLeg : Bool
  peer : DevId
  srcLane : LaneNo
  dstLane : LaneNo
  state : LegState
  batons : List BatonId
  lead : Bool
  partsLeft : List Nat
  ctlOff : Nat
  partRx : List PartRx
  partFails : List (Nat × Nat)
  partBytes : List (Nat × List Byte)
  pages : List LegPage
  ctlBlocks : Nat
  sent : Nat
  peerId : Option LegId
  states : Nat
  hold : Bool
  replay : Bool
  tier : Option (Fin 4 × Nat × Nat)
deriving DecidableEq, Repr

/-- A resume that pulls a baton from the device that holds it (R22), and the commands that wait for it (R24): its pauses, whether
it was cancelled, and the queue. -/
structure Pull where
  baton : BatonId
  holder : DevId
  h : HostHdr
  ring : Option RingDesc
  ext : Option ExtArg
  cmds : List (ReqCmd × Nat)
  pauses : List HostHdr
  cancelled : Bool
deriving DecidableEq, Repr

/-- BTN. `uncounted`: the batons at rest when a reset last returned BTN_PARKED to 0 (R209); `replays`: the scratch sequences of
running audits, each under its baton's ID (R206, R207); `moved` says where batons of this home went from here (R22). -/
structure Btn where
  moved : List (BatonId × DevId)
  uncounted : List BatonId
  replays : List Req
  pulls : List Pull
  legs : List Leg
  gens : Tbl (BitVec 16)
  stallCnt : Word
  crcFail : Word
  ctlLost : Word
  auditMismatch : Word
deriving DecidableEq, Repr

/-! ### Track -/

/-- A page slot that holds page `page` of a region, with its last use and whether its copy is current (R42, R46). -/
structure RegPage where
  page : Nat
  lane : LaneNo
  slot : Nat
  lastUse : BitVec 48
  copied : Bool
deriving DecidableEq, Repr

/-- An entry of the KEYED region table (R229). `base` is a byte of the data space. -/
structure Region where
  tenant : Tenant
  base : Nat
  len : Nat
  rights : BitVec 4
  near : List RegPage
  far : Option (Fin 4 × Nat)
deriving DecidableEq, Repr

/-- An operation taken from a send queue and not completed (R221, R223, R227). `frames` of payload limit `limit`, `formed`
of them formed, the first with PSN `firstPsn`; `placed`: byte ranges of a READ placed at LOCAL; `waitRetry`: a dropped
message waits for its re-send (R251). -/
structure TxOp where
  desc : Descriptor
  limit : Nat
  frames : Nat
  formed : Nat
  firstPsn : Word
  message : Word
  placed : List (Nat × Nat)
  faulted : Bool
  lastNack : Byte
  retries : Nat
  waitRetry : Bool
  retryAt : Nat
deriving DecidableEq, Repr

/-- The rate law of a channel (R244). -/
structure RateLaw where
  rate : Nat
  target : Nat
  alpha : Nat
  lastCut : Nat
  lastInc : Nat
  stage : Nat
deriving DecidableEq, Repr

/-- A send queue (R219). `resend`: PSNs of frames that go again as soon as they can, and whether a page fault asks it. -/
structure SendQ where
  tenant : Tenant
  target : DevId
  pathTable : Nat
  relaxed : Bool
  rxCtx : BitVec 14
  descLog2 : Nat
  cplLog2 : Nat
  vector : Nat
  func : Func
  cplRing : BitVec 64
  rateMax : Nat
  tail : Word
  head : Word
  posted : List Descriptor
  ops : List TxOp
  nextPsn : Word
  message : Word
  unacked : List TxFrame
  resend : List (Word × Bool)
  rot : Nat
  nextAt : Nat
  cplIdx : Word
  cplHead : Word
  heldCpl : List (List Word)
  law : RateLaw
deriving DecidableEq, Repr

/-- A receive channel context (R219, R225, R232, R243). `owed`: when the first unacknowledged frame came; `respPsn`: the number of the
next response frame (R223). -/
structure RxCtx where
  source : DevId
  tenant : Tenant
  expected : Word
  got : List Word
  waiting : List Frame
  minDelay : Option Nat
  marked : Nat
  total : Nat
  owed : Option Nat
  atoms : List (Word × BitVec 64)
  counter : Option (BitVec 12)
  queue : Nat
  respPsn : Word
deriving DecidableEq, Repr

/-- A message that holds buffers (R250). -/
structure RxMsg where
  number : Word
  len : Nat
  bufs : List RxBuffer
  arrived : Nat
  written : List Nat
deriving DecidableEq, Repr

/-- A receive queue (R249 to R252). -/
structure RecvQ where
  ctx : Nat
  log2 : Nat
  vector : Nat
  func : Func
  cplRing : BitVec 64
  tail : Word
  bufs : List RxBuffer
  msgs : List RxMsg
  nextMsg : Word
  dropped : Tbl Nat
  cplIdx : Word
deriving DecidableEq, Repr

/-- The sending side of a system context (R238): frames not yet formed by class, and those not acknowledged. -/
structure SysTx where
  nextPsn : Word
  fresh : Bool
  lastUse : Nat
  ctlWait : List TxFrame
  legWait : List TxFrame
  unacked : List TxFrame
  resend : List Word
  rot : Nat
  nextAt : Nat
  law : RateLaw
deriving DecidableEq, Repr

/-- The receiving side of a system context (R238). -/
structure SysRx where
  expected : Word
  got : List Word
  waiting : List Frame
  lastUse : Nat
  minDelay : Option Nat
  marked : Nat
  total : Nat
  owed : Option Nat
deriving DecidableEq, Repr

/-- A port's false-start counter and log (R255, R257). -/
structure FsPort where
  cnt : Word
  next : BitVec 6
  wrapped : Bool
  log : Tbl (List Word)
deriving DecidableEq, Repr

/-- Track's counters of 08_track_transport.md, in register order 0x20 to 0x3C. -/
structure TeCnt where
  rxAbandon : Word
  retx : Word
  deadLoad : Word
  hold : Word
  pfResend : Word
  rateCut : Word
  reorderDrop : Word
  nontrack : Word
deriving DecidableEq, Repr

structure Te where
  ethertype : BitVec 16
  sysKgen : BitVec 4
  deadFault : Bool
  deadDev : DevId
  kgen : Tbl (BitVec 4)
  rto : BitVec 13
  delayMark : BitVec 16
  rateMin : BitVec 24
  paths : Tbl Word
  ctrs : Tbl Word
  cnt : TeCnt
  fs : Vector FsPort 19
  nackAt : Tbl Nat
  sqs : Tbl SendQ
  rxs : Tbl RxCtx
  rqs : Tbl RecvQ
  sysTx : Tbl SysTx
  sysRx : Tbl SysRx
  sysPsn : Tbl Word
  ctxWait : List TxFrame
  loose : List (Option Nat × TxFrame)
  looseRot : Nat
  regions : Tbl Region
  dataTop : Nat
  present : List (Tenant × Nat)
  wanted : List (Tenant × Nat)
  fenced : List DevId
  dead : List DevId
  portUp : BitVec 16
deriving DecidableEq, Repr

/-- A relay link (R216 to R218); `out` marks the physical lanes out of use, `demoted` that the fabric manager demoted it to 15
lanes. -/
structure Rly where
  peer : DevId
  state : BitVec 2
  demoted : Bool
  spareUsed : Bool
  out : BitVec 17
  errLimit : BitVec 16
  bypass : BitVec 5
  crcDrop : Word
  tagCur : BitVec 64
  tagNext : BitVec 64
  credits : Vector Nat 4
deriving DecidableEq, Repr

/-! ### Pacer -/

/-- An egress queue (R259 to R264); tokens count 1/8000 bytes, so RATE Mb/s adds RATE per ns exactly (R263). -/
structure PacQ where
  frames : List TxFrame
  tokens : Nat
  deficit : Nat
  fresh : Bool
  paused : Bool
  heldHead : Bool
  txCnt : Word
deriving DecidableEq, Repr

/-- A meter (R269, R270), buckets in the same unit. -/
structure PacM where
  tc : Nat
  tp : Nat
  green : Word
  yellow : Word
  red : Word
deriving DecidableEq, Repr

structure PacP where
  queues : Vector PacQ 32
  meters : Vector PacM 30
  rr : Nat
  filledAt : Nat
  busyUntil : Nat
  pfcTx : Word
deriving DecidableEq, Repr

structure Pac where
  ports : Vector PacP 19
deriving DecidableEq, Repr

/-! ### Bib -/

/-- A stored entry (R273). -/
structure BibEntry where
  key : BitVec 128
  care : BitVec 128
  prio : Nat
  result : BitVec 64
deriving DecidableEq, Repr

/-- A queued batch (R281). -/
structure BibBatch where
  h : HostHdr
  part : Nat
  records : List BibRecord
deriving DecidableEq, Repr

/-- The update engine (R284): idle, running since a lap, or finished and waiting to swap. -/
inductive BibEngine where
  | idle
  | running (since : BitVec 48)
  | ready
deriving DecidableEq, Repr

/-- Who waits for a lookup (R279): a host command, or BTN for a resume (R280) where `pull` is given. -/
structure BibReq where
  h : HostHdr
  part : Nat
  key : BitVec 128
  pull : Option (BatonId × Option RingDesc × Option ExtArg)
deriving DecidableEq, Repr

/-- A cascaded lookup on the ring: its tag, GEN of the copy searched here, and when its packet was sent; none while it waits for the
line. -/
structure BibWait where
  tag : Nat
  req : BibReq
  gen : BitVec 16
  sentAt : Option Nat
deriving DecidableEq, Repr

structure Bib where
  gen : BitVec 16
  queue : List BibBatch
  engine : BibEngine
  late : Bool
  fg : Bool
  copyA : Tbl BibEntry
  copyB : Tbl BibEntry
  waits : List BibWait
  resting : List (Nat × Nat)
  hold : List (RingPacket × Nat)
  own : List RingPacket
  lookQ : List BibReq
  lineFree : Nat
  passed : Nat
  deadMember : Bool
  fencedMember : Bool
  cascTimeout : Word
  ringCrc : Word
  ringDrop : Word
deriving DecidableEq, Repr

/-! ### Marshal -/

/-- MAR_STATUS.STATE (R327). -/
inductive MarState where
  | inactive | live | fenced | declared | readmitPending
deriving DecidableEq, Repr

/-- A fence held or seen (R322): subject, epoch, DECLARED or ADMIN. -/
structure FenceRec where
  subject : DevId
  epoch : BitVec 16
  declared : Bool
deriving DecidableEq, Repr

/-- What a watcher or subject has seen in the rounds it still judges (R318 to R321): heartbeats in time and late, suspicions
by subject, round and watcher, majorities, echoes by watcher, heartbeats sent, the first round that counts for the ring in
force and for this device's own LIVE state, the first round after a fence was cleared, the epochs that subjects named, and the
stray messages already counted. -/
structure Rounds where
  got : List (DevId × BitVec 48)
  suspects : List (DevId × BitVec 48 × DevId)
  majority : List (DevId × BitVec 48)
  echoes : List (Nat × BitVec 48)
  sent : List (BitVec 48)
  thin : List (BitVec 48)
  since : BitVec 48
  liveAt : BitVec 48
  cleared : List (DevId × BitVec 48)
  late : List (DevId × BitVec 48)
  epochs : Tbl (BitVec 16)
  strays : List MarMsg
deriving DecidableEq, Repr

structure Mar where
  state : MarState
  echoed : BitVec 5
  ringCur : Tbl Word
  ringStg : Tbl Word
  arg0 : DevId
  argLanes : BitVec 12
  argEpoch : BitVec 16
  busy : Bool
  result : Byte
  stragLimit : BitVec 16
  hbMiss : Word
  lateHb : Word
  fenceRx : Word
  stray : Word
  prodLaps : Word
  fmEn : Bool
  fmDev : DevId
  portFence : BitVec 16
  swapActive : Bool
  swapLanes : BitVec 12
  swapDev : DevId
  swapEpoch : BitVec 16
  precopy : Bool
  logNext : Byte
  logWrapped : Bool
  log : Tbl (List Word)
  lastFailed : Vector Byte 4
  spares : Vector (List Nat) 4
  rounds : Rounds
  seen : List FenceRec
  held : List FenceRec
  readmits : List (DevId × BitVec 16)
  readmitDone : List (DevId × BitVec 16)
  lateLaps : List (DevId × BitVec 48)
  reportedAt : Tbl Nat
deriving DecidableEq, Repr

/-! ### Host interface, capacity tier, management ports -/

/-- A tenant context (R377 to R385). -/
structure Ctx where
  cmdLo : Word
  cmdHi : Word
  cplLo : Word
  cplHi : Word
  enable : Bool
  vector : BitVec 11
  cplLog2 : BitVec 5
  cmdLog2 : BitVec 5
  tail : Word
  head : Word
  bells : List (Word × Nat)
  cplIdx : Word
  cplHead : Word
  heldCpl : List Cpl
  msiHold : Bool
  msiLater : Bool
deriving DecidableEq, Repr

structure Hif where
  linkUp : Bool
  width : Byte
  speed : BitVec 4
  flit : Bool
  training : Bool
  funcOf : Tbl Nat
  ctxs : Tbl Ctx
  dbBad : Word
  cplDrop : Word
deriving DecidableEq, Repr

/-- A capacity-tier port (R388 to R390). -/
structure CapPort where
  state : BitVec 2
  size : Nat
  used : Nat
  top : Nat
  poison : Word
deriving DecidableEq, Repr

/-- Weight images in the capacity tier: digest, port, address and length. -/
structure Cap where
  ports : Vector CapPort 4
  weights : List (Digest × Fin 4 × Nat × Nat)
deriving DecidableEq, Repr

/-- A read value that SPI holds (R394): value, register offset. -/
structure SpiPend where
  value : Word
  off : Nat
deriving DecidableEq, Repr

structure Spi where
  unreach : Bool
  badOp : Bool
  pend : Option SpiPend
  expect : Option Nat
  discard : Word
  extra : Word
deriving DecidableEq, Repr

structure Uar where
  parity : BitVec 2
  div : BitVec 24
  frameErr : Word
  early : Word
  pktDrop : Word
  part : List Byte
deriving DecidableEq, Repr

structure I2c where
  pec : Bool
  telem : Tbl (BitVec 16)
  status : Byte
  alert : Bool
  alertRead : Bool
  railOut : Bool
deriving DecidableEq, Repr

structure Jtg where
  ir : Byte
  cells : BitVec 32
  driven : Bool
  hiZ : Bool
deriving DecidableEq, Repr

/-- All memories of the block (R37, R38, R186): operand SRAM of every core (bank after bank, core c of die d from 655,360 (74 d + c) on),
stack, exchange zone, control buffer (whose bytes go on to their leg within the step that brings them, R189), capacity ports, data
space. -/
structure Mems where
  sram : Mem
  stack : Vector Mem 12
  xz : Mem
  ctl : Mem
  cap : Vector Mem 4
  data : Mem
deriving DecidableEq, Repr

/-- The machine. `pending` is the queue of waiting commands, `out` what the device has driven outwards, oldest first,
`free` the counter that feeds `Config.freeWord`. -/
structure State where
  pending : List Instr
  out : List Out
  free : Nat
  clk : Clk
  lap : Lap
  glb : Glb
  coach : Coach
  sel : List (Accessor × Sel)
  sta : Sta
  fus : Fus
  fwu : Fwu
  mpl : Mpl
  lanes : Vector Lane 12
  reqs : List Req
  slotGen : Tbl (BitVec 16)
  jdg : Jdg
  stp : Stp
  srg : Srg
  xz : Xz
  btn : Btn
  te : Te
  rly : Vector Rly 3
  pac : Pac
  bib : Bib
  mar : Mar
  hif : Hif
  cap : Cap
  spi : Spi
  uar : Uar
  i2c : I2c
  jtg : Jtg
  mem : Mems
deriving DecidableEq, Repr

/-! ### Reset values -/

def Clk.reset : Clk := ⟨0, false, false, false, false, false, false, false, none⟩
def Lap.reset : Lap := ⟨0, 0, 0, 0, false, false, 0, false, 0, 0, false, 0⟩
/-- R414 to R418; steppings are a value named in log 6. -/
def Glb.reset : Glb := ⟨0, 0, 0, 0, 1, false, false, 0, 0, 0, 0, 0, 0, false⟩
def Coach.reset : Coach := ⟨[], 0, false, 0, .booting, .none⟩
def Boot.reset : Boot := ⟨0, false, false, true, false, false, false, false, false, false, false, false, false, false, false⟩
/-- STA after a power-on reset: RAIL 0xF, POR set (R341), strap not sampled. -/
def Sta.reset : Sta :=
  { rail := 0xF, afterFatal := false, software := false, pinCause := false, brownout := false, por := true,
    unstable := false, code := 0, mode := 0, pos := 0, bootMs := 0, failStage := 0xF, blockHeld := 0,
    laneRefused := 0, fatalPin := false, boot := Boot.reset, tl := Vector.replicate 4 0, tUp := Vector.replicate 4 0,
    tChg := Vector.replicate 4 0, pl := 0, pUp := 0, pChg := 0, throttleCnt := 0, dieTemp := Vector.replicate 4 0,
    bolzilTemp := 0, stackTemp := Vector.replicate 12 0, power := [], coolSince := Vector.replicate 4 none,
    lowSince := none, hotAtTrip := [], tripped := false, tripTemp := 0, tripSource := 0x1F, polStopped := false }
/-- An empty key group reads as absent until it is burned (R348). -/
def KeyGroup.blank : KeyGroup := ⟨0, 0⟩
/-- The fuses of a blank part with the M576 code (log 6). -/
def Fus.reset : Fus :=
  { serial := 0, hbmCode := 0x30, pinMap := 0, sramRepair := 0, coreFailed := Vector.replicate 4 0,
    intent := Vector.replicate 4 0, commit := Vector.replicate 4 0, planKey := KeyGroup.blank, fwKey := KeyGroup.blank,
    family := KeyGroup.blank, returnKey := KeyGroup.blank, pinActive := false, lc := .blank, pending := false,
    pendingTo := 0, crcBad := 0, lcPartial := false, keyData := Vector.replicate 52 0, lcResult := 0, lcRun := .idle }
def FwSlot.empty : FwSlot := ⟨.empty, none⟩
def Fwu.reset : Fwu :=
  { addrLo := 0, addrHi := 0, len := 0, result := 0, reason := 0, op := .none, fallback := false, slotA := FwSlot.empty,
    slotB := FwSlot.empty, fellBack := false, healthy := false, running := .rom, windowS := 0x3C, rev := 0,
    fallbackCnt := 0 }
def Mpl.reset : Mpl :=
  { current := none, staged := none, load := .idle, stagedCmd := none, late := false, grace := false, devSet := false,
    devId := 0, epoch := 0, tagCur := 0, tagNext := 0, refuseLane := 0xF, refuseSection := 0xFF, refuseReason := 0,
    laneClass := 0xFFFFFF, due := false, firstLap := 0 }
def Tables.reset : Tables := ⟨false, none, none, none, false, 0⟩
def WeightWin.reset : WeightWin := ⟨none, Vector.replicate 2 none, 0⟩
def Steward.reset : Steward :=
  { batch := [], joinQ := [], promptQ := [], preemptQ := [], lastPreempt := [], preempted := none, slots := [],
    win := WeightWin.reset, experts := [], expertsDone := [], lenTable := [], hardRun := 0, lapLost := false, overrunStop := false, stopNext := false, soft := 0, missedLap := 0,
    preemptCnt := 0, lastHard := false, lastSlot := 0, lastExcess := 0 }
def LaneKv.reset : LaneKv :=
  { slotSize := 0, reserveFree := [], sharedFree := [], owner := [], reserveSize := 0, clean := 0, runFree := [], sealLeft := 0,
    heldCnt := 0, holdParkCnt := 0, sealCnt := 0, fetchCnt := 0, reclaimCnt := 0, heatNan := 0, dirA := [], dirB := [],
    dirFg := false, dirMax := 0, dirStart := none, dirHeld := 0, dirPend := [], dirLate := false }
def LaneHbc.reset : LaneHbc := ⟨false, 0, 0, 0, []⟩
def LaneMch.reset : LaneMch := ⟨0, 0, false, false, 0, 0, 0, 0, none⟩
/-- CORE_MAP_i at reset: 24 * (n mod 3) + i (R34). -/
def coreMapReset (n : LaneNo) : Vector CorePos 24 :=
  Vector.ofFn fun i => ⟨false, BitVec.ofNat 7 (24 * (n.val % 3) + i.val)⟩
def Lane.reset (n : LaneNo) : Lane :=
  { role := 0, epoch := 0, ctl := .unassigned, dataOpen := false, cause := 0, destructed := false, drainReq := false,
    serveReq := false, drainCmds := [], serveCmds := [], drainAt := 0, serveAt := 0, builtAt := 0, heldUntil := 0,
    build := .none, sec := none,
    models := Vector.replicate 4 none, stagingCmd := none, variantReady := none, staged := 0, curModel := 0, sramSave := [], cores := coreMapReset n, subst := [],
    arith := 0, stallCnt := 0, tables := Tables.reset, st := Steward.reset, kv := LaneKv.reset, hbc := LaneHbc.reset,
    mch := LaneMch.reset }
def Jdg.reset : Jdg := ⟨0, 0, 0⟩
/-- STP_STATES_FREE is 65,536 at reset (R172). -/
def Stp.reset : Stp := ⟨65536, 0⟩
def SrgTenant.zero : SrgTenant := ⟨0, 0, 0, 0⟩
def Srg.reset : Srg := ⟨0, 0, [], Vector.replicate 16 0, Vector.replicate 16 0⟩
/-- Every granule and control block free (R186). -/
def Xz.reset : Xz := ⟨6144, Vector.replicate 12 0, Vector.replicate 12 512, 256, 0, 0, []⟩
def Btn.reset : Btn := ⟨[], [], [], [], [], [], 0, 0, 0, 0⟩
def FsPort.reset : FsPort := ⟨0, 0, false, []⟩
def TeCnt.reset : TeCnt := ⟨0, 0, 0, 0, 0, 0, 0, 0⟩
def Te.reset : Te :=
  { ethertype := 0, sysKgen := 0, deadFault := false, deadDev := 0, kgen := [], rto := 0x40, delayMark := 0xFA0,
    rateMin := 0x3E8, paths := [], ctrs := [], cnt := TeCnt.reset, fs := Vector.replicate 19 FsPort.reset, nackAt := [],
    sqs := [], rxs := [], rqs := [], sysTx := [], sysRx := [], sysPsn := [], ctxWait := [], loose := [], looseRot := 0, regions := [], dataTop := 0, present := [], wanted := [], fenced := [], dead := [],
    portUp := 0 }
/-- Credits at reset: none held until the link trains (R217). -/
def Rly.reset : Rly := ⟨0, 0, false, false, 0, 0x1000, 0, 0, 0, 0, Vector.replicate 4 0⟩
def PacQ.reset : PacQ := ⟨[], 0, 0, true, false, false, 0⟩
def PacM.reset : PacM := ⟨0, 0, 0, 0, 0⟩
def PacP.reset : PacP := ⟨Vector.replicate 32 PacQ.reset, Vector.replicate 30 PacM.reset, 4, 0, 0, 0⟩
def Pac.reset : Pac := ⟨Vector.replicate 19 PacP.reset⟩
def Bib.reset : Bib :=
  { gen := 0, queue := [], engine := .idle, late := false, fg := false, copyA := [], copyB := [],
    waits := [], resting := [], hold := [], own := [], lookQ := [], lineFree := 0, passed := 0, deadMember := false, fencedMember := false,
    cascTimeout := 0, ringCrc := 0, ringDrop := 0 }
def Rounds.reset : Rounds := ⟨[], [], [], [], [], [], 0, 0, [], [], [], []⟩
/-- SPARES_LEFT is 2 and LAST_FAILED 0xFF at reset (MAR_DIE_SPARE_d, R34). -/
def Mar.reset : Mar :=
  { state := .inactive, echoed := 0, ringCur := [], ringStg := [], arg0 := 0, argLanes := 0, argEpoch := 0, busy := false,
    result := 0, stragLimit := 0x32, hbMiss := 0, lateHb := 0, fenceRx := 0, stray := 0, prodLaps := 0, fmEn := false,
    fmDev := 0, portFence := 0, swapActive := false, swapLanes := 0, swapDev := 0, swapEpoch := 0, precopy := false, logNext := 0, logWrapped := false,
    log := [], lastFailed := Vector.replicate 4 0xFF, spares := Vector.replicate 4 [72, 73], rounds := Rounds.reset,
    seen := [], held := [], readmits := [], readmitDone := [], lateLaps := [], reportedAt := [] }
def Ctx.reset : Ctx := ⟨0, 0, 0, 0, false, 0, 0, 0, 0, 0, [], 0, 0, [], false, false⟩
def Hif.reset : Hif := ⟨false, 0, 0, false, false, [], [], 0, 0⟩
def CapPort.reset : CapPort := ⟨0, 0, 0, 0, 0⟩
def Cap.reset : Cap := ⟨Vector.replicate 4 CapPort.reset, []⟩
def Spi.reset : Spi := ⟨false, false, none, none, 0, 0⟩
/-- UAR_CTRL.DIV is 0x00_3641 (R395). -/
def Uar.reset : Uar := ⟨0, 0x3641, 0, 0, 0, []⟩
def I2c.reset : I2c := ⟨false, [], 0, false, false, false⟩
/-- IDCODE is the instruction after a TAP reset (R401). -/
def Jtg.reset : Jtg := ⟨0x01, 0, false, false⟩
def Mems.reset : Mems := ⟨[], Vector.replicate 12 [], [], [], Vector.replicate 4 [], []⟩

/-- The machine right after a power-on reset (R340). No sequence slot has had a baton: the first of each carries generation 0, which
R11 leaves open (log 75). -/
def State.reset : State :=
  { pending := [], out := [], free := 0, clk := Clk.reset, lap := Lap.reset, glb := Glb.reset, coach := Coach.reset,
    sel := [], sta := Sta.reset, fus := Fus.reset, fwu := Fwu.reset, mpl := Mpl.reset, lanes := Vector.ofFn Lane.reset,
    reqs := [], slotGen := [], jdg := Jdg.reset, stp := Stp.reset, srg := Srg.reset, xz := Xz.reset, btn := Btn.reset,
    te := Te.reset, rly := Vector.replicate 3 Rly.reset, pac := Pac.reset, bib := Bib.reset, mar := Mar.reset,
    hif := Hif.reset, cap := Cap.reset, spi := Spi.reset, uar := Uar.reset, i2c := I2c.reset, jtg := Jtg.reset,
    mem := Mems.reset }

end Sys2Proof.Machine
end

