-- ==== Sys2Proof/Machine/Ops.lean ====
section
/-! DEFINITION. Named operations over the state: tables, memories, lanes, requests, counters, what is driven outwards, events,
interrupts and completions. -/

namespace Sys2Proof.Machine

open Sys2Proof

/-- What a command answers. -/
abbrev Res := Host.Outcome State Fault Refusal

/-! ### Words and counters -/

/-- A counter that saturates at 0xFFFF_FFFF. -/
def satInc (w : Word) : Word := if w = 0xFFFFFFFF then w else w + 1

def satAdd (w : Word) (n : Nat) : Word := BitVec.ofNat 32 (min 0xFFFFFFFF (w.toNat + n))

/-- Bits [hi:lo] of a word as a number. -/
def bits (w hi lo : Nat) : Nat := w / 2 ^ lo % 2 ^ (hi + 1 - lo)

def ofB (b : Bool) : Nat := if b then 1 else 0

/-- A field value placed at a bit. -/
def at_ (v lo : Nat) : Nat := v * 2 ^ lo

def lo32 (v : Nat) : Word := BitVec.ofNat 32 v
def hi32 (v : Nat) : Word := BitVec.ofNat 32 (v / 2 ^ 32)

/-- Little-endian bytes of a 32-bit word. -/
def wordBytes (w : Word) : List Byte :=
  [w.extractLsb' 0 8, w.extractLsb' 8 8, w.extractLsb' 16 8, w.extractLsb' 24 8]

/-- Little-endian words of a byte string. -/
def bytesWords : List Byte → List Word
  | a :: b :: c :: d :: rest => (d ++ c ++ b ++ a : BitVec 32) :: bytesWords rest
  | [] => []
  | rest => [BitVec.ofNat 32 (rest.foldr (fun b acc => b.toNat + 256 * acc) 0)]

/-! ### Vectors and tables -/

/-- Replace one place. -/
def vset {α : Type} {n : Nat} (v : Vector α n) (i : Fin n) (x : α) : Vector α n := v.set i.val x i.isLt

def vmod {α : Type} {n : Nat} (v : Vector α n) (i : Fin n) (f : α → α) : Vector α n := vset v i (f (v.get i))

/-- A function at every place; by `Vector.ofFn`, which Lean's kernel evaluates. -/
def vmap {α β : Type} {n : Nat} (v : Vector α n) (f : α → β) : Vector β n := Vector.ofFn fun i => f (v.get i)

/-- A place by number, with a value past the end. -/
def vgetD {α : Type} {n : Nat} (v : Vector α n) (k : Nat) (d : α) : α := if h : k < n then v.get ⟨k, h⟩ else d

/-- Replace a place by number; nothing past the end. -/
def vmodN {α : Type} {n : Nat} (v : Vector α n) (k : Nat) (f : α → α) : Vector α n :=
  if h : k < n then vmod v ⟨k, h⟩ f else v

def tblGet {α : Type} : Tbl α → Nat → Option α
  | [], _ => none
  | (k, x) :: t, i => if k = i then some x else tblGet t i

def tblGetD {α : Type} (t : Tbl α) (i : Nat) (d : α) : α := (tblGet t i).getD d

/-- Insert or replace, keys ascending. -/
def tblSet {α : Type} : Tbl α → Nat → α → Tbl α
  | [], i, x => [(i, x)]
  | (k, y) :: t, i, x =>
    if i < k then (i, x) :: (k, y) :: t else if i = k then (i, x) :: t else (k, y) :: tblSet t i x

def tblErase {α : Type} (t : Tbl α) (i : Nat) : Tbl α := t.filter fun e => e.1 != i

/-- Change an entry that is there. -/
def tblMod {α : Type} (t : Tbl α) (i : Nat) (f : α → α) : Tbl α :=
  match tblGet t i with
  | some x => tblSet t i (f x)
  | none => t

/-- The lowest number below n that is not in the list. -/
def lowestFree (used : List Nat) : Nat → Nat → Option Nat
  | 0, _ => none
  | fuel + 1, k => if used.contains k then lowestFree used fuel (k + 1) else some k

/-- Insert into an ascending list of numbers; a number already there stays once. -/
def insertNat (x : Nat) : List Nat → List Nat
  | [] => [x]
  | y :: ys => if x < y then x :: y :: ys else if x = y then y :: ys else y :: insertNat x ys

/-! ### Memory: bytes at addresses, canonical form -/

/-- The byte at an address; an unlisted address reads zero (log 5). -/
def memRead : Mem → Nat → Byte
  | [], _ => 0
  | (k, b) :: t, a => if k = a then b else memRead t a

/-- Write a byte; writing zero removes the entry. -/
def memWrite : Mem → Nat → Byte → Mem
  | [], a, b => if b = 0 then [] else [(a, b)]
  | (k, c) :: t, a, b =>
    if a < k then (if b = 0 then (k, c) :: t else (a, b) :: (k, c) :: t)
    else if a = k then (if b = 0 then t else (a, b) :: t)
    else (k, c) :: memWrite t a b

/-- The canonical form: addresses strictly rising, no listed zero. -/
def Memory.wf : Mem → Bool
  | [] => true
  | (k, b) :: t => b != 0 && t.all (fun c => decide (k < c.1)) && Memory.wf t

/-- n bytes from an address. -/
def memBytes (m : Mem) (a : Nat) : Nat → List Byte
  | 0 => []
  | n + 1 => memRead m a :: memBytes m (a + 1) n

/-- Write bytes from an address on. -/
def memStore (m : Mem) (a : Nat) : List Byte → Mem
  | [] => m
  | b :: bs => memStore (memWrite m a b) (a + 1) bs

/-- A 64-bit little-endian number in memory. -/
def memU64 (m : Mem) (a : Nat) : BitVec 64 :=
  BitVec.ofNat 64 ((memBytes m a 8).foldr (fun b acc => b.toNat + 256 * acc) 0)

def u64Bytes (v : BitVec 64) : List Byte := (List.range 8).map fun i => v.extractLsb' (8 * i) 8

/-! ### The parts of the state -/

def emit (s : State) (o : Out) : State := { s with out := s.out ++ [o] }

def emitAll (s : State) (os : List Out) : State := { s with out := s.out ++ os }

def laneOf (s : State) (n : LaneNo) : Lane := s.lanes.get n

def setLane (s : State) (n : LaneNo) (l : Lane) : State := { s with lanes := vset s.lanes n l }

def modLane (s : State) (n : LaneNo) (f : Lane → Lane) : State := setLane s n (f (laneOf s n))

/-- All lane numbers, ascending. -/
def laneNos : List LaneNo := List.finRange 12

def lanesWhere (s : State) (p : Lane → Bool) : List LaneNo := laneNos.filter fun n => p (laneOf s n)

def findReq (s : State) (b : BatonId) : Option Req := s.reqs.find? fun r => r.id == b

/-- Change the request of a baton; nothing where it is not here. -/
def modReq (s : State) (b : BatonId) (f : Req → Req) : State :=
  { s with reqs := s.reqs.map fun r => if r.id = b then f r else r }

def dropReq (s : State) (b : BatonId) : State := { s with reqs := s.reqs.filter fun r => r.id != b }

/-- Fields of a baton ID (R10). -/
def batonHome (b : BatonId) : DevId := b.extractLsb' 44 20
def batonTenant (b : BatonId) : Tenant := b.extractLsb' 32 12
def batonSlot (b : BatonId) : Nat := (b.extractLsb' 16 16).toNat
def batonGen (b : BatonId) : BitVec 16 := b.extractLsb' 0 16
def mkBaton (d : DevId) (t : Tenant) (slot : Nat) (g : BitVec 16) : BatonId :=
  d ++ t ++ BitVec.ofNat 16 slot ++ g

/-- PTP time: while ETHCLK fails it holds its last value (R425), and then it goes on with the device's time (log 3). -/
def ptpTime (s : State) : Nat := s.clk.ptpHold.getD s.clk.now

/-- One free value, fresh at each use (log 4). -/
def takeFree (s : State) : Word × State := (Config.freeWord s.free, { s with free := s.free + 1 })

/-! ### Finish codes -/

def finishCode : Finish → Byte
  | .ok => 0x00 | .discarded => 0x01 | .stalled => 0x02 | .refused => 0x03 | .fenced => 0x04 | .keyDenied => 0x05
  | .pageFaultResent => 0x06 | .planMismatch => 0x07 | .deadTarget => 0x08 | .heldNoPage => 0x09
  | .cancelledDropped => 0x0A | .abandoned => 0x0B | .falseStart => 0x0C | .lapOverrun => 0x0D | .laneRetired => 0x0E
  | .auditMismatch => 0x0F

/-- Place in the order of R13; the lower place is reported. -/
def finishPlace : Finish → Nat
  | .fenced => 1 | .deadTarget => 2 | .laneRetired => 3 | .discarded => 4 | .planMismatch => 5 | .keyDenied => 6
  | .falseStart => 7 | .stalled => 8 | .lapOverrun => 9 | .refused => 10 | .auditMismatch => 11 | .abandoned => 12
  | .cancelledDropped => 13 | .heldNoPage => 14 | .pageFaultResent => 15 | .ok => 16

/-- The code that a completion carries when two conditions apply at once (R13). -/
def finishOf (a b : Finish) : Finish := if finishPlace a ≤ finishPlace b then a else b

/-- A fatal device error holds, or the host port is down: nothing reaches the host. -/
def hostUp (s : State) : Bool := s.hif.linkUp && !s.glb.fatal

/-- An MSI-X message; none while the host port is down. -/
def msix (s : State) (func vector : Nat) : State := if hostUp s then emit s (.msix func vector) else s

/-! ### Events and the event interrupt (R414, R415) -/

/-- Send the event message, or remember it while the 2 us of the last one run. -/
def sendEvt (s : State) : State :=
  if s.glb.evtHold then { s with glb := { s.glb with evtLater := true } }
  else
    let s := { s with glb := { s.glb with evtHold := true, evtLater := false } }
    msix s 0 s.glb.evtVector.toNat

/-- An event of R414 occurs. -/
def raiseEvt (s : State) (b : Nat) : State :=
  let p := s.glb.evt &&& s.glb.evtEn
  let evt' := s.glb.evt ||| (1 <<< b)
  let s' := { s with glb := { s.glb with evt := evt' } }
  if p = 0 && evt' &&& s.glb.evtEn != 0 then sendEvt s' else s'

/-- Conditions of CORE_ARITH_FLAGS met by a lane's cores (R87, R414). -/
def raiseArith (s : State) (n : LaneNo) (fl : BitVec 5) : State :=
  let old := (laneOf s n).arith
  let s' := modLane s n fun l => { l with arith := l.arith ||| fl }
  if fl &&& ~~~ old != 0 then raiseEvt s' 9 else s'

/-- Set or clear the throttle levels' summary event (R414, row 11). -/
def throttling (sta : Sta) : Bool := sta.pl != 0 || sta.tl.toList.any (fun x => x != 0)

/-! ### Contexts, completions and MSI-X (R377 to R386) -/

def tenantFunc (s : State) (t : Tenant) : Nat := tblGetD s.hif.funcOf t.toNat 0

def ctxOf (s : State) (t : Tenant) : Ctx := tblGetD s.hif.ctxs t.toNat Ctx.reset

def setCtx (s : State) (t : Tenant) (c : Ctx) : State :=
  { s with hif := { s.hif with ctxs := tblSet s.hif.ctxs t.toNat c } }

/-- The sixteen words of a completion entry (R383). -/
def cplWords (c : Cpl) (phase : Bool) : List Word :=
  let body := c.body ++ List.replicate (6 - c.body.length) 0
  [lo32 ((finishCode c.code).toNat + at_ (ofB c.second) 8) ||| c.lead.1, c.lead.2] ++ body.take 6 ++
  [lo32 c.user.toNat, hi32 c.user.toNat, lo32 (c.op.toNat + at_ c.reason.toNat 8 + at_ c.tenant.toNat 16),
   0, 0, 0, 0, lo32 (at_ (ofB phase) 31)]

/-- Places left in the completion ring. -/
def cplRoom (c : Ctx) : Bool := decide ((c.cplIdx - c.cplHead).toNat < 2 ^ c.cplLog2.toNat)

/-- PHASE of the entry that an index names: 1 on the first pass (R379, R162). -/
def ringPhase (idx : Word) (log2 : Nat) : Bool := decide (idx.toNat / 2 ^ log2 % 2 = 0)

/-- Host address of an entry of 64 bytes. -/
def cplAddr (c : Ctx) : BitVec 64 :=
  (c.cplHi ++ c.cplLo : BitVec 64) + BitVec.ofNat 64 (64 * (c.cplIdx.toNat % 2 ^ c.cplLog2.toNat))

/-- Write held completions while the ring has room; the entries written. -/
def flushHeld (func : Nat) (c : Ctx) : List Cpl → List Out × Ctx
  | [] => ([], { c with heldCpl := [] })
  | x :: xs =>
    if cplRoom c then
      let o := Out.hostWrite func (cplAddr c) (cplWords x (ringPhase c.cplIdx c.cplLog2.toNat))
      let r := flushHeld func { c with cplIdx := c.cplIdx + 1 } xs
      (o :: r.1, r.2)
    else ([], { c with heldCpl := x :: xs })

/-- Signal a context's vector, at most once per 2 us (R385). -/
def signalCtx (s : State) (t : Tenant) : State :=
  let c := ctxOf s t
  if c.msiHold then setCtx s t { c with msiLater := true }
  else msix (setCtx s t { c with msiHold := true, msiLater := false }) (tenantFunc s t) c.vector.toNat

/-- Write what the ring of a context has room for, and signal if anything was written. -/
def pumpCpl (s : State) (t : Tenant) : State :=
  let c := ctxOf s t
  let r := flushHeld (tenantFunc s t) c c.heldCpl
  let s' := emitAll (setCtx s t r.2) r.1
  if r.1.isEmpty then s' else signalCtx s' t

/-- Put a completion into its context: into the ring, or held while the ring is full (R384); counted where the context is
closed (R386). -/
def deliverCpl (s : State) (x : Cpl) : State :=
  let c := ctxOf s x.tenant
  if c.enable && hostUp s then pumpCpl (setCtx s x.tenant { c with heldCpl := c.heldCpl ++ [x] }) x.tenant
  else { s with hif := { s.hif with cplDrop := satInc s.hif.cplDrop } }

/-- Post a completion; while Coach restarts it waits for Coach (R51, log 8). -/
def postCpl (s : State) (x : Cpl) : State :=
  if s.coach.phase = .restarting then { s with coach := { s.coach with late := s.coach.late ++ [x] } }
  else deliverCpl s x

/-- The completion of a host command. -/
def complete (s : State) (h : HostHdr) (op : Byte) (code : Finish) : State :=
  postCpl s { code, lead := (0, 0), second := false, body := [], user := h.user, op, reason := 0, tenant := h.tenant }

def completeR (s : State) (h : HostHdr) (op : Byte) (code : Finish) (reason : Byte) : State :=
  postCpl s { code, lead := (0, 0), second := false, body := [], user := h.user, op, reason, tenant := h.tenant }

/-- A completion with body words from byte 8 on. -/
def completeB (s : State) (h : HostHdr) (op : Byte) (code : Finish) (reason : Byte) (body : List Word) : State :=
  postCpl s { code, lead := (0, 0), second := false, body, user := h.user, op, reason, tenant := h.tenant }

/-- A completion of one command in a list of commands that end together. -/
def completeAll (s : State) (hs : List HostHdr) (op : Byte) (code : Finish) : State :=
  hs.foldl (fun s h => complete s h op code) s

/-- A baton ID as the two words of a completion body. -/
def batonWords (b : BatonId) : List Word := [lo32 b.toNat, hi32 b.toNat]

/-! ### The plan in force -/

def tenantRec (s : State) (t : Tenant) : Option TenantRec :=
  match s.mpl.current with
  | some p => (p.tenants.find? fun e => e.1 == t).map (·.2)
  | none => none

def tenantEnabled (s : State) (t : Tenant) : Bool :=
  match tenantRec s t with
  | some r => r.enabled
  | none => false

def modelOf (s : State) (m : Nat) : Option ModelSec :=
  match s.mpl.current with
  | some p => p.models.find? fun x => x.number == m
  | none => none

/-- HOLD_LIMIT, HANDOFF_WAIT and the idle laps of the DEVICE section, with the section's defaults before a plan. -/
def deviceSec (s : State) : Option DeviceSec := s.mpl.current.map (·.device)

/-- The lap counter after n more laps. -/
def lapPlus (s : State) (n : Nat) : BitVec 48 := s.lap.count + BitVec.ofNat 48 n

/-! ### Host command checks (R378, R380) -/

/-- A command that the record checks let through: RSV clear, the issuing function owns the tenant, the plan enables it, and
the PF issues what only the PF may. Before any plan is current the PF's plan commands pass (log 7). -/
def hostOk (s : State) (h : HostHdr) (pfOnly : Bool) : Bool :=
  h.rsvClear && decide (tenantFunc s h.tenant = h.func.val)
  && (tenantEnabled s h.tenant || (pfOnly && s.mpl.current.isNone))
  && (!pfOnly || decide (h.func.val = 0))

/-- HIF fetches no command of a context that is closed, or that holds 64 completions (R384). -/
def canFetch (s : State) (h : HostHdr) : Bool :=
  (ctxOf s h.tenant).enable && decide ((ctxOf s h.tenant).heldCpl.length < 64) && hostUp s
  && s.coach.phase != .booting && s.coach.phase != .halted

/-- The device is fenced or declared dead (R326). -/
def isFenced (s : State) : Bool := s.mar.state = .fenced || s.mar.state = .declared || s.mar.state = .readmitPending

/-- The common head of every host command: fetched only while HIF fetches (the head index advances), completed with FENCED while
the device is fenced (R326; the PF's own commands still reach it, R327), refused by the record checks, and otherwise served; FENCED
stands before REFUSED (R13). -/
def hostCmd (s : State) (h : HostHdr) (op : Byte) (pfOnly : Bool) (serve : State → State) : State :=
  if canFetch s h then
    let c := ctxOf s h.tenant
    let s := setCtx s h.tenant { c with head := c.head + 1 }
    if isFenced s && !pfOnly then complete s h op .fenced
    else if !hostOk s h pfOnly then complete s h op .refused
    else serve s
  else s

/-! ### Pins -/

def drivePin (s : State) (p : Pin) (low : Bool) : State := emit s (.pin p low)

end Sys2Proof.Machine
end

