-- ==== Sys2Proof/Machine/Wire.lean ====
section
/-! DEFINITION. How frames leave: path tables, egress queues, frame formation from send queues and system contexts, and the
rate law (08_track_transport.md R210 to R224, R236 to R244; 09_pacer.md R259 to R261). -/

namespace Sys2Proof.Machine

open Sys2Proof

/-! ### Classes, opcodes and sizes (R210, R213 to R216) -/

def clsMarshal : BitVec 2 := 0
def clsControl : BitVec 2 := 1
def clsData : BitVec 2 := 2
def clsLeg : BitVec 2 := 3

def opWrite : Byte := 0x01
def opReadReq : Byte := 0x02
def opReadResp : Byte := 0x03
def opAtomicAdd : Byte := 0x04
def opFetchAdd : Byte := 0x05
def opCmpSwap : Byte := 0x06
def opAtomicResp : Byte := 0x07
def opSend : Byte := 0x08
def opAck : Byte := 0x10
def opNack : Byte := 0x11
def opLegCtl : Byte := 0x18
def opLegPage : Byte := 0x19
def opRing : Byte := 0x1A
def opMarshal : Byte := 0x1C

/-- The class that R215 gives an opcode; none for every other value. -/
def classOfOp (op : Byte) : Option (BitVec 2) :=
  if 1 ≤ op.toNat && op.toNat ≤ 8 then some clsData
  else if op = opAck || op = opNack || op = opLegCtl || op = opRing then some clsControl
  else if op = opLegPage then some clsLeg
  else if op = opMarshal then some clsMarshal
  else none

def flFirst : BitVec 16 := 0x0001
def flLast : BitVec 16 := 0x0002
def flOrd : BitVec 16 := 0x0004
def flFlag : BitVec 16 := 0x0008
def flRetx : BitVec 16 := 0x0020
def flSync : BitVec 16 := 0x0080

/-- The channel number of system traffic. -/
def sysCh : BitVec 14 := 0x3FFF

/-- The port is a relay link (R257). -/
def isRelay (port : Nat) : Bool := decide (16 ≤ port)

/-- Frame bytes from destination address through FCS, or through the link CRC (R213, R216). -/
def frameBytes (port : Nat) (cls : BitVec 2) (payload : Nat) : Nat :=
  if isRelay port then payload + (if cls = clsMarshal || cls = clsControl then 44 else 36) else payload + 70

/-! ### Bytes on the wire (R212, R213, R216) -/

/-- Two bytes, little-endian and big-endian. -/
def u16Bytes (n : Nat) : List Byte := [BitVec.ofNat 8 n, BitVec.ofNat 8 (n / 256)]
def u16Net (n : Nat) : List Byte := [BitVec.ofNat 8 (n / 256), BitVec.ofNat 8 n]

/-- Address of a device on the fabric: 0x02, 0x00, the device ID in the low 20 bits of the next three bytes, and a last byte
(R212); the three bytes run from the uppermost (log 70). -/
def macOf (d : DevId) (last : Byte) : BitVec 48 := (0x0200 : BitVec 16) ++ (0 : BitVec 4) ++ d ++ last

/-- The bytes of an address in the order in which they are sent. -/
def macBytes (m : BitVec 48) : List Byte := (List.range 6).map fun i => m.extractLsb' (40 - 8 * i) 8

/-- Byte 0 of a header: VER 1 and CLASS. -/
def verByte (cls : BitVec 2) : Byte := BitVec.ofNat 8 (16 + 4 * cls.toNat)

/-- The 48-byte header of R213. -/
def fabricHeader (src : DevId) (time : Word) (f : TxFrame) : List Byte :=
  [verByte f.cls, f.op] ++ u16Bytes f.flags.toNat ++ wordBytes (src.setWidth 32)
  ++ wordBytes (lo32 (f.dst.toNat + at_ (f.path % 64) 20)) ++ u16Bytes f.dstCh.toNat ++ u16Bytes f.payload.length
  ++ wordBytes f.psn ++ wordBytes time ++ u64Bytes f.planTag
  ++ wordBytes (lo32 (at_ f.tenant.toNat 20 + at_ f.kgen.toNat 16 + f.rkey.toNat)) ++ wordBytes f.aux ++ u64Bytes f.addr

/-- The 32-byte header of R216. -/
def relayHeader (f : TxFrame) : List Byte :=
  [verByte f.cls, f.op] ++ u16Bytes f.flags.toNat ++ u16Bytes f.dstCh.toNat
  ++ u16Bytes (if f.cls = clsData then f.tenant.toNat else 0) ++ wordBytes f.psn ++ u16Bytes f.payload.length ++ [0, 0]
  ++ wordBytes f.aux ++ u16Bytes (if f.cls = clsData then f.rkey.toNat else 0) ++ [0, 0] ++ u64Bytes f.addr

/-- Classes whose relay frames carry the plan tag. -/
def relayTagged (cls : BitVec 2) : Bool := cls = clsMarshal || cls = clsControl

/-- A frame on a fabric port up to its FCS: addresses, one 802.1Q tag with DEI 0 (R268, log 70), EtherType, header, payload. -/
def fabricBytes (s : State) (port : Nat) (pcp : BitVec 3) (time : Word) (f : TxFrame) : List Byte :=
  macBytes (macOf f.dst 0) ++ macBytes (macOf s.mpl.devId (BitVec.ofNat 8 port))
  ++ u16Net 0x8100 ++ u16Net (at_ pcp.toNat 13 + f.vlan.toNat) ++ u16Net s.te.ethertype.toNat
  ++ fabricHeader s.mpl.devId time f ++ f.payload

/-- A frame on a relay link with its CRC-32C. -/
def relayBytes (f : TxFrame) : List Byte :=
  let b := relayHeader f ++ (if relayTagged f.cls then u64Bytes f.planTag else []) ++ f.payload
  b ++ wordBytes (crc32c b)

/-- The bytes that a port sends for a frame. -/
def wireBytes (s : State) (port : Nat) (pcp : BitVec 3) (time : Word) (f : TxFrame) : List Byte :=
  if isRelay port then relayBytes f else fabricBytes s port pcp time f

def txBytes (port : Nat) (f : TxFrame) : Nat := frameBytes port f.cls f.payload.length

/-! ### The plan's Pacer parameters -/

def pacPort (s : State) (port : Nat) : Option PacPort :=
  match s.mpl.current with
  | some p => if h : port < 19 then some (p.pacer.get ⟨port, h⟩) else none
  | none => none

/-- QLIMIT in bytes; nothing fits before a plan. -/
def qLimit (s : State) (port q : Nat) : Nat :=
  match pacPort s port with
  | some p => if h : q < 32 then (p.queues.get ⟨q, h⟩).qlimitKib.toNat * 1024 else 0
  | none => 0

/-- MAX_FRAME of a fabric port. -/
def maxFrame (s : State) (port : Nat) : Nat :=
  match pacPort s port with
  | some p => p.maxFrame.toNat
  | none => 9216

/-- Length overhead of a port (R262). -/
def overhead (s : State) (port : Nat) : Nat :=
  match pacPort s port with
  | some p => p.overhead.toNat
  | none => if isRelay port then 8 else 20

/-- Payload limit P of a path (R223). -/
def payloadLimit (s : State) (port : Nat) : Nat :=
  if isRelay port then 8192 else min 8192 (64 * ((maxFrame s port - 70) / 64))

def tenantClass (s : State) (t : Tenant) : Nat :=
  match tenantRec s t with
  | some r => r.cls.toNat
  | none => 0

/-- The egress queue of a frame (R259, R260). -/
def queueOf (s : State) (port : Nat) (f : TxFrame) : Nat :=
  if f.cls = clsMarshal then 0
  else if f.cls = clsControl then 1
  else if f.cls = clsData then tenantClass s f.tenant + 2
  else match pacPort s port with
    | some p => p.legQ.toNat
    | none => 4

/-! ### Ports and paths (R239, R240) -/

def fabricUsable (s : State) (port : Nat) : Bool := s.te.portUp.getLsbD port && !s.mar.portFence.getLsbD port

/-- A relay link that is up on 16 or 15 lanes. -/
def linkUp (s : State) (i : Nat) : Bool :=
  match vgetD (vmap s.rly fun r => r.state) i 0 with
  | 2 => true
  | 3 => true
  | _ => false

def linkPeer (s : State) (i : Nat) : DevId := vgetD (vmap s.rly fun r => r.peer) i 0

/-- A port from which frames can leave and arrive. -/
def portUsable (s : State) (port : Nat) : Bool :=
  if isRelay port then linkUp s (port - 16) else fabricUsable s port

def pathEntry (s : State) (table e : Nat) : Word := tblGetD s.te.paths (64 * table + e) 0

/-- The port that an entry names. -/
def entryPort (w : Word) : Nat :=
  if w.getLsbD 30 then 16 + (w.extractLsb' 16 4).toNat else (w.extractLsb' 16 4).toNat

def entryValid (w : Word) : Bool := w.getLsbD 31

/-- An entry that the rotation does not skip toward a device. -/
def entryUsable (s : State) (dst : DevId) (w : Word) : Bool :=
  entryValid w && portUsable s (entryPort w) && (!w.getLsbD 30 || linkPeer s (entryPort w - 16) == dst)

/-- The next entry of the rotation from place `rot` on. -/
def nextPath (s : State) (table rot : Nat) (dst : DevId) : Option Nat :=
  ((List.range 64).map fun i => (rot + i) % 64).find? fun e => entryUsable s dst (pathEntry s table e)

/-- The path table of system contexts and of frames without a number (log 13). -/
def sysTable : Nat := 0

/-- The payload limit over a table's valid entries, so that a re-send fits every path (log 13). -/
def tableLimit (s : State) (table : Nat) : Nat :=
  ((List.range 64).filter fun e => entryValid (pathEntry s table e)).foldl
    (fun m e => min m (payloadLimit s (entryPort (pathEntry s table e)))) 8192

def tableValid (s : State) (table : Nat) : Bool := (List.range 64).any fun e => entryValid (pathEntry s table e)

/-! ### Into an egress queue (R261) -/

def pacQueue (s : State) (port q : Nat) : PacQ :=
  vgetD (vgetD (vmap s.pac.ports fun p => p.queues) port (Vector.replicate 32 PacQ.reset)) q PacQ.reset

def modPacPort (s : State) (port : Nat) (f : PacP → PacP) : State :=
  { s with pac := { s.pac with ports := vmodN s.pac.ports port f } }

def modPacQ (s : State) (port q : Nat) (f : PacQ → PacQ) : State :=
  modPacPort s port fun p => { p with queues := vmodN p.queues q f }

def queuedBytes (s : State) (port q : Nat) : Nat := ((pacQueue s port q).frames.map (txBytes port)).sum

/-- PAC or TE is held in reset. -/
def teHeld (s : State) : Bool := s.sta.blockHeld.getLsbD 4
def pacHeld (s : State) : Bool := s.sta.blockHeld.getLsbD 6

/-- Enter the queue if QLIMIT allows; otherwise the frame stays unformed in TE. -/
def enqueue (s : State) (port : Nat) (f : TxFrame) : Option State :=
  let q := queueOf s port f
  if !pacHeld s && decide (queuedBytes s port q + txBytes port f ≤ qLimit s port q) then
    some (modPacQ s port q fun x => { x with frames := x.frames ++ [f] })
  else none

/-- The VLAN of an entry. -/
def entryVlan (w : Word) : BitVec 12 := w.setWidth 12

/-- What the device may still issue: nothing while fenced but Marshal's own messages (R326), nothing while TE is held. -/
def mayIssue (s : State) (f : TxFrame) : Bool := !teHeld s && (!isFenced s || f.cls = clsMarshal)

/-- Send one frame on the next path of a rotation: the frame with its PATH, VLAN and plan tag, the new rotation place. -/
def sendOn (s : State) (table rot : Nat) (f : TxFrame) : Option (State × TxFrame × Nat) :=
  if !mayIssue s f then none
  else match nextPath s table rot f.dst with
    | none => none
    | some e =>
      let w := pathEntry s table e
      let f := { f with path := e, vlan := entryVlan w, planTag := s.mpl.tagCur }
      match enqueue s (entryPort w) f with
      | none => none
      | some s => some (s, f, (e + 1) % 64)

/-! ### Frames without a number: ACK, NACK, responses and MARSHAL (log 13) -/

/-- Try to send a frame that waits in TE; on a fixed port where one is named. -/
def trySend (s : State) (x : Option Nat × TxFrame) : Option State :=
  match x.1 with
  | some port =>
    if mayIssue s x.2 && portUsable s port then enqueue s port { x.2 with planTag := s.mpl.tagCur } else none
  | none =>
    match sendOn s sysTable s.te.looseRot x.2 with
    | some (s, _, rot) => some { s with te := { s.te with looseRot := rot } }
    | none => none

/-- Send what fits; the rest waits on, in order. -/
def pumpLoose (s : State) : State :=
  let r := s.te.loose.foldl (fun (acc : State × List (Option Nat × TxFrame)) x =>
    match trySend acc.1 x with
    | some s => (s, acc.2)
    | none => (acc.1, acc.2 ++ [x])) (s, [])
  { r.1 with te := { r.1.te with loose := r.2 } }

def sendLoose (s : State) (port : Option Nat) (f : TxFrame) : State :=
  pumpLoose { s with te := { s.te with loose := s.te.loose ++ [(port, f)] } }

/-- A device frame: TENANT and RKEY zero, the system key generation (R231). -/
def deviceFrame (s : State) (cls : BitVec 2) (dst : DevId) (op : Byte) (aux : Word) (addr : BitVec 64)
    (payload : List Byte) : TxFrame :=
  { op, cls, flags := 0, dst, path := 0, dstCh := sysCh, psn := 0, planTag := s.mpl.tagCur, tenant := 0,
    kgen := s.te.sysKgen, rkey := 0, aux, addr, payload, vlan := 0, sq := none, rt := Retx.new }

/-! ### The rate law (R244) -/

/-- A law at opening. -/
def RateLaw_open (rateMax now : Nat) : RateLaw := ⟨rateMax, rateMax, 1024, 0, now, 0⟩

/-- RATE_MAX where the opener names none. -/
def rateDefault : Nat := 800000

/-- Nanoseconds that a frame takes at a rate in Mb/s, rounded up. -/
def paceNs (bytes rate : Nat) : Nat := (bytes * 8000 + rate - 1) / rate

/-- on_ack of R244 for total > 0: the law, and whether the rate was cut. -/
def rateAck (law : RateLaw) (rateMin rateMax marked total now : Nat) : RateLaw × Bool :=
  let f := marked * 1024 / total
  let alpha := (law.alpha * 15 + f) / 16
  let floor := min rateMin rateMax
  if 0 < marked && decide (law.lastCut + 10000 ≤ now) then
    ({ rate := max floor (law.rate - law.rate * alpha / 2048), target := law.rate, alpha, lastCut := now, lastInc := now,
       stage := 0 }, true)
  else ({ law with alpha }, false)

/-- One increase step. -/
def rateStep (law : RateLaw) (rateMax now : Nat) : RateLaw :=
  let stage := law.stage + 1
  let t1 := if 5 < stage then min rateMax (law.target + 4000) else law.target
  let t2 := if 15 < stage then min rateMax (t1 + 40000) else t1
  { law with stage, target := t2, rate := (law.rate + t2) / 2, lastInc := now }

/-! ### Send queues (R219 to R223) -/

def getSq (s : State) (q : Nat) : Option SendQ := tblGet s.te.sqs q
def putSq (s : State) (q : Nat) (x : SendQ) : State := { s with te := { s.te with sqs := tblSet s.te.sqs q x } }

/-- A difference of PSNs is not negative: a ≥ b in sequence order. -/
def psnLe (b a : Word) : Bool := decide ((a - b).toNat < 2147483648)

/-- Room in the window of 4,096 unacknowledged frames (R222), within the receiver's window (R234). A frame that an acknowledgement
covers while its response is awaited counts no more. -/
def windowOpen (unacked : List TxFrame) (nextPsn : Word) : Bool :=
  unacked.all fun f => f.rt.acked || decide ((nextPsn - f.psn).toNat < 4096)

def isAtomicOp (op : Byte) : Bool := op = opAtomicAdd || op = opFetchAdd || op = opCmpSwap

/-- Operations whose end is a response, not an acknowledgement. -/
def wantsResponse (op : Byte) : Bool := op = opReadReq || op = opFetchAdd || op = opCmpSwap

/-- Data address of an address in a tenant's space under the plan's scheme: region base plus offset under KEYED, the job
address space under PAGED (R229, R230). -/
def pagedBase (t : Tenant) : Nat := 4611686018427387904 + t.toNat * 281474976710656

def schemeKeyed (s : State) : Bool :=
  match s.mpl.current with
  | some p => p.system.scheme == 1
  | none => false

/-- Bytes of a LOCAL range of a tenant; none outside its regions. -/
def localAddr (s : State) (t : Tenant) (key : BitVec 16) (off : BitVec 48) (len : Nat) : Option Nat :=
  if schemeKeyed s then
    match tblGet s.te.regions key.toNat with
    | some r => if r.tenant = t && decide (off.toNat + len ≤ r.len) then some (r.base + off.toNat) else none
    | none => none
  else if key = 0 && decide (off.toNat + len ≤ 281474976710656) then some (pagedBase t + off.toNat)
  else none

/-- Pages of regions that keep copies: a write makes the copy of each page it reaches complete and current, and is its last use (R42,
R46, log 16). -/
def touchRegion (s : State) (a len : Nat) (g : Region) : Region :=
  { g with near := g.near.map fun p =>
      let S := (laneOf s p.lane).kv.slotSize.toNat * 4096
      if g.base + p.page * S < a + len && decide (a < g.base + (p.page + 1) * S) then
        { p with lastUse := s.lap.count, copied := g.far.isSome }
      else p }

/-- Place bytes in the data space. -/
def placeData (s : State) (a : Nat) (bs : List Byte) : State :=
  { s with
    mem := { s.mem with data := memStore s.mem.data a bs }
    te := { s.te with regions := s.te.regions.map fun g => (g.1, touchRegion s a bs.length g.2) } }

/-- Payload of frame k of an operation. -/
def opPayload (s : State) (t : Tenant) (o : TxOp) (k : Nat) : List Byte :=
  let d := o.desc
  if d.op = opWrite || d.op = opSend then
    match localAddr s t d.localKey d.localOff d.len.toNat with
    | some a => memBytes s.mem.data (a + k * o.limit) (min o.limit (d.len.toNat - k * o.limit))
    | none => []
  else if d.op = opReadReq then u64Bytes (d.localKey ++ d.localOff) ++ List.replicate 8 0
  else if d.op = opCmpSwap then u64Bytes d.operand0 ++ u64Bytes d.operand1
  else u64Bytes d.operand0

/-- Frame k of an operation (R213 to R215, R223). -/
def opFrame (s : State) (q : Nat) (x : SendQ) (o : TxOp) (k : Nat) : TxFrame :=
  let d := o.desc
  let last := decide (k + 1 = o.frames)
  let flags := (if k = 0 then flFirst else 0) ||| (if last then flLast else 0) ||| (if x.relaxed then 0 else flOrd)
    ||| (if last && d.ctl.getLsbD 0 then flFlag else 0)
  let addr : BitVec 64 :=
    if d.op = opSend then d.len ++ BitVec.ofNat 32 (k * o.limit)
    else if d.op = opWrite then d.remote + BitVec.ofNat 64 (k * o.limit)
    else d.remote
  let aux : Word := if d.op = opReadReq then d.len else if d.op = opSend then o.message else 0
  { op := d.op, cls := clsData, flags, dst := x.target, path := 0, dstCh := x.rxCtx, psn := x.nextPsn,
    planTag := s.mpl.tagCur, tenant := x.tenant, kgen := tblGetD s.te.kgen x.tenant.toNat 0, rkey := d.rkey, aux, addr,
    payload := opPayload s x.tenant o k, vlan := 0, sq := some q, rt := Retx.new }

/-- The first operation with a frame still to form. -/
def formable (o : TxOp) : Bool := decide (o.formed < o.frames) && !o.waitRetry

/-- The operation whose frame is formed next: one that is partly formed, so that its PSNs run on, else the first formable one. -/
def nextOp (ops : List TxOp) : Option Nat :=
  (ops.findIdx? fun o => formable o && decide (0 < o.formed)) <|> ops.findIdx? formable

/-- Record that a frame of an operation was formed with a PSN. -/
def bumpFormed (psn : Word) (o : TxOp) : TxOp :=
  { o with formed := o.formed + 1, firstPsn := if o.formed = 0 then psn else o.firstPsn }

/-- When the rate law allows the next frame; relay paths are paced by credits alone (R217). -/
def paceAfter (now nextAt port bytes : Nat) (law : RateLaw) : Nat :=
  if isRelay port then nextAt else now + paceNs bytes law.rate

/-- A path is there, and it is a relay link or the rate law allows a frame (R217, R244). -/
def rateAllows (s : State) (table rot : Nat) (dst : DevId) (nextAt : Nat) : Bool :=
  match nextPath s table rot dst with
  | some e => isRelay (entryPort (pathEntry s table e)) || decide (nextAt ≤ s.clk.now)
  | none => false

/-- A timer's next length: RTO at first, doubled by each re-send up to max(RTO, 1,024 us) (R236). -/
def nextTimer (rto old : Nat) : Nat := if old = 0 then rto else min (2 * old) (max rto 1024)

/-- A frame as TE gives it to the Pacer: its timer starts (log 73). -/
def started (s : State) (f : TxFrame) : TxFrame :=
  let us := nextTimer s.te.rto.toNat f.rt.timerUs
  { f with rt := { f.rt with timerUs := us, dueAt := some (s.clk.now + 1000 * us) } }

/-- Form one frame of a send queue, if the window, the rate, a path and the egress queue allow. -/
def formOne (s : State) (q : Nat) : Option State :=
  match getSq s q with
  | none => none
  | some x =>
    match nextOp x.ops with
    | none => none
    | some i =>
      match x.ops[i]? with
      | none => none
      | some o =>
        if !windowOpen x.unacked x.nextPsn || !rateAllows s x.pathTable x.rot x.target x.nextAt then none
        else match sendOn s x.pathTable x.rot (opFrame s q x o o.formed) with
          | none => none
          | some (s, f, rot) =>
            let port := entryPort (pathEntry s x.pathTable f.path)
            some (putSq s q { x with
              ops := x.ops.modify i (bumpFormed x.nextPsn), nextPsn := x.nextPsn + 1, unacked := x.unacked ++ [started s f], rot
              nextAt := paceAfter s.clk.now x.nextAt port (txBytes port f) x.law })

/-! ### Re-sends (R230, R236) -/

/-- The frame as it goes again: RETX set. -/
def again (f : TxFrame) : TxFrame := { f with flags := f.flags ||| flRetx, rt := { f.rt with dueAt := none, faultAt := none } }

/-- Send an unacknowledged frame of a queue again, on the next path of the rotation. -/
def resendSq (s : State) (q : Nat) (psn : Word) : Option State :=
  match getSq s q with
  | none => none
  | some x =>
    match x.unacked.find? fun f => f.psn == psn with
    | none => none
    | some f =>
      if !rateAllows s x.pathTable x.rot f.dst x.nextAt then none
      else match sendOn s x.pathTable x.rot (again f) with
        | none => none
        | some (s, f', rot) =>
          let port := entryPort (pathEntry s x.pathTable f'.path)
          some (putSq s q { x with
            rot, unacked := x.unacked.map fun g => if g.psn = psn then started s f' else g
            nextAt := paceAfter s.clk.now x.nextAt port (txBytes port f') x.law })

/-- TE_RETX_CNT and TE_PF_RESEND_CNT count re-sends. -/
def countRetx (s : State) : State := { s with te := { s.te with cnt := { s.te.cnt with retx := satInc s.te.cnt.retx } } }
def countPf (s : State) : State := { s with te := { s.te with cnt := { s.te.cnt with pfResend := satInc s.te.cnt.pfResend } } }

/-- The first re-send of a queue that waits, where it can go now; one whose frame was acknowledged meanwhile is dropped. -/
def resendNext (s : State) (q : Nat) : Option State :=
  match getSq s q with
  | none => none
  | some x =>
    match x.resend with
    | [] => none
    | (psn, pf) :: rest =>
      let s := putSq s q { x with resend := rest }
      if x.unacked.any fun f => f.psn == psn then (resendSq s q psn).map (if pf then countPf else countRetx)
      else some s

/-- Form frames of a send queue while they go. -/
def pumpSq (s : State) (q : Nat) : Nat → State
  | 0 => s
  | n + 1 =>
    match resendNext s q <|> formOne s q with
    | some s => pumpSq s q n
    | none => s

/-! ### System contexts (R238) -/

/-- A context to a peer: the first starts at PSN 0, a later one goes on where the last ended (log 71). -/
def SysTx_new (s : State) (d : DevId) : SysTx :=
  ⟨tblGetD s.te.sysPsn d.toNat 0, true, s.clk.now, [], [], [], [], 0, 0, RateLaw_open rateDefault s.clk.now⟩

def putSysTx (s : State) (d : DevId) (x : SysTx) : State := { s with te := { s.te with sysTx := tblSet s.te.sysTx d.toNat x } }

/-- Form one waiting frame of a class of a system context; LEG frames keep the rate law. -/
def formSys (s : State) (d : DevId) (leg : Bool) : Option State :=
  match tblGet s.te.sysTx d.toNat with
  | none => none
  | some x =>
    match (if leg then x.legWait else x.ctlWait) with
    | [] => none
    | f :: rest =>
      if !windowOpen x.unacked x.nextPsn || (leg && !rateAllows s sysTable x.rot d x.nextAt) then none
      else
        let f := { f with psn := x.nextPsn, flags := if x.fresh then f.flags ||| flSync else f.flags }
        match sendOn s sysTable x.rot f with
        | none => none
        | some (s, f, rot) =>
          let port := entryPort (pathEntry s sysTable f.path)
          some (putSysTx s d { x with
            nextPsn := x.nextPsn + 1, lastUse := s.clk.now, unacked := x.unacked ++ [started s f], rot
            ctlWait := if leg then x.ctlWait else rest, legWait := if leg then rest else x.legWait
            nextAt := if leg then paceAfter s.clk.now x.nextAt port (txBytes port f) x.law else x.nextAt })

/-- Send an unacknowledged frame of a context again; LEG frames keep the rate law. -/
def resendSys (s : State) (d : DevId) (psn : Word) : Option State :=
  match tblGet s.te.sysTx d.toNat with
  | none => none
  | some x =>
    match x.unacked.find? fun f => f.psn == psn with
    | none => none
    | some f =>
      let leg := decide (f.cls = clsLeg)
      if leg && !rateAllows s sysTable x.rot d x.nextAt then none
      else match sendOn s sysTable x.rot (again f) with
        | none => none
        | some (s, f', rot) =>
          let port := entryPort (pathEntry s sysTable f'.path)
          some (putSysTx s d { x with
            rot, unacked := x.unacked.map fun g => if g.psn = psn then started s f' else g
            nextAt := if leg then paceAfter s.clk.now x.nextAt port (txBytes port f') x.law else x.nextAt })

/-- Re-sends of one class that wait, each where it can go now; of a frame acknowledged meanwhile nothing is sent. -/
def resendWaiting (s : State) (d : DevId) (leg : Bool) : State :=
  match tblGet s.te.sysTx d.toNat with
  | none => s
  | some x =>
    let live := x.resend.filter fun psn => x.unacked.any fun f => f.psn == psn
    let due := live.filter fun psn => x.unacked.any fun f => f.psn == psn && ((f.cls == clsLeg) == leg)
    due.foldl (fun s psn =>
      match resendSys s d psn with
      | some s => countRetx { s with te := { s.te with sysTx := tblMod s.te.sysTx d.toNat fun y =>
          { y with resend := y.resend.filter (· ≠ psn) } } }
      | none => s) (putSysTx s d { x with resend := live })

/-- Form waiting frames of a class while they go. -/
def formAll (s : State) (d : DevId) (leg : Bool) : Nat → State
  | 0 => s
  | n + 1 =>
    match formSys s d leg with
    | some s => formAll s d leg n
    | none => s

/-- A context's turn for one class: re-sends first. -/
def pumpSys (s : State) (d : DevId) (leg : Bool) (n : Nat) : State := formAll (resendWaiting s d leg) d leg n

/-- Give a frame to its target's context; a new one where the peer has none, while one of the 4,096 is free. Without one the frame
waits. -/
def sysGive (s : State) (f : TxFrame) : State :=
  let leg := decide (f.cls = clsLeg)
  let put := fun (x : SysTx) =>
    let x := if leg then { x with legWait := x.legWait ++ [f] } else { x with ctlWait := x.ctlWait ++ [f] }
    pumpSys (putSysTx s f.dst x) f.dst leg 4096
  match tblGet s.te.sysTx f.dst.toNat with
  | some x => put x
  | none =>
    if s.te.sysTx.length < 4096 then put (SysTx_new s f.dst)
    else { s with te := { s.te with ctxWait := s.te.ctxWait ++ [f] } }

/-- A CONTROL or LEG frame to a device. -/
def sysSendF (s : State) (dst : DevId) (op : Byte) (flags : BitVec 16) (aux : Word) (addr : BitVec 64) (payload : List Byte) : State :=
  sysGive s { deviceFrame s (if op = opLegPage then clsLeg else clsControl) dst op aux addr payload with flags }

/-- A sender's context closes; frames that waited for one try again, but for those to a dead device. -/
def closeSysTx (s : State) (d : DevId) : State :=
  match tblGet s.te.sysTx d.toNat with
  | none => s
  | some x =>
    let fs := s.te.ctxWait.filter fun f => !s.te.dead.contains f.dst
    fs.foldl sysGive { s with te := { s.te with
      sysTx := tblErase s.te.sysTx d.toNat, sysPsn := tblSet s.te.sysPsn d.toNat x.nextPsn, ctxWait := [] } }

def sysSend (s : State) (dst : DevId) (op : Byte) (aux : Word) (addr : BitVec 64) (payload : List Byte) : State :=
  sysSendF s dst op 0 aux addr payload

/-- Everything that waits in TE tries again: after a frame left an egress queue, an acknowledgement, a path or port that
came back, or as PTP time releases a paced channel. -/
def pumpAll (s : State) : State :=
  let s := pumpLoose s
  let s := s.te.sysTx.foldl (fun s e =>
    let d := BitVec.ofNat 20 e.1
    pumpSys (pumpSys s d false 4096) d true 4096) s
  s.te.sqs.foldl (fun s e => pumpSq s e.1 4096) s

end Sys2Proof.Machine
end

