-- ==== Sys2Proof/Machine/MarLog.lean ====
section
/-! DEFINITION. MARSHAL messages, MAR's log and reports, and the fatal device error (12_marshal_and_resilience.md, R318, R324,
R338; 13_start_reset_lifecycle.md, R345). -/

namespace Sys2Proof.Machine

open Sys2Proof

/-! ### Messages (R324) -/

def mtHeartbeat : Byte := 0x01
def mtEcho : Byte := 0x02
def mtSuspect : Byte := 0x03
def mtFence : Byte := 0x04
def mtReadmit : Byte := 0x05
def mtReport : Byte := 0x06

/-- Bytes 0 to 27 of a MARSHAL payload. -/
def marHead (m : MarMsg) : List Byte :=
  [m.mtype, m.kind, 0, 0] ++ wordBytes (m.sender.setWidth 32) ++ wordBytes (m.subject.setWidth 32) ++
  [m.epoch.extractLsb' 0 8, m.epoch.extractLsb' 8 8, 0, 0] ++ (List.range 6).map (fun i => m.round.extractLsb' (8 * i) 8) ++
  [0, 0, 0, 0, 0, 0]

/-- The CRC of bytes 0 to 27. -/
def marCrc (m : MarMsg) : Word := crc32c (marHead m)

/-- A payload whose MTYPE, RSV bits and CRC are right (R324). -/
def marOk (m : MarMsg) (mtype : Byte) : Bool := m.mtype == mtype && m.rsvClear && m.crc == marCrc m

/-- A message of this device. -/
def mkMsg (s : State) (mtype kind : Byte) (subject : DevId) (epoch : BitVec 16) (round : BitVec 48) : MarMsg :=
  let m : MarMsg := ⟨mtype, kind, s.mpl.devId, subject, epoch, round, 0, true⟩
  { m with crc := marCrc m }

/-- MAR is held in reset by the block resets. -/
def marHeld (s : State) : Bool := s.sta.blockHeld.getLsbD 8

/-- The two lowest-numbered fabric ports that are neither down nor fenced (R318). -/
def marPorts (s : State) : List Nat :=
  ((List.range 16).filter (fabricUsable s)).take 2

/-- What MAR may still send: everything while live or inactive; heartbeats and echoes under an ADMIN fence; nothing once
declared dead or after a fatal error (R326, R345). -/
def marMaySend (s : State) (mtype : Byte) : Bool :=
  !s.glb.fatal && match s.mar.state with
    | .declared | .readmitPending => false
    | .fenced => mtype == mtHeartbeat || mtype == mtEcho
    | .inactive | .live => true

/-- A MARSHAL frame: the 32-byte payload, and for a REPORT the log entry after it. -/
def marFrame (s : State) (dst : DevId) (m : MarMsg) (entry : List Word) : TxFrame :=
  deviceFrame s clsMarshal dst opMarshal 0 0 (marHead m ++ wordBytes m.crc ++ entry.flatMap wordBytes)

/-- Send a message on the two ports of R318. -/
def marSend (s : State) (dst : DevId) (m : MarMsg) (entry : List Word) : State :=
  if marMaySend s m.mtype then
    (marPorts s).foldl (fun s p => sendLoose s (some p) (marFrame s dst m entry)) s
  else s

/-! ### Ring table (R316) -/

/-- A valid entry's device. -/
def ringDev (t : Tbl Word) (i : Nat) : Option DevId :=
  match tblGet t i with
  | some w => if w.getLsbD 31 then some (w.setWidth 20) else none
  | none => none

def ringDevs (t : Tbl Word) (lo n : Nat) : List DevId := ((List.range n).map (lo + ·)).filterMap (ringDev t)

def watchers (s : State) : List DevId := ringDevs s.mar.ringCur 0 5
def watched (s : State) : List DevId := ringDevs s.mar.ringCur 5 5
def fanOut (s : State) : List DevId := ringDevs s.mar.ringCur 10 16

/-- Place of a subject in the watched list. -/
def watchedPlace (s : State) (d : DevId) : Option Nat :=
  (List.range 5).find? fun w => ringDev s.mar.ringCur (5 + w) == some d

def coWatchers (s : State) (d : DevId) : List DevId :=
  match watchedPlace s d with
  | some w => ringDevs s.mar.ringCur (26 + 4 * w) 4
  | none => []

/-- 5 watchers, 5 watched devices and 20 co-watchers (R316). -/
def ringComplete (t : Tbl Word) : Bool :=
  decide ((ringDevs t 0 5).length = 5) && decide ((ringDevs t 5 5).length = 5) && decide ((ringDevs t 26 20).length = 20)

/-! ### Log (R338) -/

def evHbMissed : Nat := 0x01
def evDeclared : Nat := 0x02
def evSelfFenced : Nat := 0x03
def evFenced : Nat := 0x04
def evReadmitted : Nat := 0x05
def evCoreFailed : Nat := 0x06
def evLaneRetired : Nat := 0x07
def evHbmRow : Nat := 0x08
def evRelayLaneOut : Nat := 0x09
def evPortDown : Nat := 0x0A
def evStraggler : Nat := 0x0B
def evSwapDone : Nat := 0x0C
def evWatchThin : Nat := 0x0D

/-- SEVERITY: 1 NOTE, 2 DEGRADED, 3 LOSS. -/
def evSeverity (ev : Nat) : Nat :=
  if ev = 0x01 || ev = 0x05 || ev = 0x0C then 1 else if ev = 0x02 || ev = 0x03 || ev = 0x07 then 3 else 2

/-- Words 0 to 7 of a log entry. -/
def logWords (s : State) (ev lane : Nat) (subject : DevId) (core : Nat) (detail : Word) : List Word :=
  [s.lap.count.setWidth 32, lo32 (at_ ev 24 + at_ lane 20 + subject.toNat), lo32 (at_ (evSeverity ev) 8 + core), detail,
   lo32 (ptpTime s), hi32 (ptpTime s), 0, 0]

/-- Write a log entry, signal the Marshal vector and send the REPORT that its severity asks for. -/
def marLog (s : State) (ev lane : Nat) (subject : DevId) (core : Nat) (detail : Word) : State :=
  let e := logWords s ev lane subject core detail
  let i := s.mar.logNext.toNat
  let s := { s with mar := { s.mar with
    log := tblSet s.mar.log i e, logNext := s.mar.logNext + 1, logWrapped := s.mar.logWrapped || decide (i = 255) } }
  if evSeverity ev = 1 then s
  else
    let s := msix s 0 0
    if s.mar.fmEn then marSend s s.mar.fmDev (mkMsg s mtReport 0 subject s.mpl.epoch 0) e else s

/-! ### Fatal device error (R345, R387) -/

/-- Lanes that run stop; their stacks stay as they are. -/
def stopLane (l : Lane) : Lane :=
  match l.ctl with
  | .serving | .draining | .testing =>
    { l with ctl := .stopped, st := { l.st with slots := [] }, mch := { l.mch with busy := false } }
  | _ => l

/-- FATAL_N goes low, every lane stops, Coach halts, MAR falls silent (`marMaySend`) and HIF sends ERR_FATAL. -/
def fatalError (s : State) : State :=
  if s.glb.fatal then s
  else
    let s := if s.hif.linkUp then emit s .errFatal else s
    let s := { s with
      glb := { s.glb with fatal := true }
      sta := { s.sta with fatalPin := true }
      coach := { s.coach with phase := .halted, pause := .none }
      lanes := vmap s.lanes stopLane
      hif := { s.hif with training := false } }
    drivePin s .fatalN true

/-! ### Free-running laps (R95) -/

/-- A device with neither LAP_SYNC nor PTP lock reports it to the fabric manager; R338 has no event for it, so the entry's
fields are free (log 4). -/
def reportFreeRun (s : State) : State :=
  if !s.mar.fmEn || marHeld s then s
  else
    let x := takeFree s
    let y := takeFree x.2
    let e := [s.lap.count.setWidth 32, x.1, y.1, 0, lo32 (ptpTime s), hi32 (ptpTime s), 0, 0]
    marSend y.2 s.mar.fmDev (mkMsg s mtReport 0 s.mpl.devId s.mpl.epoch 0) e

/-- SOURCE of a device that takes its boundaries from PTP. -/
def ptpSource (s : State) : BitVec 2 := if s.clk.ptpLock then 2 else 0

/-- SOURCE changes; a device that begins to free-run, at the start of its laps too, reports it (R95). -/
def setSource (s : State) (src : BitVec 2) : State :=
  let free := src == 0 && (s.lap.source != 0 || !s.lap.running)
  let s := { s with lap := { s.lap with source := src } }
  if free then reportFreeRun s else s

end Sys2Proof.Machine
end

