-- ==== Sys2Proof/Machine/BibOps.lean ====
section
/-! DEFINITION. Bib: the table, updates, lookups and the cascade ring (10_bib_matcher.md). -/

namespace Sys2Proof.Machine

open Sys2Proof

/-! ### Partitions (R275, R276) -/

def bibSec (s : State) : Option BibSec :=
  match s.mpl.current with
  | some p => p.bib
  | none => none

def bibPart (s : State) (n : Nat) : Option BibPart :=
  match bibSec s with
  | some b => b.parts[n]?
  | none => none

def partLo (p : BibPart) : Nat := 64 * p.base.toNat
def partHi (p : BibPart) : Nat := 64 * (p.base.toNat + p.ngroups.toNat)

/-- The function may use an unprivileged partition: the PF, or the tenant's own. -/
def partMine (h : HostHdr) (p : BibPart) : Bool := h.func.val = 0 || h.tenant = p.tenant

/-! ### Entries (R273, R274, R277) -/

def entryOf (r : BibRecord) : BibEntry := ⟨r.key, r.care, r.prio.toNat, r.result⟩

def sameEntry (e : BibEntry) (r : BibRecord) : Bool := e.key == r.key && e.care == r.care && e.prio == r.prio.toNat

def bibMatches (k : BitVec 128) (e : BibEntry) : Bool := (k ^^^ e.key) &&& e.care == 0

def inPart (p : BibPart) (e : Nat × BibEntry) : Bool := decide (partLo p ≤ e.1) && decide (e.1 < partHi p)

def partEntries (t : Tbl BibEntry) (p : BibPart) : List (Nat × BibEntry) := t.filter (inPart p)

/-- The matching entry at the lowest address (R277). -/
def firstMatch (t : Tbl BibEntry) (p : BibPart) (k : BitVec 128) : Option (Nat × BibEntry) :=
  (partEntries t p).find? fun e => bibMatches k e.2

def bibFg (b : Bib) : Tbl BibEntry := if b.fg then b.copyB else b.copyA
def bibBg (b : Bib) : Tbl BibEntry := if b.fg then b.copyA else b.copyB
def setBg (b : Bib) (t : Tbl BibEntry) : Bib := if b.fg then { b with copyA := t } else { b with copyB := t }

/-! ### Insertion and compaction (R282, R283) -/

def isFreeAt (t : Tbl BibEntry) (a : Nat) : Bool := (tblGet t a).isNone

/-- Contents of addresses a to f − 1 move up by one; a becomes free. -/
def shiftUp (t : Tbl BibEntry) (a f : Nat) : Tbl BibEntry :=
  t.map fun e => if a ≤ e.1 && e.1 < f then (e.1 + 1, e.2) else e

/-- Contents of addresses f + 1 to a − 1 move down by one; a − 1 becomes free. -/
def shiftDown (t : Tbl BibEntry) (f a : Nat) : Tbl BibEntry :=
  t.map fun e => if f < e.1 && e.1 < a then (e.1 - 1, e.2) else e

/-- 1 + address of the last valid entry with PRIO ≤ p; the base where there is none. -/
def insertAt (t : Tbl BibEntry) (p : BibPart) (prio : Nat) : Nat :=
  (partEntries t p).foldl (fun a e => if e.2.prio ≤ prio then e.1 + 1 else a) (partLo p)

/-- Addresses of a range, ascending. -/
def addrs (lo hi : Nat) : List Nat := (List.range (hi - lo)).map (lo + ·)

def bibInsert (t : Tbl BibEntry) (p : BibPart) (e : BibEntry) : Option (Tbl BibEntry) :=
  let a := insertAt t p e.prio
  match (addrs a (partHi p)).find? (isFreeAt t) with
  | some f => some (tblSet (shiftUp t a f) a e)
  | none =>
    match (addrs (partLo p) a).reverse.find? (isFreeAt t) with
    | some f => some (tblSet (shiftDown t f a) (a - 1) e)
    | none => none

/-- One record (R281). -/
def applyRecord (t : Tbl BibEntry) (p : BibPart) (r : BibRecord) : Option (Tbl BibEntry) :=
  let found := (partEntries t p).find? fun e => sameEntry e.2 r
  if r.op = 1 then (match found with | some _ => none | none => bibInsert t p (entryOf r))
  else match found with
    | none => none
    | some e => if r.op = 2 then some (tblErase t e.1) else some (tblSet t e.1 { e.2 with result := r.result })

/-- Records in order: the table, or the index of the first that fails. -/
def applyRecords (p : BibPart) : Nat → Tbl BibEntry → List BibRecord → Except Nat (Tbl BibEntry)
  | _, t, [] => .ok t
  | i, t, r :: rs =>
    match applyRecord t p r with
    | some t => applyRecords p (i + 1) t rs
    | none => .error i

def groupFree (t : Tbl BibEntry) (g : Nat) : Nat := 64 - (t.filter fun e => e.1 / 64 == g).length

/-- Compaction of one full group: a free entry from the nearest group above with two, or else from below. -/
def compactGroup (p : BibPart) (t : Tbl BibEntry) (g : Nat) : Tbl BibEntry :=
  if groupFree t g ≠ 0 then t
  else
    let lo := p.base.toNat
    let hi := p.base.toNat + p.ngroups.toNat
    match (addrs (g + 1) hi).find? fun d => decide (2 ≤ groupFree t d) with
    | some d =>
      match (addrs (64 * d) (64 * d + 64)).find? (isFreeAt t) with
      | some f => shiftUp t (64 * g + 63) f
      | none => t
    | none =>
      match (addrs lo g).reverse.find? fun d => decide (2 ≤ groupFree t d) with
      | some d =>
        match (addrs (64 * d) (64 * d + 64)).reverse.find? (isFreeAt t) with
        | some f => shiftDown t f (64 * g + 1)
        | none => t
      | none => t

def compact (p : BibPart) (t : Tbl BibEntry) : Tbl BibEntry :=
  (addrs p.base.toNat (p.base.toNat + p.ngroups.toNat)).foldl (compactGroup p) t

/-! ### Update commands (R273, R276, R281, R284, R285) -/

def updateBody (i : Nat) : List Word := [lo32 i]

/-- The format of a record. -/
def recordOk (part : Nat) (p : BibPart) (r : BibRecord) : Bool :=
  r.rsvClear && r.key &&& ~~~ r.care == 0 && decide (r.part.toNat = part)
  && (r.op = 1 || r.op = 2 || r.op = 3) && (p.priv || r.op != 1 || r.care == BitVec.allOnes 128)

/-- A batch completes: its entry leaves the queue. -/
def endBatch (s : State) (b : BibBatch) (code : Finish) (failing : Nat) : State :=
  completeB { s with bib := { s.bib with queue := s.bib.queue.tail } } b.h 0x18 code 0 (updateBody failing)

/-- The copies swap at a boundary after the engine finished (R284); then the batch at the head starts. -/
def bibBoundary (s : State) : State :=
  let s := match s.bib.engine, s.bib.queue with
    | .ready, b :: _ =>
      endBatch { s with bib := { s.bib with engine := .idle, fg := !s.bib.fg, gen := s.bib.gen + 1 } } b .ok 0xFFFF
    | _, _ => s
  match s.bib.engine, s.bib.queue with
  | .idle, _ :: _ => { s with bib := setBg { s.bib with engine := .running s.lap.count } (bibFg s.bib) }
  | _, _ => s

def bibDeadline (s : State) : Nat :=
  match bibSec s with
  | some b => b.deadline.toNat
  | none => 4

/-! ### Lookups (R278, R279, R288 to R290) -/

/-- A lookup's completion; GEN is that of the copy searched here (R278). -/
def lookupCpl (s : State) (h : HostHdr) (gen : BitVec 16) (code : Finish) (hit : Bool) (pos addr : Nat) (result : BitVec 64) : State :=
  postCpl s { code, lead := (lo32 (at_ (ofB hit) 8 + at_ pos 9 + at_ addr 16), lo32 gen.toNat), second := false
              body := [lo32 result.toNat, hi32 result.toNat], user := h.user, op := 0x19, reason := 0, tenant := h.tenant }

/-- This device's tray position, and whether it is a member. -/
def trayPos (s : State) : Nat := s.sta.pos.toNat

def cascadeSize (s : State) : Nat :=
  match bibSec s with
  | some b => b.cascade.toNat
  | none => 0

def isMember (s : State) : Bool := decide (trayPos s < cascadeSize s)

def bibHeld (s : State) : Bool := s.sta.blockHeld.getLsbD 7

/-- The first 31 bytes of a ring packet (R287). -/
def packetHead (p : RingPacket) : List Byte :=
  (List.range 16).map (fun i => p.key.extractLsb' (8 * i) 8) ++
  [p.tag, BitVec.ofNat 8 (p.part.toNat + at_ (ofB p.hit) 4 + at_ p.pos.toNat 5), p.addr.extractLsb' 0 8, p.addr.extractLsb' 8 8] ++
  u64Bytes p.result ++ [0, 0, 0]

def packetCrc (p : RingPacket) : Byte := crc8 (packetHead p)

def sealPacket (p : RingPacket) : RingPacket := { p with crc := packetCrc p }

def ringDropped (s : State) : State := { s with bib := { s.bib with ringDrop := satInc s.bib.ringDrop } }

/-- The passing packet held longest is dropped and counted when it has been held for more than 2 us (R288). -/
def dropHeld (s : State) : State :=
  match s.bib.hold with
  | [] => s
  | p :: ps => if p.2 + 2000 < s.clk.now then ringDropped { s with bib := { s.bib with hold := ps } } else s

/-- An own packet starts on the line: its 4 us run (R289). -/
def markSent (now : Nat) (tag : Byte) (w : BibWait) : BibWait := if w.tag = tag.toNat then { w with sentAt := some now } else w

/-- The line sends when it is free: passing packets before own ones, one own packet after three passing ones; no packet held for
more than 2 us (R288). -/
def pumpRing (s : State) : State :=
  if s.clk.now < s.bib.lineFree then s
  else
    let s := (List.range s.bib.hold.length).foldl (fun s _ => dropHeld s) s
    let own := fun (s : State) (p : RingPacket) =>
      { s with bib := { s.bib with waits := s.bib.waits.map (markSent s.clk.now p.tag) } }
    let send := fun (s : State) (p : RingPacket) (passed : Nat) =>
      emit { s with bib := { s.bib with lineFree := s.clk.now + 130, passed := passed } } (.matchOut p)
    match s.bib.hold, s.bib.own with
    | [], [] => s
    | p :: ps, [] => send { s with bib := { s.bib with hold := ps } } p.1 (s.bib.passed + 1)
    | [], p :: ps => send (own { s with bib := { s.bib with own := ps } } p) p 0
    | p :: ps, q :: qs =>
      if s.bib.passed < 3 then send { s with bib := { s.bib with hold := ps } } p.1 (s.bib.passed + 1)
      else send (own { s with bib := { s.bib with own := qs } } q) q 0

/-- A free index of this device: not on the ring and not resting (R288, R290). -/
def freeTag (s : State) : Option Nat :=
  (List.range 64).find? fun i =>
    let t := 64 * trayPos s + i
    (s.bib.waits.all fun w => w.tag != t) && (s.bib.resting.all fun r => r.1 != t || decide (r.2 ≤ s.clk.now))

/-- Send a cascaded lookup's packet with the issuer's own match. -/
def cascade (s : State) (q : BibReq) (p : BibPart) (i : Nat) : State :=
  let tag := 64 * trayPos s + i
  let m := firstMatch (bibFg s.bib) p q.key
  let pk : RingPacket := sealPacket (match m with
    | some e => ⟨q.key, BitVec.ofNat 8 tag, BitVec.ofNat 4 q.part, true, s.sta.pos, BitVec.ofNat 16 e.1, e.2.result, 0⟩
    | none => ⟨q.key, BitVec.ofNat 8 tag, BitVec.ofNat 4 q.part, false, 0, 0, 0, 0⟩)
  pumpRing { s with bib := { s.bib with
    own := s.bib.own ++ [pk], waits := s.bib.waits ++ [⟨tag, q, s.bib.gen, none⟩],
    resting := s.bib.resting.filter fun r => r.1 != tag } }

/-- What a lookup came to: a code, and the match (position, address, result). -/
abbrev LookRes := Finish × Option (Nat × Nat × BitVec 64)

/-- A lookup is accepted: answered at once, or sent on the ring (none). While 64 own packets are on the ring it waits. -/
def lookup (s : State) (q : BibReq) : Option LookRes × State :=
  match bibPart s q.part with
  | none => (some (.refused, none), s)
  | some p =>
    if p.casc && decide (2 ≤ cascadeSize s) && isMember s then
      if s.bib.deadMember then (some (.deadTarget, none), s)
      else if s.bib.fencedMember then (some (.fenced, none), s)
      else match freeTag s with
        | some i => (none, cascade s q p i)
        | none => (none, { s with bib := { s.bib with lookQ := s.bib.lookQ ++ [q] } })
    else (some (.ok, (firstMatch (bibFg s.bib) p q.key).map fun e => (trayPos s, e.1, e.2.result)), s)

/-- Post a host lookup's completion. -/
def answerLookup (s : State) (h : HostHdr) (gen : BitVec 16) (r : LookRes) : State :=
  match r.2 with
  | some (pos, a, res) => lookupCpl s h gen r.1 true pos a res
  | none => lookupCpl s h gen r.1 false 0 0 0

/-- A packet improved by this member's slice (R288, step 2). -/
def searchPacket (s : State) (p : RingPacket) : RingPacket :=
  match bibPart s p.part.toNat with
  | none => p
  | some part =>
    match firstMatch (bibFg s.bib) part p.key with
    | some e =>
      if !p.hit || decide (trayPos s < p.pos.toNat) then
        sealPacket { p with hit := true, pos := s.sta.pos, addr := BitVec.ofNat 16 e.1, result := e.2.result }
      else p
    | none => p

/-- Queue a passing packet for the line. -/
def forwardPacket (s : State) (p : RingPacket) : State :=
  pumpRing { s with bib := { s.bib with hold := s.bib.hold ++ [(p, s.clk.now)] } }

/-- CASC_UP: the cascade serves lookups. -/
def cascUp (s : State) : Bool :=
  decide (2 ≤ cascadeSize s) && isMember s && !s.bib.deadMember && !s.bib.fencedMember && !bibHeld s

/-- The key of a baton (R280). -/
def batonKey (b : BatonId) : BitVec 128 := b.setWidth 128

/-- The partition that the plan gives BTN. -/
def btnPart (s : State) : Option Nat :=
  match bibSec s with
  | some b => b.parts.findIdx? fun p => p.userBtn
  | none => none

/-- A reset that reaches BIB (R291): queued batches and outstanding lookups complete with DISCARDED; both copies clear. -/
def bibReset (s : State) : State :=
  let s := s.bib.queue.foldl (fun s b => completeB s b.h 0x18 .discarded 0 (updateBody 0xFFFF)) s
  let end_ := fun (s : State) (q : BibReq × BitVec 16) =>
    match q.1.pull with
    | none => answerLookup s q.1.h q.2 (.discarded, none)
    | some x => completeB s q.1.h 0x03 .discarded 0 (batonWords x.1)
  let s := (s.bib.waits.map (fun w => (w.req, w.gen)) ++ s.bib.lookQ.map fun q => (q, s.bib.gen)).foldl end_ s
  { s with bib := Bib.reset }

end Sys2Proof.Machine
end

