-- ==== Sys2Proof/Machine/Bib.lean ====
section
/-! DEFINITION. Bib's host commands and engine events (10_bib_matcher.md). -/

namespace Sys2Proof.Machine

open Sys2Proof

/-- BIB_UPDATE: a batch of 1 to 256 records for one partition; a 17th batch is refused (R281). -/
def execBibUpdate (h : HostHdr) (part : BitVec 4) (records : List BibRecord) (s : State) : Res :=
  .next (hostCmd s h 0x18 false fun s =>
    let refuse := fun (i : Nat) => completeB s h 0x18 .refused 0 (updateBody i)
    match bibPart s part.toNat with
    | none => refuse 0xFFFF
    | some p =>
      if records.isEmpty || decide (256 < records.length) || bibHeld s
          || (if p.priv then h.func.val != 0 else !partMine h p) || decide (16 ≤ s.bib.queue.length) then refuse 0xFFFF
      else match records.findIdx? fun r => !recordOk part.toNat p r with
        | some i => refuse i
        | none => { s with bib := { s.bib with queue := s.bib.queue ++ [⟨h, part.toNat, records⟩] } })

/-- BIB_LOOKUP. A partition that serves BTN is BTN's (R275). -/
def execBibLookup (h : HostHdr) (part : Byte) (key : BitVec 128) (s : State) : Res :=
  .next (hostCmd s h 0x19 false fun s =>
    match bibPart s part.toNat with
    | none => answerLookup s h s.bib.gen (.refused, none)
    | some p =>
      if p.userBtn || bibHeld s || (!p.priv && !partMine h p) then answerLookup s h s.bib.gen (.refused, none)
      else match lookup s ⟨h, part.toNat, key, none⟩ with
        | (some r, s) => answerLookup s h s.bib.gen r
        | (none, s) => s)

/-- BIB_ENGINE_DONE: the batch and compaction are applied in the background copy, or its first failing record refuses it. -/
def execBibEngineDone (s : State) : Res :=
  .next (match s.bib.engine, s.bib.queue with
    | .running _, b :: _ =>
      match bibPart s b.part with
      | none => endBatch { s with bib := { s.bib with engine := .idle } } b .refused 0
      | some p =>
        match applyRecords p 0 (bibBg s.bib) b.records with
        | .ok t => { s with bib := setBg { s.bib with engine := .ready } (compact p t) }
        | .error i => endBatch { s with bib := { s.bib with engine := .idle } } b .refused i
    | _, _ => s)

/-- BIB_BATCH_LATE: the batch has run DEADLINE laps without finishing; it is abandoned (R285). -/
def execBibBatchLate (s : State) : Res :=
  .next (match s.bib.engine, s.bib.queue with
    | .running since, b :: _ =>
      if bibDeadline s ≤ (s.lap.count - since).toNat then
        raiseEvt (endBatch { s with bib := { s.bib with engine := .idle, late := true } } b .refused 0xFFFF) 4
      else s
    | _, _ => s)

/-- BIB_RING_HOLD_DROP: the passing packet held longest, for more than 2 us, is dropped (R288). -/
def execBibRingHoldDrop (s : State) : Res :=
  .next (dropHeld s)

end Sys2Proof.Machine
end

