-- ==== Sys2Proof/Machine/Fp.lean ====
section
/-! DEFINITION. Number formats, rounding and the vector unit's functions (03_arithmetic_and_formats.md, R57 to R62, R77,
R439). Values are exact; every rounded operation rounds once, to nearest with ties to even (R60). -/

namespace Sys2Proof.Machine

open Sys2Proof

/-- A decoded value: NaN, an infinity, or (-1)^neg * m * 2^e. -/
inductive Num where
  | nan
  | inf (neg : Bool)
  | fin (neg : Bool) (m : Nat) (e : Int)
deriving DecidableEq, Repr

/-- Arithmetic that collects the flags of CORE_ARITH_FLAGS (R87). -/
abbrev Fx := StateM (BitVec 5)

/-- Run a computation from given flags. -/
def runFx {α : Type} (x : Fx α) (fl : BitVec 5) : α × BitVec 5 := StateT.run x fl

def flagNanMade : BitVec 5 := 1
def flagInfMade : BitVec 5 := 2
def flagSatConv : BitVec 5 := 4
def flagNanLost : BitVec 5 := 8
def flagIntSat : BitVec 5 := 16

/-- Set a flag when the condition holds. -/
def raiseIf (c : Bool) (f : BitVec 5) : Fx Unit := fun fl => ((), if c then fl ||| f else fl)

/-- A floating-point layout (R57): mantissa bits, exponent bits, bias, infinities, and E4M3's single NaN. -/
structure FpSpec where
  mb : Nat
  eb : Nat
  bias : Nat
  hasInf : Bool
  nanTop : Bool

def spec32 : FpSpec := ⟨23, 8, 127, true, false⟩

/-- Layouts of R57; E8M0, integers and block formats have none. -/
def fmtSpec : Fmt → Option FpSpec
  | .e2m1 | .mxfp4 => some ⟨1, 2, 1, false, false⟩
  | .e2m3 => some ⟨3, 2, 1, false, false⟩
  | .e3m2 => some ⟨2, 3, 3, false, false⟩
  | .e4m3 | .mxfp8e4 | .cb3 => some ⟨3, 4, 7, false, true⟩
  | .e5m2 | .mxfp8e5 => some ⟨2, 5, 15, true, false⟩
  | .bf16 => some ⟨7, 8, 127, true, false⟩
  | .fp16 => some ⟨10, 5, 15, true, false⟩
  | .fp32 => some spec32
  | .int4 | .int8 | .int32 | .e8m0 => none

/-- Width of an integer format. -/
def fmtIntBits : Fmt → Option Nat
  | .int4 => some 4
  | .int8 => some 8
  | .int32 => some 32
  | _ => none

def FpSpec.maxExp (f : FpSpec) : Nat := 2 ^ f.eb - 1

/-- Decode a code (R57). -/
def FpSpec.decode (f : FpSpec) (c : Nat) : Num :=
  let m := c % 2 ^ f.mb
  let ex := c / 2 ^ f.mb % 2 ^ f.eb
  let neg := c / 2 ^ (f.mb + f.eb) % 2 == 1
  if ex = f.maxExp && f.hasInf then (if m = 0 then .inf neg else .nan)
  else if ex = f.maxExp && f.nanTop && m = 2 ^ f.mb - 1 then .nan
  else if ex = 0 then .fin neg m (1 - (f.bias : Int) - f.mb)
  else .fin neg (2 ^ f.mb + m) ((ex : Int) - f.bias - f.mb)

/-- Two's complement value of an integer code. -/
def intDecode (bits : Nat) (c : Nat) : Int :=
  let v := c % 2 ^ bits
  if v < 2 ^ (bits - 1) then v else (v : Int) - 2 ^ bits

def Num.ofInt (i : Int) : Num := .fin (decide (i < 0)) i.natAbs 0

/-- Decode a single value of any format (R57). -/
def fmtDecode (f : Fmt) (c : Word) : Num :=
  match fmtSpec f with
  | some s => s.decode c.toNat
  | none =>
    match fmtIntBits f with
    | some b => Num.ofInt (intDecode b c.toNat)
    | none => if c.toNat % 256 = 255 then .nan else .fin false 1 ((c.toNat % 256 : Nat) - 127)

/-- Multiply a fraction by a power of two. -/
def scaleFrac (n d : Nat) (e : Int) : Nat × Nat :=
  if 0 ≤ e then (n * 2 ^ e.toNat, d) else (n, d * 2 ^ (-e).toNat)

/-- floor(log2(n / d)) of a positive fraction. -/
def fracLog2 (n d : Nat) : Int :=
  let l : Int := (n.log2 : Int) - d.log2
  let (a, b) := scaleFrac n d (-l)
  if a < b then l - 1 else l

/-- n / d rounded to an integer, ties to even (R60). -/
def roundHalfEven (n d : Nat) : Nat :=
  let q := n / d
  let r := n % d
  if 2 * r < d then q else if d < 2 * r then q + 1 else q + q % 2

/-- A positive fraction rounded at the format's precision, with an unbounded exponent above (R60): k * 2^q. -/
def roundFrac (f : FpSpec) (n d : Nat) : Nat × Int :=
  let q := max (fracLog2 n d - f.mb) (1 - (f.bias : Int) - f.mb)
  let (a, b) := scaleFrac n d (-q)
  let k := roundHalfEven a b
  if k = 2 ^ (f.mb + 1) then (2 ^ f.mb, q + 1) else (k, q)

/-- The largest finite magnitude's exponent field and mantissa. -/
def FpSpec.maxCode (f : FpSpec) : Nat :=
  if f.hasInf then (f.maxExp - 1) * 2 ^ f.mb + (2 ^ f.mb - 1)
  else if f.nanTop then f.maxExp * 2 ^ f.mb + (2 ^ f.mb - 2)
  else f.maxExp * 2 ^ f.mb + (2 ^ f.mb - 1)

def FpSpec.signBit (f : FpSpec) (neg : Bool) : Nat := if neg then 2 ^ (f.mb + f.eb) else 0
def FpSpec.infCode (f : FpSpec) : Nat := f.maxExp * 2 ^ f.mb
/-- The canonical NaN (R58): the highest mantissa bit where the format has infinities, every bit in the FP8 formats. -/
def FpSpec.nanCode (f : FpSpec) : Nat :=
  if f.hasInf && decide (2 < f.mb) then f.maxExp * 2 ^ f.mb + 2 ^ (f.mb - 1) else f.maxExp * 2 ^ f.mb + (2 ^ f.mb - 1)

/-- Magnitude code of k * 2^q from `roundFrac`; at or above `maxCode` + 1 it has overflowed. -/
def FpSpec.magCode (f : FpSpec) (k : Nat) (q : Int) : Nat :=
  if k < 2 ^ f.mb then k else (q + f.mb + f.bias).toNat * 2 ^ f.mb + (k - 2 ^ f.mb)

/-- Round a signed positive fraction into a format that overflows to infinity or saturates, after R62. -/
def FpSpec.encodeFrac (f : FpSpec) (sat : Bool) (neg : Bool) (n d : Nat) : Fx Word := do
  if n = 0 then pure (BitVec.ofNat 32 (f.signBit neg))
  else
    let (k, q) := roundFrac f n d
    let c := f.magCode k q
    if c ≤ f.maxCode then pure (BitVec.ofNat 32 (f.signBit neg + c))
    else if f.hasInf && !sat then do
      raiseIf true flagInfMade
      pure (BitVec.ofNat 32 (f.signBit neg + f.infCode))
    else do
      raiseIf true flagSatConv
      pure (BitVec.ofNat 32 (f.signBit neg + f.maxCode))

/-- Conversion of any value into a floating-point format (R62). -/
def FpSpec.encode (f : FpSpec) (sat : Bool) : Num → Fx Word
  | .nan => do
    if f.hasInf || f.nanTop then pure (BitVec.ofNat 32 f.nanCode)
    else
      raiseIf true flagNanLost
      pure 0
  | .inf neg => do
    if f.hasInf && !sat then pure (BitVec.ofNat 32 (f.signBit neg + f.infCode))
    else
      raiseIf true flagSatConv
      pure (BitVec.ofNat 32 (f.signBit neg + f.maxCode))
  | .fin neg m e => let (n, d) := scaleFrac m 1 e; f.encodeFrac sat neg n d

/-- Conversion into an integer format: round, then saturate (R60, R62). -/
def intEncode (bits : Nat) : Num → Fx Word
  | .nan => do raiseIf true flagNanLost; pure 0
  | .inf neg => do
    raiseIf true flagSatConv
    pure (BitVec.ofInt 32 (if neg then -(2 ^ (bits - 1) : Int) else 2 ^ (bits - 1) - 1))
  | .fin neg m e => do
    let (n, d) := scaleFrac m 1 e
    let k : Int := roundHalfEven n d
    let v : Int := if neg then -k else k
    let hi : Int := 2 ^ (bits - 1) - 1
    let lo : Int := -(2 ^ (bits - 1) : Int)
    raiseIf (decide (hi < v) || decide (v < lo)) flagSatConv
    pure (BitVec.ofInt 32 (max lo (min hi v)))

/-- E8M0 code of |n / d| under the rule of R439, with its clamp. -/
def e8m0Code (n d : Nat) : Fx Word := do
  let c := fracLog2 n d + 127
  raiseIf (decide (c < 0) || decide (254 < c)) flagSatConv
  pure (BitVec.ofNat 32 (max 0 (min 254 c)).toNat)

/-- Conversion of a value into any single-value format (R62, R439); integer results keep their format's bits only. -/
def Num.convert (dst : Fmt) (sat : Bool) (x : Num) : Fx Word :=
  match fmtSpec dst with
  | some s =>
    -- R61, R62: SAT governs only formats with an infinity other than FP32
    s.encode (sat && dst != .fp32) x
  | none =>
    match fmtIntBits dst with
    | some b => do let w ← intEncode b x; pure (BitVec.ofNat 32 (w.toNat % 2 ^ b))
    | none =>
      match x with
      | .nan => pure 0xFF
      | .inf _ => do raiseIf true flagSatConv; pure 0xFE
      | .fin _ m e => if m = 0 then pure 0 else (let (n, d) := scaleFrac m 1 e; e8m0Code n d)

def dec32 (x : F32) : Num := spec32.decode x.toNat
def nan32 : F32 := 0x7FC00000
def enc32 (x : Num) : Fx F32 := spec32.encode false x
def Num.isNan : Num → Bool
  | .nan => true
  | _ => false
def isNan32 (x : F32) : Bool := (dec32 x).isNan
def neg32 (x : F32) : F32 := x ^^^ 0x80000000
def Num.sgn : Num → Bool
  | .nan => false
  | .inf n => n
  | .fin n _ _ => n

/-- Exact product; none where 0 times infinity or a NaN makes NaN. -/
def Num.mul : Num → Num → Num
  | .nan, _ => .nan
  | _, .nan => .nan
  | .inf a, .inf b => .inf (a != b)
  | .inf a, .fin b m _ => if m = 0 then .nan else .inf (a != b)
  | .fin a m _, .inf b => if m = 0 then .nan else .inf (a != b)
  | .fin a m e, .fin b n f => .fin (a != b) (m * n) (e + f)

/-- Exact sum of finite values as an integer at the lower exponent. -/
def addFin (a : Bool) (m : Nat) (e : Int) (b : Bool) (n : Nat) (f : Int) : Int × Int :=
  let q := min e f
  let x : Int := m * 2 ^ (e - q).toNat
  let y : Int := n * 2 ^ (f - q).toNat
  ((if a then -x else x) + (if b then -y else y), q)

/-- Exact sum (R59: an exact zero of unlike signs is +0; of like signs keeps the sign). -/
def Num.add : Num → Num → Num
  | .nan, _ => .nan
  | _, .nan => .nan
  | .inf a, .inf b => if a = b then .inf a else .nan
  | .inf a, .fin _ _ _ => .inf a
  | .fin _ _ _, .inf b => .inf b
  | .fin a m e, .fin b n f =>
    let (s, q) := addFin a m e b n f
    if s = 0 then .fin (a && b) 0 q else .fin (decide (s < 0)) s.natAbs q

/-- Round an exact result to FP32, with NAN_MADE when operands were not NaN (R62, R87). -/
def finish32 (anyNan : Bool) (x : Num) : Fx F32 := do
  raiseIf (x.isNan && !anyNan) flagNanMade
  enc32 x

def add32 (a b : F32) : Fx F32 := finish32 (isNan32 a || isNan32 b) ((dec32 a).add (dec32 b))
def sub32 (a b : F32) : Fx F32 := add32 a (neg32 b)
def mul32 (a b : F32) : Fx F32 := finish32 (isNan32 a || isNan32 b) ((dec32 a).mul (dec32 b))

/-- An FP32 value is an infinity. -/
def isInf32 (x : F32) : Bool := x.toNat % 2 ^ 31 == 0x7F800000

/-- The result of vector-unit function `fn` where the exact mathematical result of R77 does not exist: a free value (log 59), any
NaN canonical (R58), with the flags that R87 gives for what it is. -/
def openResult (fn : Nat) (a b : F32) : Fx F32 := do
  let v := Config.noResult fn a b
  raiseIf (isNan32 v) flagNanMade
  raiseIf (isInf32 v && !isInf32 a && !isInf32 b) flagInfMade
  pure (if isNan32 v then nan32 else v)

/-- Numbers by which `Config.noResult` and `Config.undecided` name a function. -/
def fnDiv : Nat := 5
def fnSqrt : Nat := 6
def fnRsqrt : Nat := 7

/-- Correctly rounded quotient (R77); none exists for a zero divisor or two infinities. -/
def div32 (a b : F32) : Fx F32 := do
  match dec32 a, dec32 b with
  | .nan, _ => pure nan32
  | _, .nan => pure nan32
  | .inf _, .inf _ => openResult fnDiv a b
  | .inf x, y => enc32 (.inf (x != y.sgn))
  | x, .inf y => enc32 (.fin (x.sgn != y) 0 0)
  | .fin s m e, .fin t n f =>
    if n = 0 then openResult fnDiv a b
    else
      let (p, q) := scaleFrac m n (e - f)
      spec32.encodeFrac false (s != t) p q

/-- Order of FP32 values as integers; equal for the two zeros. None for NaN. -/
def key32 (x : F32) : Option Int :=
  if isNan32 x then none
  else
    let m : Int := (x.toNat % 2 ^ 31 : Nat)
    some (if x.toNat < 2 ^ 31 then m else -m)

def lt32 (a b : F32) : Bool :=
  match key32 a, key32 b with
  | some x, some y => decide (x < y)
  | _, _ => false
def le32 (a b : F32) : Bool :=
  match key32 a, key32 b with
  | some x, some y => decide (x ≤ y)
  | _, _ => false
def isZero32 (x : F32) : Bool := x.toNat % 2 ^ 31 == 0

/-- R77: NaN if either is NaN; +0 above -0. -/
def max32 (a b : F32) : F32 :=
  if isNan32 a || isNan32 b then nan32
  else if isZero32 a && isZero32 b then a &&& b
  else if lt32 a b then b else a
def min32 (a b : F32) : F32 :=
  if isNan32 a || isNan32 b then nan32
  else if isZero32 a && isZero32 b then a ||| b
  else if lt32 b a then b else a

/-- A positive fraction whose square root is rounded with a sticky bit: exact rounding (R77). -/
def sqrtFrac (n d : Nat) : Nat × Nat :=
  let t := 256
  let v := n * 2 ^ (2 * t) / d
  let s := v.sqrt
  let inexact := decide (s * s ≠ v) || decide (n * 2 ^ (2 * t) % d ≠ 0)
  (2 * s + (if inexact then 1 else 0), 2 ^ (t + 1))

/-- Square root (R77); the root of -0 is a zero whose sign is free, and a negative number has none (log 59). -/
def sqrt32 (a : F32) : Fx F32 := do
  match dec32 a with
  | .nan => pure nan32
  | .inf neg => if neg then openResult fnSqrt a a else enc32 (.inf false)
  | .fin neg m e =>
    if m = 0 then pure (if neg then Config.noResult fnSqrt a a &&& 0x80000000 else 0)
    else if neg then openResult fnSqrt a a
    else
      let (n, d) := scaleFrac m 1 e
      let (p, q) := sqrtFrac n d
      spec32.encodeFrac false false p q

/-- Reciprocal square root (R77); a zero and a negative number have none (log 59). -/
def rsqrt32 (a : F32) : Fx F32 := do
  match dec32 a with
  | .nan => pure nan32
  | .inf neg => if neg then openResult fnRsqrt a a else enc32 (.fin false 0 0)
  | .fin neg m e =>
    if m = 0 || neg then openResult fnRsqrt a a
    else
      let (n, d) := scaleFrac m 1 e
      let (p, q) := sqrtFrac d n
      spec32.encodeFrac false false p q

/-! ### e^x, 2^x, ln x, log2 x, tanh x: fixed point with 256 fraction bits, an interval of width 2^-199 around the value,
and one rounding. Where both ends do not round alike the result is `Config.undecided` (log 12). -/

def fixBits : Nat := 256
def fixOne : Nat := 2 ^ fixBits
/-- floor(ln 2 * 2^256). -/
def ln2Fix : Nat := 80260960185991308862233904206310070533990667611589946606122867505419956976171

/-- e^r for a fixed-point r below 1: the series' terms by recursion. -/
def expSeries (r : Nat) : Nat → Nat → Nat → Nat
  | 0, _, _ => 0
  | fuel + 1, k, term => term + expSeries r fuel (k + 1) (term * r / fixOne / k)

/-- atanh z for a fixed-point z: z + z^3/3 + ... -/
def atanhSeries (z2 : Nat) : Nat → Nat → Nat → Nat
  | 0, _, _ => 0
  | fuel + 1, k, p => p / k + atanhSeries z2 fuel (k + 2) (p * z2 / fixOne)

/-- Round the interval [v - err, v + err], given as v * 2^sh / 2^256, to FP32; `undecided` where the ends differ. -/
def roundInterval (fn : Nat) (arg : F32) (neg : Bool) (v err : Nat) (sh : Int) : Fx F32 := do
  let (n1, d1) := scaleFrac (v - err) fixOne sh
  let (n2, d2) := scaleFrac (v + err) fixOne sh
  let a := (spec32.encodeFrac false neg n1 d1).run 0
  let b := (spec32.encodeFrac false neg n2 d2).run 0
  raiseIf (b.2 &&& flagInfMade != 0) flagInfMade
  pure (if a.1 = b.1 then a.1 else Config.undecided fn arg)

/-- A value as fixed point: floor(x * 2^256) as an integer. -/
def fixOf (neg : Bool) (m : Nat) (e : Int) : Int :=
  let (n, d) := scaleFrac (m * fixOne) 1 e
  if neg then -(n / d : Nat) else (n / d : Nat)

/-- e^x for a fixed-point x: significand v in [1, 2) and power of two. -/
def expFix (x : Int) : Nat × Int :=
  let k := x / (ln2Fix : Int)
  let r := (x - k * ln2Fix).toNat
  (expSeries r 80 1 fixOne, k)

def errFix : Nat := 2 ^ 56

def exp32 (a : F32) : Fx F32 := do
  match dec32 a with
  | .nan => pure nan32
  | .inf neg => if neg then enc32 (.fin false 0 0) else enc32 (.inf false)
  | .fin neg m e =>
    if m = 0 then pure 0x3F800000
    else if fracLog2 (scaleFrac m 1 e).1 (scaleFrac m 1 e).2 ≥ 8 then
      if neg then pure 0 else do raiseIf true flagInfMade; enc32 (.inf false)
    else
      let (v, k) := expFix (fixOf neg m e)
      roundInterval 0 a false v errFix k

def exp2_32 (a : F32) : Fx F32 := do
  match dec32 a with
  | .nan => pure nan32
  | .inf neg => if neg then enc32 (.fin false 0 0) else enc32 (.inf false)
  | .fin neg m e =>
    let (n, d) := scaleFrac m 1 e
    if m = 0 then pure 0x3F800000
    else if fracLog2 n d ≥ 9 then
      if neg then pure 0 else do raiseIf true flagInfMade; enc32 (.inf false)
    else if n % d = 0 then enc32 (.fin false 1 (if neg then -(n / d : Nat) else (n / d : Nat)))
    else
      let x := fixOf neg m e
      let k := x / (fixOne : Int)
      let f := (x - k * fixOne).toNat
      let v := expSeries (f * ln2Fix / fixOne) 80 1 fixOne
      roundInterval 1 a false v errFix k

/-- ln of a positive m * 2^e in fixed point. -/
def lnFix (m : Nat) (e : Int) : Int :=
  let l := m.log2
  let y := m * fixOne / 2 ^ l
  let z := (y - fixOne) * fixOne / (y + fixOne)
  2 * (atanhSeries (z * z / fixOne) 90 1 z : Int) + (e + l) * ln2Fix

/-- Logarithm shell: `scale` turns ln into the wanted base. R77 gives the nearest FP32 value; zero and the negative numbers have
no logarithm (log 59). -/
def logShell (fn : Nat) (a : F32) (scale : Int → Int) : Fx F32 := do
  match dec32 a with
  | .nan => pure nan32
  | .inf neg => if neg then openResult fn a a else enc32 (.inf false)
  | .fin neg m e =>
    if m = 0 || neg then openResult fn a a
    else if m = 2 ^ m.log2 && e + m.log2 = 0 then pure 0
    else
      let v := scale (lnFix m e)
      roundInterval fn a (decide (v < 0)) v.natAbs errFix 0

def log32 (a : F32) : Fx F32 := logShell 2 a id
def log2_32 (a : F32) : Fx F32 := do
  match dec32 a with
  | .fin false m e =>
    if m ≠ 0 && m = 2 ^ m.log2 then enc32 (Num.ofInt (e + m.log2))
    else logShell 3 a fun v => v * fixOne / ln2Fix
  | _ => logShell 3 a id

def tanh32 (a : F32) : Fx F32 := do
  match dec32 a with
  | .nan => pure nan32
  | .inf neg => enc32 (.fin neg 1 0)
  | .fin neg m e =>
    let (n, d) := scaleFrac m 1 e
    if m = 0 then pure a
    else if fracLog2 n d ≥ 5 then enc32 (.fin neg 1 0)
    else if fracLog2 n d < -40 then pure a
    else
      let (v, k) := expFix (fixOf false m (e + 1))
      let w := v * 2 ^ k.toNat
      roundInterval 4 a neg ((w - fixOne) * fixOne / (w + fixOne)) errFix 0

/-- A vector-unit operation on one pair of operands (R77). -/
def vecApply (f : VecFn) (a b : F32) : Fx F32 :=
  match f with
  | .add => add32 a b
  | .sub => sub32 a b
  | .mul => mul32 a b
  | .div => div32 a b
  | .recip => div32 0x3F800000 a
  | .sqrt => sqrt32 a
  | .rsqrt => rsqrt32 a
  | .exp => exp32 a
  | .exp2 => exp2_32 a
  | .log => log32 a
  | .log2 => log2_32 a
  | .tanh => tanh32 a
  | .max => pure (max32 a b)
  | .min => pure (min32 a b)

end Sys2Proof.Machine
end

