-- ==== Sys2Proof/Machine/Data.lean ====
section
/-! DEFINITION. Matrix unit, vector reductions, block formats, attention, CB3 sealing, low-rank keys and heat scores
(03_arithmetic_and_formats.md and 05_kv_pages_and_heat_retrieval.md). -/

namespace Sys2Proof.Machine

open Sys2Proof

/-- Run a rounding computation on every element, in order. -/
def mapFx {α β : Type} (f : α → Fx β) : List α → Fx (List β)
  | [] => pure []
  | x :: xs => do
    let y ← f x
    let ys ← mapFx f xs
    pure (y :: ys)

/-- Combine from the left. -/
def foldFx {α β : Type} (f : β → α → Fx β) (b : β) : List α → Fx β
  | [] => pure b
  | x :: xs => do
    let c ← f b x
    foldFx f c xs

/-- The binary tree of R73 over 2^d places; none is an absent place. -/
def tree (op : F32 → F32 → Fx F32) : Nat → List (Option F32) → Fx (Option F32)
  | 0, xs => pure (xs.headD none)
  | d + 1, xs => do
    let lo ← tree op d (xs.take (2 ^ d))
    let hi ← tree op d (xs.drop (2 ^ d))
    match lo, hi with
    | none, h => pure h
    | l, none => pure l
    | some l, some h => do
      let r ← op l h
      pure (some r)

/-- Any NaN becomes the canonical one (R58). -/
def canon32 (x : F32) : F32 := if isNan32 x then nan32 else x

/-- Consecutive groups of n places. -/
def groupsOf {α : Type} (n : Nat) : Nat → List α → List (List α)
  | 0, _ => []
  | fuel + 1, xs => if xs.isEmpty then [] else xs.take n :: groupsOf n fuel (xs.drop n)

/-- The 96-bit code field of a CB3 block as a number (R66). -/
def bytesLe (bs : List Byte) : Nat := bs.foldr (fun b acc => b.toNat + 256 * acc) 0

/-- Little-endian bytes of a number. -/
def leBytes : Nat → Nat → List Byte
  | 0, _ => []
  | n + 1, v => BitVec.ofNat 8 v :: leBytes n (v / 256)

/-! ### Stored forms (R57, R64 to R66) -/

/-- Bits of a single value (R57). -/
def fmtBits : Fmt → Nat
  | .int4 | .e2m1 | .mxfp4 => 4
  | .e2m3 | .e3m2 => 6
  | .int8 | .e4m3 | .e5m2 | .mxfp8e4 | .mxfp8e5 | .cb3 | .e8m0 => 8
  | .bf16 | .fp16 => 16
  | .fp32 | .int32 => 32

/-- Element codes of single values in memory: 4-bit values two to a byte, the even one in the low bits as in R64, 6-bit values one
to a byte, wider values little-endian (log 60). -/
def unpackElems (f : Fmt) (bs : List Byte) : List Word :=
  if fmtBits f = 4 then bs.flatMap fun b => [BitVec.ofNat 32 (b.toNat % 16), BitVec.ofNat 32 (b.toNat / 16)]
  else
    let w := (fmtBits f + 7) / 8
    (groupsOf w bs.length bs).map fun g => BitVec.ofNat 32 (bytesLe g)

def packElems (f : Fmt) (xs : List Word) : List Byte :=
  if fmtBits f = 4 then
    (groupsOf 2 xs.length xs).map fun p => BitVec.ofNat 8 ((p.getD 0 0).toNat % 16 + 16 * ((p.getD 1 0).toNat % 16))
  else xs.flatMap fun w => leBytes ((fmtBits f + 7) / 8) w.toNat

/-- Elements of a CB3 block as E4M3 codes (R66). -/
def cb3Codes (block : List Byte) : List Byte :=
  let f := bytesLe (block.drop 8)
  (List.range 32).map fun e => block.getD (f / 2 ^ (3 * e) % 8) 0

/-- An operand along its reduction dimension, unpacked: element codes, and one E8M0 scale per group of 32 where the format is MX.
CB3 codes are expanded to E4M3 (R66). -/
structure MatRow where
  fmt : Fmt
  codes : List Word
  scales : List Byte
deriving DecidableEq, Repr

/-- Unpack the stored bytes of an operand: MX blocks of 17 or 33 bytes (R64), CB3 blocks of 20 (R66), or single values, which have
scale 2^0 in every group (R65). -/
def loadRow (f : Fmt) (bs : List Byte) : MatRow :=
  match f with
  | .mxfp4 =>
    let gs := groupsOf 17 bs.length bs
    ⟨f, gs.flatMap fun g => unpackElems f g.tail, gs.map fun g => g.headD 0⟩
  | .mxfp8e4 | .mxfp8e5 =>
    let gs := groupsOf 33 bs.length bs
    ⟨f, gs.flatMap fun g => unpackElems f g.tail, gs.map fun g => g.headD 0⟩
  | .cb3 => ⟨f, (groupsOf 20 bs.length bs).flatMap fun g => (cb3Codes g).map fun b => b.setWidth 32, []⟩
  | _ => ⟨f, unpackElems f bs, []⟩

/-! ### Matrix unit -/

/-- Operand classes of R68, as MACs width: 4, 8, 16 or 32. -/
def fmtClass : Fmt → Nat
  | .int4 | .e2m1 | .mxfp4 | .cb3 => 4
  | .int8 | .e2m3 | .e3m2 | .e4m3 | .e5m2 | .mxfp8e4 | .mxfp8e5 | .e8m0 => 8
  | .bf16 | .fp16 => 16
  | .fp32 | .int32 => 32

/-- Integer operands pair with integer operands only (R68). -/
def fmtIsInt : Fmt → Bool
  | .int4 | .int8 | .int32 => true
  | _ => false

/-- An element; a scale of 0xFF makes the whole group NaN (R65). -/
def matGet (v : MatRow) (k : Nat) : Num :=
  if (v.scales.getD (k / 32) 0x7F) = 0xFF then .nan else fmtDecode v.fmt (v.codes.getD k 0)

/-- The group's scale exponent. -/
def matScale (v : MatRow) (g : Nat) : Int := ((v.scales.getD g 0x7F).toNat : Int) - 127

def matLen (v : MatRow) : Nat := v.codes.length

/-- Indices lo, lo + 1, ..., below both lo + n and hi. -/
def spanBelow (lo n hi : Nat) : List Nat := (List.range (min n (hi - lo))).map (lo + ·)

def Num.isInf : Num → Bool
  | .inf _ => true
  | _ => false

/-- group_sum(g) of R73 for 4-bit and 8-bit classes: exact, then scaled exactly, then rounded once. -/
def groupExact (a b : MatRow) (K g : Nat) : Fx F32 := do
  let ks := spanBelow (32 * g) 32 K
  let prods := ks.map fun k => (matGet a k).mul (matGet b k)
  let opNan := ks.any fun k => (matGet a k).isNan || (matGet b k).isNan
  let s := prods.foldl Num.add (.fin false 0 0)
  match s with
  | .nan => do
    raiseIf (!opNan) flagNanMade
    pure nan32
  | .inf n => enc32 (.inf n)
  | .fin n m e => if m = 0 then pure 0 else enc32 (.fin n m (e + matScale a g + matScale b g))

/-- group_sum(g) of R73 for 16-bit and 32-bit classes: each product rounded once with its scales, then the tree. -/
def groupRounded (a b : MatRow) (K g : Nat) : Fx F32 := do
  let ps ← mapFx (fun k => do
    let x := matGet a k
    let y := matGet b k
    let p := match x.mul y with
      | .fin n m e => Num.fin n m (e + matScale a g + matScale b g)
      | o => o
    finish32 (x.isNan || y.isNan) p) (spanBelow (32 * g) 32 K)
  let r ← tree add32 5 (ps.map some)
  pure (r.getD 0)

def groupSum (a b : MatRow) (K g : Nat) : Fx F32 :=
  if fmtClass a.fmt ≤ 8 && fmtClass b.fmt ≤ 8 then groupExact a b K g else groupRounded a b K g

/-- chunk_sum(c) of R73: eight groups; groups past K are absent. -/
def chunkSum (a b : MatRow) (K c : Nat) : Fx F32 := do
  let gs ← mapFx (groupSum a b K) (spanBelow (8 * c) 8 ((K + 31) / 32))
  let r ← tree add32 3 (gs.map some)
  pure (r.getD 0)

/-- part(lo, hi) of R73. -/
def partSum (a b : MatRow) (K lo hi : Nat) : Fx F32 := do
  let first ← chunkSum a b K (lo / 256)
  foldFx (fun acc c => do
    let x ← chunkSum a b K c
    add32 acc x) first (spanBelow (lo / 256 + 1) (hi / 256 + 1) ((hi + 255) / 256))

/-- The parts of a split after the first, in ascending index (R74). -/
def partsFrom (a b : MatRow) (K : Nat) (acc : F32) (lo : Nat) : List Nat → Fx F32
  | [] => pure acc
  | hi :: rest => do
    let p ← partSum a b K lo hi
    let acc' ← add32 acc p
    partsFrom a b K acc' hi rest

/-- A floating-point matrix output before conversion (R73): reduction length K, interior boundaries of SPLIT_K. -/
def matrixF32 (a b : MatRow) (K : Nat) (bounds : List Nat) (bias : Option F32) : Fx F32 := do
  let res ← match bounds ++ [K] with
    | [] => pure 0
    | d :: ds => do
      let p ← partSum a b K 0 d
      partsFrom a b K p d ds
  match bias with
  | some x => add32 res x
  | none => pure res

def intProducts (a b : MatRow) (K : Nat) : Int :=
  (List.range K).foldl (fun acc k =>
    acc + intDecode ((fmtIntBits a.fmt).getD 8) (a.codes.getD k 0).toNat
      * intDecode ((fmtIntBits b.fmt).getD 8) (b.codes.getD k 0).toNat) 0

/-- An integer matrix output: exact, saturated to INT32 on write-out (R75). -/
def matrixInt (a b : MatRow) (K : Nat) : Fx Word := do
  let v := intProducts a b K
  raiseIf (decide (2 ^ 31 ≤ v) || decide (v < -(2 ^ 31))) flagIntSat
  pure (BitVec.ofInt 32 (max (-(2 ^ 31)) (min (2 ^ 31 - 1) v)))

/-! ### Vector reductions -/

def redOp : RedFn → F32 → F32 → Fx F32
  | .sum, a, b => add32 a b
  | .sumsq, a, b => add32 a b
  | .max, a, b => pure (max32 a b)
  | .min, a, b => pure (min32 a b)

/-- A vector reduction (R78). -/
def vecReduce (f : RedFn) (xs : List F32) : Fx F32 := do
  let ys ← if f = .sumsq then mapFx (fun x => mul32 x x) xs else pure xs
  let gs ← mapFx (fun g => tree (redOp f) 5 (g.map some)) (groupsOf 32 ys.length ys)
  match gs.filterMap id with
  | [] => pure (match f with
    | .sum | .sumsq => 0
    | .max => 0xFF800000
    | .min => 0x7F800000)
  | g :: rest => do
    let r ← foldFx (redOp f) g rest
    pure (canon32 r)

/-! ### Microscaling and CB3 blocks -/

def mxEmax : Fmt → Nat
  | .e2m1 | .mxfp4 => 2
  | .e5m2 | .mxfp8e5 => 15
  | _ => 8

/-- Magnitude of a finite value as a fraction; none where it is not finite. -/
def finMag (x : F32) : Option (Nat × Nat) :=
  match dec32 x with
  | .fin _ m e => some (scaleFrac m 1 e)
  | _ => none

/-- The bit pattern with the sign cleared; patterns order as magnitudes do. -/
def magBits (x : F32) : Nat := x.toNat % 2 ^ 31

/-- Quantisation of 32 values into an MX block (R63): the scale, then the element codes. -/
def mxQuantise (dst : Fmt) (sat : Bool) (xs : List F32) : Fx (Byte × List Word) := do
  if xs.any isNan32 then pure (0xFF, xs.map fun _ => 0)
  else
    let fins := xs.filter fun x => (finMag x).isSome
    let amax := fins.foldl (fun acc x => max acc (magBits x)) 0
    let E : Nat :=
      if amax = 0 then 0
      else match finMag (BitVec.ofNat 32 amax) with
        | some (n, d) => (max 0 (min 254 (fracLog2 n d - mxEmax dst + 127))).toNat
        | none => 0
    let codes ← mapFx (fun x => Num.convert dst sat (match dec32 x with
      | .fin s m e => .fin s m (e - ((E : Int) - 127))
      | o => o)) xs
    pure (BitVec.ofNat 8 E, codes)

/-- A block in memory (R64): the scale byte, then the elements, two to a byte in the 4-bit format. -/
def mxPack (dst : Fmt) (b : Byte × List Word) : List Byte := b.1 :: packElems dst b.2

/-- FP32 values in the stored form of an output format (R62, R63): MX formats by blocks of 32. -/
def storeF32 (out : Fmt) (sat : Bool) (xs : List F32) : Fx (List Byte) :=
  match out with
  | .mxfp4 | .mxfp8e4 | .mxfp8e5 => do
    let bs ← mapFx (fun g => do
      let q ← mxQuantise out sat g
      pure (mxPack out q)) (groupsOf 32 xs.length xs)
    pure bs.flatten
  | .fp32 => pure (packElems .fp32 xs)
  | _ => do
    let ws ← mapFx (fun x => Num.convert out sat (dec32 x)) xs
    pure (packElems out ws)

/-- One row of outputs of the matrix unit, in the stored form of the output format (R70): INT32 of integer operands, FP32 where
an operand is FP32, else FP32 or converted. -/
def matrixRow (a : MatRow) (cols : List (MatRow × Option F32)) (K : Nat) (bounds : List Nat) (out : Fmt) (sat : Bool) :
    Fx (List Byte) := do
  if fmtIsInt a.fmt then
    let ws ← mapFx (fun c => matrixInt a c.1 K) cols
    pure (packElems .int32 ws)
  else
    let xs ← mapFx (fun c => matrixF32 a c.1 K bounds c.2) cols
    storeF32 (if fmtClass a.fmt = 32 || cols.any (fun c => fmtClass c.1.fmt = 32) then .fp32 else out) sat xs

/-- A value widened to FP32; exact for every format of R59 but INT32, which rounds. -/
def widen (f : Fmt) (w : Word) : F32 := ((enc32 (fmtDecode f w)).run 0).1

/-- Elements of an unpacked operand as exact FP32 values (R59, R65). -/
def rowF32 (v : MatRow) : List F32 :=
  (List.range v.codes.length).map fun k =>
    match matGet v k with
    | .fin s m e => ((enc32 (.fin s m (e + matScale v (k / 32)))).run 0).1
    | o => ((enc32 o).run 0).1

/-- Elements of MXFP8 E4M3 blocks decoded exactly (R65). -/
def mx8Decode (bs : List Byte) : List F32 := rowF32 (loadRow .mxfp8e4 bs)

/-- |x - c| for the nearest centroid of R128, as a bit pattern; a NaN difference lies past every number. -/
def dist32 (x c : F32) : Fx Nat := do
  let d ← sub32 x c
  pure (magBits d)

/-- The least distance's centroid, lowest v on a tie (R128). -/
def nearest (x : F32) (cs : List F32) : Fx Nat := do
  let ds ← mapFx (dist32 x) cs
  let best := ds.foldl min (2 ^ 32)
  pure (ds.findIdx (· == best))

/-- Stable insertion in ascending value order; equal values keep their order (R128). -/
def insert32 (x : F32) : List F32 → List F32
  | [] => [x]
  | y :: ys => if lt32 y x || (!lt32 x y) then y :: insert32 x ys else x :: y :: ys

def sort32 (xs : List F32) : List F32 := xs.foldl (fun acc x => insert32 x acc) []

/-- One assignment and update round of R128. -/
def cb3Round (xs cs : List F32) : Fx (List F32) := do
  let as ← mapFx (fun x => nearest x cs) xs
  mapFx (fun v => do
    let mem := (xs.zip as).map fun p => if p.2 = v then some p.1 else none
    let n := (mem.filter Option.isSome).length
    if n = 0 then pure (cs.getD v 0)
    else
      let t ← tree add32 5 mem
      let nn ← enc32 (Num.ofInt n)
      div32 (t.getD 0) nn) (List.range 8)

/-- The CB3 block of a group of 32 elements (R128, R66). -/
def cb3Seal (xs : List F32) : Fx (List Byte) := do
  if xs.any isNan32 then pure (List.replicate 8 0x7F ++ List.replicate 12 0)
  else
    let s := sort32 xs
    let c0 ← mapFx (fun v => do
      let t ← add32 (s.getD (4 * v + 1) 0) (s.getD (4 * v + 2) 0)
      mul32 t 0x3F000000) (List.range 8)
    let c1 ← cb3Round xs c0
    let c2 ← cb3Round xs c1
    let c3 ← cb3Round xs c2
    let c4 ← cb3Round xs c3
    let cq ← mapFx (fun c => Num.convert .e4m3 false (dec32 c)) c4
    let codes ← mapFx (fun x => nearest x (cq.map (widen .e4m3))) xs
    let f := codes.foldr (fun c acc => c + 8 * acc) 0
    pure (cq.map (fun w => BitVec.ofNat 8 w.toNat) ++ leBytes 12 f)

/-! ### Low-rank keys -/

/-- Coefficients of a key (R129): vector-unit sums of mul32(k[j], basis[i][j]), rounded to BF16. -/
def lrCoefs (sat : Bool) (key : List F32) (basis : List (List F32)) : Fx (List Word) :=
  mapFx (fun row => do
    let ps ← mapFx (fun p => mul32 p.1 p.2) (key.zip row)
    let t ← vecReduce .sum ps
    Num.convert .bf16 sat (dec32 t)) basis

/-- Key element j of the expander (R80), as an E4M3 code. -/
def lrElement (r : Nat) (coef : List F32) (basis : List (List F32)) (j : Nat) : Fx Word := do
  let ts ← mapFx (fun h => do
    let ps ← mapFx (fun e => mul32 (coef.getD (16 * h + e) 0) ((basis.getD (16 * h + e) []).getD j 0)) (List.range 16)
    let t ← tree add32 4 (ps.map some)
    pure (t.getD 0)) (List.range (r / 16))
  let acc ← foldFx add32 (ts.headD 0) ts.tail
  Num.convert .e4m3 false (dec32 acc)

/-- All elements of a key of R80. -/
def lrKey (r : Nat) (coef : List F32) (basis : List (List F32)) : Fx (List Word) :=
  mapFx (lrElement r coef basis) (List.range ((basis.headD []).length))

/-! ### Attention -/

/-- The state (m, l, o) of R83. -/
structure AttnState where
  m : F32
  l : F32
  o : List F32
deriving DecidableEq, Repr

/-- mul32 and add32 over lists of elements. -/
def axpy (o : List F32) (a : F32) (ob : List F32) : Fx (List F32) :=
  mapFx (fun p => do
    let x ← mul32 p.1 a
    add32 x p.2) (o.zip ob)

/-- A value rounded to BF16 (R83, R135). -/
def toBf16 (sat : Bool) (x : F32) : Fx F32 := do
  let w ← Num.convert .bf16 sat (dec32 x)
  pure (widen .bf16 w)

/-- One block of R83 on the running state of its segment. -/
def attnBlock (q : MatRow) (sat : Bool) (scale : F32) (st : Option AttnState) (blk : List (Option (MatRow × List F32))) :
    Fx (Option AttnState) := do
  let scores ← mapFx (fun place => match place with
    | none => pure none
    | some kv => do
      let d ← matrixF32 q kv.1 (matLen q) [] none
      let x ← mul32 d scale
      pure (some x)) blk
  match scores.filterMap id with
  | [] => pure st
  | s0 :: ss =>
    let mb := canon32 (ss.foldl max32 s0)
    let mn := match st with
      | none => mb
      | some t => max32 t.m mb
    let pts ← mapFx (fun s => match s with
      | none => pure none
      | some x => do
        let d ← add32 x (neg32 mn)
        let e ← exp32 d
        pure (some e)) scores
    let lb ← tree add32 4 pts
    let hd := (blk.filterMap id).foldl (fun n kv => max n kv.2.length) 0
    let ob ← mapFx (fun j => do
      let terms ← mapFx (fun pv => match pv with
        | (some p, some kv) => do
          let pb ← toBf16 sat p
          let x ← mul32 pb (kv.2.getD j 0)
          pure (some x)
        | _ => pure none) (pts.zip blk)
      let t ← tree add32 4 terms
      pure (t.getD 0)) (List.range hd)
    match st with
    | none => pure (some ⟨mn, lb.getD 0, ob⟩)
    | some t => do
      let d ← add32 t.m (neg32 mn)
      let a ← exp32 d
      let la ← mul32 t.l a
      let l ← add32 la (lb.getD 0)
      let o ← axpy t.o a ob
      pure (some ⟨mn, l, o⟩)

/-- merge of R84. -/
def attnMerge (x y : AttnState) : Fx AttnState := do
  let mn := max32 x.m y.m
  let d1 ← add32 x.m (neg32 mn)
  let a ← exp32 d1
  let d2 ← add32 y.m (neg32 mn)
  let b ← exp32 d2
  let l1 ← mul32 x.l a
  let l2 ← mul32 y.l b
  let l ← add32 l1 l2
  let o ← mapFx (fun p => do
    let u ← mul32 p.1 a
    let v ← mul32 p.2 b
    add32 u v) (x.o.zip y.o)
  pure ⟨mn, l, o⟩

/-- A query head's output over its attention list (R82 to R84), in the stored form of the activation format. -/
def attend (q : MatRow) (scale : F32) (segBlocks : Nat) (blocks : List (List (Option (MatRow × List F32))))
    (out : Fmt) (sat : Bool) : Fx (List Byte) := do
  let states ← mapFx (foldFx (attnBlock q sat scale) none) (groupsOf (max 1 segBlocks) blocks.length blocks)
  match states.filterMap id with
  | [] => pure []
  | s0 :: ss => do
    let t ← foldFx attnMerge s0 ss
    let o ← mapFx (fun x => div32 x t.l) t.o
    storeF32 out sat o

/-! ### Heat -/

/-- u[h] of R136: bounds are E4M3 codes. -/
def heatHead (probe : List F32) (kmax kmin : List Byte) : Fx F32 := do
  let xs ← mapFx (fun p => do
    let a ← mul32 p.1 (widen .e4m3 (p.2.1.setWidth 32))
    let b ← mul32 p.1 (widen .e4m3 (p.2.2.setWidth 32))
    pure (max32 a b)) (probe.zip (kmax.zip kmin))
  vecReduce .sum xs

/-- The score of a record against a probe (R136). -/
def heatScore (probe : List (List F32)) (kmax kmin : List (List Byte)) : Fx F32 := do
  let us ← mapFx (fun p => heatHead p.1 p.2.1 p.2.2) (probe.zip (kmax.zip kmin))
  match us with
  | [] => pure 0
  | u :: rest => pure (canon32 (rest.foldl max32 u))

/-- Element-wise bound of E4M3 codes under max or min (R133, R134). -/
def boundCodes (f : F32 → F32 → F32) (xs ys : List Byte) : List Byte :=
  (xs.zip ys).map fun p =>
    BitVec.ofNat 8 (((Num.convert .e4m3 false (dec32 (f (widen .e4m3 (p.1.setWidth 32))
      (widen .e4m3 (p.2.setWidth 32))))).run 0).1).toNat

/-- Element-wise bound over the keys of a page (R133). -/
def boundKeys (f : F32 → F32 → F32) : List (List Byte) → List Byte
  | [] => []
  | k :: ks => ks.foldl (boundCodes f) k

/-- A number that ranks scores: NaN below every other (R136). -/
def rankScore (x : F32) : Option Int := key32 x

def betterScore (a b : F32) : Bool :=
  match rankScore a, rankScore b with
  | some x, some y => decide (y < x)
  | some _, none => true
  | none, _ => false

/-- Insert by score descending, higher number first on equal score (R137). -/
def insertScored (p : F32 × Nat) : List (F32 × Nat) → List (F32 × Nat)
  | [] => [p]
  | q :: qs =>
    if betterScore p.1 q.1 || (!betterScore q.1 p.1 && decide (q.2 < p.2)) then p :: q :: qs
    else q :: insertScored p qs

def rankAll (xs : List (F32 × Nat)) : List (F32 × Nat) := xs.foldl (fun acc p => insertScored p acc) []

/-- The probe of a KV head (R135): queries in ascending head, added one after another, rounded to BF16. -/
def probeOf (sat : Bool) (queries : List (List F32)) : Fx (List F32) := do
  match queries with
  | [] => pure []
  | q :: qs => do
    let s ← foldFx (fun acc x => mapFx (fun p => add32 p.1 p.2) (acc.zip x)) q qs
    mapFx (toBf16 sat) s

end Sys2Proof.Machine
end

