-- ==== Sys2Proof/Machine/Judge.lean ====
section
/-! DEFINITION. Judge's draw, the count table and Steeple patterns (06_judge_steeple_streams.md, R148 to R158). -/

namespace Sys2Proof.Machine

open Sys2Proof

/-! ### Sampler settings and patterns: the checks of a submission -/

/-- lo ≤ x ≤ hi for FP32 patterns; false for NaN. -/
def in32 (lo x hi : F32) : Bool := le32 lo x && le32 x hi

/-- The ranges of R148. -/
def samplerOk (s : Sampler) : Bool :=
  (isZero32 s.temp || in32 0x3B800000 s.temp 0x43800000)
  && decide (1 ≤ s.topK.toNat) && decide (s.topK.toNat ≤ 1024)
  && lt32 0 s.topP && le32 s.topP 0x3F800000
  && (isZero32 s.minP || (lt32 0 s.minP && lt32 s.minP 0x3F800000))
  && in32 0x3F800000 s.rep 0x41800000
  && in32 0xC1800000 s.freq 0x41800000
  && in32 0xC1800000 s.pres 0x41800000
  && decide (s.track.toNat ≤ 1) && s.rsvClear

/-- LO, HI and CLASS of a range entry (R154). -/
def rangeLo (r : BitVec 64) : Nat := r.toNat % 2 ^ 18
def rangeHi (r : BitVec 64) : Nat := r.toNat / 2 ^ 18 % 2 ^ 18
def rangeClass (r : BitVec 64) : Nat := r.toNat / 2 ^ 36 % 16
def rangeRsv (r : BitVec 64) : Nat := r.toNat / 2 ^ 40

/-- The refusals of R154 for a pattern of a submission to a model of VOCAB tokens. -/
def patternOk (vocab : Nat) (p : Pattern) : Bool :=
  decide (1 ≤ p.nstates.toNat) && decide (1 ≤ p.nranges.toNat) && decide (p.nranges.toNat ≤ 64)
  && decide (p.len = 40 + 8 * p.nranges.toNat + 16 * p.nstates.toNat)
  && decide (p.ranges.length = p.nranges.toNat) && decide (p.next.length = 16 * p.nstates.toNat)
  && p.flags != 0 && decide (p.flags.toNat < 4) && p.state == 0 && p.rsvClear
  && p.ranges.all (fun r => decide (rangeLo r ≤ rangeHi r) && decide (rangeHi r < vocab) && decide (rangeRsv r = 0))
  && p.next.all (fun b => decide (b.toNat < p.nstates.toNat) || b == 0xFF)
  && decide (p.accept.toNat < 2 ^ p.nstates.toNat)

def patStop (p : Pattern) : Bool := p.flags.toNat % 2 == 1
def patMask (p : Pattern) : Bool := p.flags.toNat / 2 % 2 == 1

/-- Class of a token: the first range that holds it, else 15 (R156). -/
def classOf (p : Pattern) (v : Nat) : Nat :=
  match p.ranges.find? (fun r => decide (rangeLo r ≤ v) && decide (v ≤ rangeHi r)) with
  | some r => rangeClass r
  | none => 15

/-- NEXT[STATE][class of v]; the dead state stays dead (R156). -/
def patNext (p : Pattern) (v : Nat) : Byte :=
  if p.state = 0xFF then 0xFF else p.next.getD (16 * p.state.toNat + classOf p v) 0xFF

def patStep (v : Nat) (p : Pattern) : Pattern := { p with state := patNext p v }

/-- The pattern is in an accepting state. -/
def patAccepts (p : Pattern) : Bool := p.state != 0xFF && p.accept.getLsbD p.state.toNat

/-- R157. -/
def forbidden (ps : List Pattern) (v : Nat) : Bool := ps.any fun p => patMask p && patNext p v == 0xFF

/-- The lowest-numbered STOP pattern that accepts after a step (R158). -/
def stopMatch (ps : List Pattern) : Option Nat :=
  (ps.zipIdx.find? fun q => patStop q.1 && patAccepts q.1).map (·.2)

/-- Live states of a request's patterns (R155). -/
def patStates (ps : List Pattern) : Nat := ps.foldl (fun n p => n + p.nstates.toNat) 0

/-! ### Count table (R149) -/

abbrev CountTable := List (BitVec 18 × BitVec 14)

/-- Increment the entry of a token that is in the table; COUNT saturates at 16,383. -/
def bumpCount (v : BitVec 18) (t : CountTable) : CountTable :=
  t.map fun e => if e.1 = v then (e.1, if e.2 = 0x3FFF then e.2 else e.2 + 1) else e

/-- Count one occurrence: the table, and whether the occurrence was not tracked. -/
def countToken (v : BitVec 18) (t : CountTable) : CountTable × Bool :=
  if t.any (fun e => e.1 == v) then (bumpCount v t, false)
  else if t.length < 4096 then (t ++ [(v, 1)], false)
  else (t, true)

/-- Count tokens in position order; the number not tracked. -/
def countTokens (vs : List (BitVec 18)) (t : CountTable) : CountTable × Nat :=
  vs.foldl (fun acc v =>
    let r := countToken v acc.1
    (r.1, acc.2 + (if r.2 then 1 else 0))) (t, 0)

/-! ### The generator (R153) -/

def mix64 (z0 : BitVec 64) : BitVec 64 :=
  let z1 := (z0 ^^^ (z0 >>> 30)) * 0xBF58476D1CE4E5B9
  let z2 := (z1 ^^^ (z1 >>> 27)) * 0x94D049BB133111EB
  z2 ^^^ (z2 >>> 31)

/-- 24 bits from the key SEED and the counter n. -/
def drawBits (seed : BitVec 64) (n : Nat) : Nat :=
  let z := mix64 (seed ^^^ 0x5851F42D4C957F2D)
  (mix64 (z + BitVec.ofNat 64 n * 0x9E3779B97F4A7C15) >>> 40).toNat

/-! ### The pipeline (R150) -/

/-- Insert by value descending, lower token ID first on equal values. -/
def insertRank (p : Nat × F32) : List (Nat × F32) → List (Nat × F32)
  | [] => [p]
  | q :: qs =>
    if lt32 q.2 p.2 || (!lt32 p.2 q.2 && decide (p.1 < q.1)) then p :: q :: qs else q :: insertRank p qs

/-- Rank order. -/
def ranked (xs : List (Nat × F32)) : List (Nat × F32) := xs.foldl (fun acc p => insertRank p acc) []

def negInf32 : F32 := 0xFF800000
def posInf32 : F32 := 0x7F800000

/-- Stage 2 for one entry of the count table. -/
def penalise (st : Sampler) (c : BitVec 14) (x : F32) : Fx F32 := do
  let y ← if lt32 0 x then div32 x st.rep else mul32 x st.rep
  let cc ← enc32 (Num.ofInt (c.toNat : Int))
  let fc ← mul32 st.freq cc
  let d ← add32 fc st.pres
  sub32 y d

/-- Stage 2. -/
def penalties (st : Sampler) (counts : CountTable) (xs : List (Nat × F32)) : Fx (List (Nat × F32)) :=
  foldFx (fun acc e => mapFx (fun p =>
    if p.1 = e.1.toNat then do
      let y ← penalise st e.2 p.2
      pure (p.1, y)
    else pure p) acc) xs counts

/-- Stage 5: how many ranked candidates the cumulative probability keeps. -/
def topPKeep (topP : F32) : F32 → Nat → List F32 → Fx Nat
  | _, n, [] => pure n
  | cum, n, p :: ps => do
    let c ← add32 cum p
    if le32 topP c then pure (n + 1) else topPKeep topP c (n + 1) ps

/-- Stage 7: the first candidate whose running weight exceeds u. -/
def drawFrom (u : F32) : F32 → List (Nat × F32) → Nat → Fx Nat
  | _, [], last => pure last
  | w, (v, e) :: rest, _ => do
    let w' ← add32 w e
    if lt32 u w' then pure v else drawFrom u w' rest v

/-- Sum of the candidates' weights as stage 7 forms it. -/
def weightSum : List F32 → Fx F32
  | [] => pure 0
  | e :: es => foldFx add32 e es

/-- Stages 4 to 7 on ranked candidates after temperature. -/
def drawRanked (st : Sampler) (n : Nat) (r : List (Nat × F32)) : Fx Nat := do
  let top := r.headD (0, 0)
  if top.2 = posInf32 then pure top.1
  else
    let es ← mapFx (fun p => do
      let d ← sub32 p.2 top.2
      exp32 d) r
    let z ← vecReduce .sum es
    let ps ← mapFx (fun e => div32 e z) es
    let keep ← topPKeep st.topP 0 0 ps
    let tau ← mul32 st.minP (ps.headD 0)
    let cand := (r.zip (es.zip ps)).take keep
    let s := cand.take 1 ++ (cand.drop 1).filter (fun q => le32 tau q.2.2)
    let w ← weightSum (s.map fun q => q.2.1)
    let bits ← enc32 (.fin false (drawBits st.seed n) (-24))
    let u ← mul32 w bits
    match s with
    | [] => pure top.1
    | q :: rest =>
      if lt32 u q.2.1 then pure q.1.1
      else drawFrom u q.2.1 (rest.map fun x => (x.1.1, x.2.1)) q.1.1

/-- Logits that are NaN (JDG_NAN_CNT). -/
def nanLogits (logits : List F32) : Nat := (logits.filter isNan32).length

/-- sample of R150; none is no_candidate. -/
def sampleToken (st : Sampler) (counts : CountTable) (pats : List Pattern) (n : Nat) (logits : List F32) :
    Option (BitVec 18) :=
  let present := logits.zipIdx.filterMap fun p =>
    if isNan32 p.1 || forbidden pats p.2 then none else some (p.2, p.1)
  let pen := (runFx (penalties st counts present) 0).1
  let live := pen.filter fun p => !isNan32 p.2 && p.2 != negInf32
  if live.isEmpty then none
  else if isZero32 st.temp then (ranked live).head?.map fun p => BitVec.ofNat 18 p.1
  else
    let cooled := (runFx (mapFx (fun p => do
      let y ← div32 p.2 st.temp
      pure (p.1, y)) live) 0).1
    let left := cooled.filter fun p => p.2 != negInf32
    if left.isEmpty then none
    else
      let r := (ranked left).take st.topK.toNat
      some (BitVec.ofNat 18 (runFx (drawRanked st n r) 0).1)

end Sys2Proof.Machine
end

