-- ==== Sys2Proof/Machine/Sram.lean ====
section
/-! DEFINITION. Operand SRAM: banks and words of a core address, the bytes of a lane position's core, operands and results
(02_structure_and_hierarchies.md R37; 03_arithmetic_and_formats.md R64 to R66). -/

namespace Sys2Proof.Machine

open Sys2Proof

/-- Bytes of one core's operand SRAM, and of one of its sixteen banks (R37, R38). -/
def sramBytes : Nat := 655360
def bankBytes : Nat := 40960

/-- The bank of the byte at core address A, and its word there (R37). -/
def sramBank (a : Nat) : Nat := a / 64 % 16
def sramWord (a : Nat) : Nat := a / 1024

/-- The byte at core address A within the core's banks, bank after bank. -/
def sramPlace (a : Nat) : Nat := sramBank a * bankBytes + sramWord a * 64 + a % 64

/-- Number of the core in a position of a lane: 74 cores per die, the lanes of a die three by three (R34). -/
def coreNo (s : State) (n : LaneNo) (pos : Nat) : Nat :=
  74 * (n.val / 3) + (vgetD (laneOf s n).cores pos ⟨false, 0⟩).core.toNat

/-- Key of a core's byte in `Mems.sram`. -/
def sramKey (core a : Nat) : Nat := core * sramBytes + sramPlace a

def sramRead (s : State) (n : LaneNo) (pos a len : Nat) : List Byte :=
  (List.range len).map fun i => memRead s.mem.sram (sramKey (coreNo s n pos) (a + i))

/-- Store bytes from a core address on; nothing past the core's SRAM. -/
def sramWrite (s : State) (n : LaneNo) (pos a : Nat) (bs : List Byte) : State :=
  let c := coreNo s n pos
  let m := (bs.take (sramBytes - a)).zipIdx.foldl (fun m p => memWrite m (sramKey c (a + p.2)) p.1) s.mem.sram
  { s with mem := { s.mem with sram := m } }

/-- The bytes of one core, keyed from 0, and the memory without them. -/
def coreImage (m : Mem) (core : Nat) : Mem :=
  (m.filter fun c => decide (core * sramBytes ≤ c.1) && decide (c.1 < (core + 1) * sramBytes)).map fun c =>
    (c.1 - core * sramBytes, c.2)

def clearCore (m : Mem) (core : Nat) : Mem :=
  m.filter fun c => !(decide (core * sramBytes ≤ c.1) && decide (c.1 < (core + 1) * sramBytes))

/-- Put an image in the place of a core's bytes. -/
def putCore (m : Mem) (core : Nat) (img : Mem) : Mem :=
  img.foldl (fun m c => memWrite m (core * sramBytes + c.1) c.2) (clearCore m core)

/-- The SRAM of a lane's 24 positions as one image, position after position (R107). -/
def laneSram (s : State) (n : LaneNo) : Mem :=
  (List.range 24).foldl (fun m i => putCore m i (coreImage s.mem.sram (coreNo s n i))) []

def setLaneSram (s : State) (n : LaneNo) (img : Mem) : State :=
  let m := (List.range 24).foldl (fun m i => putCore m (coreNo s n i) (coreImage img i)) s.mem.sram
  { s with mem := { s.mem with sram := m } }

/-- The stored bytes of an operand. -/
def srcBytes (s : State) (n : LaneNo) : Src → List Byte
  | .given bs => bs
  | .sram pos a len => sramRead s n pos.val a len

/-- An operand unpacked, and its elements as exact FP32 values. -/
def opndRow (s : State) (n : LaneNo) (x : Opnd) : MatRow := loadRow x.fmt (srcBytes s n x.src)

def opndF32 (s : State) (n : LaneNo) (x : Opnd) : List F32 := rowF32 (opndRow s n x)

/-- A result into the SRAM of a core. -/
def putDst (s : State) (n : LaneNo) (d : Dst) (bs : List Byte) : State := sramWrite s n d.pos.val d.addr bs

/-- Run a rounding computation; the conditions it meets go to the lane's CORE_ARITH_FLAGS (R87). -/
def withFlags {α : Type} (s : State) (n : LaneNo) (x : Fx α) : α × State :=
  let q := runFx x 0
  (q.1, raiseArith s n q.2)

/-- A result with its flags. -/
def putFx (s : State) (n : LaneNo) (d : Dst) (x : Fx (List Byte)) : State :=
  let q := withFlags s n x
  putDst q.2 n d q.1

/-! ### Profiles -/

/-- Format codes of R440. -/
def fmtOfCode (c : Byte) : Fmt :=
  match c.toNat with
  | 0x01 => .int4
  | 0x02 => .int8
  | 0x03 => .e2m1
  | 0x04 => .e2m3
  | 0x05 => .e3m2
  | 0x06 => .e4m3
  | 0x07 => .e5m2
  | 0x08 => .bf16
  | 0x09 => .fp16
  | 0x0B => .int32
  | 0x0C => .mxfp4
  | 0x0D => .mxfp8e4
  | 0x0E => .mxfp8e5
  | 0x0F => .cb3
  | _ => .fp32

/-- ARITH_MODE.SAT (R61). -/
def modelSat (m : ModelSec) : Bool := m.arithMode.getLsbD 0

/-- The model that a lane holds under a MODEL index. -/
def laneModel (s : State) (n : LaneNo) (ix : Nat) : Option ModelSec :=
  match vgetD (laneOf s n).models ix none with
  | some k => modelOf s k
  | none => none

/-- Matrix operation record `op` of a kernel (R440). -/
def kernelOp (m : ModelSec) (kernel : BitVec 16) (op : Nat) : Option KernelOp :=
  (m.ops.filter fun o => o.kernel == kernel)[op]?

end Sys2Proof.Machine
end

