-- ==== Sys2Proof/Machine/Kv.lean ====
section
/-! DEFINITION. KV pages: geometry, page slots, attention lists, reclaim by age, the needs of a lap, the lap's end and images in
memory (02_structure_and_hierarchies.md R40 to R48, 05_kv_pages_and_heat_retrieval.md R116 to R144). -/

namespace Sys2Proof.Machine

open Sys2Proof

/-! ### Geometry (R116 to R122, R134, R135) -/

/-- KINDs of page map entries (R178). -/
def kPage : BitVec 2 := 0
def kRecords : BitVec 2 := 1
def kRunRec : BitVec 2 := 2
def kProbe : BitVec 2 := 3
def pOpen : BitVec 2 := 0
def pSealed : BitVec 2 := 1
def pFar : BitVec 2 := 2

def ceilDiv (a b : Nat) : Nat := (a + b - 1) / b

/-- nb, HEAD_DIM / 32. -/
def mNb (m : ModelSec) : Nat := m.headDim.toNat / 32
def mHeads (m : ModelSec) : Nat := m.kvHeads.toNat
def mRank (m : ModelSec) : Nat := m.lrRank.toNat
def mLayers (m : ModelSec) : Nat := m.layers.toNat

def openKeyBytes (m : ModelSec) : Nat := 33 * mNb m
def sealKeyBytes (m : ModelSec) : Nat := if mRank m = 0 then 20 * mNb m else 2 * mRank m

/-- Bytes of the open and of the sealed image (R119). -/
def openImage (m : ModelSec) : Nat := 128 * mHeads m * (66 * mNb m)
def sealedImage (m : ModelSec) : Nat := 128 * mHeads m * (sealKeyBytes m + 20 * mNb m)

/-- 64 + 2 * H * HEAD_DIM, one heat record (R133). -/
def heatRecBytes (m : ModelSec) : Nat := 64 + 2 * mHeads m * m.headDim.toNat

/-- Page slots of a run's records (R134), and of the probe record (R135). -/
def recordSlots (m : ModelSec) (S : Nat) : Nat := ceilDiv (64 * heatRecBytes m) S
def probeBytes (m : ModelSec) : Nat := mLayers m * mHeads m * m.headDim.toNat * 2
def probeSlots (m : ModelSec) (S : Nat) : Nat := ceilDiv (probeBytes m) S

/-- Page-slot size S of a lane in bytes. -/
def slotBytes (l : Lane) : Nat := l.kv.slotSize.toNat * 4096

/-- Start of the KV area: past the control area and the weight area (R41). -/
def kvBase (l : Lane) : Nat :=
  536870912 + (match l.sec with | some x => x.weight2m.toNat * 2097152 | none => 0)

def slotAddr (l : Lane) (k : Nat) : Nat := kvBase l + k * slotBytes l

/-- Bytes of an item's image (R192): `piece` matters for the probe record only. -/
def itemBytes (m : ModelSec) (S : Nat) (kind state : BitVec 2) (piece : Nat) : Nat :=
  if kind = kPage then (if state = pOpen then openImage m else sealedImage m)
  else if kind = kRecords then 64 * heatRecBytes m
  else if kind = kRunRec then heatRecBytes m
  else min S (probeBytes m - piece * S)

/-- The eight index entries of a page (R122), from its state and the positions committed in it. -/
def indexEntries (m : ModelSec) (sealed : Bool) (filled : Nat) : List (BitVec 64) :=
  let kb := if sealed then sealKeyBytes m else openKeyBytes m
  let vb := if sealed then 20 * mNb m else 33 * mNb m
  (List.range 8).map fun b =>
    let koff := b * 16 * mHeads m * (kb + vb)
    let voff := koff + 16 * mHeads m * kb
    let kform := if !sealed then 0 else if mRank m = 0 then 1 else 2
    BitVec.ofNat 64 (at_ (koff / 4) 44 + at_ (voff / 4) 24 + at_ (min 16 (filled - 16 * b)) 19 + at_ kform 17
      + at_ (ofB sealed) 16)

/-! ### Pages of a request -/

def isPage (kind : BitVec 2) (layer index : Nat) (e : PageEnt) : Bool :=
  e.kind == kind && decide (e.layer.toNat = layer) && decide (e.index.toNat = index)

def findPage (r : Req) (kind : BitVec 2) (layer index : Nat) : Option PageEnt := r.pages.find? (isPage kind layer index)

def modPage (r : Req) (kind : BitVec 2) (layer index : Nat) (f : PageEnt → PageEnt) : Req :=
  { r with pages := r.pages.map fun e => if isPage kind layer index e then f e else e }

/-- Entries run by KIND, then LAYER, then INDEX (R178). -/
def pageKey (e : PageEnt) : Nat := e.kind.toNat * 2 ^ 26 + e.layer.toNat * 2 ^ 16 + e.index.toNat

def insertPage (e : PageEnt) : List PageEnt → List PageEnt
  | [] => [e]
  | x :: xs => if pageKey e < pageKey x then e :: x :: xs else x :: insertPage e xs

def addPage (r : Req) (e : PageEnt) : Req := { r with pages := insertPage e r.pages }

/-- A page map entry with LOC zero (R178, R192). -/
def mapEntry (kind state : BitVec 2) (copy : Bool) (layer : BitVec 10) (index : BitVec 16) : BitVec 64 :=
  BitVec.ofNat 64 (at_ kind.toNat 62 + at_ state.toNat 60 + at_ (ofB copy) 59 + at_ layer.toNat 48 + at_ index.toNat 32)

def newPage (kind state : BitVec 2) (layer index : Nat) (slots : List Nat) (lap : BitVec 48) (lapNew : Bool) : PageEnt :=
  { kind, state, copy := false, layer := BitVec.ofNat 10 layer, index := BitVec.ofNat 16 index, slots, lastUse := lap,
    filled := 0, lapNew, sealSlot := none, wrote := 0, sealedNow := false, tierAddr := 0, off := 0, hdr := [], index_ := [] }

/-- The append of a place has run, in this lap or in one that committed. -/
def placeWritten (e : PageEnt) (p : Nat) : Bool := decide (p < e.filled) || e.wrote.getLsbD p

/-! ### Slots (R45, R143) -/

/-- A cache lane: every item lies packed in page slots (R193). -/
def isCache (l : Lane) : Bool := l.role == 3

/-- Page slots an entry occupies; outside a cache lane a run record lies in a run cell, not in a slot. -/
def entSlots (cache : Bool) (e : PageEnt) : List Nat :=
  (if e.kind = kRunRec && !cache then [] else e.slots) ++ e.sealSlot.toList

/-- Flags of a lane's KV region (R42): bit 0 NEAR, 1 FAR, 2 COPY. -/
def kvFlag (l : Lane) (i : Nat) : Bool := match l.sec with | some x => x.kvFlags.getLsbD i | none => false

/-- Shared-pool page slots in use that are charged to a tenant, across the device (R45). -/
def tenantCharge (s : State) (t : Tenant) : Nat :=
  (laneNos.map fun n => (laneOf s n).kv.owner.countP fun e => e.2 == t.toNat).sum

def tenantCeiling (s : State) (t : Tenant) : Nat :=
  match tenantRec s t with
  | some r => r.ceiling.toNat
  | none => 0

def belowCeiling (s : State) (t : Tenant) : Bool := decide (tenantCharge s t < tenantCeiling s t)

/-- Return a slot to the free list it came from; a shared slot is charged to nobody. -/
def freeSlot (s : State) (n : LaneNo) (k : Nat) : State :=
  modLane s n fun l =>
    if k < l.kv.reserveSize then { l with kv := { l.kv with reserveFree := insertNat k l.kv.reserveFree } }
    else { l with kv := { l.kv with sharedFree := insertNat k l.kv.sharedFree, owner := tblErase l.kv.owner k } }

def freeSlots (s : State) (n : LaneNo) (ks : List Nat) : State := ks.foldl (fun s k => freeSlot s n k) s

/-- A run cell returns to the heat area; a retired lane's registers keep their last values (R145). -/
def freeCell (s : State) (n : LaneNo) (k : Nat) : State :=
  modLane s n fun l => if l.ctl = .retired then l else { l with kv := { l.kv with runFree := insertNat k l.kv.runFree } }

/-- Free what an entry occupies in a lane. -/
def freeEnt (s : State) (n : LaneNo) (e : PageEnt) : State :=
  let cache := isCache (laneOf s n)
  let s := freeSlots s n (entSlots cache e)
  if e.kind = kRunRec && !cache then e.slots.foldl (fun s k => freeCell s n k) s else s

/-! ### Attention lists (R130) -/

def windowPages (m : ModelSec) : Nat := m.windowTokens.toNat / 128

/-- Candidates of the step at position t: sealed pages outside the window. -/
def candCount (m : ModelSec) (t : Nat) : Nat := t / 128 - windowPages m

/-- The step at position t needs a selection. -/
def needsSel (m : ModelSec) (t : Nat) : Bool := m.retrieve != 0 && decide (m.topk.toNat < candCount m t)

/-- Page numbers that a query at position t attends over in one layer, in ascending token position (R82, R130). -/
def attnPages (m : ModelSec) (generation : Bool) (sel : List Nat) (t : Nat) : List Nat :=
  (List.range (t / 128 + 1)).filter fun p =>
    !(generation && needsSel m t) || sel.contains p || decide (candCount m t ≤ p)

def selOf (sel : List (Nat × List Nat)) (layer : Nat) : List Nat :=
  match sel.find? fun e => e.1 == layer with
  | some e => e.2
  | none => []

/-- A position runs as a generation step exactly where its token was drawn, ORIGIN 0b01; positions of the prompt and of extensions
are prompt work (R130, R207; log 61). -/
def genAt (r : Req) (t : Nat) : Bool :=
  match r.log[t]? with
  | some w => w.extractLsb' 18 2 == 1
  | none => false

/-- Positions whose KV an extension of m tokens appends. -/
def extPositions (r : Req) (m : Nat) : Nat := r.log.length + m - 1 - r.done

/-- Positions that a request's work of the lap runs: a prompt chunk, an extension, or one generation step. A replay takes
positions (R207). -/
def workLen (r : Req) : Nat :=
  if r.take = 0 then 1 else if r.phase = .prompt || r.replay then r.take else extPositions r r.take

/-- Listed pages (layer, page) of a request's next n positions. -/
def listedFor (m : ModelSec) (r : Req) (n : Nat) : List (Nat × Nat) :=
  (List.range (mLayers m)).flatMap fun l =>
    ((List.range ((r.done + n - 1) / 128 + 1)).filter fun p =>
      (List.range n).any fun i => (attnPages m (genAt r (r.done + i)) (selOf r.sel l) (r.done + i)).contains p).map fun p => (l, p)

/-- Listed pages of a request's work of the lap. -/
def listedPages (m : ModelSec) (r : Req) : List (Nat × Nat) := listedFor m r (workLen r)

/-- FAR pages of the next step's list. -/
def farListed (m : ModelSec) (r : Req) : List PageEnt :=
  r.pages.filter fun e => e.kind == kPage && e.state == pFar && (listedPages m r).contains (e.layer.toNat, e.index.toNat)

/-- The step at the next position waits for a selection. -/
def selMissing (m : ModelSec) (r : Req) : Bool := genAt r r.done && needsSel m r.done && !r.listed

/-- The step's attention list is fixed and every page of it is in HBM (R139). -/
def pagesInPlace (m : ModelSec) (r : Req) : Bool := !selMissing m r && (farListed m r).isEmpty

/-! ### Reclaim by age (R46, R47) -/

/-- A baton has an open leg here that moves its share; a FETCH leg moves one page only, and an audit's leg moves nothing of it. -/
def inLeg (s : State) (b : BatonId) : Bool := s.btn.legs.any fun g => g.type != 7 && !g.replay && g.batons.contains b

/-- A slot of the current lap is scheduled to read the page: its request is a member of the lane's batch, or has prompt
work in the lap, and lists the page. -/
def scheduled (s : State) (r : Req) (e : PageEnt) : Bool :=
  match r.lane, modelOf s r.model with
  | some n, some m =>
    let l := laneOf s n
    ((l.st.batch.any fun x => x.1 == r.id) || r.take != 0)
      && (e.kind != kPage || (listedPages m r).contains (e.layer.toNat, e.index.toNat))
  | _, _ => false

/-- What reclaim by age can take: an item of a baton, or a page of a region. -/
inductive Victim where
  | item (b : BatonId) (e : PageEnt)
  | region (key : Nat) (p : RegPage)
deriving DecidableEq, Repr

/-- Eligible items of a lane's batons for a requesting tenant: lowest slot, last use, item. In a cache lane parked content of every
kind whose SPILL has committed is eligible (R201). -/
def eligibleItems (s : State) (n : LaneNo) (t : Tenant) (below : Bool) : List (Nat × Nat × Victim) :=
  s.reqs.flatMap fun r =>
    if r.lane = some n && !inLeg s r.id && (batonTenant r.id = t || below) then
      r.pages.filterMap fun e =>
        match e.slots with
        | [] => none
        | k :: _ =>
          if e.state = pSealed && e.copy && (e.kind == kPage || isCache (laneOf s n))
              && (e.slots.all fun k => decide ((laneOf s n).kv.reserveSize ≤ k)) && !scheduled s r e then
            some (k, e.lastUse.toNat, .item r.id e)
          else none
    else []

/-- Eligible pages of regions that keep a copy (R42). -/
def eligibleRegions (s : State) (n : LaneNo) (t : Tenant) (below : Bool) : List (Nat × Nat × Victim) :=
  s.te.regions.flatMap fun g =>
    if g.2.tenant = t || below then
      g.2.near.filterMap fun p =>
        if p.lane = n && p.copied && decide ((laneOf s n).kv.reserveSize ≤ p.slot) then
          some (p.slot, p.lastUse.toNat, .region g.1 p) else none
    else []

def eligible (s : State) (n : LaneNo) (t : Tenant) : List (Nat × Nat × Victim) :=
  eligibleItems s n t (belowCeiling s t) ++ eligibleRegions s n t (belowCeiling s t)

/-- The candidate with the lowest last use, the lower slot on a tie. -/
def oldest : List (Nat × Nat × Victim) → Option (Nat × Nat × Victim)
  | [] => none
  | x :: xs =>
    match oldest xs with
    | none => some x
    | some y => if x.2.1 < y.2.1 || (x.2.1 = y.2.1 && decide (x.1 < y.1)) then some x else some y

/-- Slots of a baton's other items: packed items share slots (R193). -/
def stillUsed (s : State) (n : LaneNo) (b : BatonId) : List Nat :=
  match findReq s b with
  | some r => r.pages.flatMap (entSlots (isCache (laneOf s n)))
  | none => []

def countReclaim (s : State) (n : LaneNo) : State :=
  modLane s n fun l => { l with kv := { l.kv with reclaimCnt := satInc l.kv.reclaimCnt } }

/-- Reclaim one page: its map entry points at the capacity-tier copy; the slots that nothing else uses go to the free list. -/
def reclaim (s : State) (n : LaneNo) (t : Tenant) : Option State :=
  match oldest (eligible s n t) with
  | none => none
  | some (_, _, .item b e) =>
    let s := modReq s b fun r =>
      modPage r e.kind e.layer.toNat e.index.toNat fun x => { x with state := pFar, slots := [] }
    some (countReclaim (freeSlots s n (e.slots.filter fun k => !(stillUsed s n b).contains k)) n)
  | some (_, _, .region key p) =>
    let s := { s with te := { s.te with regions := tblMod s.te.regions key fun g => { g with near := g.near.filter fun q => q != p } } }
    some (countReclaim (freeSlot s n p.slot) n)

/-- Take a slot from the free lists (R143, step 1); a shared one is charged to the tenant. -/
def takeFreeSlot (s : State) (n : LaneNo) (t : Tenant) : Option (Nat × State) :=
  let l := laneOf s n
  match l.kv.reserveFree with
  | k :: ks => some (k, setLane s n { l with kv := { l.kv with reserveFree := ks } })
  | [] =>
    match l.kv.sharedFree with
    | k :: ks =>
      if belowCeiling s t then
        some (k, setLane s n { l with kv := { l.kv with sharedFree := ks, owner := tblSet l.kv.owner k t.toNat } })
      else none
    | [] => none

/-- The free lists, then reclaim by age: again where the item reclaimed freed no slot of its own, as packed items do. -/
def takeOrReclaim : Nat → State → LaneNo → Tenant → State × Option Nat
  | 0, s, _, _ => (s, none)
  | fuel + 1, s, n, t =>
    match takeFreeSlot s n t with
    | some (k, s') => (s', some k)
    | none =>
      match reclaim s n t with
      | none => (s, none)
      | some s' => takeOrReclaim fuel s' n t

/-- Take a slot by the steps of R143 in a lane whose KV region may lie in HBM (R42). -/
def takeSlot (s : State) (n : LaneNo) (t : Tenant) : State × Option Nat :=
  if kvFlag (laneOf s n) 0 then takeOrReclaim ((eligible s n t).length + 2) s n t else (s, none)

/-- Take several slots, as far as they go. -/
def takeSlots (s : State) (n : LaneNo) (t : Tenant) : Nat → State × List Nat
  | 0 => (s, [])
  | m + 1 =>
    match takeSlot s n t with
    | (s', none) => (s', [])
    | (s', some k) =>
      let r := takeSlots s' n t m
      (r.1, k :: r.2)

/-! ### Leg entries (R182) -/

/-- Take the lowest free leg entry; its generation counts its uses. -/
def openEntry (s : State) (mk : Nat → BitVec 16 → Leg) : Option (Nat × State) :=
  match lowestFree (s.btn.legs.map (·.index)) 4096 0 with
  | none => none
  | some i =>
    let g := match tblGet s.btn.gens i with | some g => g + 1 | none => 0
    some (i, { s with btn := { s.btn with legs := s.btn.legs ++ [mk i g], gens := tblSet s.btn.gens i g } })

def dropLeg (s : State) (i : Nat) : State := { s with btn := { s.btn with legs := s.btn.legs.filter fun g => g.index != i } }

/-- A FETCH leg: one page from the capacity tier into a slot of its lane (R139, R180). -/
def fetchLeg (b : BatonId) (n : LaneNo) (layer page : Nat) (slots : List Nat) (i : Nat) (g : BitVec 16) : Leg :=
  { index := i, gen := g, type := 7, atTarget := true, localLeg := true, peer := batonHome b, srcLane := n, dstLane := n
    state := .clearing, batons := [b], lead := false, partsLeft := [], ctlOff := 0, partRx := [], partFails := [], partBytes := []
    pages := [⟨⟨b, kPage, pSealed, true, BitVec.ofNat 10 layer, BitVec.ofNat 16 page, 0⟩, true, 0, 0, 0, false, slots, 0, none⟩]
    ctlBlocks := 0, sent := 0, peerId := none, states := 0, hold := false, replay := false, tier := none }

/-- The FETCH leg of a page. -/
def isFetch (b : BatonId) (layer page : Nat) (g : Leg) : Bool :=
  g.type == 7 && g.batons == [b] && g.pages.any fun p => decide (p.item.layer.toNat = layer) && decide (p.item.index.toNat = page)

/-- FETCH legs end with the fetch they run: a page that holds no slot is not being fetched. -/
def dropStaleFetches (s : State) (b : BatonId) : State :=
  let live := fun (g : Leg) => match findReq s b with
    | some r => r.pages.any fun e => e.state == pFar && !e.slots.isEmpty && isFetch b e.layer.toNat e.index.toNat g
    | none => false
  { s with btn := { s.btn with legs := s.btn.legs.filter fun g => g.type != 7 || g.batons != [b] || live g } }

/-! ### Needs of a lap (R142, R143) -/

inductive Need where
  | fetch (layer page : Nat)
  | seal (layer page : Nat)
  | opens (layer page : Nat)
  | run (layer run : Nat)
  | probe
deriving DecidableEq, Repr

/-- Positions t in [p, p + n) with t mod q = c, as their quotients. -/
def crossings (p n q c : Nat) : List Nat :=
  ((List.range n).map (p + ·)).filterMap fun t => if t % q = c then some (t / q) else none

/-- The step after the next n positions is a generation step: the token at its position was drawn, or will be, after a prompt's
final position or after a step of its own. -/
def nextGen (r : Req) (n : Nat) : Bool :=
  match r.log[r.done + n]? with
  | some w => w.extractLsb' 18 2 == 1
  | none => if r.phase = .prompt then decide (r.done + n = r.promptLen) else r.take == 0

/-- The step after the next n positions needs a selection. -/
def nextNeedsSel (m : ModelSec) (r : Req) (n : Nat) : Bool := nextGen r n && needsSel m (r.done + n)

/-- The next step will be the first to need a selection, and the probe record has no slots yet. -/
def needsProbe (m : ModelSec) (r : Req) (n : Nat) : Bool :=
  nextNeedsSel m r n && (r.pages.all fun e => e.kind != kProbe)

/-- What a request's work of n positions needs, in the order of the table. -/
def needsOf (m : ModelSec) (r : Req) (n : Nat) : List Need :=
  let layers := List.range (mLayers m)
  ((farListed m r).filter fun e => e.slots.isEmpty).map (fun e => Need.fetch e.layer.toNat e.index.toNat)
  ++ (crossings r.done n 128 127).flatMap (fun p => layers.map fun l => Need.seal l p)
  ++ ((crossings r.done n 128 0).flatMap fun p =>
      (layers.filter fun l => (findPage r kPage l p).isNone).map fun l => Need.opens l p)
  ++ (crossings r.done n 8192 127).flatMap (fun q => layers.map fun l => Need.run l q)
  ++ (if needsProbe m r n then [Need.probe] else [])

/-- Meet one need; false where it cannot be met. -/
def meetNeed (s : State) (n : LaneNo) (b : BatonId) (m : ModelSec) (x : Need) : State × Bool :=
  let t := batonTenant b
  let lap := s.lap.count
  let S := slotBytes (laneOf s n)
  match x with
  | .fetch l p =>
    if s.coach.phase ≠ .serving then (s, false) else
    match takeSlot s n t with
    | (s, some k) =>
      match openEntry s (fetchLeg b n l p [k]) with
      | some (_, s) => (modReq s b fun r => modPage r kPage l p fun e => { e with slots := [k] }, true)
      | none => (freeSlot s n k, false)
    | (s, none) => (s, false)
  | .seal l p =>
    if (laneOf s n).kv.sealLeft = 0 then (s, false)
    else match takeSlot s n t with
      | (s, some k) =>
        let s := modLane s n fun ln => { ln with kv := { ln.kv with sealLeft := ln.kv.sealLeft - 1 } }
        (modReq s b fun r =>
          let r := if (findPage r kPage l p).isNone then addPage r (newPage kPage pOpen l p [] lap true) else r
          modPage r kPage l p fun e => { e with sealSlot := some k }, true)
      | (s, none) => (s, false)
  | .opens l p =>
    match takeSlots s n t 2 with
    | (s, [a, c]) =>
      (modReq s b fun r =>
        let ix := indexEntries m false 0
        if (findPage r kPage l p).isNone then addPage r { newPage kPage pOpen l p [a, c] lap true with index_ := ix }
        else modPage r kPage l p fun e => { e with slots := [a, c], index_ := ix }, true)
    | (s, ks) => (freeSlots s n ks, false)
  | .run l q =>
    match (laneOf s n).kv.runFree with
    | [] => (s, false)
    | c :: cs =>
      match takeSlots s n t (recordSlots m S) with
      | (s, ks) =>
        if ks.length = recordSlots m S then
          let s := modLane s n fun ln => { ln with kv := { ln.kv with runFree := cs } }
          (modReq s b fun r => addPage (addPage r (newPage kRecords pSealed l q ks lap true))
            (newPage kRunRec pSealed l q [c] lap true), true)
        else (freeSlots s n ks, false)
  | .probe =>
    match takeSlots s n t (probeSlots m S) with
    | (s, ks) =>
      if ks.length = probeSlots m S then
        (modReq s b fun r => ks.zipIdx.foldl (fun r k => addPage r (newPage kProbe pSealed 0 k.2 [k.1] lap true)) r, true)
      else (freeSlots s n ks, false)

/-- Meet needs until one fails. -/
def meetNeeds (s : State) (n : LaneNo) (b : BatonId) (m : ModelSec) : List Need → State × Bool
  | [] => (s, true)
  | x :: xs =>
    match meetNeed s n b m x with
    | (s', true) => meetNeeds s' n b m xs
    | (s', false) => (s', false)

/-- The scratch sequence of a baton's audit in a lane (R207). -/
def replayIn (s : State) (n : LaneNo) (b : BatonId) : Option Req := s.btn.replays.find? fun q => q.id == b && q.lane == some n

def modReplay (s : State) (b : BatonId) (f : Req → Req) : State :=
  { s with btn := { s.btn with replays := s.btn.replays.map fun r => if r.id = b then f r else r } }

/-- The request of a baton in a lane, or the scratch sequence of its audit there. -/
def workReq (s : State) (n : LaneNo) (b : BatonId) : Option Req :=
  match findReq s b with
  | some r => if r.lane = some n then some r else replayIn s n b
  | none => replayIn s n b

def modWork (s : State) (n : LaneNo) (b : BatonId) (f : Req → Req) : State :=
  match findReq s b with
  | some r => if r.lane = some n then modReq s b f else modReplay s b f
  | none => modReplay s b f

/-- An entry of this pass: what it held before the pass, if it was there. -/
def undoEnt (before : List PageEnt) (e : PageEnt) : Option PageEnt × List Nat × List Nat × Nat :=
  match before.find? fun x => pageKey x == pageKey e with
  | none => (none, entSlots false e, if e.kind = kRunRec then e.slots else [], ofB e.sealSlot.isSome)
  | some x =>
    let slots := if x.slots.isEmpty then ([], e.slots) else (e.slots, [])
    let sl := if x.sealSlot.isNone then (none, e.sealSlot.toList) else (e.sealSlot, [])
    (some { e with slots := slots.1, sealSlot := sl.1 }, slots.2 ++ sl.2, [], sl.2.length)

/-- Return what a request received since the entries `before`; reclaims stay (R143). -/
def undoNeeds (s : State) (n : LaneNo) (b : BatonId) (before : List PageEnt) : State :=
  match findReq s b with
  | none => s
  | some r =>
    let us := r.pages.map (undoEnt before)
    let s := modReq s b fun r => { r with pages := us.filterMap (·.1) }
    let s := freeSlots s n (us.flatMap fun u => u.2.1)
    let s := (us.flatMap fun u => u.2.2.1).foldl (fun s k => freeCell s n k) s
    modLane s n fun l => { l with kv := { l.kv with sealLeft := l.kv.sealLeft + (us.map fun u => u.2.2.2).sum } }

/-- The first cause of a missed lap in the order of R167. -/
def miss (r : Req) (c : BitVec 4) : Req := { r with missNow := if r.missNow = 0 || c.toNat < r.missNow.toNat then c else r.missNow }

def missReq (s : State) (b : BatonId) (c : BitVec 4) : State := modReq s b fun r => miss r c

/-- Held at the line: it runs no positions in the lap, and the counters of R144 count. -/
def holdReq (s : State) (n : LaneNo) (b : BatonId) (c : BitVec 4) : State :=
  let s := modLane s n fun l => { l with kv := { l.kv with heldCnt := satInc l.kv.heldCnt } }
  modReq s b fun r => { miss r c with held := r.held + 1, heldPrev := true, take := 0 }

/-- Serve one sequence's needs; hold it at the line where one cannot be met (R143, R144). -/
def serveSeq (s : State) (n : LaneNo) (b : BatonId) (work : Nat) : State :=
  match findReq s b with
  | none => s
  | some r =>
    match modelOf s r.model with
    | none => s
    | some m =>
      let (s', ok) := meetNeeds s n b m (needsOf m r work)
      if ok then s'
      else
        let s := dropStaleFetches (undoNeeds s' n b r.pages) b
        holdReq s n b 4

/-! ### Heat records (R133, R134) -/

/-- Add a page record and raise the run record's bounds (R133, R134). -/
def addHeat (hs : List HeatRec) (layer page : Nat) (kmax kmin : List (List Byte)) : List HeatRec :=
  let pageRec : HeatRec := ⟨false, layer, page, 1, kmax, kmin⟩
  let isRun := fun (h : HeatRec) => h.run && h.layer == layer && h.index == page / 64
  if hs.any isRun then
    hs.map (fun h => if isRun h then
      { h with pages := h.pages + 1, kmax := (h.kmax.zip kmax).map (fun p => boundCodes max32 p.1 p.2),
               kmin := (h.kmin.zip kmin).map (fun p => boundCodes min32 p.1 p.2) } else h) ++ [pageRec]
  else hs ++ [⟨true, layer, page / 64, 1, kmax, kmin⟩, pageRec]

/-- The bytes of a heat record (R133). -/
def heatBytes (m : ModelSec) (h : HeatRec) : List Byte :=
  let page := if h.run then 64 * h.index else h.index
  leBytes 2 page ++ leBytes 2 h.layer ++ [BitVec.ofNat 8 (mHeads m), if h.run then 1 else 0, BitVec.ofNat 8 h.pages]
  ++ List.replicate 57 0 ++ (h.kmax.zip h.kmin).flatMap fun p => p.1 ++ p.2

/-! ### The lap's end for pages (R125, R126) -/

/-- Commit: fill counts grow, sealed pages become SEALED and their open pairs free; the index record is rewritten (R122). -/
def commitEnt (m : ModelSec) (newDone : Nat) (lap : BitVec 48) (e : PageEnt) : PageEnt × List Nat :=
  if e.kind = kPage && e.state = pOpen then
    let filled := min 128 (newDone - 128 * e.index.toNat)
    match e.sealSlot, e.sealedNow with
    | some k, true =>
      ({ e with
        state := pSealed, slots := [k], sealSlot := none, sealedNow := false, wrote := 0, filled := 128, lapNew := false
        lastUse := lap, index_ := indexEntries m true 128 }, e.slots)
    | some k, false =>
      ({ e with sealSlot := none, wrote := 0, filled, lapNew := false, lastUse := lap, index_ := indexEntries m false filled }, [k])
    | none, _ => ({ e with wrote := 0, filled, lapNew := false, lastUse := lap, index_ := indexEntries m false filled }, [])
  else ({ e with lapNew := false }, [])

/-- Bytes of the probe record (R135): layers ascending, then KV heads, each element in BF16. -/
def probeImage (m : ModelSec) (probe : List (Nat × List (List F32))) : List Byte :=
  (List.range (mLayers m)).flatMap fun l =>
    let hs := match probe.find? fun e => e.1 == l with | some e => e.2 | none => []
    (List.range (mHeads m)).flatMap fun h =>
      ((hs.getD h []) ++ List.replicate (m.headDim.toNat - (hs.getD h []).length) 0).flatMap fun x =>
        [x.extractLsb' 16 8, x.extractLsb' 24 8]

/-! ### Bytes of page images -/

/-- Stack address of byte `off` of an image in an open pair or a slot (R121). -/
def imageAddr (l : Lane) (slots : List Nat) (off : Nat) : Nat :=
  let S := slotBytes l
  slotAddr l (slots.getD (if S = 0 then 0 else off / S) 0) + (if S = 0 then off else off % S)

/-- Write image bytes from an offset, crossing from the first slot of a pair to the second. -/
def storeImage (mem : Mem) (l : Lane) (slots : List Nat) (off : Nat) (bs : List Byte) : Mem :=
  bs.zipIdx.foldl (fun mm p => memWrite mm (imageAddr l slots (off + p.2)) p.1) mem

def loadImage (mem : Mem) (l : Lane) (slots : List Nat) (off len : Nat) : List Byte :=
  (List.range len).map fun i => memRead mem (imageAddr l slots (off + i))

def stackOf (s : State) (n : LaneNo) : Mem := s.mem.stack.get n

def setStack (s : State) (n : LaneNo) (m : Mem) : State := { s with mem := { s.mem with stack := vset s.mem.stack n m } }

def putLayer {α : Type} (xs : List (Nat × α)) (layer : Nat) (x : α) : List (Nat × α) :=
  xs.filter (fun e => e.1 != layer) ++ [(layer, x)]

/-- The probe record after the lap: the layers built in it take the place of the old ones; none without its page slots. -/
def probeAfter (r : Req) : List (Nat × List (List F32)) :=
  if r.pages.any fun e => e.kind == kProbe then r.probeNew.foldl (fun acc e => putLayer acc e.1 e.2) r.probe else []

/-- The probe record lies in its page slots, piece by piece (R135). -/
def storeProbe (s : State) (n : LaneNo) (m : ModelSec) (r : Req) : State :=
  let l := laneOf s n
  let img := probeImage m (probeAfter r)
  let S := slotBytes l
  setStack s n ((r.pages.filter fun e => e.kind == kProbe).foldl
    (fun mm e => storeImage mm l e.slots 0 ((img.drop (e.index.toNat * S)).take S)) (stackOf s n))

/-- Every layer has a selection. -/
def selFull (m : ModelSec) (sel : List (Nat × List Nat)) : Bool := (List.range (mLayers m)).all fun l => sel.any fun e => e.1 == l

/-- The lap's positions commit: pages, heat records, probe and selection (R125, R126, R138). -/
def commitPages (s : State) (n : LaneNo) (b : BatonId) : State :=
  match findReq s b with
  | none => s
  | some r =>
    match modelOf s r.model with
    | none => s
    | some m =>
      let cs := r.pages.map (commitEnt m r.done s.lap.count)
      let seals := (r.pages.filter fun e => e.sealedNow).length
      let s := storeProbe s n m r
      let s := modReq s b fun r =>
        { r with
          pages := cs.map (·.1), heat := r.heatNew, probe := probeAfter r, probeNew := [], sel := r.selNew, selNew := []
          listed := selFull m r.selNew }
      let s := freeSlots s n (cs.flatMap (·.2))
      modLane s n fun l => { l with kv := { l.kv with sealCnt := satAdd l.kv.sealCnt seals } }

/-- No commit: what the lap took returns; sealed images, run records and probes revert; a selection stays (R125, R126, R138,
R143). -/
def discardPages (s : State) (n : LaneNo) (b : BatonId) : State :=
  match findReq s b with
  | none => s
  | some r =>
    let old := (r.pages.filter fun e => !e.lapNew).map fun e => { e with sealSlot := none, sealedNow := false, wrote := 0 }
    let gone := r.pages.filter (·.lapNew)
    let seals := (r.pages.filter fun e => !e.lapNew).flatMap fun e => e.sealSlot.toList
    let s := modReq s b fun r =>
      { r with pages := old, heatNew := r.heat, probeNew := [], selNew := [], logits := none, draw := none }
    let s := gone.foldl (fun s e => freeEnt s n e) s
    freeSlots s n seals

/-- Free every slot and cell that a request occupies in its lane. -/
def freeHbm (s : State) (b : BatonId) : State :=
  match findReq s b with
  | none => s
  | some r =>
    match r.lane with
    | some n => r.pages.foldl (fun s e => freeEnt s n e) s
    | none => s

/-- Free a request's capacity-tier space. -/
def freeTier (s : State) (b : BatonId) : State :=
  match findReq s b with
  | none => s
  | some r =>
    let s := match r.capPort with
      | some p => { s with cap := { s.cap with ports := vmod s.cap.ports p fun c => { c with used := c.used - r.tierBytes } } }
      | none => s
    modReq s b fun r => { r with capPort := none, tierBytes := 0 }

def freePages (s : State) (b : BatonId) : State :=
  dropStaleFetches (modReq (freeTier (freeHbm s b) b) b fun r => { r with pages := [] }) b

/-! ### Places in an image -/

/-- Offset of a token's key (or value) of a head in an image (R120). -/
def tokenOff (m : ModelSec) (sealed : Bool) (place : Nat) (head : Nat) (value : Bool) : Nat :=
  let kb := if sealed then sealKeyBytes m else openKeyBytes m
  let vb := if sealed then 20 * mNb m else 33 * mNb m
  let H := mHeads m
  let base := place / 16 * (16 * H * (kb + vb))
  if value then base + 16 * H * kb + 16 * vb * head + vb * (place % 16)
  else base + 16 * kb * head + kb * (place % 16)

/-! ### Fetches (R139) -/

/-- CAP starts fetching the FAR pages of the next step's list, each into a slot (R139). -/
def startFetches (s : State) (n : LaneNo) (b : BatonId) : State :=
  match findReq s b with
  | none => s
  | some r =>
    match modelOf s r.model with
    | none => s
    | some m =>
      ((farListed m r).filter fun e => e.slots.isEmpty).foldl (fun s e =>
        (meetNeed s n b m (.fetch e.layer.toNat e.index.toNat)).1) s

/-! ### Capacity tier (R40, R441) -/

def capUnit : Nat := 268435456

/-- Free bytes of a port. -/
def capFree (c : CapPort) : Nat := c.size * capUnit - c.used

def capUp (c : CapPort) : Bool := c.state = 2 || c.state = 3

/-- The port of the 64 MiB staging region, which MPL reserves from a PLAN_LOAD until its plan is in force or gone: the
lowest-numbered working one (R305). -/
def stagingPort (s : State) : Option (Fin 4) :=
  if s.mpl.load = .idle && s.mpl.staged.isNone then none else (List.finRange 4).find? fun p => capUp (s.cap.ports.get p)

/-- Free bytes of a port past what MPL reserves there. -/
def portRoom (s : State) (p : Fin 4) : Nat := capFree (s.cap.ports.get p) - (if stagingPort s = some p then 67108864 else 0)

/-- The working port with the most free capacity, the lower number on a tie (R40). -/
def bestPort (s : State) (bytes : Nat) : Option (Fin 4) :=
  (List.finRange 4).foldl (fun acc p =>
    if capUp (s.cap.ports.get p) && decide (bytes ≤ portRoom s p) then
      match acc with
      | none => some p
      | some q => if portRoom s q < portRoom s p then some p else acc
    else acc) none

/-- Take bytes on a port; the address where they lie. -/
def capTake (s : State) (p : Fin 4) (bytes : Nat) : Nat × State :=
  let c := s.cap.ports.get p
  (c.top, { s with cap := { s.cap with ports := vset s.cap.ports p { c with used := c.used + bytes, top := c.top + bytes } } })

/-- Copy a byte range between memories; what the target range held goes. -/
def memMove (src : Mem) (a n : Nat) (dst : Mem) (b : Nat) : Mem :=
  ((src.filter fun c => decide (a ≤ c.1) && decide (c.1 < a + n)).foldl
    (fun m c => memWrite m (c.1 - a + b) c.2) (dst.filter fun c => !(decide (b ≤ c.1) && decide (c.1 < b + n))))

end Sys2Proof.Machine
end

