-- ==== Sys2Proof/Machine/Streams.lean ====
section
/-! DEFINITION. SRG: stream rings, split timers, NOTICE and END entries (06_judge_steeple_streams.md, R160 to R171). -/

namespace Sys2Proof.Machine

open Sys2Proof

/-- The ranges of R160. The Marshal vector is no ring's (R385). -/
def ringDescOk (d : RingDesc) : Bool :=
  decide (d.base.toNat % 64 = 0) && decide (d.cons.toNat % 8 = 0) && decide (6 ≤ d.log2.toNat) && decide (d.log2.toNat ≤ 16)
  && decide (d.func.toNat ≤ 64) && decide (d.vector.toNat ≤ 2047) && (d.func != 0 || d.vector != 0) && d.rsvClear

/-! ### Entries (R161) -/

/-- A TOKEN entry. -/
def tokenEntry (tok : BitVec 18) (pos : Nat) (lap : Word) (cause : BitVec 4) (viol resumed ext first : Bool)
    (missed gapUs : Nat) : RingEnt :=
  { token := true, notice := false, replay := false
    words := [lo32 (at_ cause.toNat 24 + at_ (ofB viol) 21 + at_ (ofB resumed) 20 + at_ (ofB ext) 19 + at_ (ofB first) 18
        + tok.toNat),
      lo32 (pos % 2 ^ 22), lap, lo32 (at_ (min missed 255) 24 + min gapUs 0xFFFFFF)] }

/-- An END entry; PATTERN is meant for reason STOP only. -/
def endEntry (reason : Byte) (pos : Nat) (lap : Word) (code : Finish) (pattern : Nat) : RingEnt :=
  { token := false, notice := false, replay := false
    words := [lo32 (at_ 1 28 + reason.toNat), lo32 (pos % 2 ^ 22), lap,
      lo32 (at_ (finishCode code).toNat 24 + (if reason = 0x02 then at_ (pattern % 16) 20 else 0))] }

/-- A NOTICE entry: its position is that of the next draw. -/
def noticeEntry (code : Byte) (pos : Nat) (lap : Word) : RingEnt :=
  { token := false, notice := true, replay := false, words := [lo32 (at_ 2 28 + code.toNat), lo32 (pos % 2 ^ 22), lap, 0] }

def noticeParked : Byte := 0x01
def noticeResumed : Byte := 0x02
def noticeHeldParked : Byte := 0x03

def reasonMaxNew : Byte := 0x01
def reasonStop : Byte := 0x02
def reasonNoCandidate : Byte := 0x03
def reasonCancelled : Byte := 0x04

/-- Lap counter [31:0]. -/
def lapLo (s : State) : Word := s.lap.count.setWidth 32

/-! ### The ring and its window (R162 to R164) -/

/-- Entries of the ring, 2^LOG2. -/
def ringSize (st : Stream) : Nat := 2 ^ st.ring.log2.toNat

/-- Free entries from the count last read from CONS (R164). -/
def ringFree (st : Stream) : Nat := ringSize st - (st.produced - st.cons).toNat

/-- TOKEN entries held in the window. -/
def heldTokens (st : Stream) : Nat := (st.window.filter fun e => e.token).length

/-- The four places are full: a sequence that would commit a token misses the lap (R164); never a closed ring (R171). -/
def ringBlocked (st : Stream) : Bool := !st.closed && decide (4 ≤ heldTokens st)

/-- An entry's words with PHASE in bit 31 of word 0; a replayed entry takes the lap in which it is written. -/
def phased (e : RingEnt) (phase : Bool) (lap : Word) : List Word :=
  let ws := if e.replay then e.words.set 2 lap else e.words
  match ws with
  | w :: ws => (w ||| lo32 (at_ (ofB phase) 31)) :: ws
  | [] => []

def entryAddr (st : Stream) : BitVec 64 := st.ring.base + BitVec.ofNat 64 (16 * (st.produced.toNat % ringSize st))

/-- An entry that asks for the ring's interrupt (R163), `n` being the TOKEN entry's number. -/
def wantsIrq (st : Stream) (e : RingEnt) (n : Word) : Bool :=
  !e.token || (st.ring.notify != 0 && decide (n.toNat % st.ring.notify.toNat = 0))

/-- The position last written moves with a TOKEN entry (R165). -/
def markWritten (st : Stream) (pos : Word) : Stream := { st with written := pos.setWidth 22, any := true }

/-- Produce one entry; `here`: this device serves the ring and writes it, so that a TOKEN entry counts as written. -/
def putEntry (here : Bool) (st : Stream) (e : RingEnt) : Stream :=
  let produced' := st.produced + 1
  let st' := { st with
    produced := produced'
    phase := if produced'.toNat % ringSize st = 0 then !st.phase else st.phase
    tokenEntries := if e.token then st.tokenEntries + 1 else st.tokenEntries
    lapIrq := st.lapIrq || wantsIrq st e (st.tokenEntries + 1) }
  if here && e.token then markWritten st' (e.words.getD 1 0) else st'

/-- Produce window entries while the ring has room: addresses with words, and the stream. -/
def drainWindow (here : Bool) (lap : Word) (st : Stream) : List RingEnt → List (BitVec 64 × List Word) × Stream
  | [] => ([], { st with window := [] })
  | e :: es =>
    if 0 < ringFree st then
      let r := drainWindow here lap (putEntry here st e) es
      ((entryAddr st, phased e st.phase lap) :: r.1, r.2)
    else ([], { st with window := e :: es })

/-- How entries leave: into host memory where this device serves the ring, else over Track to the serving device in
one RING frame. The frame's payload carries each entry's host address, FUNC, VECTOR and the interrupt wish (log 11). -/
def ringPayload (st : Stream) (xs : List (BitVec 64 × List Word)) (irq : Bool) : List Byte :=
  xs.flatMap fun x =>
    u64Bytes x.1 ++ [st.ring.func, if irq then 1 else 0, st.ring.vector.extractLsb' 0 8, st.ring.vector.extractLsb' 8 8]
      ++ [0, 0, 0, 0] ++ x.2.flatMap wordBytes

def sendEntries (s : State) (st : Stream) (xs : List (BitVec 64 × List Word)) (irq : Bool) : State :=
  if st.ring.serve = s.mpl.devId then
    let s := emitAll s (xs.map fun x => .hostWrite st.ring.func.toNat x.1 x.2)
    if irq then msix s st.ring.func.toNat st.ring.vector.toNat else s
  else if xs.isEmpty then s
  else sysSend s st.ring.serve 0x1A 0 0 (ringPayload st xs irq)

/-- A serving device has taken the entries of a RING frame: the position last written moves with its last TOKEN entry. The frame
names no baton; its first entry's address lies in the ring. -/
def ringTaken (s : State) (serve : DevId) (payload : List Byte) : State :=
  let word := fun (i : Nat) => BitVec.ofNat 32 ((payload.drop i).take 4 |>.foldr (fun b acc => b.toNat + 256 * acc) 0)
  let addr := (word 4 ++ word 0 : BitVec 64)
  let tokens := (List.range (payload.length / 32)).filter fun k => (word (32 * k + 16)).extractLsb' 28 3 == 0
  match tokens.getLast? with
  | none => s
  | some k =>
    let mine := fun (r : Req) => r.strm.ring.serve == serve && decide (r.strm.ring.base.toNat ≤ addr.toNat)
      && decide (addr.toNat < r.strm.ring.base.toNat + 16 * ringSize r.strm)
    let reqs := s.reqs.map fun r => if mine r then { r with strm := markWritten r.strm (word (32 * k + 20)) } else r
    { s with reqs }

/-- SRG reads CONS again, at most once per lap. -/
def readCons (s : State) (st : Stream) : Stream × State :=
  if st.consLap = some s.lap.count then (st, s)
  else
    let x := takeFree s
    ({ st with cons := x.1, consLap := some s.lap.count }, x.2)

/-- SRG's turn for one ring: entries are written in order while it has room; where it appears full CONS is read again and writing
goes on. The ring's one interrupt of the lap follows its last entry. -/
def flushRing (s : State) (b : BatonId) : State :=
  match findReq s b with
  | none => s
  | some r =>
    let here := decide (r.strm.ring.serve = s.mpl.devId)
    if (r.strm.window.isEmpty && !r.strm.lapIrq) || (here && !hostUp s) then s
    else
      let a := drainWindow here (lapLo s) r.strm r.strm.window
      let c := if a.2.window.isEmpty then (a.2, s) else readCons s a.2
      let d := drainWindow here (lapLo s) c.1 a.2.window
      let irq := d.2.lapIrq && d.2.irqLap != some s.lap.count
      let st := if irq then { d.2 with lapIrq := false, irqLap := some s.lap.count } else d.2
      sendEntries (modReq c.2 b fun r => { r with strm := st }) st (a.1 ++ d.1) irq

/-- Every ring, in ascending sequence slot. -/
def flushRings (s : State) : State := (s.reqs.map (·.id)).foldl flushRing s

/-- Append an entry to a request's window; nothing for a closed ring. -/
def pushEntry (r : Req) (e : RingEnt) : Req :=
  if r.strm.closed then r else { r with strm := { r.strm with window := r.strm.window ++ [e] } }

/-- A NOTICE for a request (R201, R203). -/
def pushNotice (s : State) (b : BatonId) (code : Byte) : State :=
  modReq s b fun r => pushEntry r (noticeEntry code r.samp.counter (lapLo s))

/-! ### Split timers (R166 to R169) -/

def histBucket (us : Nat) : Nat := if us < 256 then 0 else min 15 (us.log2 - 7)

/-- Nanoseconds to whole microseconds, saturating (R166). -/
def gapUs (ns : Nat) : Nat := min (ns / 1000) 16777215

def srgTenant (s : State) (t : Tenant) : SrgTenant := tblGetD s.srg.tenants t.toNat SrgTenant.zero

def setSrgTenant (s : State) (t : Tenant) (x : SrgTenant) : State :=
  { s with srg := { s.srg with tenants := tblSet s.srg.tenants t.toNat x } }

/-- A time above its target: 0 is no target (R168). -/
def overTarget (target us : Nat) : Bool := target != 0 && decide (target < us)

/-- Histogram and violation counters for a first token's time. -/
def recordTtft (s : State) (t : Tenant) (target us : Nat) : State :=
  let s := { s with srg := { s.srg with ttftHist := vmodN s.srg.ttftHist (histBucket us) satInc } }
  if overTarget target us then
    let x := srgTenant s t
    setSrgTenant s t { x with ttftViol := satInc x.ttftViol }
  else s

def recordTbt (s : State) (t : Tenant) (target us : Nat) : State :=
  let s := { s with srg := { s.srg with tbtHist := vmodN s.srg.tbtHist (histBucket us) satInc } }
  if overTarget target us then
    let x := srgTenant s t
    setSrgTenant s t { x with tbtViol := satInc x.tbtViol }
  else s

/-- SRG takes a committed drawn token (R163, R166, R170). -/
def streamToken (s : State) (b : BatonId) (tok : BitVec 18) (pos : Nat) : State :=
  match findReq s b with
  | none => s
  | some r =>
    if r.strm.closed then { s with srg := { s.srg with dropCnt := satInc s.srg.dropCnt } }
    else
      let first := decide (r.samp.drawn = 0)
      let us := gapUs (s.clk.now - (if first then r.strm.ttftStart else r.strm.lastCommit))
      let target := if first then r.strm.ttftTarget.toNat else r.strm.tbtTarget.toNat
      let timed := first || !r.strm.resumed
      let s := if first then recordTtft s (batonTenant b) target us
        else if timed then recordTbt s (batonTenant b) target us else s
      let e := tokenEntry tok pos (lapLo s) r.strm.cause (timed && overTarget target us) r.strm.resumed r.strm.ext first
        r.strm.missed us
      modReq s b fun r =>
        let st := (pushEntry r e).strm
        { r with strm := { st with missed := 0, cause := 0, ext := false, resumed := false, lastCommit := s.clk.now } }

/-- A missed lap of a request (R167). -/
def streamMiss (r : Req) : Req :=
  { r with strm := { r.strm with missed := r.strm.missed + 1, cause := r.missNow } }

/-! ### Ends, cancels and resumes -/

/-- Position of the last token in the log, or of the last prompt token (R170). -/
def lastPos (r : Req) : Nat := if r.log.length < r.promptLen then r.promptLen - 1 else r.log.length - 1

/-- Post the request's final completion (R383), once. -/
def finalCpl (s : State) (r : Req) (code : Finish) (reason : Byte) (pos : Nat) : State :=
  if r.finalOwed then
    let s := modReq s r.id fun r => { r with finalOwed := false }
    postCpl s { code, lead := (0, 0), second := true, body := batonWords r.id ++ [reason.setWidth 32, lo32 pos], user := r.hdr.user,
                op := 0x01, reason := 0, tenant := r.hdr.tenant }
  else s

/-- TOKEN entries that a resume writes again: drawn tokens above the position last written (R165). -/
def replayEntries (r : Req) (lap : Word) : List RingEnt :=
  let from_ := if r.strm.any then r.strm.written.toNat + 1 else 0
  let firstDrawn := (r.log.findIdx fun w => decide (bits w.toNat 19 18 = 1))
  (r.log.zipIdx.filter fun p => decide (from_ ≤ p.2) && decide (bits p.1.toNat 19 18 = 1)).map fun p =>
    { tokenEntry (p.1.setWidth 18) p.2 lap 0 false false false (decide (p.2 = firstDrawn)) 0 0 with replay := true }

/-- The stream of a resumed request: the replacement ring starts empty, its first pass with PHASE 1 (R165). -/
def resumeStream (st : Stream) (ring : Option RingDesc) : Stream :=
  match ring with
  | some d => { st with ring := d, produced := 0, phase := true, tokenEntries := 0, cons := 0, consLap := none, lapIrq := false, irqLap := none }
  | none => st

/-- SRG takes up a resumed request: replayed entries, what else was held, then the NOTICE (R164, R165, R203). -/
def streamResume (s : State) (b : BatonId) (ring : Option RingDesc) : State :=
  modReq s b fun r =>
    let held := r.strm.window.filter fun e => !e.token
    let st := resumeStream r.strm ring
    let es := replayEntries r (lapLo s) ++ held ++ [noticeEntry noticeResumed r.samp.counter (lapLo s)]
    { r with strm := { st with window := if st.closed then held else es, resumed := true } }

end Sys2Proof.Machine
end

