-- ==== Sys2Proof/Machine/Record.lean ====
section
/-! DEFINITION. Control-class parts of a baton as byte images: the record, token log, count table, Steeple part, share table and
page map (R159, R174 to R179). -/

namespace Sys2Proof.Machine

open Sys2Proof

/-! ### Shares (R173) -/

/-- The generation group that lists this device: its device IDs in share order. -/
def groupDevs (s : State) : List DevId :=
  match s.mpl.current with
  | some p =>
    match p.system.groups.find? fun g => g.2.contains s.mpl.devId with
    | some g => g.2
    | none => [s.mpl.devId]
  | none => [s.mpl.devId]

def shareCount (s : State) : Nat := (groupDevs s).length

/-- This device holds the lead share of the batons it runs. -/
def isLead (s : State) : Bool := (groupDevs s).head? == some s.mpl.devId

/-! ### Fields -/

def u16 (n : Nat) : List Byte := leBytes 2 n
def u32 (n : Nat) : List Byte := leBytes 4 n

/-- Bytes of a 384-bit digest, byte 0 first. -/
def digestBytes (d : Digest) : List Byte := (List.range 48).map fun i => d.extractLsb' (8 * i) 8

/-- The 48-byte sampler settings block (R148): SEED, TEMP, TOP_K, RSV, TOP_P, MIN_P, REP, FREQ, PRES, TRACK. -/
def samplerBytes (x : Sampler) : List Byte :=
  u64Bytes x.seed ++ wordBytes x.temp ++ u16 x.topK.toNat ++ [0, 0] ++ wordBytes x.topP ++ wordBytes x.minP ++
  wordBytes x.rep ++ wordBytes x.freq ++ wordBytes x.pres ++ [x.track] ++ List.replicate 11 0

def samplerOf (b : List Byte) : Sampler :=
  let w := fun (i : Nat) => BitVec.ofNat 32 (bytesLe ((b.drop i).take 4))
  { seed := BitVec.ofNat 64 (bytesLe (b.take 8)), temp := w 8, topK := BitVec.ofNat 16 (bytesLe ((b.drop 12).take 2))
    topP := w 16, minP := w 20, rep := w 24, freq := w 28, pres := w 32, track := b.getD 36 0, rsvClear := true }

/-- The 32-byte ring descriptor (R160). -/
def ringBytes (d : RingDesc) : List Byte :=
  u64Bytes d.base ++ u64Bytes d.cons ++ [d.log2, d.func] ++ u16 d.vector.toNat ++ [d.notify] ++ (u32 d.serve.toNat).take 3 ++
  List.replicate 8 0

def ringOf (b : List Byte) : RingDesc :=
  { base := BitVec.ofNat 64 (bytesLe (b.take 8)), cons := BitVec.ofNat 64 (bytesLe ((b.drop 8).take 8)), log2 := b.getD 16 0
    func := b.getD 17 0, vector := BitVec.ofNat 16 (bytesLe ((b.drop 18).take 2)), notify := b.getD 20 0
    serve := BitVec.ofNat 20 (bytesLe ((b.drop 21).take 3)), rsvClear := true }

/-- An image of a pattern (R154). -/
def patternBytes (p : Pattern) : List Byte :=
  u16 p.len ++ [p.nstates, p.nranges, p.flags, p.state, 0, 0] ++
  (List.range 32).map (fun i => p.accept.extractLsb' (8 * i) 8) ++ p.ranges.flatMap u64Bytes ++ p.next

def patternOf (b : List Byte) : Pattern :=
  let nr := (b.getD 3 0).toNat
  let ns := (b.getD 2 0).toNat
  { len := bytesLe (b.take 2), nstates := b.getD 2 0, nranges := b.getD 3 0, flags := b.getD 4 0, state := b.getD 5 0
    accept := BitVec.ofNat 256 (bytesLe ((b.drop 8).take 32))
    ranges := (List.range nr).map fun i => BitVec.ofNat 64 (bytesLe ((b.drop (40 + 8 * i)).take 8))
    next := (b.drop (40 + 8 * nr)).take (16 * ns), rsvClear := true }

/-! ### The parts -/

def logBytes (r : Req) : List Byte := r.log.flatMap wordBytes

/-- Count table entries: TOKEN [17:0], COUNT [31:18] (R149). -/
def countsBytes (r : Req) : List Byte := r.samp.counts.flatMap fun e => wordBytes (e.2 ++ e.1)

/-- The Steeple part (R159). -/
def steepleBytes (r : Req) : List Byte :=
  BitVec.ofNat 8 r.samp.patterns.length :: List.replicate 15 0 ++ r.samp.patterns.flatMap patternBytes

def mapBytes (r : Req) : List Byte := r.pages.flatMap fun e => u64Bytes (mapEntry e.kind e.state e.copy e.layer e.index)

/-- The share table (R178): this device's entry carries its lane, its entry count and the CRC of its map; the other shares'
entries stand as they came with the baton. -/
def shareBytes (s : State) (r : Req) : List Byte :=
  (groupDevs s).flatMap fun d =>
    let lane := match r.lane with | some n => n.val | none => 0
    if d = s.mpl.devId then u32 (d.toNat + at_ lane 20) ++ u32 r.pages.length ++ wordBytes (crc32c (mapBytes r)) ++ [0, 0, 0, 0]
    else match r.shares.find? fun e => BitVec.ofNat 20 (bytesLe (e.take 3)) == d with
      | some e => e
      | none => u32 d.toNat ++ List.replicate 12 0

/-- STATE of R175. -/
def stateByte (r : Req) : Byte :=
  match r.phase with
  | .prompt => 1 | .handoff => 2 | .generation => 3 | .parking => 4 | .parked => 5 | .resuming => 6 | .ended => 7

/-- Bytes 0 to 251 of the baton record (R174). -/
def recordHead (s : State) (r : Req) (arith : Byte) : List Byte :=
  u64Bytes r.id ++ digestBytes r.digest ++
  [arith, stateByte r, BitVec.ofNat 8 (ofB r.cancelled + at_ (ofB r.auditFail) 1), r.endReason] ++
  u32 r.promptLen ++ u32 r.log.length ++ u32 r.samp.maxNew ++ u32 r.samp.counter ++ u16 r.epoch.toNat ++
  [BitVec.ofNat 8 r.nshares, 0] ++ leBytes 6 r.lastLap.toNat ++ [0, 0] ++ wordBytes r.strm.ttftTarget ++
  u32 r.strm.tbtTarget.toNat ++ samplerBytes r.samp.settings ++ u16 r.samp.counts.length ++ [0, 0] ++
  u32 (steepleBytes r).length ++ ringBytes r.strm.ring ++ wordBytes r.strm.produced ++
  u32 (r.strm.written.toNat + at_ (ofB r.strm.any) 30 + at_ (ofB r.strm.phase) 31) ++ wordBytes (crc32c (logBytes r)) ++
  wordBytes (crc32c (countsBytes r)) ++ wordBytes (crc32c (steepleBytes r)) ++ wordBytes (crc32c (shareBytes s r)) ++
  wordBytes r.strm.tokenEntries ++ List.replicate 40 0

def recordBytes (s : State) (r : Req) : List Byte :=
  let arith := match modelOf s r.model with | some m => m.arithMode | none => 0
  let h := recordHead s r arith
  h ++ wordBytes (crc32c h)

/-- The bytes of a control part as it stands. -/
def ctlBytes (s : State) (r : Req) : CtlKind → List Byte
  | .record => recordBytes s r
  | .log => logBytes r
  | .counts => countsBytes r
  | .steeple => steepleBytes r
  | .share => shareBytes s r
  | .map => mapBytes r
  | .list => []

/-- Parts of a share: all six for the lead share, the map alone otherwise (R189). -/
def ctlParts (s : State) : List CtlKind :=
  if isLead s then [.record, .log, .counts, .steeple, .share, .map] else [.map]

/-! ### A baton that arrives (R173 to R178) -/

def partOf (parts : List (CtlKind × List Byte)) (k : CtlKind) : List Byte :=
  match parts.find? fun p => p.1 == k with
  | some p => p.2
  | none => []

/-- Patterns that follow one another in a Steeple part. -/
def patternsOf : Nat → List Byte → List Pattern
  | 0, _ => []
  | n + 1, b => let p := patternOf b; p :: patternsOf n (b.drop p.len)

/-- Fields of a record. -/
def recNat (b : List Byte) (off n : Nat) : Nat := bytesLe ((b.drop off).take n)

/-- The request that the control parts of an arrived baton describe; its completion context stayed with the device that
admitted it. This device has read no CONS yet, so the ring appears full and SRG reads it first (R164). -/
def reqOfParts (s : State) (id : BatonId) (model : Nat) (parts : List (CtlKind × List Byte)) : Req :=
  let b := partOf parts .record
  let log := bytesWords (partOf parts .log)
  let plen := recNat b 60 4 % 2 ^ 23
  let w := recNat b 188 4
  let step := partOf parts .steeple
  { id, phase := .resuming, lane := none, model, digest := BitVec.ofNat 384 (recNat b 8 48), nshares := recNat b 78 1
    hdr := ⟨0, batonTenant id, 0, true⟩, promptLen := plen, prompt := log.take plen, done := log.length - 1, take := 0, log
    samp := {
      settings := samplerOf ((b.drop 96).take 48)
      counts := (bytesWords (partOf parts .counts)).map fun w => (w.setWidth 18, w.extractLsb' 18 14)
      patterns := patternsOf (step.headD 0).toNat (step.drop 16), counter := recNat b 72 4 % 2 ^ 23
      maxNew := recNat b 68 4 % 2 ^ 23, drawn := (log.filter fun x => x.extractLsb' 18 2 == 1).length }
    strm := {
      ring := ringOf ((b.drop 152).take 32), produced := lo32 (recNat b 184 4), phase := w / 2 ^ 31 % 2 == 1
      written := BitVec.ofNat 22 w, any := w / 2 ^ 30 % 2 == 1, tokenEntries := lo32 (recNat b 208 4), window := []
      cons := lo32 (recNat b 184 4) - lo32 (2 ^ (recNat b 168 1)), consLap := none, closed := recNat b 58 1 % 2 == 1, ttftTarget := lo32 (recNat b 88 4)
      tbtTarget := BitVec.ofNat 24 (recNat b 92 4), ttftStart := s.clk.now, lastCommit := s.clk.now, missed := 0, cause := 0
      ext := false, resumed := false, lapIrq := false, irqLap := none }
    endReason := b.getD 59 0, stopPattern := 0, cancelled := recNat b 58 1 % 2 == 1, cancelPos := 0
    auditFail := recNat b 58 1 / 2 % 2 == 1, cmds := [], waitPark := [], waitLand := [], parkNext := false, parkWhy := .ok
    missNow := 0, held := 0, heldPrev := false, expertWait := false, logits := none, draw := none, pages := [], heat := [], probe := []
    probeNew := [], sel := [], selNew := [], heatNew := [], listed := false, extQ := [], extCmds := [], resident := false
    handoffWait := 0, moveTried := 0, lost := none, capPort := none, tierBytes := 0, copies := [], audit := none, replay := false
    epoch := s.mpl.epoch, lastLap := s.lap.count, finalOwed := false, landing := none, readyAt := 0, residentAt := 0
    shares := groupsOf 16 (partOf parts .share).length (partOf parts .share), pulledBy := none, spillDue := none }

end Sys2Proof.Machine
end

