-- ==== Sys2Proof/Machine/ReqOps.lean ====
section
/-! DEFINITION. Requests and their lanes: batch places, join and prompt queues, ends, resting copies and the freeing of a request
(R24, R104, R105, R151 to R158, R170 to R176, R202 to R205). -/

namespace Sys2Proof.Machine

open Sys2Proof

/-! ### Lap tables of a lane -/

def fgTable (l : Lane) : Option LapTable := if l.tables.fg then l.tables.copyB else l.tables.copyA
def bgTable (l : Lane) : Option LapTable := if l.tables.fg then l.tables.copyA else l.tables.copyB
def setBgTable (t : Tables) (x : Option LapTable) : Tables := if t.fg then { t with copyA := x } else { t with copyB := x }
def setFgTable (t : Tables) (x : Option LapTable) : Tables := if t.fg then { t with copyB := x } else { t with copyA := x }

def rolePrompt : BitVec 2 := 1
def roleGen : BitVec 2 := 2
def roleCache : BitVec 2 := 3

def hasModel (l : Lane) (m : Nat) : Bool := l.models.toList.contains (some m)

/-- Lanes of a role in SERVING that have a model resident, in lane order. -/
def servingWith (s : State) (role : BitVec 2) (m : Nat) : List LaneNo :=
  lanesWhere s fun l => l.ctl = .serving && l.role == role && hasModel l m

/-! ### Batch places (R104, R113) -/

def placesPer (t : LapTable) : Nat := t.batchMax.toNat / t.subbatches.toNat

/-- The lowest-numbered sub-batch with a free place. -/
def freeSub (batch : List (BatonId × Nat)) (t : LapTable) : Option Nat :=
  (List.range t.subbatches.toNat).find? fun k => decide ((batch.countP fun m => m.2 == k) < placesPer t)

def memberSub (l : Lane) (b : BatonId) : Option Nat := (l.st.batch.find? fun m => m.1 == b).map (·.2)

def isMember_ (l : Lane) (b : BatonId) : Bool := l.st.batch.any fun m => m.1 == b

/-- Members in ascending sequence slot number. -/
def insertBySlot (b : BatonId) : List BatonId → List BatonId
  | [] => [b]
  | x :: xs => if batonSlot b < batonSlot x then b :: x :: xs else x :: insertBySlot b xs

def bySlot (bs : List BatonId) : List BatonId := bs.foldl (fun acc b => insertBySlot b acc) []

/-- Every member reassigned in slot order, each to the lowest sub-batch with a place (R113). -/
def reassign (batch : List (BatonId × Nat)) (t : LapTable) : List (BatonId × Nat) :=
  (bySlot (batch.map (·.1))).foldl (fun acc b => acc ++ [(b, (freeSub acc t).getD 0)]) []

/-- The join queue: by the lap of residency, then by slot (R104). -/
def insertJoin (x : BitVec 48 × BatonId) : List (BitVec 48 × BatonId) → List (BitVec 48 × BatonId)
  | [] => [x]
  | y :: ys =>
    if x.1.toNat < y.1.toNat || (x.1 == y.1 && decide (batonSlot x.2 < batonSlot y.2)) then x :: y :: ys
    else y :: insertJoin x ys

/-- A sequence leaves its lane's batch and queues. -/
def unqueue (s : State) (b : BatonId) : State :=
  match findReq s b with
  | none => s
  | some r =>
    match r.lane with
    | none => s
    | some n => modLane s n fun l => { l with st := { l.st with
        batch := l.st.batch.filter fun m => m.1 != b
        joinQ := l.st.joinQ.filter fun m => m.2 != b
        promptQ := l.st.promptQ.filter fun m => m.1 != b
        preemptQ := l.st.preemptQ.filter fun m => m.1 != b } }

/-- Queued prompt tokens of a lane (R102). -/
def queuedTokens (l : Lane) : Nat := (l.st.promptQ.map (·.2)).sum

/-! ### Heat directory (R141) -/

def fgDir (kv : LaneKv) : List BatonId := if kv.dirFg then kv.dirB else kv.dirA

def wantsDir (s : State) (r : Req) : Bool :=
  match modelOf s r.model with
  | some m => m.retrieve != 0
  | none => false

/-- A pending change of a lane's heat directory: true adds. -/
def dirChange (s : State) (n : LaneNo) (add : Bool) (b : BatonId) : State :=
  modLane s n fun l => { l with kv := { l.kv with dirPend := l.kv.dirPend ++ [(add, b)] } }

/-! ### Steeple states (R155) -/

def stpUse (r : Req) : Nat := patStates r.samp.patterns

def stpTake (s : State) (n : Nat) : State := { s with stp := { s.stp with free := s.stp.free - n } }
def stpGive (s : State) (n : Nat) : State := { s with stp := { s.stp with free := min 65536 (s.stp.free + n) } }

/-! ### Ends (R151, R158, R170, R176) -/

/-- The request's final token has committed, or it can draw none: END entry, final completion, and the park of R176 at the
next boundary. A cancelled request writes no second END entry. -/
def endRequest (s : State) (b : BatonId) (reason : Byte) (pattern : Nat) : State :=
  match findReq s b with
  | none => s
  | some r =>
    let code := if r.cancelled then Finish.cancelledDropped else .ok
    let s := modReq s b fun r =>
      let r := pushEntry r (endEntry reason (lastPos r) (lapLo s) .ok pattern)
      { r with endReason := reason, stopPattern := pattern, parkNext := true, extQ := [] }
    finalCpl s r code reason (lastPos r)

/-! ### Commands that wait (R24) -/

def cmdOp : ReqCmd → Byte
  | .pause _ => 0x02
  | .resume _ _ _ => 0x03
  | .cancel _ => 0x04
  | .release _ => 0x05
  | .extend _ _ => 0x06

def cmdHdr : ReqCmd → HostHdr
  | .pause h => h
  | .resume h _ _ => h
  | .cancel h => h
  | .release h => h
  | .extend h _ => h

/-- RESUME reports the baton in its body (R380). -/
def completeCmd (s : State) (b : BatonId) (op : Byte) (h : HostHdr) (code : Finish) : State :=
  if op = 0x03 then completeB s h op code 0 (batonWords b) else complete s h op code

def completeEach (s : State) (b : BatonId) (xs : List (Byte × HostHdr)) (code : Finish) : State :=
  xs.foldl (fun s x => completeCmd s b x.1 x.2 code) s

/-- Every command of a request that has not completed ends with a code. -/
def endCmds (s : State) (b : BatonId) (code : Finish) : State :=
  match findReq s b with
  | none => s
  | some r =>
    let s := modReq s b fun r => { r with cmds := [], waitPark := [], waitLand := [], extCmds := [], extQ := [] }
    completeEach s b (r.waitPark ++ r.waitLand ++ r.extCmds.map (fun x => (0x06, x.1)) ++
      r.cmds.map fun c => (cmdOp c.1, cmdHdr c.1)) code

/-- Granules of a lane's reserve and of the shared pool return (R187). -/
def ungrant (s : State) (n : LaneNo) (a b : Nat) : State :=
  { s with xz := { s.xz with
    reserveFree := vmod s.xz.reserveFree n (· + a), sharedFree := s.xz.sharedFree + b, held := vmod s.xz.held n (· - b) } }

/-- The legs of a baton's audit end, with their granules (R206, R207). -/
def dropReplayLegs (s : State) (b : BatonId) : State :=
  (s.btn.legs.filter fun g => g.replay && g.batons == [b]).foldl (fun s g =>
    let s := g.pages.foldl (fun s p => ungrant s g.dstLane p.reserveGr p.sharedGr) s
    dropLeg { s with xz := { s.xz with waiting := s.xz.waiting.filter fun w => w.leg != g.index } } g.index) s

/-- An audit ends: its legs, its scratch sequence and its scratch slots go. -/
def endAudit (s : State) (b : BatonId) (code : Finish) : State :=
  match findReq s b with
  | none => s
  | some r =>
    match r.audit with
    | none => s
    | some a =>
      let s := modReq (dropReplayLegs s b) b fun r => { r with audit := none }
      let s := { s with btn := { s.btn with replays := s.btn.replays.filter fun q => q.id != b } }
      completeB (freeSlots s a.lane a.scratch) a.cmd 0x07 code 0 [0, 0, 0, 0]

/-! ### A request leaves the device -/

def resting (r : Req) : Bool := r.phase = .parked || r.phase = .ended

/-- The slot's next baton takes another generation, once per baton (R11). -/
def bumpSlot (s : State) (b : BatonId) : State :=
  if batonHome b = s.mpl.devId && tblGetD s.slotGen (batonSlot b) 0 == batonGen b then
    { s with slotGen := tblSet s.slotGen (batonSlot b) (batonGen b + 1) }
  else s

/-- Pages, patterns, directory entry and slot go; commands left over end with `rest`. -/
def freeReq (s : State) (b : BatonId) (rest : Finish) : State :=
  match findReq s b with
  | none => s
  | some r =>
    let s := endCmds (endAudit s b .discarded) b rest
    let s := unqueue s b
    let s := match r.lane with
      | some n => if wantsDir s r && (laneOf s n).role == roleGen then dirChange s n false b else s
      | none => s
    let s := freePages s b
    bumpSlot (dropReq (stpGive s (stpUse r)) b) b

/-- A request ends at once with a final completion and no END entry (R382, R112, R332). -/
def abortReq (s : State) (b : BatonId) (code : Finish) : State :=
  match findReq s b with
  | none => s
  | some r => freeReq (finalCpl s r code 0 (lastPos r)) b code

/-! ### Copies at rest (R179, R202) -/

def goodCopy (c : CtlCopy) : Bool := crc32c c.bytes == c.crc

/-- The copies of a parked baton's control parts, in the cache lane and in the capacity tier. -/
def restCopies (s : State) (r : Req) : List CtlCopy :=
  (ctlParts s).flatMap fun k =>
    let b := ctlBytes s r k
    [⟨false, k, b, crc32c b⟩, ⟨true, k, b, crc32c b⟩]

/-- Some copy of each part passes its CRC. -/
def copiesHold (cs : List CtlCopy) : Bool := cs.all fun c => cs.any fun d => d.part == c.part && goodCopy d

/-- Check every copy: failing ones are rewritten from a passing copy and counted; where none passes the control state is
lost (R202). -/
def scrub (s : State) (b : BatonId) : State :=
  match findReq s b with
  | none => s
  | some r =>
    let bad := r.copies.filter fun c => !goodCopy c
    let fix := fun (c : CtlCopy) =>
      if goodCopy c then c
      else match r.copies.find? fun d => d.part == c.part && goodCopy d with
        | some d => { c with bytes := d.bytes, crc := d.crc }
        | none => c
    let fixable := bad.countP fun c => r.copies.any fun d => d.part == c.part && goodCopy d
    let lost := !copiesHold r.copies && r.lost.isNone
    let s := modReq s b fun r =>
      { r with copies := r.copies.map fix, lost := if lost then some .control else r.lost }
    { s with btn := { s.btn with
      crcFail := satAdd s.btn.crcFail fixable
      ctlLost := if lost then satInc s.btn.ctlLost else s.btn.ctlLost } }

/-- What a lost share's resume or audit, and its release, complete with. -/
def lossCode : Loss → Finish
  | .control => .discarded
  | .lane => .laneRetired
  | .device => .deadTarget
  | .port => .discarded

def releaseCode : Loss → Finish
  | .control => .ok
  | .lane => .laneRetired
  | .device => .deadTarget
  | .port => .discarded

/-! ### Exact resumption (R205) -/

/-- ORIGIN is 0b00 exactly for positions below PROMPT_LEN. -/
def originsOk (r : Req) : Bool :=
  r.log.zipIdx.all fun p => (p.1.extractLsb' 18 2 == 0) == decide (p.2 < r.promptLen)

/-- The checks of a resume that do not depend on the lane. -/
def resumeSound (s : State) (r : Req) : Bool :=
  decide (r.nshares = shareCount s) && decide (r.samp.counter = r.log.length) && originsOk r

/-- Lanes that can take a resume: the digest covers model, profiles and arithmetic. -/
def resumeLanes (s : State) (r : Req) : List LaneNo :=
  match modelOf s r.model with
  | some m => if m.digest == r.digest then servingWith s roleGen r.model else []
  | none => []

/-- Coach runs the device's new work: no new leg, join or admission while it restarts or is paused (R51, R369). -/
def coachServes (s : State) : Bool := s.coach.phase = .serving

/-- LAST_LAP follows a change of STATE (R174). -/
def setPhase (s : State) (b : BatonId) (p : ReqPhase) : State :=
  modReq s b fun r => if r.phase = p then r else { r with phase := p, lastLap := s.lap.count }

end Sys2Proof.Machine
end

