-- ==== Sys2Proof/Machine/LegOps.lean ====
section
/-! DEFINITION. Legs: space, granules and clearance, acceptance, local and remote legs, landing, commit and abort, SPILL and RECALL
(07_batons_and_exchange_zone.md R180 to R203). -/

namespace Sys2Proof.Machine

open Sys2Proof

/-! ### Codes (R180, R182) -/

def legHandoff : BitVec 4 := 1
def legPark : BitVec 4 := 2
def legSpill : BitVec 4 := 3
def legRecall : BitVec 4 := 4
def legResume : BitVec 4 := 5
def legCopy : BitVec 4 := 6
def legFetch : BitVec 4 := 7
def legSwap : BitVec 4 := 8

def legIdOf (g : Leg) : LegId := BitVec.ofNat 12 g.index ++ g.gen

/-- The leg that an ID names. -/
def findLeg (s : State) (i : LegId) : Option Leg := s.btn.legs.find? fun g => legIdOf g == i

def modLeg (s : State) (i : Nat) (f : Leg → Leg) : State :=
  { s with btn := { s.btn with legs := s.btn.legs.map fun g => if g.index = i then f g else g } }

/-- Legs that cross roles stage their pages in the exchange zone. -/
def throughXz (type : BitVec 4) : Bool := type = legHandoff || type = legPark || type = legResume

/-! ### Items (R178, R189, R190, R201, R203) -/

def itemOf (m : ModelSec) (S : Nat) (b : BatonId) (e : PageEnt) : LegItem :=
  ⟨b, e.kind, e.state, e.copy, e.layer, e.index, itemBytes m S e.kind e.state e.index.toNat⟩

/-- Group of R190, then layer, then descending number. -/
def legKey (m : ModelSec) (done : Nat) (e : PageEnt) : Nat :=
  let g := if e.kind ≠ kPage then 2 else if e.state = pOpen then 0
    else if candCount m done ≤ e.index.toNat then 1 else 3
  (g * 1024 + e.layer.toNat) * 65536 + (65535 - e.index.toNat)

def insertKeyed (f : PageEnt → Nat) (e : PageEnt) : List PageEnt → List PageEnt
  | [] => [e]
  | x :: xs => if f e < f x then e :: x :: xs else x :: insertKeyed f e xs

def legOrder (m : ModelSec) (done : Nat) (es : List PageEnt) : List PageEnt :=
  es.foldl (fun acc e => insertKeyed (legKey m done) e acc) []

/-- Entries that a leg inside the device carries as pages; the others move by map alone (R194, R201, R203). -/
def carried (type : BitVec 4) (e : PageEnt) : Bool :=
  if e.state = pFar then false
  else if type = legPark then !(e.kind == kPage && e.state == pSealed && e.copy)
  else if type = legResume then !(e.kind == kPage && e.state == pSealed)
  else true

/-- An entry as a leg to another device lists it: what would move by map alone passes as a FAR item (R194). -/
def farOut (type : BitVec 4) (e : PageEnt) : PageEnt := if carried type e then e else { e with state := pFar }

def legItems (s : State) (type : BitVec 4) (r : Req) (n : LaneNo) (remote : Bool) : List LegItem :=
  match modelOf s r.model with
  | none => []
  | some m =>
    let es := if remote then r.pages.map (farOut type) else r.pages.filter (carried type)
    (legOrder m r.done es).map (itemOf m (slotBytes (laneOf s n)) r.id)

/-- Bytes of an item at rest (R193): a multiple of 4 KiB. -/
def packed (n : Nat) : Nat := ceilDiv n 4096 * 4096

/-- Granules of a page with its header (R189). -/
def granules (it : LegItem) : Nat := ceilDiv (32 + it.bytes) 4096

/-! ### Space at the target (R193, R195) -/

/-- Take the space of one item in a prompt or generation lane: slots, or a run cell. -/
def allocItem (s : State) (n : LaneNo) (m : ModelSec) (it : LegItem) : State × Option (List Nat) :=
  let l := laneOf s n
  let S := slotBytes l
  if it.state = pFar then (s, some [])
  else if it.kind = kRunRec then
    match l.kv.runFree with
    | [] => (s, none)
    | c :: cs => (setLane s n { l with kv := { l.kv with runFree := cs } }, some [c])
  else
    let need := if it.kind = kPage then (if it.state = pOpen then 2 else 1)
      else if it.kind = kRecords then recordSlots m S
      else ceilDiv it.bytes S
    match takeSlots s n (batonTenant it.baton) need with
    | (s, ks) => if ks.length = need && S ≠ 0 then (s, some ks) else (freeSlots s n ks, none)

/-- Return the space of an item. -/
def freeItem (s : State) (n : LaneNo) (it : LegItem) (ks : List Nat) : State :=
  if it.kind = kRunRec && !isCache (laneOf s n) then ks.foldl (fun s k => freeCell s n k) s else freeSlots s n ks

/-- Items packed one after another from byte `o` of the slots `ks` of `S` bytes, each at a 4 KiB boundary (R193): the slots that
each touches and its offset in the first. -/
def packItems (S : Nat) (ks : List Nat) : Nat → List LegItem → List (List Nat × Nat)
  | _, [] => []
  | o, it :: its =>
    if it.state = pFar then ([], 0) :: packItems S ks o its
    else
      let len := packed it.bytes
      ((ks.drop (o / S)).take ((o + len - 1) / S - o / S + 1), o % S) :: packItems S ks (o + len) its

/-- Space for every item in a lane one by one, or none at all. -/
def allocEach (s : State) (n : LaneNo) (m : ModelSec) : List LegItem → State × Option (List (List Nat × Nat))
  | [] => (s, some [])
  | it :: its =>
    match allocItem s n m it with
    | (s, none) => (s, none)
    | (s, some ks) =>
      match allocEach s n m its with
      | (s, some rest) => (s, some ((ks, 0) :: rest))
      | (s, none) => (freeItem s n it ks, none)

/-- Space for the items of a leg, or none at all: packed in a cache lane, item by item in another lane (R193, R195). -/
def allocItems (s : State) (n : LaneNo) (m : ModelSec) (its : List LegItem) : State × Option (List (List Nat × Nat)) :=
  if isCache (laneOf s n) then
    let S := slotBytes (laneOf s n)
    let total := (its.map fun it => if it.state = pFar then 0 else packed it.bytes).sum
    match its with
    | [] => (s, some [])
    | it :: _ =>
      match takeSlots s n (batonTenant it.baton) (ceilDiv total S) with
      | (s, ks) => if ks.length = ceilDiv total S && (S ≠ 0 || total = 0) then (s, some (packItems S ks 0 its))
          else (freeSlots s n ks, none)
  else allocEach s n m its

/-- Capacity-tier space on the baton's port, or on the best one (R40). -/
def allocTier (s : State) (port : Option (Fin 4)) (bytes : Nat) : State × Option (Option (Fin 4 × Nat × Nat)) :=
  if bytes = 0 then (s, some none)
  else
    let p := match port with
      | some p => if capUp (s.cap.ports.get p) && decide (bytes ≤ portRoom s p) then some p else none
      | none => bestPort s bytes
    match p with
    | none => (s, none)
    | some p => let r := capTake s p bytes; (r.2, some (some (p, r.1, bytes)))

def freeTierSpace (s : State) (t : Option (Fin 4 × Nat × Nat)) : State :=
  match t with
  | none => s
  | some (p, _, n) => { s with cap := { s.cap with ports := vmod s.cap.ports p fun c => { c with used := c.used - n } } }

/-! ### Granules (R186, R187) -/

def laneSec (s : State) (n : LaneNo) : Option LaneSec := s.mpl.current.map fun p => p.lanes.get n

def guarOf (s : State) (n : LaneNo) : Nat := match laneSec s n with | some x => x.guar.toNat | none => 0
def capOf (s : State) (n : LaneNo) : Nat := match laneSec s n with | some x => x.cap.toNat | none => 0

/-- grant_shared's test for g granules. -/
def sharedOk (s : State) (n : LaneNo) (g : Nat) : Bool :=
  let after := fun (m : LaneNo) => s.xz.held.get m + if m = n then g else 0
  decide (s.xz.held.get n + g ≤ capOf s n) && decide (g ≤ s.xz.sharedFree)
  && decide ((laneNos.map fun m => guarOf s m - after m).sum ≤ s.xz.sharedFree - g)

/-- Grant granules: the lane reserve first, the rest from the shared pool. -/
def grant (s : State) (n : LaneNo) (g : Nat) : Option (State × Nat × Nat) :=
  let a := min (s.xz.reserveFree.get n) g
  let b := g - a
  if b = 0 || sharedOk s n b then
    some ({ s with xz := { s.xz with
      reserveFree := vmod s.xz.reserveFree n (· - a), sharedFree := s.xz.sharedFree - b, held := vmod s.xz.held n (· + b) } }, a, b)
  else none

/-- The first page of a leg without clearance. -/
def nextUncleared (g : Leg) : Option (Nat × LegPage) :=
  (g.pages.zipIdx.find? fun p => !p.1.cleared).map fun p => (p.2, p.1)

def setPage (g : Leg) (k : Nat) (f : LegPage → LegPage) : Leg :=
  { g with pages := g.pages.zipIdx.map fun p => if p.2 = k then f p.1 else p.1 }

/-! ### Messages between BTN blocks (R210, R215, log 17) -/

def msgRequest : Nat := 1
def msgClear : Nat := 4
def msgCommit : Nat := 5
def msgAbort : Nat := 6

/-- ADDR of a LEG_CTL frame: part number and offset. -/
def ctlAddr (part off : Nat) : BitVec 64 := BitVec.ofNat 64 (at_ part 32 + off)

/-- A leg message in one LEG_CTL frame: its kind stands in place of a part number, past 2^31. -/
def btnMsg (s : State) (dst : DevId) (leg : LegId) (kind : Nat) (ws : List Word) : State :=
  sysSend s dst opLegCtl (leg.setWidth 32) (ctlAddr (2147483648 + kind) 0) (ws.flatMap wordBytes)

/-- The source's leg ID of a leg between devices, at either end. -/
def sourceId (g : Leg) : LegId := if g.atTarget then g.peerId.getD 0 else legIdOf g

/-- The target's leg ID, which the frames carry. -/
def targetId (g : Leg) : LegId := if g.atTarget then legIdOf g else g.peerId.getD 0

/-- A message of a leg to its other end: three words and the source's leg ID. -/
def legMsg (s : State) (g : Leg) (kind : Nat) (a b c : Nat) : State :=
  if g.localLeg then s else btnMsg s g.peer (targetId g) kind [lo32 a, lo32 b, lo32 c, (sourceId g).setWidth 32]

/-- CLEAR messages: control clearance in blocks, data clearance in pages with their granules, and a part asked for again. -/
def clearControl (s : State) (g : Leg) (blocks : Nat) : State := legMsg s g msgClear 0 blocks 0
def clearData (s : State) (g : Leg) (pages grans : Nat) : State := legMsg s g msgClear 1 pages grans
def clearAgain (s : State) (g : Leg) (part : Nat) : State := legMsg s g msgClear 2 part 0

/-- A request or a pull that is refused: no leg has an ID here; the message names the requester's leg and the baton. -/
def refuseAsk (s : State) (dst : DevId) (entry : LegId) (b : BatonId) (code : Finish) : State :=
  btnMsg s dst 0 msgAbort [(finishCode code).setWidth 32, 0, 0, entry.setWidth 32, lo32 b.toNat, hi32 b.toNat]

/-- The bytes of a request (log 17). -/
def askBytes (r : LegReq) : List Byte :=
  let ask := match r.ask with | .opens => 0 | .pull => 1 | .add => 2 | .hold => 3
  [BitVec.ofNat 8 ask, r.type.setWidth 8, BitVec.ofNat 8 r.srcLane.val, BitVec.ofNat 8 r.dstLane.val, r.nshares,
   BitVec.ofNat 8 (ofB r.counterOk + at_ (ofB r.originOk) 1 + at_ (ofB r.recordRsvClear) 2 + at_ (ofB r.cancelled) 3
     + at_ (ofB r.ended) 4 + at_ (ofB r.ext) 5 + at_ (ofB r.lead) 6), 0, 0]
  ++ wordBytes (r.entry.setWidth 32) ++ wordBytes (r.leg.setWidth 32) ++ u32 r.states ++ u16 r.batons.length ++ u16 r.items.length
  ++ digestBytes r.digest ++ r.batons.flatMap u64Bytes
  ++ r.items.flatMap fun it => u64Bytes it.baton ++ u64Bytes (mapEntry it.kind it.state it.copy it.layer it.index) ++ u32 it.bytes

/-- Cut bytes into pieces of at most `n`, each with its offset; a part without bytes is one empty piece. -/
def cutBytes (n : Nat) (bs : List Byte) : List (Nat × List Byte) :=
  (List.range (max 1 (ceilDiv bs.length n))).map fun i => (i * n, (bs.drop (i * n)).take n)

/-- Payload of one LEG_CTL frame: at most a control-buffer block. -/
def ctlCut (s : State) : Nat := min 4096 (tableLimit s sysTable)

def sendAsk (s : State) (dst : DevId) (r : LegReq) : State :=
  (cutBytes (ctlCut s) (askBytes r)).foldl (fun s p =>
    sysSend s dst opLegCtl (r.leg.setWidth 32) (ctlAddr (2147483648 + msgRequest) p.1) p.2) s

/-! ### Clearance (R187, R189) -/

/-- Clear page k of a leg with its granules. -/
def clearPage (s : State) (g : Leg) (k a b : Nat) : State :=
  clearData (modLeg s g.index fun g => setPage g k fun p => { p with cleared := true, reserveGr := a, sharedGr := b }) g 1 (a + b)

/-- Pages that the exchange zone stages: those of legs that cross roles, and FAR pages on their way between the tiers of two
devices (R186, R194). -/
def staged (g : Leg) (it : LegItem) : Bool := throughXz g.type || (!g.localLeg && it.state == pFar)

/-- Clear a leg's pages in leg order as far as granules go; the page that cannot be granted waits (R187, R189). -/
def clearLeg : Nat → State → Nat → State
  | 0, s, _ => s
  | fuel + 1, s, i =>
    match s.btn.legs.find? (fun g => g.index == i) with
    | none => s
    | some g =>
      if g.state ≠ .clearing then s
      else match nextUncleared g with
        | none => s
        | some (k, p) =>
          if !staged g p.item then clearLeg fuel (clearPage s g k 0 0) i
          else if s.xz.waiting.any fun w => w.leg == i then s
          else
            let wait := { s with xz := { s.xz with waiting := s.xz.waiting ++ [⟨g.dstLane, granules p.item, i⟩] } }
            if s.xz.waiting.any fun w => w.lane == g.dstLane then wait
            else match grant s g.dstLane (granules p.item) with
              | some (s, a, b) => clearLeg fuel (clearPage s g k a b) i
              | none => wait

/-- Test the waiting requests in arrival order, the oldest of each lane; the legs granted. -/
def testWaiting : State → List LaneNo → List XzWait → State × List Nat
  | s, _, [] => (s, [])
  | s, blocked, w :: ws =>
    if blocked.contains w.lane then testWaiting s blocked ws
    else
      match s.btn.legs.find? (fun g => g.index == w.leg) with
      | none => testWaiting s blocked ws
      | some g =>
        match nextUncleared g, grant s w.lane w.granules with
        | some (k, _), some (s, a, b) =>
          let s := { s with xz := { s.xz with waiting := s.xz.waiting.filter fun x => x.leg != w.leg } }
          let r := testWaiting (clearPage s g k a b) blocked ws
          (r.1, w.leg :: r.2)
        | _, _ => testWaiting s (w.lane :: blocked) ws

/-- Granules became free (R187). -/
def retest (s : State) : State :=
  let r := testWaiting s [] s.xz.waiting
  r.2.foldl (fun s i => clearLeg 65536 s i) r.1

/-! ### Control-buffer blocks (R186) -/

/-- Blocks that a leg gets for its control parts: at most 16, and 64 stay for Marshal, LAP and SRG. -/
def takeBlocks (s : State) : Nat × State :=
  let n := min 16 (s.xz.ctlFree - 64)
  (n, { s with xz := { s.xz with ctlFree := s.xz.ctlFree - n } })

/-- A leg at its target still needs control clearance. -/
def wantsBlocks (g : Leg) : Bool :=
  g.atTarget && g.ctlBlocks = 0 && !g.partsLeft.isEmpty && (g.state == .opened || g.state == .clearing)

/-- Give a leg that has none its next control blocks, and tell a source on another device. -/
def giveBlocks (s : State) (i : Nat) : State :=
  match s.btn.legs.find? (fun g => g.index == i) with
  | none => s
  | some g =>
    let r := takeBlocks s
    if wantsBlocks g && r.1 ≠ 0 then clearControl (modLeg r.2 i fun g => { g with ctlBlocks := r.1 }) g r.1 else s

/-- Legs that wait for blocks get them as they free, lowest entry first. -/
def regrantBlocks (s : State) : State :=
  (s.btn.legs.filter wantsBlocks).foldl (fun s g => giveBlocks s g.index) s

def freeBlocks (s : State) (g : Leg) : State :=
  regrantBlocks (modLeg { s with xz := { s.xz with ctlFree := s.xz.ctlFree + g.ctlBlocks } } g.index fun g => { g with ctlBlocks := 0 })

/-- A frame of control content has been taken out of its block (R186). -/
def freeOneBlock (s : State) (g : Leg) : State :=
  regrantBlocks (modLeg { s with xz := { s.xz with ctlFree := s.xz.ctlFree + 1 } } g.index fun g =>
    { g with ctlBlocks := g.ctlBlocks - 1 })

/-! ### Acceptance (R189, R195) -/

/-- A lane into which an inbound leg may open. -/
def inboundOk (s : State) (n : LaneNo) (type : BitVec 4) : Bool :=
  let l := laneOf s n
  let role := if type = legPark then roleCache else if type = legHandoff || type = legResume then roleGen else l.role
  l.ctl = .serving && l.dataOpen && l.role == role && l.role != 0

/-- BTN starts no leg while the device is fenced, while Coach is away, or while the BTN and XZ blocks are held. -/
def btnOpen (s : State) : Bool := !isFenced s && coachServes s && !s.sta.blockHeld.getLsbD 3

/-! #### Parts by number (R173, R181, R189) -/

def partCode : CtlKind → Nat
  | .record => 0 | .log => 1 | .counts => 2 | .steeple => 3 | .share => 4 | .map => 5 | .list => 6

/-- Number of a part of the k-th baton. -/
def partNum (k : Nat) (c : CtlKind) : Nat := 8 * k + partCode c

def kindOf (part : Nat) : CtlKind :=
  match part % 8 with
  | 0 => .record | 1 => .log | 2 => .counts | 3 => .steeple | 4 => .share | 5 => .map | _ => .list

/-- The parts of a leg in order: the baton list of a SWAP leg, then each share's parts. -/
def legParts (type : BitVec 4) (lead : Bool) (batons : Nat) : List Nat :=
  (if type = legSwap then [partNum 0 .list] else []) ++
  (List.range batons).flatMap fun k =>
    (if lead then [CtlKind.record, .log, .counts, .steeple, .share, .map] else [.map]).map (partNum k)

/-- What a leg takes at its target. -/
structure LegAccept where
  type : BitVec 4
  localLeg : Bool
  peer : DevId
  peerId : Option LegId
  src : LaneNo
  dst : LaneNo
  batons : List BatonId
  lead : Bool
  items : List LegItem
  states : Nat
  port : Option (Fin 4)
  tierBytes : Nat
  dirs : Nat

/-- Entries that a lane's heat directory will hold once its pending changes are in (R141). -/
def dirCount (l : Lane) : Nat :=
  (l.kv.dirPend.foldl (fun (d : List BatonId) c => if c.1 then (if d.contains c.2 then d else d ++ [c.2]) else d.filter (· != c.2))
    (fgDir l.kv)).length

/-- An accepted leg at the target: entry, space, heat directory entries, Steeple states and control clearance; none where
anything is missing (R195, R205), nor capacity-tier space for a lane whose KV region has FAR = 0 (R42, R43). -/
def acceptLeg (s : State) (a : LegAccept) (m : ModelSec) : State × Option Nat :=
  let l := laneOf s a.dst
  if 4096 ≤ s.btn.legs.length || s.stp.free < a.states || (a.dirs != 0 && decide (l.kv.dirMax < dirCount l + a.dirs))
      || (a.tierBytes != 0 && !kvFlag l 1) then (s, none)
  else
    match allocItems s a.dst m a.items with
    | (s, none) => (s, none)
    | (s, some places) =>
      match allocTier s a.port a.tierBytes with
      | (s, none) => ((a.items.zip places).foldl (fun s p => freeItem s a.dst p.1 p.2.1) s, none)
      | (s, some tier) =>
        let mk := fun (i : Nat) (g : BitVec 16) =>
          ({ index := i, gen := g, type := a.type, atTarget := true, localLeg := a.localLeg, peer := a.peer, srcLane := a.src
             dstLane := a.dst, state := .opened, batons := a.batons, lead := a.lead
             partsLeft := legParts a.type a.lead a.batons.length, ctlOff := 0, partRx := [], partFails := [], partBytes := []
             pages := (a.items.zip places).map fun p => ⟨p.1, false, 0, 0, 0, false, p.2.1, p.2.2, none⟩
             ctlBlocks := 0, sent := 0, peerId := a.peerId, states := a.states, hold := false, replay := false, tier } : Leg)
        match openEntry (stpTake s a.states) mk with
        | some (i, s) => (giveBlocks s i, some i)
        | none => (s, none)

/-! ### Local moves -/

/-- Capacity-tier bytes of the SPILL that follows a PARK (R201). -/
def spillBytes (s : State) (r : Req) (items : List LegItem) : Nat :=
  (items.map fun it => packed it.bytes).sum + ((ctlParts s).map fun k => packed (ctlBytes s r k).length).sum

/-- The role that a lane was built for; a retired lane reads as unassigned, and what lies in its open stack may still leave. -/
def builtRole (l : Lane) : BitVec 2 :=
  match l.sec with
  | some x => x.role
  | none => l.role

/-- A lane from which a leg of a type may start (R180). SPILL, RECALL and FETCH open by their own rules, SWAP by R335. -/
def sourceOk (s : State) (n : LaneNo) (type : BitVec 4) : Bool :=
  let role := builtRole (laneOf s n)
  if type = legHandoff then role == rolePrompt
  else if type = legPark then role == roleGen || role == rolePrompt
  else if type = legResume then role == roleCache
  else type = legCopy && role != 0

/-- The copies of a baton at rest are checked before a leg out (R202); others pass. -/
def checkRest (s : State) (b : BatonId) : State :=
  match findReq s b with
  | some r => if r.phase = .parked || r.phase = .ended || r.phase = .resuming then scrub s b else s
  | none => s

/-- A share is here whole and no leg moves it. -/
def movable (s : State) (b : BatonId) : Bool :=
  match findReq s b with
  | some r => r.lost.isNone && !inLeg s b
  | none => false

/-- STATE while a leg of a type is open. -/
def legPhase (s : State) (type : BitVec 4) (b : BatonId) : State :=
  if type = legHandoff then setPhase s b .handoff
  else if type = legPark then setPhase s b .parking
  else if type = legResume then setPhase s b .resuming
  else s

/-- Open a leg of a request from its lane to a lane of this device; the request's batch place and queues are left first. -/
def openLocal (s : State) (type : BitVec 4) (b : BatonId) (dst : LaneNo) : State × Bool :=
  let s := checkRest s b
  match findReq s b with
  | none => (s, false)
  | some r =>
    match r.lane, modelOf s r.model with
    | some src, some m =>
      if !btnOpen s || !inboundOk s dst type || !(laneOf s src).dataOpen || !sourceOk s src type || !movable s b
          || (type = legCopy && builtRole (laneOf s src) != (laneOf s dst).role)
          || ((r.pages.any fun e => e.state == pFar) && !kvFlag (laneOf s dst) 1) then (s, false)
      else
        let items := legItems s type r src false
        let tier := if type = legPark then spillBytes s r items else 0
        let dir := (laneOf s dst).role == roleGen && wantsDir s r
        match acceptLeg s ⟨type, true, s.mpl.devId, none, src, dst, [b], isLead s, items, 0, r.capPort, tier, ofB dir⟩ m with
        | (s, none) => (s, false)
        | (s, some _) =>
          let s := if dir then dirChange s dst true b else s
          (legPhase (dropStaleFetches (unqueue s b) b) type b, true)
    | _, _ => (s, false)

/-! ### Moves to another device -/

/-- Until the switch to its epoch a swap leg sends no mutable part, and stays SENDING (R335). -/
def swapHeld (s : State) (g : Leg) : Bool := g.type = legSwap && s.mar.swapActive && s.mpl.epoch != s.mar.swapEpoch

/-- A part's bytes on the wire. The record and the share table carry the CRCs of the others; a SWAP leg's list, and the map of
a share that is not the lead, are followed by their own (log 17). -/
def partWire (s : State) (g : Leg) (part : Nat) : List Byte :=
  let k := kindOf part
  let bs := if k = .list then g.batons.flatMap u64Bytes
    else match g.batons[part / 8]? with
      | some b => (match findReq s b with | some r => ctlBytes s r k | none => [])
      | none => []
  if k = .list || (k = .map && !g.lead) then bs ++ wordBytes (crc32c bs) else bs

/-- A source has sent all that a leg carries: it is RELEASING (R183). -/
def sourceDone (s : State) (i : Nat) : State :=
  modLeg s i fun g =>
    if !g.atTarget && g.state = .sending && g.partsLeft.isEmpty && decide (g.sent = g.pages.length) && !swapHeld s g then
      { g with state := .releasing }
    else g

/-- The source sends control parts, one LEG_CTL frame for each block that is cleared (R189). -/
def sendParts : Nat → State → Nat → State
  | 0, s, i => sourceDone s i
  | fuel + 1, s, i =>
    match s.btn.legs.find? (fun g => g.index == i) with
    | none => s
    | some g =>
      match g.partsLeft with
      | [] => sourceDone s i
      | p :: ps =>
        if g.ctlBlocks = 0 || (swapHeld s g && kindOf p != .list) then s
        else
          let bs := partWire s g p
          let off := g.ctlOff * ctlCut s
          let last := decide (bs.length ≤ off + ctlCut s)
          let flags := (if g.ctlOff = 0 then flFirst else 0) ||| (if last then flLast else 0)
          let s := sysSendF s g.peer opLegCtl flags ((targetId g).setWidth 32) (ctlAddr p off) ((bs.drop off).take (ctlCut s))
          sendParts fuel (modLeg s i fun g => { g with
            ctlBlocks := g.ctlBlocks - 1, partsLeft := if last then ps else p :: ps, ctlOff := if last then 0 else g.ctlOff + 1 }) i

/-- What a leg request says of a share (R174, R205). -/
def askOf (s : State) (r : Req) (type : BitVec 4) (src dst : LaneNo) (items : List LegItem) (entry : LegId) : LegReq :=
  { ask := .opens, type, src := s.mpl.devId, entry, leg := 0, srcLane := src, dstLane := dst, batons := [r.id], digest := r.digest
    nshares := BitVec.ofNat 8 r.nshares, counterOk := decide (r.samp.counter = r.log.length), originOk := originsOk r
    recordRsvClear := true, cancelled := r.cancelled, ended := r.endReason != 0, ext := false, lead := isLead s
    states := if isLead s then stpUse r else 0, items }

/-- The entry of a leg at its source, SENDING once the target answers. -/
def sourceLeg (s : State) (type : BitVec 4) (dev : DevId) (src dst : LaneNo) (bs : List BatonId) (items : List LegItem)
    (i : Nat) (g : BitVec 16) : Leg :=
  { index := i, gen := g, type, atTarget := false, localLeg := false, peer := dev, srcLane := src, dstLane := dst
    state := .sending, batons := bs, lead := isLead s, partsLeft := legParts type (isLead s) bs.length, ctlOff := 0, partRx := []
    partFails := [], partBytes := [], pages := items.map fun it => ⟨it, false, 0, 0, 0, false, [], 0, none⟩
    ctlBlocks := 0, sent := 0, peerId := none, states := 0, hold := false, replay := false, tier := none }

/-- Open a leg to another device: this device is the source, and asks the target; nothing else goes before the target's
control clearance (R189). -/
def openRemote (s : State) (type : BitVec 4) (b : BatonId) (dev : DevId) (dst : LaneNo) : State × Bool :=
  let s := checkRest s b
  match findReq s b with
  | none => (s, false)
  | some r =>
    match r.lane with
    | none => (s, false)
    | some src =>
      if !btnOpen s || !(laneOf s src).dataOpen || !sourceOk s src type || !movable s b || s.te.dead.contains dev
          || s.te.fenced.contains dev then (s, false)
      else
        let items := legItems s type r src true
        match openEntry s (sourceLeg s type dev src dst [b] items) with
        | none => (s, false)
        | some (i, s) =>
          match s.btn.legs.find? (fun g => g.index == i) with
          | none => (s, false)
          | some g =>
            let s := sendAsk s dev (askOf s r type src dst items (legIdOf g))
            (legPhase (dropStaleFetches (unqueue s b) b) type b, true)

/-- Try a list of targets from a place on; the place tried and whether a leg opened. -/
def tryTargets (s : State) (type : BitVec 4) (b : BatonId) (ok : LaneNo → Bool) : List (Target × Nat) → State × Option Nat
  | [] => (s, none)
  | (t, k) :: ts =>
    if h : t.lane.toNat < 12 then
      let n : LaneNo := ⟨t.lane.toNat, h⟩
      let r := if t.dev = s.mpl.devId then (if ok n then openLocal s type b n else (s, false)) else openRemote s type b t.dev n
      if r.2 then (r.1, some k) else tryTargets r.1 type b ok ts
    else tryTargets s type b ok ts

/-- Set the place in the target list that a leg to another device was opened for. -/
def setTried (s : State) (b : BatonId) (k : Option Nat) : State := modReq s b fun r => { r with moveTried := k.getD 0 }

/-- Targets from the place after the last refused one. -/
def targetsFrom (ts : List Target) (k : Nat) : List (Target × Nat) := ts.zipIdx.drop k

/-- Try to park a request: the first cache lane of the park list that accepts (R201). -/
def tryPark (s : State) (b : BatonId) : State :=
  match findReq s b, deviceSec s with
  | some r, some d =>
    let x := tryTargets s legPark b (fun _ => true) (targetsFrom d.park r.moveTried)
    setTried x.1 b x.2
  | _, _ => s

/-- COUNT + JOIN_WAIT of a lane is below its BATCH_MAX (R199). -/
def hasRoom (l : Lane) : Bool :=
  match fgTable l with
  | some t => decide (l.st.batch.length + l.st.joinQ.length < t.batchMax.toNat)
  | none => false

/-- Try to hand a request off along its prompt lane's list (R199). -/
def tryHandoff (s : State) (b : BatonId) : State :=
  match findReq s b with
  | none => s
  | some r =>
    match r.lane with
    | none => s
    | some n =>
      match laneSec s n with
      | none => s
      | some x =>
        let y := tryTargets s legHandoff b (fun k => hasModel (laneOf s k) r.model && hasRoom (laneOf s k))
          (targetsFrom x.handoff r.moveTried)
        setTried y.1 b y.2

/-! ### Images -/

/-- Bytes of an entry's image where it lies. -/
def entImage (s : State) (r : Req) (e : PageEnt) : List Byte :=
  match r.lane, modelOf s r.model with
  | some n, some m =>
    let l := laneOf s n
    let len := itemBytes m (slotBytes l) e.kind e.state e.index.toNat
    if e.kind = kRunRec && !isCache l then
      match r.heat.find? (fun h => h.run && h.layer == e.layer.toNat && h.index == e.index.toNat) with
      | some h => heatBytes m h
      | none => List.replicate len 0
    else if e.kind = kProbe && !isCache l then ((probeImage m r.probe).drop (e.index.toNat * slotBytes l)).take len
    else if e.slots.isEmpty then
      match r.capPort with
      | some p => memBytes (s.mem.cap.get p) e.tierAddr len
      | none => []
    else loadImage (stackOf s n) l e.slots e.off len
  | _, _ => []

/-- The entry of a request that an item names. -/
def entOf (r : Req) (it : LegItem) : Option PageEnt := findPage r it.kind it.layer.toNat it.index.toNat

/-- The image that a leg's item carries. A FAR item is the capacity-tier copy (R194). -/
def itemImage (s : State) (r : Req) (it : LegItem) : List Byte :=
  match entOf r it with
  | none => []
  | some e =>
    if it.state = pFar && e.copy then
      match r.capPort with
      | some p => memBytes (s.mem.cap.get p) e.tierAddr it.bytes
      | none => entImage s r e
    else entImage s r e

/-! ### Page headers (R192) -/

/-- Header bytes 0 to 27 (R192). -/
def hdrHead (h : PageHdr) : List Byte :=
  u64Bytes h.baton ++ wordBytes h.leg ++ wordBytes h.ordinal ++ u64Bytes h.map ++ wordBytes h.bytes

def pageHdr (leg : LegId) (k : Nat) (it : LegItem) : PageHdr :=
  let h : PageHdr := ⟨it.baton, leg.setWidth 32, lo32 k, mapEntry it.kind it.state it.copy it.layer it.index, lo32 it.bytes, 0⟩
  { h with crc := crc32c (hdrHead h) }

/-- The 32 bytes of a page header. -/
def hdrBytes (h : PageHdr) : List Byte := hdrHead h ++ wordBytes h.crc

/-! ### Aborts (R183, R185, R196) -/

/-- The baton is in a lane's heat directory, or about to be. -/
def dirHas (l : Lane) (b : BatonId) : Bool :=
  match l.kv.dirPend.reverse.find? fun c => c.2 == b with
  | some c => c.1
  | none => (fgDir l.kv).contains b

/-- Take a baton out of a lane's heat directory where it is in it. -/
def dirDrop (s : State) (n : LaneNo) (b : BatonId) : State := if dirHas (laneOf s n) b then dirChange s n false b else s

/-- Key of a staged byte: entry, ordinal, offset. -/
def xzKey (i k off : Nat) : Nat := (i * 65536 + k) * 2097152 + off

/-- Staged bytes of a leg leave the exchange zone. -/
def clearStaged (s : State) (i : Nat) : State :=
  { s with mem := { s.mem with xz := s.mem.xz.filter fun c => !(decide (xzKey i 0 0 ≤ c.1) && decide (c.1 < xzKey (i + 1) 0 0)) } }

/-- Legs whose acceptance takes a heat directory entry in a generation lane. -/
def takesDir (type : BitVec 4) : Bool := type = legHandoff || type = legResume || type = legCopy || type = legSwap

/-- Free what the target holds for a leg: granules, blocks, slots, directory entries, Steeple states and tier space. -/
def freeLegSpace (s : State) (g : Leg) : State :=
  let s := g.pages.foldl (fun s p => freeItem (if p.written then s else ungrant s g.dstLane p.reserveGr p.sharedGr) g.dstLane p.item p.slots) s
  let s := stpGive (freeTierSpace s g.tier) g.states
  let s := if takesDir g.type && !g.replay then g.batons.foldl (fun s b => dirDrop s g.dstLane b) s else s
  clearStaged (freeBlocks { s with xz := { s.xz with waiting := s.xz.waiting.filter fun w => w.leg != g.index } } g) g.index

/-- The completion that an end of a leg between devices posts when it aborts and no command of its own waits for the leg (R196, log
31): the request's own, under OP SUBMIT with the baton ID. -/
def legCpl (s : State) (b : BatonId) (code : Finish) : State :=
  let h : HostHdr := match findReq s b with | some r => r.hdr | none => ⟨0, batonTenant b, 0, true⟩
  completeB s { h with tenant := batonTenant b } 0x01 code 0 (batonWords b)

/-- STATE of a request whose PARK leg did not commit: in a prompt lane it computes its prompt or waits to leave. -/
def unparkedPhase (s : State) (r : Req) : ReqPhase :=
  match r.lane with
  | some n =>
    if (laneOf s n).role = rolePrompt then (if r.done < r.promptLen then .prompt else .handoff) else .generation
  | none => .generation

/-- A sequence that a COPY leg took out of its lane's queues takes its work up again in the lane that holds it: in a prompt lane
at the queue's tail, in a generation lane when it is resident again. Its STATE has not changed. -/
def takeUp (s : State) (b : BatonId) : State :=
  match findReq s b with
  | none => s
  | some r =>
    match r.lane, r.phase with
    | some n, .prompt => modLane s n fun l => { l with st := { l.st with promptQ := l.st.promptQ ++ [(b, r.promptLen - r.done)] } }
    | some _, .generation => modReq s b fun r => { r with resident := false }
    | _, _ => s

/-- What the holder of the share does after a leg that did not commit: a handoff and a park are tried again at the next
boundary, a resume ends with the code. A pause that came during a HANDOFF parks from the lane that holds the baton. -/
def afterAbort (s : State) (g : Leg) (code : Finish) (b : BatonId) : State :=
  match findReq s b with
  | none => s
  | some r =>
    let tried := if code = .refused then r.moveTried + 1 else 0
    if g.type = legHandoff then
      let s := if code = .refused then s else legCpl s b code
      modReq (setPhase s b .handoff) b fun r => { r with moveTried := tried }
    else if g.type = legPark then
      let s := modReq (setPhase s b (unparkedPhase s r)) b fun r =>
        { r with parkNext := true, waitPark := if code = .refused then r.waitPark else [], moveTried := tried }
      if code = .refused then s else if r.waitPark.isEmpty then legCpl s b code else completeEach s b r.waitPark code
    else if g.type = legResume || g.type = legRecall then
      let s := setPhase s b (if r.endReason = 0 then .parked else .ended)
      let s := completeEach (modReq s b fun r => { r with waitLand := [], waitPark := [], landing := none, pulledBy := none, parkNext := false }) b
        r.waitLand code
      completeEach s b r.waitPark .ok
    else if g.type = legCopy then takeUp (if code = .refused then s else legCpl s b code) b
    else s

/-! ### Swaps (R335) -/

/-- The source ends of swap legs. -/
def swapSources (s : State) : List Leg := s.btn.legs.filter fun g => g.type == legSwap && !g.atTarget

/-- PRECOPY: every swap leg's backlog is empty. -/
def setPrecopy (s : State) : State :=
  if s.mar.swapActive then
    { s with mar := { s.mar with precopy := (swapSources s).all fun g => decide (g.sent = g.pages.length) } }
  else s

/-- Once no swap leg is left the SWAP command ends: SWAP_DONE names the lanes that went (R335, R338). -/
def swapEnd (s : State) : State :=
  if s.mar.swapActive && (swapSources s).isEmpty then
    let s := { s with mar := { s.mar with swapActive := false, precopy := false, busy := false } }
    if s.mar.swapLanes = 0 then s else marLog s evSwapDone 0xF s.mpl.devId 0xFF (s.mar.swapLanes.setWidth 32)
  else s

/-- A swap leg that aborts leaves its lane out of the swap, and the command's result is its code. -/
def swapLost (s : State) (g : Leg) (code : Finish) : State :=
  if g.type = legSwap && !g.atTarget then
    swapEnd { s with mar := { s.mar with
      swapLanes := s.mar.swapLanes &&& ~~~((1 : BitVec 12) <<< g.srcLane.val), result := finishCode code } }
  else s

/-- A pull ends with a code: its RESUME and the pauses that waited for it (R24). -/
def endPull (s : State) (p : Pull) (code : Finish) : State :=
  let s := { s with btn := { s.btn with pulls := s.btn.pulls.filter fun q => q.baton != p.baton } }
  let s := completeB s p.h 0x03 code 0 (batonWords p.baton)
  let s := p.pauses.foldl (fun s h => complete s h 0x02 .ok) s
  p.cmds.foldl (fun s c => completeCmd s p.baton (cmdOp c.1) (cmdHdr c.1) .refused) s

/-- The scratch sequence of an audit whose leg did not commit ends with the audit (R207). -/
def dropReplay (s : State) (b : BatonId) : State :=
  { s with btn := { s.btn with replays := s.btn.replays.filter fun r => r.id != b } }

/-- What an abort does at a target whose source is another device: a pulled resume ends, and for the other moves the target posts
its own completion (R196). -/
def afterRemoteAbort (s : State) (g : Leg) (code : Finish) : State :=
  if g.type = legResume then
    (s.btn.pulls.filter fun p => g.batons.contains p.baton).foldl (fun s p => endPull s p code) s
  else if g.type = legSwap || code = .refused then s
  else g.batons.foldl (fun s b => legCpl s b code) s

/-- A leg ends ABORTED. `tell`: LEG_ABORT goes to the other end. -/
def abortLeg (s : State) (g : Leg) (code : Finish) (tell : Bool) : State :=
  let s := if tell then legMsg s g msgAbort (finishCode code).toNat 0 0 else s
  let s := if g.atTarget then freeLegSpace s g else s
  let s := dropLeg s g.index
  let s := if g.replay then g.batons.foldl (fun s b => endAudit (dropReplay s b) b code) s
    else if g.localLeg || !g.atTarget then g.batons.foldl (fun s b => afterAbort s g code b) s
    else afterRemoteAbort s g code
  swapLost (retest s) g code

/-! ### Landing (R183, R189) -/

/-- The bytes of a part that has passed. -/
def partIn (g : Leg) (part : Nat) : Option (List Byte) := (g.partBytes.find? fun p => p.1 == part).map (·.2)

/-- RSV bytes and bits of a record are zero (R174). -/
def recordRsvOk (b : List Byte) : Bool :=
  let z := fun (lo n : Nat) => ((b.drop lo).take n).all (· == 0)
  let top := fun (i : Nat) => decide (recNat b i 4 < 2 ^ 23)
  decide ((b.getD 58 0).toNat < 4) && top 60 && top 64 && top 68 && top 72 && z 79 1 && z 86 2 && z 95 1 && z 110 2 && z 133 11
  && z 146 2 && decide ((b.getD 175 0).toNat < 16) && z 176 8 && decide (recNat b 188 4 / 2 ^ 22 % 2 ^ 8 = 0) && z 212 40

/-- The verdict on a complete part (R179, R198). -/
inductive PartFit where
  | waits | good | bad | rsv
deriving DecidableEq, Repr

def fitOf (b : Bool) : PartFit := if b then .good else .bad

/-- CRC of the map that the share table gives for a device's share (R178). -/
def shareCrc (tab : List Byte) (d : DevId) : Option Word :=
  ((groupsOf 16 tab.length tab).find? fun e => BitVec.ofNat 20 (recNat e 0 3) == d).map fun e => lo32 (recNat e 8 4)

/-- Check a part from another device against the CRC that the baton carries for it; the log, the counts and the patterns wait for
the record, and the lead share's map for the share table. -/
def partFit (g : Leg) (part : Nat) (bs : List Byte) : PartFit :=
  let base := part / 8 * 8
  let own := fitOf (4 ≤ bs.length && lo32 (recNat bs (bs.length - 4) 4) == crc32c (bs.take (bs.length - 4)))
  let byRecord := fun (off : Nat) => match partIn g base with
    | none => PartFit.waits
    | some r => fitOf (lo32 (recNat r off 4) == crc32c bs)
  match kindOf part with
  | .record => if bs.length = 256 && own = .good then (if recordRsvOk bs then .good else .rsv) else .bad
  | .log => byRecord 192
  | .counts => byRecord 196
  | .steeple => byRecord 200
  | .share => byRecord 204
  | .map => if g.lead then (match partIn g (base + 4) with
      | none => .waits
      | some tab => fitOf (shareCrc tab g.peer == some (crc32c bs))) else own
  | .list => own

/-- A part without the CRC that follows it on the wire. -/
def partBody (g : Leg) (part : Nat) (bs : List Byte) : List Byte :=
  if kindOf part = .list || (kindOf part = .map && !g.lead) then bs.take (bs.length - 4) else bs

/-- A leg at its target has landed once every page is written; a SWAP leg once its parts are in as well (R183, R335). -/
def landIfDone (s : State) (i : Nat) : State :=
  modLeg s i fun g =>
    if g.atTarget && g.state = .clearing && g.partsLeft.isEmpty && g.pages.all (·.written) then { g with state := .landed } else g

/-- Every control part passed, or the list of a SWAP leg: data clearance begins (R183, R189). -/
def partsDone (s : State) (i : Nat) : State :=
  match s.btn.legs.find? (fun g => g.index == i) with
  | none => s
  | some g =>
    if g.state = .opened && (g.partsLeft.isEmpty || (g.type = legSwap && !g.partsLeft.contains (partNum 0 .list))) then
      let s := if g.partsLeft.isEmpty then freeBlocks s g else s
      landIfDone (clearLeg 65536 (modLeg s i fun g => { g with state := .clearing }) i) i
    else landIfDone s i

/-- A part has passed. -/
def passPart (s : State) (g : Leg) (part : Nat) (bs : List Byte) : State :=
  modLeg s g.index fun g =>
    { g with partsLeft := g.partsLeft.filter (· != part), partBytes := g.partBytes ++ [(part, partBody g part bs)]
             partRx := g.partRx.filter fun x => x.part != part }

def failsOf (g : Leg) (part : Nat) : Nat :=
  match g.partFails.find? fun p => p.1 == part with
  | some p => p.2
  | none => 0

/-- A part that fails its CRC is discarded, counted and asked for again; its third failure aborts the leg with DISCARDED (R198). -/
def failPart (s : State) (g : Leg) (part : Nat) : State :=
  let s := { s with btn := { s.btn with crcFail := satInc s.btn.crcFail } }
  let n := failsOf g part + 1
  if 3 ≤ n then abortLeg s g .discarded true
  else clearAgain (modLeg s g.index fun g =>
    { g with partFails := (part, n) :: g.partFails.filter (fun p => p.1 != part), partRx := g.partRx.filter fun x => x.part != part }) g part

/-- Insert a piece of a part by its offset. -/
def insertChunk (x : Nat × List Byte) : List (Nat × List Byte) → List (Nat × List Byte)
  | [] => [x]
  | y :: ys => if x.1 < y.1 then x :: y :: ys else y :: insertChunk x ys

/-- The bytes of a part, once they are all here. -/
def partWhole (x : PartRx) : Option (List Byte) :=
  match x.total with
  | some n => if (x.chunks.map fun c => c.2.length).sum = n then some (x.chunks.flatMap (·.2)) else none
  | none => none

/-- Check the parts that are complete, in the order of their numbers, until none is left that can be checked. -/
def settleParts : Nat → State → Nat → State
  | 0, s, i => partsDone s i
  | fuel + 1, s, i =>
    match s.btn.legs.find? (fun g => g.index == i) with
    | none => s
    | some g =>
      match g.partRx.findSome? (fun x =>
          match partWhole x with
          | some bs => if partFit g x.part bs = .waits then none else some (x.part, bs)
          | none => none) with
      | none => partsDone s i
      | some (part, bs) =>
        match partFit g part bs with
        | .good => settleParts fuel (passPart s g part bs) i
        | .rsv => abortLeg s g .refused true
        | _ => settleParts fuel (failPart s g part) i

/-- A piece of a part from another device goes from its control block to the part (R186, R189). -/
def takeChunk (s : State) (g : Leg) (part off : Nat) (last : Bool) (bs : List Byte) : State :=
  let s := modLeg s g.index fun g =>
    let x : PartRx := (g.partRx.find? fun x => x.part == part).getD ⟨part, [], none⟩
    let y := { x with chunks := insertChunk (off, bs) x.chunks, total := if last then some (off + bs.length) else x.total }
    { g with partRx := g.partRx.filter (fun x => x.part != part) ++ [y] }
  settleParts (g.partsLeft.length + 1) (freeOneBlock s g) g.index

/-- Page k of a leg is written: its granules free, and the leg has landed once it was the last. -/
def pageDone (s : State) (g : Leg) (k : Nat) : State :=
  match g.pages[k]? with
  | none => s
  | some p =>
    let s := ungrant s g.dstLane p.reserveGr p.sharedGr
    let s := modLeg s g.index fun g => setPage g k fun p => { p with written := true, reserveGr := 0, sharedGr := 0 }
    landIfDone (clearLeg 65536 (retest s) g.index) g.index

/-! ### Commit (R184, R193, R194, R200, R201, R203) -/

/-- The form that a landed item takes in its lane (R193): packed with its header in a cache lane; with its index record elsewhere
(R122). -/
def formIn (m : ModelSec) (cache : Bool) (p : LegPage) (hdr : List Byte) (e : PageEnt) : PageEnt :=
  { e with
    slots := p.slots, off := p.off, hdr := if cache || e.state = pFar then hdr else []
    index_ := if e.kind = kPage && !cache && e.state != pFar then indexEntries m (e.state == pSealed) e.filled else [] }

/-- A request's entries after a leg's commit into a lane of this device: carried items take the target's slots, FAR ones
stay, and SEALED pages with a copy become FAR. -/
def landedEnts (s : State) (g : Leg) (r : Req) : List PageEnt :=
  let cache := isCache (laneOf s g.dstLane)
  r.pages.map fun e =>
    match g.pages.zipIdx.find? (fun p => p.1.item.baton == r.id && isPage p.1.item.kind p.1.item.layer.toNat p.1.item.index.toNat e),
        modelOf s r.model with
    | some p, some m =>
      let e := { e with copy := e.copy && (e.state != pOpen) && (e.kind == kPage) }
      formIn m cache p.1 (hdrBytes (pageHdr (legIdOf g) p.2 p.1.item)) e
    | _, _ => { e with state := pFar, slots := [], off := 0, index_ := [] }

/-- The extension of a resume becomes pre-emption work of the lane (R110, R203). -/
def queueExt (s : State) (n : LaneNo) (b : BatonId) : State :=
  match findReq s b with
  | none => s
  | some r =>
    if r.extQ.isEmpty then s
    else modLane s n fun l => { l with st := { l.st with preemptQ := l.st.preemptQ ++ [(b, r.extQ.length, s.clk.now)] } }

/-- What a resume brings takes effect: an extension with its bound, which counts the tokens drawn from then on (log 55),
accepting STOP patterns back to state 0, and the stream (R165, R176, R203). -/
def takeLanding (s : State) (b : BatonId) : State :=
  match findReq s b with
  | none => s
  | some r =>
    match r.landing with
    | none => s
    | some (ring, ext) =>
      let restart := fun (q : Pattern) => if patStop q && patAccepts q then { q with state := 0 } else q
      let s := modReq s b fun r =>
        match ext with
        | some x => { r with
            landing := none, extQ := x.tokens, endReason := 0
            samp := { r.samp with
              maxNew := r.samp.drawn + x.maxNew.toNat
              patterns := if r.endReason = 0 then r.samp.patterns else r.samp.patterns.map restart } }
        | none => { r with landing := none }
      streamResume s b ring

/-- A local leg commits: the source's slots free, the share lies in the target lane. -/
def commitLocal (s : State) (g : Leg) (b : BatonId) : State :=
  match findReq s b with
  | none => s
  | some r =>
    let ents := landedEnts s g r
    let s := r.pages.foldl (fun s e => freeEnt s g.srcLane e) s
    let s := dirDrop s g.srcLane b
    let s := modReq s b fun r => { r with
      lane := some g.dstLane, pages := ents, epoch := s.mpl.epoch, resident := false
      heldPrev := false, held := 0, moveTried := 0, sel := [], selNew := [], listed := false }
    dropStaleFetches s b

/-- Open the SPILL of a parked share (R201); while Coach is away it waits (R51). Its space was allocated with the PARK leg; what a baton from another device
needs beyond it is taken when it commits. -/
def openSpill (s : State) (b : BatonId) (n : LaneNo) (tier : Option (Fin 4 × Nat × Nat)) : State :=
  let mk := fun (i : Nat) (g : BitVec 16) =>
    ({ index := i, gen := g, type := legSpill, atTarget := true, localLeg := true, peer := s.mpl.devId, srcLane := n
       dstLane := n, state := .clearing, batons := [b], lead := isLead s, partsLeft := [], ctlOff := 0, partRx := [], partFails := []
       partBytes := [], pages := [], ctlBlocks := 0, sent := 0, peerId := none, states := 0, hold := false, replay := false, tier } : Leg)
  if coachServes s then (match openEntry s mk with | some (_, s) => s | none => s)
  else modReq s b fun r => { r with spillDue := some (n, tier) }

/-- Pack items one after another from an address: the entries with their addresses, the memory, and the end. -/
def spillEnts (s : State) (r : Req) (m : ModelSec) (S : Nat) : Nat → Mem → List PageEnt → List PageEnt × Mem × Nat
  | a, mem, [] => ([], mem, a)
  | a, mem, e :: es =>
    if e.copy || e.state = pFar then
      let x := spillEnts s r m S a mem es
      (e :: x.1, x.2)
    else
      let bs := entImage s r e
      let x := spillEnts s r m S (a + packed bs.length) (memStore mem a bs) es
      ({ e with copy := true, tierAddr := a } :: x.1, x.2)

/-- The SPILL commits: pages and control parts are in the capacity tier; the baton is PARKED or ENDED (R201). -/
def spillCommit (s : State) (b : BatonId) (g : Leg) : State :=
  match findReq s b with
  | none => dropLeg s g.index
  | some r =>
    match g.tier, modelOf s r.model with
    | some (p, base, bytes), some m =>
      let x := spillEnts s r m (slotBytes (laneOf s g.dstLane)) base (s.mem.cap.get p) r.pages
      let copies := restCopies s r
      let parts := (ctlParts s).map (ctlBytes s r)
      let extra := (x.2.2 - base) + (parts.map fun bs => packed bs.length).sum - bytes
      let more := capTake s p extra
      let s := more.2
      let mem := parts.foldl (fun (acc : Mem × Nat) bs => (memStore acc.1 acc.2 bs, acc.2 + packed bs.length))
        (x.2.1, if extra = 0 then x.2.2 else more.1)
      let s := { s with mem := { s.mem with cap := vset s.mem.cap p mem.1 } }
      let s := modReq s b fun r => { r with
        pages := x.1, copies, capPort := some p, tierBytes := r.tierBytes + bytes + extra, epoch := s.mpl.epoch
        phase := if r.endReason = 0 then .parked else .ended, lastLap := s.lap.count, parkNext := false, waitPark := []
        moveTried := 0, handoffWait := 0, resident := false }
      let s := pushNotice s b (if r.parkWhy = .heldNoPage then noticeHeldParked else noticeParked)
      let s := { s with btn := { s.btn with uncounted := s.btn.uncounted.filter (· != b) } }
      let s := dropLeg s g.index
      let code := if r.parkWhy = .deadTarget then Finish.deadTarget else .ok
      let s := completeEach s b r.waitPark code
      let s := modReq s b fun r => { r with parkWhy := .ok }
      if r.cancelled && r.endReason = 0 then finalCpl s r .cancelledDropped reasonCancelled (lastPos r) else s
    | _, _ => dropLeg s g.index

/-- What follows a commit in the target lane, by the leg's type. -/
def afterLanding (s : State) (g : Leg) (b : BatonId) : State :=
  match findReq s b with
  | none => s
  | some r =>
    if g.type = legPark then openSpill (setPhase s b .parking) b g.dstLane g.tier
    else if g.type = legCopy then queueExt (takeUp s b) g.dstLane b
    else
      let s := setPhase s b .generation
      if g.type = legResume then
        let s := takeLanding (modReq s b fun r => { r with waitLand := [], copies := [] }) b
        queueExt (completeEach s b r.waitLand .ok) g.dstLane b
      else s

/-- Commit a landed leg whose two ends are here. -/
def commitHere (s : State) (g : Leg) : State :=
  g.batons.foldl (fun s b => afterLanding (commitLocal s g b) g b) (dropLeg s g.index)

/-! ### A baton that lands from another device -/

/-- A heat record from its bytes (R133). -/
def heatOfBytes (m : ModelSec) (run : Bool) (bs : List Byte) : HeatRec :=
  let page := bytesLe (bs.take 2)
  let vec := fun (i : Nat) => (bs.drop (64 + i * m.headDim.toNat)).take m.headDim.toNat
  { run, layer := bytesLe ((bs.drop 2).take 2), index := if run then page / 64 else page, pages := (bs.getD 6 0).toNat
    kmax := (List.range (mHeads m)).map fun h => vec (2 * h), kmin := (List.range (mHeads m)).map fun h => vec (2 * h + 1) }

/-- Image bytes of a remote leg's page as staged, past its header. -/
def xzImage (s : State) (g : Leg) (k : Nat) (len : Nat) : List Byte := memBytes s.mem.xz (xzKey g.index k 32) len

/-- Heat records of the landed items: run records, and the page records in their record slots. -/
def landedHeat (s : State) (g : Leg) (m : ModelSec) (b : BatonId) : List HeatRec :=
  g.pages.zipIdx.flatMap fun p =>
    let it := p.1.item
    if it.baton ≠ b then []
    else if it.kind = kRunRec then [heatOfBytes m true (xzImage s g p.2 it.bytes)]
    else if it.kind = kRecords then
      ((groupsOf (heatRecBytes m) 64 (xzImage s g p.2 it.bytes)).filter fun x => (x.getD 6 0) != 0).map (heatOfBytes m false)
    else []

/-- The probe record of the landed pieces. -/
def landedProbe (s : State) (g : Leg) (m : ModelSec) (b : BatonId) : List (Nat × List (List F32)) :=
  let ps := g.pages.zipIdx.filter fun p => p.1.item.kind == kProbe && p.1.item.baton == b
  let bs := ps.flatMap fun p => xzImage s g p.2 p.1.item.bytes
  if bs.isEmpty then []
  else
    let H := m.headDim.toNat
    (List.range (mLayers m)).map fun l => (l, (List.range (mHeads m)).map fun h => (List.range H).map fun j =>
      let o := ((l * mHeads m + h) * H + j) * 2
      (bs.getD (o + 1) 0 ++ bs.getD o 0 ++ (0 : BitVec 16) : BitVec 32))

/-- Capacity-tier bytes of the leg's FAR items, and the address of the one at place k (R194). -/
def farBytes (ps : List LegPage) : Nat := (ps.map fun p => if p.item.state = pFar then packed p.item.bytes else 0).sum

def farAddr (g : Leg) (k : Nat) : Nat :=
  (match g.tier with | some t => t.2.1 | none => 0) + farBytes (g.pages.take k)

/-- The map entry of a landed item, with the header that came before its image. A page from another device is new to the lane, so
its last use is the present lap (log 56). -/
def landedEntry (s : State) (g : Leg) (m : ModelSec) (p : LegPage × Nat) : PageEnt :=
  let it := p.1.item
  formIn m (isCache (laneOf s g.dstLane)) p.1 (memBytes s.mem.xz (xzKey g.index p.2 0) 32)
    { kind := it.kind, state := it.state, copy := it.state == pFar, layer := it.layer
      index := it.index, slots := p.1.slots, lastUse := s.lap.count, filled := if it.state = pOpen then 0 else 128
      lapNew := false, sealSlot := none, wrote := 0, sealedNow := false, tierAddr := if it.state = pFar then farAddr g p.2 else 0, off := 0, hdr := [], index_ := [] }

/-- The k-th baton's parts of a leg. -/
def partsFor (g : Leg) (k : Nat) : List (CtlKind × List Byte) :=
  [CtlKind.record, .log, .counts, .steeple, .share, .map].filterMap fun c => (partIn g (partNum k c)).map fun bs => (c, bs)

/-- Positions committed in an open page of a baton that arrived, with its index record. -/
def fixFilled (m : ModelSec) (r : Req) (e : PageEnt) : PageEnt :=
  if e.kind = kPage && e.state = pOpen then
    let n := min 128 (r.done - 128 * e.index.toNat)
    { e with filled := n, index_ := if e.index_.isEmpty then [] else indexEntries m false n }
  else e

/-- The resident model of a lane with a digest. -/
def modelByDigest (s : State) (n : LaneNo) (d : Digest) : Option Nat :=
  ((laneOf s n).models.toList.filterMap id).find? fun k =>
    match modelOf s k with
    | some m => m.digest == d
    | none => false

/-- Commit point of a lap not long past (R91): LAST_LAP names the lap of the last change of STATE, after a HANDOFF that of the first
token (R166, R174). -/
def commitTime (s : State) (lap : BitVec 48) : Nat :=
  s.lap.boundaryAt + s.lap.period * 1000 - s.lap.quiet * 1000 - (s.lap.count - lap).toNat * (s.lap.period * 1000)

/-- What waits for a pulled baton reaches its request: the ring and the extension of the resume, the pauses and a cancel (R24). -/
def takePull (s : State) (b : BatonId) (n : LaneNo) : State :=
  match s.btn.pulls.find? (fun p => p.baton == b) with
  | none => s
  | some p =>
    let s := { s with btn := { s.btn with pulls := s.btn.pulls.filter fun q => q.baton != b } }
    let s := takeLanding (modReq s b fun r => { r with landing := some (p.ring, p.ext), cmds := p.cmds }) b
    let s := if p.cancelled then modReq s b fun r =>
        let r := pushEntry r (endEntry reasonCancelled (lastPos r) (lapLo s) .cancelledDropped 0)
        { r with cancelled := true, cancelPos := lastPos r, strm := { r.strm with closed := true } }
      else s
    let s := if p.pauses.isEmpty then s else modReq s b fun r =>
      { r with parkNext := true, waitPark := p.pauses.map fun h => (0x02, h) }
    queueExt (completeB s p.h 0x03 .ok 0 (batonWords b)) n b

/-- A remote leg commits here for its k-th baton. Its heat directory entry and its Steeple states were taken at acceptance. -/
def commitRemote (s : State) (g : Leg) (b : BatonId) (k : Nat) : State :=
  let recB := partOf (partsFor g k) .record
  let digest := BitVec.ofNat 384 (recNat recB 8 48)
  let plan := match s.mpl.current with | some p => p.models | none => []
  let model := match modelByDigest s g.dstLane digest, plan.find? (fun m => m.digest == digest) with
    | some x, _ => x
    | none, some m => m.number
    | none, none => 0
  let r := reqOfParts s b model (partsFor g k)
  match modelOf s model with
  | none => s
  | some m =>
    let ents := ((g.pages.zipIdx.filter fun p => p.1.item.baton == b).map (landedEntry s g m)).foldl
      (fun acc e => insertPage (fixFilled m r e) acc) []
    let heat := landedHeat s g m b
    let probe := landedProbe s g m b
    let role := (laneOf s g.dstLane).role
    let phase := if g.type = legPark then ReqPhase.parking
      else if role == roleCache then (if r.endReason = 0 then .parked else .ended)
      else if role == rolePrompt then .prompt else .generation
    let r := { r with
      lane := some g.dstLane, phase, pages := ents, heat, heatNew := heat, probe, probeNew := probe, parkNext := g.hold
      capPort := g.tier.map (·.1), tierBytes := farBytes (g.pages.filter fun p => p.item.baton == b)
      strm := if g.type = legHandoff then { r.strm with lastCommit := commitTime s (BitVec.ofNat 48 (recNat recB 80 6)) } else r.strm }
    let r := if phase = .parked || phase = .ended then { r with copies := (restCopies s r).filter fun c => !c.tier } else r
    let s := dropReq s b
    let s := { s with reqs := s.reqs ++ [r] }
    if g.type = legPark then
      let far := farBytes g.pages
      openSpill s b g.dstLane (g.tier.map fun t => (t.1, t.2.1 + far, t.2.2 - far))
    else if g.type = legResume then takePull s b g.dstLane
    else if role == rolePrompt then takeUp s b
    else s

/-- An entry of a scratch sequence after the leg that copied it. -/
def replayEnt (m : ModelSec) (g : Leg) (e : PageEnt) : PageEnt :=
  match g.pages.find? (fun p => isPage p.item.kind p.item.layer.toNat p.item.index.toNat e) with
  | some p => formIn m false p [] { e with state := p.item.state, copy := false }
  | none => e

/-- An audit's leg lands: the scratch sequence holds the parts below FROM in its own slots, and the replay begins (R206). -/
def commitReplay (s : State) (g : Leg) (b : BatonId) : State :=
  modReplay s b fun r =>
    match modelOf s r.model with
    | some m => { r with resident := true, phase := .generation, pages := r.pages.map (replayEnt m g) }
    | none => r

/-- The target commits a landed leg in the quiet window and sends LEG_COMMIT (R184). -/
def commitLeg (s : State) (g : Leg) : State :=
  if g.replay then g.batons.foldl (fun s b => commitReplay s g b) (dropLeg s g.index)
  else if g.localLeg then commitHere s g
  else
    let s := dropLeg s g.index
    clearStaged (g.batons.zipIdx.foldl (fun s p => commitRemote s g p.1 p.2) (legMsg s g msgCommit 0 0 0)) g.index

/-- Legs that landed before the commit point commit (R184); SPILL, RECALL and FETCH end by their own events. -/
def commitLegs (s : State) : State :=
  (s.btn.legs.filter fun g => g.state == .landed && g.atTarget).foldl commitLeg s

/-! ### Resume (R203, R205) -/

/-- Items that a resume carries and the cache lane no longer holds. -/
def evicted (r : Req) : List PageEnt := r.pages.filter fun e => e.state == pFar && e.kind != kPage

/-- A RECALL or RESUME-form leg of a share inside the device; `replay`: for an audit. -/
def innerLeg (s : State) (type : BitVec 4) (b : BatonId) (src dst : LaneNo) (pages : List LegPage) (state : LegState) (replay : Bool)
    (i : Nat) (g : BitVec 16) : Leg :=
  { index := i, gen := g, type, atTarget := true, localLeg := true, peer := s.mpl.devId, srcLane := src, dstLane := dst, state
    batons := [b], lead := isLead s, partsLeft := [], ctlOff := 0, partRx := [], partFails := [], partBytes := [], pages
    ctlBlocks := 0, sent := 0, peerId := none, states := 0, hold := false, replay, tier := none }

/-- Open the RECALL of evicted parts into the cache lane; false where it holds no space. -/
def openRecall (s : State) (b : BatonId) (n : LaneNo) : State × Bool :=
  match findReq s b with
  | none => (s, false)
  | some r =>
    match modelOf s r.model with
    | none => (s, false)
    | some m =>
      let items := (evicted r).map fun e => { itemOf m (slotBytes (laneOf s n)) b e with state := pSealed }
      if !btnOpen s || !(laneOf s n).dataOpen || decide (4096 ≤ s.btn.legs.length) then (s, false)
      else match allocItems s n m items with
        | (s, none) => (s, false)
        | (s, some places) =>
          let pages := (items.zip places).map fun p => ⟨p.1, true, 0, 0, 0, false, p.2.1, p.2.2, none⟩
          match openEntry s (innerLeg s legRecall b n n pages .clearing false) with
          | some (_, s) => (setPhase s b .resuming, true)
          | none => (s, false)

/-- An entry after the RECALL that brought it. -/
def recalledEnt (g : Leg) (e : PageEnt) : PageEnt :=
  match g.pages.find? (fun p => isPage p.item.kind p.item.layer.toNat p.item.index.toNat e) with
  | some p => { e with state := pSealed, slots := p.slots, off := p.off }
  | none => e

/-- The recalled parts land in the cache lane from the capacity tier. -/
def recallLand (s : State) (g : Leg) (b : BatonId) : State :=
  match findReq s b with
  | none => dropLeg s g.index
  | some r =>
    let l := laneOf s g.dstLane
    let mem := g.pages.foldl (fun mm p => match entOf r p.item with
      | some e => storeImage mm l p.slots p.off (entImage s r e)
      | none => mm) (stackOf s g.dstLane)
    let s := setStack s g.dstLane mem
    let s := modReq s b fun r => { r with pages := r.pages.map (recalledEnt g), epoch := s.mpl.epoch }
    dropLeg s g.index

/-- Open the leg that copies the parts below FROM into an audit's scratch slots (R206): its pages pass the exchange zone as those of
a RESUME leg. An audit from position 0 needs none, and its replay begins at once. -/
def openReplayLeg (s : State) (b : BatonId) : State :=
  match findReq s b, s.btn.replays.find? (fun q => q.id == b) with
  | some r, some q =>
    match r.lane, r.audit, modelOf s r.model with
    | some src, some a, some m =>
      let items := (legOrder m r.done q.pages).map fun e => (itemOf m (slotBytes (laneOf s src)) b e, e.slots)
      if items.isEmpty then modReplay s b fun q => { q with resident := true, phase := .generation }
      else
        let pages := items.map fun p => ⟨p.1, false, 0, 0, 0, false, p.2, 0, none⟩
        match openEntry s (innerLeg s legResume b src a.lane pages .clearing true) with
        | some (i, s) => clearLeg 65536 s i
        | none => endAudit s b .refused
    | _, _, _ => s
  | _, _ => s

/-- Try each lane that can take the resume, in lane order: which of several the device takes is not given (log 57). -/
def tryResumeLanes (s : State) (b : BatonId) : List LaneNo → State × Bool
  | [] => (s, false)
  | n :: ns =>
    match openLocal s legResume b n with
    | (s, true) => (s, true)
    | (s, false) => tryResumeLanes s b ns

end Sys2Proof.Machine
end

