-- ==== Sys2Proof/Machine/LaneOps.lean ====
section
/-! DEFINITION. Lanes that stop, drain, retire, and replace failed cores (02_structure_and_hierarchies.md R36, R52;
04_laps_and_lap_tables.md R112; 12_marshal_and_resilience.md R328 to R333). -/

namespace Sys2Proof.Machine

open Sys2Proof

/-! ### Queues of a lane that stops -/

/-- Requests waiting to join or queued to a lane, once each. -/
def queuedReqs (l : Lane) : List BatonId :=
  (l.st.joinQ.map (·.2) ++ l.st.promptQ.map (·.1) ++ l.st.preemptQ.map (·.1)).eraseDups

/-- A queued request completes with a code; its extension commands too. Its baton stays in the lane. -/
def failQueued (s : State) (code : Finish) (b : BatonId) : State :=
  match findReq s b with
  | none => s
  | some r =>
    let s := modReq s b fun r => { r with extCmds := [], extQ := [], take := 0 }
    let s := completeEach s b (r.extCmds.map fun x => (0x06, x.1)) code
    finalCpl s r code 0 (lastPos r)

def failQueues (s : State) (n : LaneNo) (code : Finish) : State :=
  let s := (queuedReqs (laneOf s n)).foldl (fun s b => failQueued s code b) s
  modLane s n fun l => { l with st := { l.st with joinQ := [], promptQ := [], preemptQ := [] } }

/-! ### Missed laps (R106, R167) -/

/-- The lap of a request misses: nothing of it stays but the miss. -/
def missLap (s : State) (n : LaneNo) (b : BatonId) : State :=
  modReq (discardPages s n b) b fun r => { streamMiss r with take := 0, expertWait := r.missNow == 3 }

/-- Everyone with work in the lap. -/
def lapReqs (l : Lane) : List BatonId :=
  (l.st.batch.map (·.1) ++ l.st.promptQ.map (·.1) ++ l.st.preemptQ.map (·.1)).eraseDups

def clearMiss (s : State) (bs : List BatonId) : State :=
  bs.foldl (fun s b => modReq s b fun r => { r with missNow := 0, take := 0, logits := none, draw := none }) s

/-- A scratch sequence loses the lap's positions; its slots stay in scratch (R207). -/
def discardReplay (q : Req) : Req :=
  { q with
    pages := (q.pages.filter fun e => !e.lapNew).map fun e => { e with sealSlot := none, sealedNow := false, wrote := 0 }
    heatNew := q.heat, probeNew := [], selNew := [], take := 0, missNow := 0 }

def discardReplays (s : State) (n : LaneNo) : State :=
  let qs := s.btn.replays.map fun q => if q.lane = some n then discardReplay q else q
  { s with btn := { s.btn with replays := qs } }

/-- The lap does not commit: every member and everyone with tokens taken misses it with cause OVERRUN (R112, R328). -/
def missAll (s : State) (n : LaneNo) : State :=
  let bs := lapReqs (laneOf s n)
  let s := discardReplays s n
  let s := bs.foldl (fun s b =>
    if isMember_ (laneOf s n) b || (match findReq s b with | some r => r.take != 0 | none => false) then
      missLap (missReq s b 1) n b else s) s
  clearMiss s bs

/-- A lane that stops within a lap loses the lap. -/
def loseLap (s : State) (n : LaneNo) : State :=
  if (laneOf s n).st.slots.isEmpty then s
  else modLane (missAll s n) n fun l => { l with st := { l.st with slots := [], lapLost := false } }

/-! ### Stopping (R52, R112) -/

/-- The lane runs a lap table. -/
def runs (l : Lane) : Bool := l.ctl == .serving || l.ctl == .draining

/-- A lane enters STOPPED; its pending drains complete. -/
def enterStopped (s : State) (n : LaneNo) : State :=
  let s := loseLap s n
  let cmds := (laneOf s n).drainCmds
  completeAll (modLane s n fun l => { l with ctl := .stopped, drainReq := false, drainCmds := [] }) cmds 0x22 .ok

/-- OVERRUN_LIMIT reached: queued work completes with LAP_OVERRUN, batons stay (R112). -/
def overrunStop (s : State) (n : LaneNo) : State :=
  let s := failQueues (enterStopped s n) n .lapOverrun
  raiseEvt (modLane s n fun l => { l with st := { l.st with overrunStop := true, hardRun := 0 } }) 1

/-- No work is left in a lane: no member, nothing queued, no leg that touches it, and outside a cache lane no baton. -/
def laneEmpty (s : State) (n : LaneNo) : Bool :=
  let l := laneOf s n
  l.st.batch.isEmpty && (queuedReqs l).isEmpty
  && (l.role == roleCache || s.reqs.all fun r => r.lane != some n || r.lost.isSome)
  && s.btn.legs.all fun g => !((g.atTarget && g.dstLane == n) || ((g.localLeg || !g.atTarget) && g.srcLane == n))

/-! ### Cores (R34 to R36, R330) -/

def dieOf (n : LaneNo) : Fin 4 := ⟨n.val / 3, by omega⟩

def dieLanes (d : Fin 4) : List LaneNo := laneNos.filter fun n => dieOf n == d

/-- A core number as CORE_MAP gives it: 72 and 73 are the spares. -/
def coreAt (p : CorePos) : Nat := p.core.toNat

/-- Position of a core in a lane's map. -/
def positionOf (l : Lane) (core : Nat) : Option Nat := l.cores.toList.findIdx? fun p => coreAt p == core

/-- A lane whose failed cores are substituted (R36). -/
def substitutes (l : Lane) : Bool :=
  match l.ctl with
  | .serving | .draining | .stopped | .testing => true
  | .unassigned | .retired => false

/-- A share is lost with the stack it lies in (R333). The work in flight of a request that was not at rest is discarded, and what it
owes completes with LANE_RETIRED (R13, R25). -/
def loseShare (s : State) (b : BatonId) : State :=
  match findReq s b with
  | none => s
  | some r =>
    let s := modReq (endAudit s b .laneRetired) b fun r => { r with lost := some .lane, resident := false }
    if r.phase = .parked || r.phase = .ended then s
    else unqueue (endCmds (finalCpl s r .laneRetired 0 (lastPos r)) b .laneRetired) b

/-- Requests that reside in a lane lose their share with its stack (R333). -/
def loseShares (s : State) (n : LaneNo) : State :=
  ((s.reqs.filter fun r => r.lane == some n).map (·.id)).foldl loseShare s

/-- Legs that touch a lane whose stack closes end (R185); LANE_RETIRED or DISCARDED. -/
def abortLaneLegs (s : State) (n : LaneNo) (code : Finish) : State :=
  (s.btn.legs.filter fun g =>
    (g.atTarget && g.dstLane == n) || ((g.localLeg || !g.atTarget) && g.srcLane == n)).foldl
    (fun s g => abortLeg s g code true) s

/-- Commands that wait for a lane end with a code. -/
def failLaneCmds (s : State) (n : LaneNo) (code : Finish) : State :=
  let l := laneOf s n
  let s := modLane s n fun l => { l with
    drainReq := false, serveReq := false, drainCmds := [], serveCmds := [], stagingCmd := none, variantReady := none
    mch := { l.mch with cmd := none } }
  let s := completeAll s (l.drainCmds ++ l.serveCmds) 0x22 code
  let s := match l.mch.cmd with | some h => completeB s h 0x22 code 0 [(finishCode code).setWidth 32] | none => s
  match l.stagingCmd with | some x => complete s x.1 0x24 code | none => s

/-- Unused spares of a pending substitution return to their place on the plan's list (R36). -/
def planSpares (s : State) (d : Fin 4) : List Nat :=
  match deviceSec s with
  | some x => (x.spares.get d).map (·.toNat)
  | none => [72, 73]

def returnSpares (s : State) (n : LaneNo) : State :=
  let d := dieOf n
  let back := (laneOf s n).subst.map (·.2)
  let list := (planSpares s d).filter fun c => back.contains c || (s.mar.spares.get d).contains c
  let s := { s with mar := { s.mar with spares := vset s.mar.spares d list } }
  modLane s n fun l => { l with subst := [] }

/-- R332: the lane enters RETIRED at once, its stack open or closed; log, Marshal vector and REPORT. A lap-table replacement that
waits there goes without a completion: it can meet no boundary (log 64). -/
def retireLane (s : State) (n : LaneNo) (cause : Byte) (stackOpen : Bool) : State :=
  if (laneOf s n).ctl = .retired then
    (if stackOpen then s else loseShares (abortLaneLegs (modLane s n fun l => { l with dataOpen := false }) n .laneRetired) n)
  else
    let tested := (laneOf s n).mch.busy
    let s := returnSpares (loseLap s n) n
    let s := failLaneCmds s n .laneRetired
    let s := modLane s n fun l => { l with
      ctl := .retired, cause := cause, dataOpen := stackOpen && l.hbc.trained, build := .none
      tables := { l.tables with repl := none }
      mch := if l.mch.busy then { l.mch with busy := false, result := finishCode .laneRetired } else l.mch
      st := { l.st with hardRun := 0 } }
    let s := if tested then raiseEvt s 12 else s
    let s := failQueues s n .laneRetired
    let s := if stackOpen then s else loseShares (abortLaneLegs s n .laneRetired) n
    raiseEvt (marLog s evLaneRetired n.val s.mpl.devId 0xFF (cause.setWidth 32)) 0

def fusesCore (s : State) (d : Fin 4) (core : Nat) : Bool := (s.fus.coreFailed.get d).getLsbD core

/-- Record a core as failed, in fuses and in MAR_DIE_SPARE_d. -/
def recordCore (s : State) (d : Fin 4) (core : Nat) : State :=
  { s with
    fus := { s.fus with coreFailed := vmod s.fus.coreFailed d fun b => b ||| (1 <<< core) }
    mar := { s.mar with
      lastFailed := vset s.mar.lastFailed d (BitVec.ofNat 8 core), spares := vmod s.mar.spares d fun l => l.filter fun c => c != core } }

def logCore (s : State) (n : Nat) (core : Nat) (spare : Nat) : State := marLog s evCoreFailed n s.mpl.devId core (lo32 spare)

/-- The first unused spare takes position i of a lane at the next boundary, or the lane retires (R36, R332). -/
def substitute (s : State) (n : LaneNo) (i core : Nat) : State :=
  let d := dieOf n
  let s := modLane s n fun l => { l with
    subst := l.subst.filter fun p => p.1 != i, st := { l.st with lapLost := l.st.lapLost || !l.st.slots.isEmpty } }
  match s.mar.spares.get d with
  | [] => retireLane (logCore s n.val core 0xFF) n 0x01 true
  | x :: xs =>
    let s := { s with mar := { s.mar with spares := vset s.mar.spares d xs } }
    logCore (modLane s n fun l => { l with subst := l.subst ++ [(i, x)] }) n.val core x

/-- A core is found failed (R330). -/
def coreFails (s : State) (d : Fin 4) (core : Nat) : State :=
  if decide (74 ≤ core) || fusesCore s d core then s
  else
    let s := recordCore s d core
    match (dieLanes d).find? (fun n => substitutes (laneOf s n) &&
        ((positionOf (laneOf s n) core).isSome || (laneOf s n).subst.any fun p => p.2 == core)) with
    | none => logCore s 0xF core 0xFF
    | some n =>
      match (laneOf s n).subst.find? fun p => p.2 == core with
      | some p => substitute s n p.1 core
      | none =>
        match positionOf (laneOf s n) core with
        | some i => substitute s n i core
        | none => s

/-- Chosen spares take over (R36). -/
def applySubst (s : State) (n : LaneNo) : State :=
  modLane s n fun l => { l with
    cores := l.subst.foldl (fun v p => vmodN v p.1 fun _ => ⟨true, BitVec.ofNat 7 p.2⟩) l.cores, subst := [] }

end Sys2Proof.Machine
end

