-- ==== Sys2Proof/Machine/ReqCmds.lean ====
section
/-! DEFINITION. Host commands on requests: admission, pause, resume, cancel, release, extend and audit
(01_roles_and_request_journey.md R24; 04 R102; 06 R165, R170, R171; 07 R201 to R207; 15 R380 to R382). -/

namespace Sys2Proof.Machine

open Sys2Proof

/-! ### Submission (R102, R382) -/

/-- Every field of the submission block is in range, and its length agrees with its images. -/
def blockOk (b : SubmitBlock) (vocab : Nat) : Bool :=
  b.rsvClear && samplerOk b.sampler && ringDescOk b.ring && b.promptLen != 0 && b.maxNew != 0
  && decide (b.model.toNat < 16) && decide (b.npat.toNat ≤ 16) && decide (b.patterns.length = b.npat.toNat)
  && b.patterns.all (patternOk vocab) && decide (b.blockLen = 128 + (b.patterns.map (·.len)).sum)

/-- Sequence slots in use: those of batons whose home is this device. -/
def usedSlots (s : State) : List Nat := (s.reqs.filter fun r => batonHome r.id == s.mpl.devId).map fun r => batonSlot r.id

def tenantSlots (s : State) (t : Tenant) : Nat :=
  s.reqs.countP fun r => batonHome r.id == s.mpl.devId && batonTenant r.id == t

def slotQuota (s : State) (t : Tenant) : Nat := match tenantRec s t with | some r => r.slotQuota.toNat | none => 0

/-- Prompt lanes whose queue has room for the prompt. -/
def roomyLanes (s : State) (m : Nat) (len : Nat) : List LaneNo :=
  (servingWith s rolePrompt m).filter fun n =>
    match fgTable (laneOf s n) with
    | some t => decide (queuedTokens (laneOf s n) + len ≤ t.promptQueueMax.toNat)
    | none => false

/-- The member with the fewest queued prompt tokens, the lower lane number on a tie. -/
def fewest (s : State) : List LaneNo → Option LaneNo
  | [] => none
  | n :: ns =>
    match fewest s ns with
    | none => some n
    | some k => if queuedTokens (laneOf s n) ≤ queuedTokens (laneOf s k) then some n else some k

/-- The checks of R102 in order: the lane and the slot. -/
def chooseLane (s : State) (t : Tenant) (m : ModelSec) (len maxNew states : Nat) : Option (LaneNo × Nat) :=
  if slotQuota s t ≤ tenantSlots s t then none
  else if (servingWith s rolePrompt m.number).isEmpty then none
  else if min 4194304 m.maxLen.toNat < len + maxNew then none
  else
    match lowestFree (usedSlots s) 65536 0 with
    | none => none
    | some slot =>
      if s.stp.free < states then none
      else match fewest s (roomyLanes s m.number len) with
        | none => none
        | some n => some (n, slot)

/-- PTP time of the doorbell write that published the command just fetched (R379). -/
def bellTime (s : State) (t : Tenant) : Nat :=
  let c := ctxOf s t
  match c.bells.find? fun p => decide ((p.1 - c.head).toNat < 2147483648) with
  | some p => p.2
  | none => s.clk.now

/-- A request at admission. -/
def newReq (s : State) (h : HostHdr) (id : BatonId) (n : LaneNo) (m : ModelSec) (b : SubmitBlock) (since : Nat) : Req :=
  let d := srgTenant s h.tenant
  { id, phase := .prompt, lane := some n, model := m.number, digest := m.digest, nshares := shareCount s, hdr := h
    promptLen := b.promptLen.toNat, prompt := b.tokens, done := 0, take := 0, log := []
    samp := { settings := b.sampler, counts := [], patterns := b.patterns, counter := b.promptLen.toNat, maxNew := b.maxNew.toNat
              drawn := 0 }
    strm := { ring := b.ring, produced := 0, phase := true, written := 0, any := false, tokenEntries := 0, window := [], cons := 0
              consLap := none, closed := false, ttftTarget := if b.ttft = 0 then d.ttft else b.ttft
              tbtTarget := if b.tbt = 0 then d.tbt else b.tbt, ttftStart := since, lastCommit := since, missed := 0, cause := 0
              ext := false, resumed := false, lapIrq := false, irqLap := none }
    endReason := 0, stopPattern := 0, cancelled := false, cancelPos := 0, auditFail := false, cmds := [], waitPark := []
    waitLand := [], parkNext := false, parkWhy := .ok, missNow := 0, held := 0, heldPrev := false, expertWait := false
    logits := none, draw := none, pages := [], heat := [], probe := [], probeNew := [], sel := [], selNew := [], heatNew := [], listed := false
    extQ := [], extCmds := [], resident := false, handoffWait := 0, moveTried := 0, lost := none, capPort := none, tierBytes := 0
    copies := [], audit := none, replay := false, epoch := s.mpl.epoch, lastLap := s.lap.count, finalOwed := true, landing := none, readyAt := 0
    residentAt := 0, shares := [], pulledBy := none, spillDue := none }

/-- SUBMIT (R102, R382); no request is admitted while Coach is away (R51). -/
def execSubmit (h : HostHdr) (blk : SubmitBlock) (s : State) : Res :=
  .next (hostCmd s h 0x01 false fun s =>
    match modelOf s blk.model.toNat with
    | none => complete s h 0x01 .refused
    | some m =>
      if !coachServes s || !blockOk blk m.vocab.toNat then complete s h 0x01 .refused
      else match chooseLane s h.tenant m blk.promptLen.toNat blk.maxNew.toNat (patStates blk.patterns) with
        | none => complete s h 0x01 .refused
        | some (n, slot) =>
          let id := mkBaton s.mpl.devId h.tenant slot (tblGetD s.slotGen slot 0)
          let r := newReq s h id n m blk (bellTime s h.tenant)
          let s := { stpTake s (stpUse r) with reqs := s.reqs ++ [r] }
          let s := modLane s n fun l => { l with st := { l.st with promptQ := l.st.promptQ ++ [(id, r.promptLen)] } }
          completeB s h 0x01 .ok 0 (batonWords id))

/-! ### What a command does at its boundary (R24) -/

/-- The lane of a request is STOPPED, or RETIRED with its stack open. -/
def laneHalted (s : State) (r : Req) : Bool :=
  match r.lane with
  | some n => (laneOf s n).ctl == .stopped || ((laneOf s n).ctl == .retired && (laneOf s n).dataOpen)
  | none => false

/-- A request leaves its batch and parks as soon as a cache lane accepts it. -/
def parkRequest (s : State) (b : BatonId) : State :=
  tryPark (modReq (unqueue s b) b fun r => { r with parkNext := true, moveTried := 0 }) b

/-- Some target of the park list can take a park: a cache lane of this device, or a lane of another one (R20). -/
def parkPossible (s : State) : Bool :=
  match deviceSec s with
  | some d => d.park.any fun t => t.dev != s.mpl.devId ||
      (vgetD (vmap s.lanes fun l => l.role == roleCache && l.ctl != .retired) t.lane.toNat false)
  | none => false

/-- A pause that meets a HANDOFF leg to another device goes with the leg: the baton parks there after the commit (R185). -/
def holdRemote (s : State) (b : BatonId) (r : Req) : State :=
  match s.btn.legs.find? fun g => !g.atTarget && !g.localLeg && g.type == legHandoff && g.batons.contains b with
  | some g => sendAsk s g.peer { askOf s r legHandoff g.srcLane g.dstLane [] (legIdOf g) with ask := .hold, leg := targetId g }
  | none => s

/-- Pause (R20, R24, R185, R201). -/
def applyPause (s : State) (b : BatonId) (r : Req) (h : HostHdr) : State :=
  if r.phase = .parking || resting r then complete s h 0x02 .ok
  else match r.lost with
  | some x => complete s h 0x02 (lossCode x)
  | none =>
    if r.endReason ≠ 0 then complete s h 0x02 .ok
    else if !parkPossible s then complete s h 0x02 .refused
    else
      let s := modReq s b fun r => { r with parkNext := true, waitPark := r.waitPark ++ [(0x02, h)] }
      if laneHalted s r then parkRequest s b
      else match r.phase with
        | .prompt => if r.cancelled then parkRequest s b else s
        | .handoff | .generation => if inLeg s b then holdRemote s b r else parkRequest s b
        | _ => s

/-- Cancel (R24, R170, R171). The table has no row for a baton that is PARKING, nor for a second cancel: the first is taken like a
parked one whose ring closes at once, the second has no effect (log 58). -/
def applyCancel (s : State) (b : BatonId) (r : Req) (h : HostHdr) : State :=
  if r.endReason ≠ 0 || r.cancelled then complete s h 0x04 .ok
  else
    let s := modReq s b fun r =>
      let r := pushEntry r (endEntry reasonCancelled (lastPos r) (lapLo s) .cancelledDropped 0)
      { r with cancelled := true, cancelPos := lastPos r, strm := { r.strm with closed := true } }
    let s := complete (flushRing s b) h 0x04 .cancelledDropped
    if r.phase = .parked then finalCpl s r .cancelledDropped reasonCancelled (lastPos r) else s

/-- Release (R24, R25, R170, R202, R204, R333, R390). A request released before its end gets its final completion: CANCELLED_DROPPED
after a cancel, the code of its loss where its share is lost. -/
def applyRelease (s : State) (b : BatonId) (r : Req) (h : HostHdr) : State :=
  let free := fun (s : State) (code final rest : Finish) =>
    retest (complete (freeReq (finalCpl s r (if r.cancelled then finishOf .cancelledDropped final else final) 0 (lastPos r)) b rest) h 0x05 code)
  match r.lost with
  | some x => free s (releaseCode x) (lossCode x) (lossCode x)
  | none =>
    if resting r || (laneHalted s r && !inLeg s b) then free s .ok (if r.cancelled then .cancelledDropped else .ok) .refused
    else complete s h 0x05 .refused

/-- Tokens that the model has, and a length that R102 allows. -/
def tokensOk (s : State) (r : Req) (tokens : List Word) (maxNew : Nat) : Bool :=
  match modelOf s r.model with
  | some m => tokens.all (fun t => decide (t.toNat < m.vocab.toNat)) && decide (1 ≤ tokens.length) && decide (tokens.length ≤ 65535)
      && decide (r.log.length + tokens.length + maxNew ≤ min 4194304 m.maxLen.toNat)
  | none => false

/-- Extend: pre-emption work for a baton in GENERATION (R110, R381). -/
def applyExtend (s : State) (b : BatonId) (r : Req) (h : HostHdr) (tokens : List Word) (since : Nat) : State :=
  if r.phase = .generation && r.endReason = 0 && !r.parkNext && r.lost.isNone && tokensOk s r tokens 0 then
    let s := modReq s b fun r => { r with extQ := r.extQ ++ tokens, extCmds := r.extCmds ++ [(h, tokens.length)] }
    match r.lane with
    | some n => modLane s n fun l => { l with st := { l.st with preemptQ := l.st.preemptQ ++ [(b, tokens.length, since)] } }
    | none => s
  else complete s h 0x06 .refused

/-! ### Resume (R22, R203 to R205, R280) -/

def resumeCpl (s : State) (b : BatonId) (h : HostHdr) (code : Finish) : State := completeB s h 0x03 code 0 (batonWords b)

/-- The operands of a resume. -/
def resumeArgsOk (s : State) (r : Req) (ring : Option RingDesc) (ext : Option ExtArg) : Bool :=
  (match ring with | some d => ringDescOk d | none => true)
  && (match ext with | some x => x.maxNew != 0 && tokensOk s r x.tokens x.maxNew.toNat | none => true)

/-- The resume of a baton at rest here: scrub, the checks of R205, then the RECALL or the RESUME leg. -/
def resumeLocal (s : State) (b : BatonId) (h : HostHdr) (ring : Option RingDesc) (ext : Option ExtArg) : State :=
  let s := scrub (retest (endAudit s b .discarded)) b
  match findReq s b with
  | none => resumeCpl s b h .refused
  | some r =>
    match r.lost with
    | some x => resumeCpl s b h (lossCode x)
    | none =>
      let lanes := resumeLanes s r
      if !resting r || r.cancelled || (r.endReason != 0 && ext.isNone) || !resumeArgsOk s r ring ext || !resumeSound s r
          || lanes.isEmpty then resumeCpl s b h .refused
      else
        let go := fun (s : State) => modReq s b fun r => { r with waitLand := [(0x03, h)], landing := some (ring, ext) }
        match r.lane with
        | none => resumeCpl s b h .refused
        | some n =>
          if !(evicted r).isEmpty then
            match openRecall s b n with
            | (s, true) => go s
            | (s, false) => resumeCpl s b h .refused
          else match tryResumeLanes s b lanes with
            | (s, true) => go s
            | (s, false) => resumeCpl s b h .refused

/-- What a pull asks of the device where the baton rests (R22, R203). -/
def pullAsk (s : State) (b : BatonId) (ext : Bool) : LegReq :=
  { ask := .pull, type := legResume, src := s.mpl.devId, entry := 0, leg := 0, srcLane := 0, dstLane := 0, batons := [b], digest := 0
    nshares := 0, counterOk := true, originOk := true, recordRsvClear := true, cancelled := false, ended := false, ext, lead := false
    states := 0, items := [] }

/-- Resume from the device that holds the baton (R22). A device without a generation lane in service refuses (R20); whether one has
the baton's model shows when the leg asks. -/
def resumeFrom (s : State) (b : BatonId) (h : HostHdr) (ring : Option RingDesc) (ext : Option ExtArg) (dev : DevId) : State :=
  if dev = s.mpl.devId then resumeLocal s b h ring ext
  else if s.te.dead.contains dev then resumeCpl s b h .deadTarget
  else if s.te.fenced.contains dev then resumeCpl s b h .fenced
  else if (lanesWhere s fun l => l.ctl == .serving && l.role == roleGen).isEmpty || !btnOpen s
      || (match ring with | some d => !ringDescOk d | none => false) || (match ext with | some x => x.maxNew == 0 | none => false)
      || s.btn.pulls.any (fun p => p.baton == b) then resumeCpl s b h .refused
  else
    let s := { s with btn := { s.btn with pulls := s.btn.pulls ++
      [{ baton := b, holder := dev, h, ring, ext, cmds := [], pauses := [], cancelled := false }] } }
    sendAsk s dev (pullAsk s b ext.isSome)

/-- What BTN's lookup gave: RESULT [19:0] names the holder; a miss refuses (R280). -/
def resumeFound (s : State) (b : BatonId) (h : HostHdr) (ring : Option RingDesc) (ext : Option ExtArg) (x : LookRes) : State :=
  match x with
  | (.ok, some (_, _, res)) => resumeFrom s b h ring ext (res.setWidth 20)
  | (.ok, none) => resumeCpl s b h .refused
  | (code, _) => resumeCpl s b h code

/-- The device from which a baton is pulled where the plan gives BTN no partition: this one where it is here; the one that it went to
from here; else its home (R22, log 65). -/
def holderOf (s : State) (b : BatonId) : DevId :=
  if (findReq s b).isSome then s.mpl.devId
  else match s.btn.moved.find? fun x => x.1 == b with
    | some x => x.2
    | none => batonHome b

/-- A resume reaches BTN: a lookup where the plan gives BTN a partition (R280). -/
def resumeReach (s : State) (b : BatonId) (h : HostHdr) (ring : Option RingDesc) (ext : Option ExtArg) : State :=
  match btnPart s with
  | some p =>
    match lookup s ⟨h, p, batonKey b, some (b, ring, ext)⟩ with
    | (some x, s) => resumeFound s b h ring ext x
    | (none, s) => s
  | none => resumeFrom s b h ring ext (holderOf s b)

/-- Resume (R24). It waits while the baton parks: none. -/
def applyResume (s : State) (b : BatonId) (r : Req) (h : HostHdr) (ring : Option RingDesc) (ext : Option ExtArg) : Option State :=
  match r.lost with
  | some x => some (resumeCpl s b h (lossCode x))
  | none =>
    if r.cancelled then some (resumeCpl s b h .refused)
    else match r.phase with
      | .parking => none
      | .prompt | .handoff | .generation | .resuming => if r.endReason = 0 then some (resumeCpl s b h .ok) else none
      | .parked | .ended =>
        if r.phase = .ended && ext.isNone then some (resumeCpl s b h .refused) else some (resumeReach s b h ring ext)

/-- Apply the head command of a request; none where it must wait. -/
def applyCmd (s : State) (b : BatonId) (r : Req) (c : ReqCmd) (since : Nat) : Option State :=
  match c with
  | .pause h => some (applyPause s b r h)
  | .resume h ring ext => applyResume s b r h ring ext
  | .cancel h => some (applyCancel s b r h)
  | .release h => some (applyRelease s b r h)
  | .extend h tokens => some (applyExtend s b r h tokens since)

/-- Take the head command off and apply it. -/
def applyHead (s : State) (b : BatonId) : State :=
  match findReq s b with
  | none => s
  | some r =>
    match r.cmds with
    | [] => s
    | (c, since) :: rest =>
      match applyCmd (modReq s b fun r => { r with cmds := rest }) b { r with cmds := rest } c since with
      | some s' => s'
      | none => s

/-- At a boundary: the head command, if it came 10 us or more before (R24, R50). -/
def applyAtBoundary (s : State) (b : BatonId) : State :=
  match findReq s b with
  | none => s
  | some r =>
    match r.cmds with
    | (_, since) :: _ => if since + 10000 ≤ s.clk.now then applyHead s b else s
    | [] => s

/-! ### The commands' arrival -/

/-- Commands that R24 lets take effect at once: on a request whose lane is halted. -/
def atOnce (s : State) (r : Req) (c : ReqCmd) : Bool :=
  match c with
  | .pause _ | .release _ => laneHalted s r && r.cmds.isEmpty
  | _ => false

/-- A command for a baton whose resume legs are in flight from another device waits for its boundary here (R24). -/
def queuePull (s : State) (b : BatonId) (c : ReqCmd) : State :=
  { s with btn := { s.btn with pulls := s.btn.pulls.map fun p =>
      if p.baton = b then { p with cmds := p.cmds ++ [(c, s.clk.now)] } else p } }

/-- Change the pull of a baton. -/
def modPull (s : State) (b : BatonId) (f : Pull → Pull) : State :=
  { s with btn := { s.btn with pulls := s.btn.pulls.map fun p => if p.baton = b then f p else p } }

/-- The head command of a pull at a boundary (R24, resume legs in flight): a pause parks the baton after the legs, a resume has no
effect, a cancel closes the ring, release and extend are refused. -/
def applyPullHead (s : State) (b : BatonId) : State :=
  match s.btn.pulls.find? fun p => p.baton == b with
  | none => s
  | some p =>
    match p.cmds with
    | [] => s
    | (c, since) :: rest =>
      if since + 10000 ≤ s.clk.now then
        let s := modPull s b fun p => { p with cmds := rest }
        match c with
        | .pause h => modPull s b fun p => { p with pauses := p.pauses ++ [h] }
        | .resume h _ _ => resumeCpl s b h .ok
        | .cancel h =>
          if p.cancelled then complete s h 0x04 .ok
          else complete (modPull s b fun p => { p with cancelled := true }) h 0x04 .cancelledDropped
        | .release h => complete s h 0x05 .refused
        | .extend h _ => complete s h 0x06 .refused
      else s

/-- Queue a command of a request that is here, or on its way here, and belongs to the issuing tenant. -/
def queueCmd (s : State) (h : HostHdr) (b : BatonId) (c : ReqCmd) (absent : State → State) : State :=
  if batonTenant b ≠ h.tenant then completeCmd s b (cmdOp c) h .refused
  else match findReq s b with
    | none => if s.btn.pulls.any fun p => p.baton == b then queuePull s b c else absent s
    | some r =>
      let now := atOnce s r c
      let s := modReq s b fun r => { r with cmds := r.cmds ++ [(c, s.clk.now)] }
      if now then applyHead s b else s

/-- PAUSE. -/
def execPause (h : HostHdr) (baton : BatonId) (s : State) : Res :=
  .next (hostCmd s h 0x02 false fun s => queueCmd s h baton (.pause h) fun s => complete s h 0x02 .refused)

/-- RESUME. A baton that is not here is pulled from where it rests. -/
def execResume (h : HostHdr) (baton : BatonId) (ring : Option RingDesc) (ext : Option ExtArg) (s : State) : Res :=
  .next (hostCmd s h 0x03 false fun s =>
    queueCmd s h baton (.resume h ring ext) fun s => resumeReach s baton h ring ext)

/-- CANCEL. -/
def execCancel (h : HostHdr) (baton : BatonId) (s : State) : Res :=
  .next (hostCmd s h 0x04 false fun s => queueCmd s h baton (.cancel h) fun s => complete s h 0x04 .refused)

/-- RELEASE. -/
def execRelease (h : HostHdr) (baton : BatonId) (s : State) : Res :=
  .next (hostCmd s h 0x05 false fun s => queueCmd s h baton (.release h) fun s => complete s h 0x05 .refused)

/-- EXTEND. -/
def execExtend (h : HostHdr) (baton : BatonId) (tokens : List Word) (s : State) : Res :=
  .next (hostCmd s h 0x06 false fun s => queueCmd s h baton (.extend h tokens) fun s => complete s h 0x06 .refused)

/-! ### Audit (R206, R207) -/

/-- ORIGIN of a position of the log. -/
def originAt (r : Req) (i : Nat) : Option (BitVec 2) := r.log[i]?.map fun w => w.extractLsb' 18 2

def auditRange (r : Req) (from_ upto : Nat) : Bool :=
  decide (from_ % 128 = 0) && (from_ == 0 || originAt r from_ == some 0 || originAt r from_ == some 2)
  && decide (from_ < upto) && decide (upto ≤ r.log.length - 1)

/-- Scratch slots of a replay up to position `upto`, in each layer: a slot per sealed page, and an open pair for every page that one
lap's positions touch. -/
def scratchNeed (m : ModelSec) (upto chunk : Nat) : Nat := mLayers m * (upto / 128 + 2 * (chunk / 128 + 2))

/-- The most positions that a replay in a lane runs in one lap: the token capacity of a sub-batch's pre-emptible slots (R110). -/
def replayChunk (l : Lane) : Nat :=
  match fgTable l with
  | some t => ((List.range t.subbatches.toNat).map fun k =>
      ((t.slots.filter fun x => x.preempt && decide (x.subbatch.toNat = k)).map fun x => Config.preemptCap x.kernel).sum).foldl max 1
  | none => 1

/-- Whether an entry holds positions below FROM only. -/
def belowFrom (from_ : Nat) (e : PageEnt) : Bool := e.kind == kPage && decide (128 * (e.index.toNat + 1) ≤ from_)

/-- Heat records of the pages below FROM (R133, R134). -/
def heatBelow (r : Req) (from_ : Nat) : List HeatRec :=
  (r.heat.filter fun h => !h.run && decide (128 * (h.index + 1) ≤ from_)).foldl
    (fun acc h => addHeat acc h.layer h.index h.kmax h.kmin) []

/-- Give entries one slot each from a list. -/
def withSlots : List PageEnt → List Nat → List PageEnt
  | e :: es, k :: ks => { e with state := pSealed, slots := [k], copy := false, off := 0, hdr := [] } :: withSlots es ks
  | _, _ => []

/-- The scratch sequence of an audit: the share parts below FROM, and the baton's own token log (R206, R207). -/
def replayReq (r : Req) (n : LaneNo) (from_ : Nat) (scratch : List Nat) : Req :=
  let heat := heatBelow r from_
  { r with
    replay := true, lane := some n, phase := .resuming, done := from_, take := 0, pages := withSlots (r.pages.filter (belowFrom from_)) scratch
    heat, heatNew := heat, probe := [], probeNew := [], sel := [], selNew := [], listed := false, resident := false, audit := none
    cmds := [], waitPark := [], waitLand := [], extQ := [], extCmds := [], draw := none, copies := [], capPort := none, finalOwed := false }

/-- AUDIT: the replay begins in a generation lane with the model resident, with its scratch slots (R195), or is refused. Parts
below FROM that the cache lane no longer holds come by a RECALL first (R206). -/
def execAudit (h : HostHdr) (baton : BatonId) (fromPos toPos : Word) (repair : Bool) (s : State) : Res :=
  .next (hostCmd s h 0x07 false fun s =>
    let end_ := fun (s : State) (code : Finish) => completeB s h 0x07 code 0 [0, 0, 0, 0]
    match findReq s baton with
    | none => end_ s .refused
    | some r =>
      if batonTenant baton ≠ h.tenant then end_ s .refused
      else match r.lost, modelOf s r.model with
        | some x, _ => end_ s (lossCode x)
        | none, none => end_ s .refused
        | none, some m =>
          let legs := if fromPos = 0 then 0 else 1
          if !resting r || r.audit.isSome || !auditRange r fromPos.toNat toPos.toNat || !btnOpen s
              || decide (4096 < s.btn.legs.length + legs) then end_ s .refused
          else match resumeLanes s r with
            | [] => end_ s .refused
            | n :: _ =>
              let need := scratchNeed m toPos.toNat (min (toPos.toNat - fromPos.toNat) (replayChunk (laneOf s n)))
              let x := takeSlots s n h.tenant need
              if x.2.length = need then
                let s := modReq x.1 baton fun r => { r with audit := some ⟨h, fromPos, toPos, repair, n, x.2⟩ }
                let q := replayReq r n fromPos.toNat x.2
                let s := { s with btn := { s.btn with replays := s.btn.replays ++ [q] } }
                match r.lane, r.pages.any (fun e => belowFrom fromPos.toNat e && e.slots.isEmpty) with
                | some k, true =>
                  (match openEntry s (innerLeg s legRecall baton k k [] .clearing true) with
                   | some (_, s) => s
                   | none => endAudit s baton .refused)
                | _, _ => openReplayLeg s baton
              else end_ (freeSlots x.1 n x.2) .refused)

end Sys2Proof.Machine
end

