-- ==== Sys2Proof/Machine/BibRing.lean ====
section
/-! DEFINITION. The cascade ring at this device: passing and returning packets, and the timeout (10_bib_matcher.md R286 to R291). -/

namespace Sys2Proof.Machine

open Sys2Proof

/-- A lookup's answer reaches who waits for it. -/
def answerReq (s : State) (q : BibReq) (gen : BitVec 16) (r : LookRes) : State :=
  match q.pull with
  | none => answerLookup s q.h gen r
  | some x => resumeFound s x.1 q.h x.2.1 x.2.2 r

/-- The next lookup that waits for a place on the ring: BTN's before those of host commands (R279), the oldest first. -/
def nextLookup (qs : List BibReq) : Option Nat :=
  (qs.findIdx? fun q => q.pull.isSome) <|> (if qs.isEmpty then none else some 0)

/-- Lookups that wait for a place on the ring go on. -/
def pumpLookups : Nat → State → State
  | 0, s => s
  | n + 1, s =>
    match nextLookup s.bib.lookQ with
    | none => s
    | some i =>
      match s.bib.lookQ[i]? with
      | none => s
      | some q =>
        if (freeTag s).isNone then s
        else match lookup { s with bib := { s.bib with lookQ := s.bib.lookQ.eraseIdx i } } q with
          | (some r, s) => pumpLookups n (answerReq s q s.bib.gen r)
          | (none, s) => pumpLookups n s

/-- An own packet is back: it leaves the ring, and its lookup completes from it. -/
def packetHome (s : State) (p : RingPacket) : State :=
  match s.bib.waits.find? fun w => w.tag == p.tag.toNat with
  | none => ringDropped s
  | some w =>
    let s := { s with bib := { s.bib with waits := s.bib.waits.filter fun x => x.tag != w.tag } }
    let m := if p.hit then some (p.pos.toNat, p.addr.toNat, p.result) else none
    pumpLookups 64 (answerReq s w.req w.gen (.ok, m))

/-- BIB_RING_PACKET: a packet on MATCH_IN. A member checks its CRC; another device forwards it unchanged; a device whose BIB is
in reset does not forward it. -/
def execBibRingPacket (p : RingPacket) (s : State) : Res :=
  if bibHeld s || !s.sta.boot.fabricUp then .next s
  else if isMember s then
    if packetCrc p ≠ p.crc then .next { s with bib := { s.bib with ringCrc := satInc s.bib.ringCrc } }
    else if p.tag.toNat / 64 = trayPos s then .next (packetHome s p)
    else .next (forwardPacket s (searchPacket s p))
  else .next (forwardPacket s p)

/-- BIB_CASCADE_TIMEOUT: the packet has not returned within 4 us; its tag rests for 16 us. -/
def execBibCascadeTimeout (tag : Byte) (s : State) : Res :=
  match s.bib.waits.find? fun w => w.tag == tag.toNat with
  | none => .next s
  | some w =>
    if (match w.sentAt with | some t => decide (s.clk.now < t + 4000) | none => true) then .next s
    else
      let s := { s with bib := { s.bib with
        waits := s.bib.waits.filter fun x => x.tag != w.tag
        resting := s.bib.resting ++ [(w.tag, s.clk.now + 16000)]
        cascTimeout := satInc s.bib.cascTimeout } }
      .next (pumpLookups 64 (answerReq s w.req w.gen (.discarded, none)))

end Sys2Proof.Machine
end

