-- ==== Sys2Proof/Machine/TrackOps.lean ====
section
/-! DEFINITION. TE's shared operations: completion counters, Track completions, ends of operations, header checks, false
starts, acknowledgements, meters (08_track_transport.md R221, R227 to R235, R242 to R257; 09_pacer.md R269 to R271). -/

namespace Sys2Proof.Machine

open Sys2Proof

/-! ### Completion counters (R245 to R247) -/

def ctrOf (s : State) (c : Nat) : Word := tblGetD s.te.ctrs c 0

def setCtr (s : State) (c : Nat) (v : Word) : State := { s with te := { s.te with ctrs := tblSet s.te.ctrs c v } }

def incCtr (s : State) (c : Nat) : State := setCtr s c (ctrOf s c + 1)

/-- WAIT is satisfied: (counter − WAIT_VAL) mod 2^32 < 2^31. -/
def waitMet (s : State) (d : Descriptor) : Bool :=
  !d.ctl.getLsbD 2 || psnLe d.waitVal (ctrOf s d.waitCtr.toNat)

/-! ### Track completions (R221) -/

/-- The four words of a send queue's completion. -/
def trackCpl (user : BitVec 64) (code : Finish) (lastNack : Byte) (queue : Nat) (bytes : Nat) : List Word :=
  [lo32 user.toNat, hi32 user.toNat, lo32 ((finishCode code).toNat + at_ lastNack.toNat 8 + at_ queue 16), lo32 bytes]

def sqRoom (x : SendQ) : Bool := decide ((x.cplIdx - x.cplHead).toNat < 2 ^ x.cplLog2)

/-- Write held Track completions while the ring has room. -/
def flushTrack (x : SendQ) : List (List Word) → List Out × SendQ
  | [] => ([], { x with heldCpl := [] })
  | w :: ws =>
    if sqRoom x then
      let o := Out.hostWrite x.func.val (x.cplRing + BitVec.ofNat 64 (16 * (x.cplIdx.toNat % 2 ^ x.cplLog2))) w
      let r := flushTrack { x with cplIdx := x.cplIdx + 1 } ws
      (o :: r.1, r.2)
    else ([], { x with heldCpl := w :: ws })

/-- Write what the completion ring of a send queue has room for and signal its vector. -/
def pumpTrackCpl (s : State) (q : Nat) : State :=
  match getSq s q with
  | none => s
  | some x =>
    if hostUp s then
      let r := flushTrack x x.heldCpl
      let s := emitAll (putSq s q r.2) r.1
      if r.1.isEmpty then s else msix s x.func.val x.vector
    else s

def postTrack (s : State) (q : Nat) (w : List Word) : State :=
  match getSq s q with
  | none => s
  | some x => pumpTrackCpl (putSq s q { x with heldCpl := x.heldCpl ++ [w] }) q

/-! ### Ends of operations (R221, R227, R245, R253) -/

/-- The frame belongs to the operation. -/
def opHas (o : TxOp) (psn : Word) : Bool := decide ((psn - o.firstPsn).toNat < o.formed)

/-- Union of byte ranges in ascending order. -/
def addRange (a n : Nat) : List (Nat × Nat) → List (Nat × Nat)
  | [] => [(a, n)]
  | (b, m) :: rest =>
    if a + n < b then (a, n) :: (b, m) :: rest
    else if b + m < a then (b, m) :: addRange a n rest
    else addRange (min a b) (max (a + n) (b + m) - min a b) rest

def rangeBytes (rs : List (Nat × Nat)) : Nat := (rs.map (·.2)).sum

/-- Bytes completed: placed at LOCAL for a READ, acknowledged for a WRITE or SEND. -/
def bytesDone (x : SendQ) (o : TxOp) : Nat :=
  if o.desc.op = opReadReq then rangeBytes o.placed
  else if o.desc.op = opWrite || o.desc.op = opSend then
    let open_ := (x.unacked.filter fun f => opHas o f.psn).map fun f => f.payload.length
    min o.desc.len.toNat (o.formed * o.limit) - open_.sum
  else if o.placed.isEmpty then 0 else 8

/-- An operation ends: it leaves the queue with its frames; a completion where SIGNAL is 1 or the code is not OK; INC where
it ended with OK or PAGE_FAULT_RESENT. -/
def endOp (s : State) (q : Nat) (o : TxOp) (code : Finish) : State :=
  match getSq s q with
  | none => s
  | some x =>
    let bytes := if code = .ok || code = .pageFaultResent then o.desc.len.toNat else bytesDone x o
    let s := putSq s q { x with ops := x.ops.filter (· ≠ o), unacked := x.unacked.filter fun f => !opHas o f.psn }
    let s := if (code = .ok || code = .pageFaultResent) && o.desc.ctl.getLsbD 3 then incCtr s o.desc.incCtr.toNat else s
    if o.desc.ctl.getLsbD 1 || code ≠ .ok then postTrack s q (trackCpl o.desc.user code o.lastNack q bytes) else s

/-- OK, or PAGE_FAULT_RESENT after a page fault (R230). -/
def okCode (o : TxOp) : Finish := if o.faulted then .pageFaultResent else .ok

/-- All frames formed and acknowledged, and no response awaited. -/
def opAcked (x : SendQ) (o : TxOp) : Bool :=
  decide (o.formed = o.frames) && !wantsResponse o.desc.op && x.unacked.all fun f => !opHas o f.psn

/-- End every operation that is fully acknowledged. -/
def endAcked (s : State) (q : Nat) : State :=
  match getSq s q with
  | none => s
  | some x => (x.ops.filter (opAcked x)).foldl (fun s o => endOp s q o (okCode o)) s

/-- The repeating fill of R253: each byte by address modulo 8. -/
def deadFill (a n : Nat) : List Byte := (List.range n).map fun i => if (a + i) % 2 = 0 then 0xAD else 0xDE

/-- Fill the local destination of a load to a dead target and record it (R253). -/
def deadLoad (s : State) (x : SendQ) (d : Descriptor) : State :=
  if wantsResponse d.op then
    let s := match localAddr s x.tenant d.localKey d.localOff d.len.toNat with
      | some a => placeData s a (deadFill a d.len.toNat)
      | none => s
    let s := { s with te := { s.te with
      deadFault := true, deadDev := x.target, cnt := { s.te.cnt with deadLoad := satInc s.te.cnt.deadLoad } } }
    msix s x.func.val x.vector
  else s

/-- Operations to a dead target complete with DEAD_TARGET (R253). -/
def deadTarget (s : State) (d : DevId) : State :=
  s.te.sqs.foldl (fun s e =>
    if e.2.target = d then e.2.ops.foldl (fun s o => endOp (deadLoad s e.2 o.desc) e.1 o .deadTarget) s else s) s

/-- Every operation of a queue, taken or still posted, ends with a code. -/
def endAll (s : State) (q : Nat) (code : Finish) : State :=
  match getSq s q with
  | none => s
  | some x =>
    let s := x.ops.foldl (fun s o => endOp s q o code) s
    let s := x.posted.foldl (fun s d => postTrack s q (trackCpl d.user code 0 q 0)) s
    match getSq s q with
    | none => s
    | some y => putSq s q { y with posted := [], head := y.tail }

/-- Close a send queue: its work completes with DISCARDED. -/
def closeSq (s : State) (q : Nat) : State :=
  let s := endAll s q .discarded
  { s with te := { s.te with sqs := tblErase s.te.sqs q } }

/-- Close a receive queue and its context. -/
def closeRq (s : State) (q : Nat) : State :=
  match tblGet s.te.rqs q with
  | none => s
  | some r => { s with te := { s.te with rqs := tblErase s.te.rqs q, rxs := tblErase s.te.rxs r.ctx } }

/-! ### Received headers (R213, R216) -/

/-- A header as R232 reads it. -/
structure Hdr where
  verOk : Bool
  cls : BitVec 2
  op : Byte
  flags : BitVec 16
  src : DevId
  dstCh : BitVec 14
  len : Nat
  psn : Word
  rsv : Bool
deriving DecidableEq, Repr

def parseHdr (s : State) (f : Frame) : Hdr :=
  let h := f.head
  let relay := isRelay f.port.val
  { verOk := h.extractLsb' 4 4 == 1, cls := h.extractLsb' 2 2, op := h.extractLsb' 8 8, flags := h.extractLsb' 16 16
    src := if relay then linkPeer s (f.port.val - 16) else h.extractLsb' 32 20
    dstCh := if relay then h.extractLsb' 32 14 else h.extractLsb' 96 14
    len := if relay then (h.extractLsb' 96 14).toNat else (h.extractLsb' 112 14).toNat
    psn := if relay then h.extractLsb' 64 32 else f.psn
    rsv := h.extractLsb' 0 2 != 0 || h.extractLsb' 24 8 != 0 || (relay && f.rsvTail != 0) ||
      (if relay then h.extractLsb' 46 2 != 0 || h.extractLsb' 60 4 != 0 || h.extractLsb' 110 18 != 0
       else h.extractLsb' 52 12 != 0 || h.extractLsb' 90 6 != 0 || h.extractLsb' 110 2 != 0 || h.extractLsb' 126 2 != 0) }

/-- The payload bytes that R215 fixes for an opcode. -/
def payloadOk (op : Byte) (n : Nat) : Bool :=
  if op = opReadReq || op = opCmpSwap || op = opAck then decide (n = 16)
  else if op = opAtomicAdd || op = opFetchAdd || op = opAtomicResp || op = opNack then decide (n = 8)
  else if op = opMarshal then decide (n = 32) || decide (n = 64)
  else true

/-- First check of R232; a READ_REQ's length and a NACK's code are in range too (R215, R255). -/
def malformed (h : Hdr) (f : Frame) (op : Byte) : Bool :=
  !h.verOk || h.rsv || h.op != op || classOfOp h.op != some h.cls || decide (8192 < h.len)
  || decide (h.len ≠ f.payload.length) || !payloadOk op h.len
  || (op = opReadReq && (f.aux == 0 || decide (1073741824 < f.aux.toNat)))
  || (op = opNack && (f.payload.headD 0 == 0 || decide (12 < (f.payload.headD 0).toNat)))

/-- The tag is the current or the next one. -/
def tagOk (s : State) (t : BitVec 64) : Bool :=
  (s.mpl.current.isSome && t == s.mpl.tagCur) || ((s.mpl.staged.isSome || s.mpl.grace) && t == s.mpl.tagNext)

/-- Checks 1 to 3 of R232; on relay links plan tags are checked on MARSHAL and CONTROL frames only (R233). -/
def headCheck (s : State) (h : Hdr) (f : Frame) (op : Byte) : Option Byte :=
  if malformed h f op then some 0x01
  else if s.te.fenced.contains h.src && h.cls != clsMarshal then some 0x0C
  else if (!isRelay f.port.val || h.cls = clsMarshal || h.cls = clsControl) && !tagOk s f.planTag then some 0x02
  else none

/-! ### False starts and NACKs (R255 to R257) -/

def sendNack (s : State) (h : Hdr) (code : Byte) (retryUs : Nat) : State :=
  let f := deviceFrame s clsControl h.src opNack h.psn 0 (([code, 0, 0, 0] : List Byte) ++ wordBytes (lo32 retryUs))
  sendLoose s none { f with dstCh := h.dstCh }

/-- Count, log and answer a false start; at most one false-start NACK per source per 10 us. -/
def falseStart (s : State) (f : Frame) (h : Hdr) (code : Byte) : State :=
  let due := match tblGet s.te.nackAt h.src.toNat with
    | some t => decide (t + 10000 ≤ s.clk.now)
    | none => true
  let nack := code != 0x08 && h.verOk && h.op != opAck && h.op != opNack && due
  let e := [s.lap.count.setWidth 32, lo32 (at_ code.toNat 20 + h.src.toNat),
    lo32 (at_ (ofB nack) 10 + at_ h.cls.toNat 8 + h.op.toNat), h.psn] ++
    (List.range 4).map fun i => f.head.extractLsb' (32 * i) 32
  let s := { s with te := { s.te with fs := vmodN s.te.fs f.port.val fun p =>
    { p with cnt := satInc p.cnt, next := p.next + 1, wrapped := p.wrapped || p.next == 63,
             log := tblSet p.log p.next.toNat e } } }
  if nack then
    sendNack { s with te := { s.te with nackAt := tblSet s.te.nackAt h.src.toNat s.clk.now } } h code 0
  else s

/-! ### What reaches TE (R3, R211, R212, R217, R337) -/

def dropNontrack (s : State) : State :=
  { s with te := { s.te with cnt := { s.te.cnt with nontrack := satInc s.te.cnt.nontrack } } }

/-- A relay frame as received, up to its CRC (R216). -/
def relayGot (f : Frame) : List Byte :=
  ((List.range 16).map fun i => f.head.extractLsb' (8 * i) 8) ++ wordBytes f.aux ++ u16Bytes f.rkey.toNat
  ++ u16Bytes f.rsvTail.toNat ++ u64Bytes f.addr
  ++ (if relayTagged (f.head.extractLsb' 2 2) then u64Bytes f.planTag else []) ++ f.payload

/-- The CRC-32C of a relay frame holds. -/
def linkCrcOk (f : Frame) : Bool := f.linkCrc == crc32c (relayGot f)

/-- The receive buffer of a relay frame is free as soon as TE has taken or dropped the frame: its credits go back (R217, log 72). -/
def freeLinkBuffer (s : State) (f : Frame) : State :=
  let cls := f.head.extractLsb' 2 2
  emit s (.credit (f.port.val - 16) cls ((frameBytes f.port.val cls f.payload.length + 255) / 256))

/-- A frame that arrives is checked by MAC and port; `k` sees those that TE takes. -/
def arrive (s : State) (f : Frame) (k : State → State) : State :=
  if teHeld s || !portUsable s f.port.val then s
  else if isRelay f.port.val then
    let s := freeLinkBuffer s f
    if linkCrcOk f then k s
    else { s with rly := vmodN s.rly (f.port.val - 16) fun r => { r with crcDrop := satInc r.crcDrop } }
  else if !f.fcsOk then s
  else if f.mac != macOf s.mpl.devId 0 || decide (s.te.ethertype.toNat < 1536) || decide (maxFrame s f.port.val < f.payload.length + 70) then
    dropNontrack s
  else k s

/-! ### Receive windows and acknowledgements (R234, R242, R243) -/

/-- Take a PSN into the received set and advance the expected value. -/
def advance : Nat → Word → List Word → Word × List Word
  | 0, e, got => (e, got)
  | n + 1, e, got => if got.contains e then advance n (e + 1) (got.filter (· ≠ e)) else (e, got)

def takePsn (expected : Word) (got : List Word) (psn : Word) : Word × List Word :=
  advance (got.length + 1) expected (psn :: got)

/-- The 64 PSNs above the cumulative one (R243). -/
def ackBitmap (expected : Word) (got : List Word) : BitVec 64 :=
  (List.range 64).foldl (fun b i => if got.contains (expected + BitVec.ofNat 32 i) then b ||| (1 <<< i) else b) 0

def ackPayload (expected : Word) (got : List Word) (marked total : Nat) : List Byte :=
  wordBytes (lo32 marked) ++ wordBytes (lo32 total) ++ u64Bytes (ackBitmap expected got)

def sendAckFrame (s : State) (dst : DevId) (ch : BitVec 14) (expected : Word) (payload : List Byte) : State :=
  sendLoose s none { deviceFrame s clsControl dst opAck (expected - 1) 0 payload with dstCh := ch }

/-- Acknowledge on a receive channel context. -/
def ackCtx (s : State) (n : Nat) : State :=
  match tblGet s.te.rxs n with
  | none => s
  | some x =>
    let s := { s with te := { s.te with rxs := tblSet s.te.rxs n { x with marked := 0, total := 0, owed := none } } }
    sendAckFrame s x.source (BitVec.ofNat 14 n) x.expected (ackPayload x.expected x.got x.marked x.total)

/-- Acknowledge on a system context. -/
def ackSys (s : State) (d : DevId) : State :=
  match tblGet s.te.sysRx d.toNat with
  | none => s
  | some x =>
    let s := { s with te := { s.te with sysRx := tblSet s.te.sysRx d.toNat { x with marked := 0, total := 0, owed := none } } }
    sendAckFrame s d sysCh x.expected (ackPayload x.expected x.got x.marked x.total)

/-- One-way delay in ns. -/
def oneWay (s : State) (f : Frame) : Nat := (lo32 (ptpTime s) - f.txTime).toNat

/-- Congestion mark of R242 and the new least delay; an ingress buffer never holds 256 KiB here, since a frame is taken
whole when it arrives. -/
def congestion (s : State) (h : Hdr) (f : Frame) (least : Option Nat) : Bool × Option Nat :=
  if isRelay f.port.val then (h.flags.getLsbD 4, least)
  else
    let d := oneWay s f
    let m := match least with
      | some x => min x d
      | none => d
    (h.flags.getLsbD 4 || decide (s.te.delayMark.toNat < d - m), some m)

/-! ### Buckets and meters (R263, R269, R270) -/

/-- One KiB of bucket depth in 1/8000 bytes. -/
def kibUnits : Nat := 8192000

/-- Fill every bucket of a port up to now. -/
def fillPort (s : State) (port : Nat) : State :=
  match pacPort s port with
  | none => modPacPort s port fun p => { p with filledAt := s.clk.now }
  | some cfg => modPacPort s port fun p =>
    let dt := s.clk.now - p.filledAt
    { p with
      filledAt := s.clk.now
      queues := Vector.ofFn fun i =>
        let q := p.queues.get i
        let c := cfg.queues.get i
        { q with tokens := min (c.burstKib.toNat * kibUnits) (q.tokens + dt * c.rate.toNat) }
      meters := Vector.ofFn fun i =>
        let m := p.meters.get i
        let c := cfg.meters.get i
        { m with tc := min (c.cbsKib.toNat * kibUnits) (m.tc + dt * c.cir.toNat),
                 tp := min (c.pbsKib.toNat * kibUnits) (m.tp + dt * c.pir.toNat) } }

/-- Colours of R270. -/
inductive Colour where
  | green | yellow | red
deriving DecidableEq, Repr

/-- Colour a frame of b bytes (R270); `aware`: yellow pre-colour in colour-aware mode. -/
def colour (tc tp b : Nat) (preYellow : Bool) : Colour :=
  if tp < b then .red else if tc < b || preYellow then .yellow else .green

/-- Meter a DATA frame on a fabric port. -/
def meterFrame (s : State) (f : Frame) (t : Tenant) : Colour × State :=
  match pacPort s f.port.val with
  | none => (.green, s)
  | some cfg =>
    if isRelay f.port.val || cfg.police = 0 then (.green, s)
    else
      let s := fillPort s f.port.val
      let cl := tenantClass s t
      let m := vgetD (vgetD (vmap s.pac.ports fun p => p.meters) f.port.val (Vector.replicate 30 PacM.reset)) cl PacM.reset
      let b := (f.payload.length + 70) * 8000
      let c := colour m.tc m.tp b (cfg.police = 2 && f.tagDei)
      (c, modPacPort s f.port.val fun p => { p with meters := vmodN p.meters cl fun m =>
        match c with
        | .green => { m with tc := m.tc - b, tp := m.tp - b, green := satInc m.green }
        | .yellow => { m with tp := m.tp - b, yellow := satInc m.yellow }
        | .red => { m with red := satInc m.red } })

/-! ### Access checks (R229, R230, R232, R233) -/

def rightOf (op : Byte) : Nat :=
  if op = opReadReq then 0 else if op = opWrite then 1 else if isAtomicOp op then 2 else 3

/-- Pages of 2 MiB that a byte range touches. -/
def pagesOf (addr len : Nat) : List Nat :=
  (List.range ((addr + len - 1) / 2097152 + 1 - addr / 2097152)).map (addr / 2097152 + ·)

def pagePresent (s : State) (t : Tenant) (p : Nat) : Bool := s.te.present.contains (t, p)

/-- Pages that a frame found absent are on their way (R230). -/
def pageWanted (s : State) (t : Tenant) (p : Nat) : Bool := s.te.wanted.contains (t, p)

/-- The tenant's allowance covers so many pages more, beside those present and those on their way. -/
def allowanceLeft (s : State) (t : Tenant) (more : Nat) : Bool :=
  match tenantRec s t with
  | some r => decide (((s.te.present ++ s.te.wanted).filter fun e => e.1 = t).length + more ≤ r.paged2m.toNat)
  | none => false

/-- Absent pages of a byte range that are not on their way yet. -/
def newPages (s : State) (t : Tenant) (addr len : Nat) : List Nat :=
  (pagesOf addr len).filter fun p => !pagePresent s t p && !pageWanted s t p

def regionCount (s : State) : Nat :=
  match s.mpl.current with
  | some p => p.system.regions.toNat
  | none => 0

/-- Bytes that a request frame touches at its target address; a SEND touches none by address. -/
def targetLen (h : Hdr) (f : Frame) : Nat :=
  if h.op = opWrite then f.payload.length else if h.op = opReadReq then f.aux.toNat else if h.op = opSend then 0 else 8

/-- Tenant of a DATA frame. -/
def frameTenant (f : Frame) : Tenant := if isRelay f.port.val then f.head.extractLsb' 48 12 else f.tenant

/-- Tenant and key generation of any DATA frame. -/
def tenantCheck (s : State) (f : Frame) : Option Byte :=
  let t := frameTenant f
  if !tenantEnabled s t then some 0x05
  else if !isRelay f.port.val && f.kgen != tblGetD s.te.kgen t.toNat 0 then some 0x06
  else none

/-- The DATA branch of R232 for requests: tenant, region or pages, rights, bounds, alignment, presence. -/
def accessCheck (s : State) (h : Hdr) (f : Frame) : Option Byte :=
  let t := frameTenant f
  let relay := isRelay f.port.val
  let reg := if f.rkey.toNat < regionCount s then tblGet s.te.regions f.rkey.toNat else none
  let keyed := schemeKeyed s
  let n := targetLen h f
  if !tenantEnabled s t then some 0x05
  else if keyed && reg.isNone then some 0x05
  else if !keyed && f.rkey != 0 then some 0x05
  else if !relay && f.kgen != tblGetD s.te.kgen t.toNat 0 then some 0x06
  else if !relay && keyed && (match reg with | some r => r.tenant != t || !r.rights.getLsbD (rightOf h.op) | none => true) then
    some 0x06
  else if h.op = opSend then none
  else if (if keyed then (match reg with | some r => decide (r.len < f.addr.toNat + n) | none => true)
           else decide (281474976710656 < f.addr.toNat + n))
      || (isAtomicOp h.op && f.addr.toNat % 8 != 0) then some 0x07
  else if !keyed && (pagesOf f.addr.toNat n).any (fun p => !pagePresent s t p) then
    if allowanceLeft s t (newPages s t f.addr.toNat n).length then some 0x0A else some 0x07
  else none

/-- A failed check: FENCED_SOURCE, PAGE_FAULT and RX_NO_BUFFER are no false starts (R256). A page fault asks for the pages (R230). -/
def checkFail (s : State) (f : Frame) (h : Hdr) (code : Byte) : State :=
  if code = 0x0A then
    let t := frameTenant f
    let ps := (newPages s t f.addr.toNat (targetLen h f)).map fun p => (t, p)
    sendNack { s with te := { s.te with wanted := s.te.wanted ++ ps } } h code 50
  else if code = 0x0B then sendNack s h code 100
  else if code = 0x0C then sendNack s h code 0
  else falseStart s f h code

/-- Data address of a request's target. -/
def targetAddr (s : State) (f : Frame) : Nat :=
  if schemeKeyed s then
    match tblGet s.te.regions f.rkey.toNat with
    | some r => r.base + f.addr.toNat
    | none => 0
  else pagedBase (frameTenant f) + f.addr.toNat

/-! ### The requester's side -/

/-- The send queue of a channel, named by its target and receive context (log 13). -/
def chanOf (s : State) (dev : DevId) (ch : BitVec 14) : Option Nat :=
  (s.te.sqs.find? fun e => e.2.target == dev && e.2.rxCtx == ch).map (·.1)

/-! ### Fences at TE (R254) -/

def teFence (s : State) (d : DevId) : State :=
  { s with te := { s.te with fenced := if s.te.fenced.contains d then s.te.fenced else s.te.fenced ++ [d] } }

/-- Completion counters in LAP mode go to 0 (R245). -/
def zeroLapCtrs (s : State) : State :=
  match deviceSec s with
  | some d => d.ctrLap.foldl (fun s c => setCtr s c.toNat 0) s
  | none => s

end Sys2Proof.Machine
end

