-- ==== Sys2Proof/Machine/MarOps.lean ====
section
/-! DEFINITION. Marshal's shared operations: rounds, fences of peers and of this device, re-admission, swaps, and what a plan
switch does to Marshal (12_marshal_and_resilience.md). -/

namespace Sys2Proof.Machine

open Sys2Proof

/-! ### Rounds (R318) -/

def roundStart (s : State) (r : BitVec 48) : Nat := s.lap.base.toNat + r.toNat * 1000000

/-- The round that runs now. -/
def roundNow (s : State) : BitVec 48 := BitVec.ofNat 48 ((s.clk.now - s.lap.base.toNat) / 1000000)

/-- The first round that begins now or later. -/
def roundNext (s : State) : BitVec 48 := BitVec.ofNat 48 ((s.clk.now - s.lap.base.toNat + 999999) / 1000000)

def modRounds (s : State) (f : Rounds → Rounds) : State := { s with mar := { s.mar with rounds := f s.mar.rounds } }

/-- A message whose EPOCH field R324 does not define carries a free value there. -/
def openMsg (s : State) (mtype : Byte) (subject : DevId) (round : BitVec 48) : MarMsg × State :=
  let x := takeFree s
  (mkMsg x.2 mtype 0 subject (x.1.setWidth 16) round, x.2)

/-- A message to each device of a list. -/
def marSendAll (s : State) (ds : List DevId) (m : MarMsg) : State := ds.foldl (fun s d => marSend s d m []) s

/-- A fence of a subject that this device holds. -/
def heldFence (s : State) (d : DevId) : Option FenceRec := s.mar.held.find? fun f => f.subject == d

/-- A watcher expects the subject's heartbeat of a round (R318). -/
def expectsHb (s : State) (d : DevId) (r : BitVec 48) : Bool :=
  let x := s.mar.rounds
  decide (x.since.toNat ≤ r.toNat) && (x.cleared.all fun c => c.1 != d || decide (c.2.toNat ≤ r.toNat))
  && (match heldFence s d with | some f => !f.declared | none => true)

/-- Watchers that suspect a subject in a round. -/
def suspectCount (s : State) (d : DevId) (r : BitVec 48) : Nat :=
  (s.mar.rounds.suspects.filter fun x => x.1 == d && x.2.1 == r).length

def hasMajority (s : State) (d : DevId) (r : BitVec 48) : Bool := s.mar.rounds.majority.contains (d, r)

/-- Watchers whose echo of a round came, by place. -/
def echoMask (s : State) (r : BitVec 48) : BitVec 5 :=
  (List.range 5).foldl (fun m k => if s.mar.rounds.echoes.contains (k, r) then m ||| (1 <<< k) else m) 0

def echoCount (s : State) (r : BitVec 48) : Nat := (s.mar.rounds.echoes.filter fun e => e.2 == r).length

/-- Forget rounds that no rule judges any more. -/
def trimRounds (s : State) (r : BitVec 48) : State :=
  let old := fun (q : BitVec 48) => decide (q.toNat + 3 < r.toNat)
  modRounds s fun x => { x with
    got := x.got.filter (fun e => !old e.2), suspects := x.suspects.filter (fun e => !old e.2.1)
    majority := x.majority.filter (fun e => !old e.2), echoes := x.echoes.filter (fun e => !old e.2)
    sent := x.sent.filter (fun e => !old e), thin := x.thin.filter (fun e => !old e), late := x.late.filter (fun e => !old e.2)
    strays := x.strays.filter (fun m => !old m.round) }

/-! ### What a fence of a peer does (R185, R204, R254, R290, R328) -/

/-- Tray position of a device: this one's own, or that of a relay link's peer (R435). -/
def trayPlace (s : State) (d : DevId) : Option Nat :=
  if d = s.mpl.devId then some s.sta.pos.toNat
  else ((List.finRange 3).find? fun i => linkUp s i.val && (s.rly.get i).peer == d).map fun i => (s.sta.pos.toNat + i.val + 1) % 4

/-- Outstanding cascaded lookups end; their tags rest (R290). -/
def endLookups (s : State) (code : Finish) : State :=
  let ws := s.bib.waits
  let qs := s.bib.lookQ
  let rest := ws.map fun w => (w.tag, s.clk.now + 16000)
  let s := { s with bib := { s.bib with waits := [], lookQ := [], own := [], resting := s.bib.resting ++ rest } }
  (ws.map (fun w => (w.req, w.gen)) ++ qs.map fun q => (q, s.bib.gen)).foldl (fun s q =>
    match q.1.pull with
    | none => answerLookup s q.1.h q.2 (code, none)
    | some x => completeB s q.1.h 0x03 code 0 (batonWords x.1)) s

/-- A cascade member is fenced. -/
def fenceMember (s : State) (d : DevId) (declared : Bool) : State :=
  match trayPlace s d with
  | none => s
  | some k =>
    if d ≠ s.mpl.devId && decide (k < cascadeSize s) && isMember s then
      let s := { s with bib :=
        if declared then { s.bib with deadMember := true } else { s.bib with fencedMember := true } }
      endLookups s (if declared then .deadTarget else .fenced)
    else s

/-- What a leg with a fenced peer comes to: a landed one of a dead source still commits. -/
def fenceLeg (s : State) (g : Leg) (declared : Bool) : State :=
  if g.localLeg then s
  else if declared then
    if g.atTarget && g.state == .landed then s else abortLeg s g .deadTarget false
  else abortLeg s g .fenced false

/-- Resumes that pull from a fenced holder end. -/
def fencePulls (s : State) (d : DevId) (code : Finish) : State :=
  (s.btn.pulls.filter fun p => p.holder == d).foldl (fun s p => endPull s p code) s

/-- A lane whose lap table exchanges with its generation group. -/
def exchanges (l : Lane) : Bool :=
  match (if l.tables.fg then l.tables.copyB else l.tables.copyA) with
  | some t => t.slots.any fun x => x.type == 0x4
  | none => false

/-- A request whose shares the group holds is lost with a member; its lead device completes it with DEAD_TARGET. -/
def loseGroupReq (s : State) (b : BatonId) : State :=
  match findReq s b with
  | none => s
  | some r =>
    let s := endCmds (modReq s b fun r => { r with lost := some .device, resident := false }) b .deadTarget
    if isLead s then finalCpl s r .deadTarget 0 (lastPos r) else s

/-- A member of this device's generation group is declared dead (R328). -/
def groupLost (s : State) (d : DevId) : State :=
  if d ≠ s.mpl.devId && (groupDevs s).contains d then
    let ns := lanesWhere s fun l => runs l && exchanges l
    let s := ns.foldl (fun s n => modLane s n fun l =>
      { l with st := { l.st with stopNext := true, lapLost := l.st.lapLost || !l.st.slots.isEmpty } }) s
    let bs := (s.reqs.filter fun r => decide (1 < r.nshares) && r.lost.isNone && (match r.lane with
      | some n => (laneOf s n).role == roleGen
      | none => false)).map (·.id)
    bs.foldl loseGroupReq s
  else s

/-- Operations to a fenced device end with FENCED (R328). -/
def fenceTarget (s : State) (d : DevId) : State :=
  s.te.sqs.foldl (fun s e =>
    if e.2.target = d then e.2.ops.foldl (fun s o => endOp s e.1 o .fenced) s else s) s

/-- Everything that a fence of a peer does here. -/
def fencePeer (s : State) (d : DevId) (epoch : BitVec 16) (declared : Bool) : State :=
  let s := teFence s d
  let s := { s with mar := { s.mar with held := s.mar.held.filter (fun f => f.subject != d) ++ [⟨d, epoch, declared⟩] } }
  let code := if declared then Finish.deadTarget else .fenced
  let s := if declared then
      deadTarget (closeSysTx { s with te := { s.te with
        dead := if s.te.dead.contains d then s.te.dead else s.te.dead ++ [d] } } d) d
    else fenceTarget s d
  let s := (s.btn.legs.filter fun g => g.peer == d).foldl (fun s g => fenceLeg s g declared) s
  let s := fenceMember (fencePulls s d code) d declared
  if declared then groupLost s d else s

/-! ### This device is fenced (R326) -/

/-- TE and Pacer drop what has not left; under ADMIN heartbeats and echoes stay. -/
def silence (s : State) (declared : Bool) : State :=
  let stays := fun (f : TxFrame) => f.cls == clsMarshal && !declared && (f.payload.headD 0 == mtHeartbeat || f.payload.headD 0 == mtEcho)
  { s with
    te := { s.te with
      loose := s.te.loose.filter fun x => stays x.2, sysTx := [], ctxWait := []
      sysPsn := s.te.sysTx.foldl (fun t e => tblSet t e.1 e.2.nextPsn) s.te.sysPsn }
    pac := ⟨vmap s.pac.ports fun p => { p with queues := vmap p.queues fun q => { q with frames := q.frames.filter stays } }⟩ }

/-- A request's commands end with FENCED; a declared device frees its share, an ADMIN fence keeps it. -/
def fenceReq (s : State) (declared : Bool) (b : BatonId) : State :=
  match findReq s b with
  | none => s
  | some r =>
    let s := endCmds (endAudit s b .fenced) b .fenced
    let s := finalCpl s r .fenced 0 (lastPos r)
    if declared then freeReq s b .fenced else s

/-- Bib batches end with FENCED, and lookups too. -/
def fenceBib (s : State) : State :=
  let bs := s.bib.queue
  let s := { s with bib := { s.bib with queue := [], engine := .idle } }
  let s := bs.foldl (fun s b => completeB s b.h 0x18 .fenced 0 (updateBody 0xFFFF)) s
  endLookups s .fenced

/-- The state that a fence of this device leads to. A device that waits for its re-admission stays so. -/
def fencedState (m : MarState) (declared : Bool) : MarState :=
  match m with
  | .readmitPending => .readmitPending
  | .declared => .declared
  | .inactive | .live | .fenced => if declared then .declared else .fenced

/-- A pull of a fenced device ends, and every command that waits for it. -/
def fencePull (s : State) (p : Pull) : State :=
  let s := completeB s p.h 0x03 .fenced 0 (batonWords p.baton)
  let s := p.pauses.foldl (fun s h => complete s h 0x02 .fenced) s
  p.cmds.foldl (fun s c => completeCmd s p.baton (cmdOp c.1) (cmdHdr c.1) .fenced) s

/-- From now on this device is fenced: it issues nothing, stops every lane, ends everything outstanding with FENCED. -/
def fenceSelf (s : State) (epoch : BitVec 16) (declared : Bool) : State :=
  let s := { s with mar := { s.mar with
    state := fencedState s.mar.state declared
    held := s.mar.held.filter (fun f => f.subject != s.mpl.devId) ++ [⟨s.mpl.devId, epoch, declared⟩] } }
  let s := silence s declared
  let s := (lanesWhere s runs).foldl enterStopped s
  let s := s.te.sqs.foldl (fun s e => endAll s e.1 .fenced) s
  let s := s.btn.legs.foldl (fun s g => if g.type = legFetch then dropLeg s g.index else abortLeg s g .fenced false) s
  let ps := s.btn.pulls
  let s := ps.foldl fencePull { s with btn := { s.btn with pulls := [] } }
  let s := laneNos.foldl (fun s n => failLaneCmds (failQueues s n .fenced) n .fenced) s
  let s := fenceBib s
  (s.reqs.map (·.id)).foldl (fun s b => fenceReq s declared b) s

/-- This device holds its own DECLARED fence (R308). -/
def declaredDead (s : State) : Bool :=
  s.mar.state == .declared ||
  (s.mar.state == .readmitPending && match heldFence s s.mpl.devId with | some f => f.declared | none => false)

/-! ### Fences and re-admissions (R322, R327) -/

/-- Epoch a is older than epoch b, modulo 2^16. -/
def olderEpoch (a b : BitVec 16) : Bool := a != b && decide ((b - a).toNat < 32768)

/-- A FENCE that changes nothing: seen, superseded, or from before a re-admission. -/
def fenceIgnored (s : State) (d : DevId) (epoch : BitVec 16) (declared : Bool) : Bool :=
  s.mar.seen.contains ⟨d, epoch, declared⟩ || (!declared && s.mar.seen.contains ⟨d, epoch, true⟩)
  || s.mar.readmitDone.any fun x => x.1 == d && olderEpoch epoch x.2

/-- Take up a fence: forward it, apply it, log it. -/
def fenceIn (s : State) (d : DevId) (epoch : BitVec 16) (declared received : Bool) (round : BitVec 48) : State :=
  if fenceIgnored s d epoch declared then s
  else
    let s := { s with mar := { s.mar with
      seen := s.mar.seen ++ [⟨d, epoch, declared⟩], fenceRx := if received then satInc s.mar.fenceRx else s.mar.fenceRx } }
    let s := if d = s.mpl.devId then fenceSelf s epoch declared
      else fencePeer (marSendAll s (fanOut s) (mkMsg s mtFence (if declared then 0 else 1) d epoch round)) d epoch declared
    marLog s (if declared then evDeclared else evFenced) 0xF d 0xFF (epoch.setWidth 32)

/-- The fence of a peer clears: TE takes its frames again (R254). -/
def clearFence (s : State) (d : DevId) (epoch : BitVec 16) : State :=
  let s := { s with
    te := { s.te with fenced := s.te.fenced.filter fun x => x != d, dead := s.te.dead.filter fun x => x != d }
    mar := { s.mar with
      held := s.mar.held.filter fun f => f.subject != d
      readmits := s.mar.readmits.filter fun x => x.1 != d
      readmitDone := s.mar.readmitDone.filter (fun x => x.1 != d) ++ [(d, epoch)] } }
  let r := roundNext s
  let s := modRounds s fun x => { x with cleared := x.cleared.filter (fun c => c.1 != d) ++ [(d, r)] }
  marLog s evReadmitted 0xF d 0xFF (epoch.setWidth 32)

/-- Take up a re-admission at an epoch. -/
def readmitIn (s : State) (d : DevId) (epoch : BitVec 16) (round : BitVec 48) : State :=
  if s.mar.readmits.contains (d, epoch) || s.mar.readmitDone.contains (d, epoch) then s
  else
    let s := marSendAll s (fanOut s) (mkMsg s mtReadmit 0 d epoch round)
    let s := { s with mar := { s.mar with readmits := s.mar.readmits.filter (fun x => x.1 != d) ++ [(d, epoch)] } }
    if d = s.mpl.devId then
      (if s.mar.state = .fenced || s.mar.state = .declared then { s with mar := { s.mar with state := .readmitPending } } else s)
    else if s.mpl.current.isSome && s.mpl.epoch = epoch then clearFence s d epoch
    else s

/-! ### What a plan switch does (R316, R327) -/

/-- The staged ring becomes current. -/
def takeRing (s : State) : State :=
  let r := roundNext s
  modRounds { s with mar := { s.mar with ringCur := s.mar.ringStg } } fun x => { x with since := r }

/-- This device's own re-admission at a switch to its epoch. -/
def readmitSelf (s : State) (epoch : BitVec 16) : State :=
  if s.mar.state = .readmitPending && s.mar.readmits.contains (s.mpl.devId, epoch) then
    let s := clearFence s s.mpl.devId epoch
    { s with mar := { s.mar with state := .inactive } }
  else s

/-- INACTIVE and LIVE follow the ring. -/
def ringState (s : State) : State :=
  match s.mar.state with
  | .inactive =>
    if ringComplete s.mar.ringCur then
      let r := roundNext s
      modRounds { s with mar := { s.mar with state := .live } } fun x => { x with liveAt := r, sent := [], echoes := [] }
    else s
  | .live => if ringComplete s.mar.ringCur then s else { s with mar := { s.mar with state := .inactive } }
  | _ => s

/-- Marshal at a switch to an epoch, after the device's epoch and LAP_BASE have changed. -/
def marSwitch (s : State) (epoch : BitVec 16) : State :=
  let s := ringState (readmitSelf (takeRing s) epoch)
  (s.mar.readmits.filter fun x => x.2 == epoch && x.1 != s.mpl.devId).foldl (fun s x => clearFence s x.1 epoch) s

/-! ### Swaps (R335) -/

/-- Items of a swapped lane that go before the switch: sealed pages and record slots. -/
def swapEarly (it : LegItem) : Bool := (it.kind == kPage && it.state != pOpen) || it.kind == kRecords

def swapItems (s : State) (n : LaneNo) (bs : List BatonId) : List LegItem :=
  bs.flatMap fun b => match findReq s b with
    | some r => legItems s legSwap r n true
    | none => []

def pageOf (it : LegItem) : LegPage := ⟨it, false, 0, 0, 0, false, [], 0, none⟩

/-- Open the SWAP leg of one lane toward the same lane of the spare. -/
def openSwap (s : State) (dev : DevId) (n : LaneNo) : State × Bool :=
  let rs := s.reqs.filter fun r => r.lane == some n && r.lost.isNone
  let bs := bySlot (rs.map (·.id))
  let items := (swapItems s n bs).filter swapEarly
  match rs, openEntry s (sourceLeg s legSwap dev n n bs items) with
  | r :: _, some (i, s) =>
    match s.btn.legs.find? (fun g => g.index == i) with
    | none => (s, false)
    | some g =>
      let ask := askOf s r legSwap n n items (legIdOf g)
      let sound := rs.all fun r => decide (r.samp.counter = r.log.length) && originsOk r
      (sendAsk s dev { ask with batons := bs, counterOk := sound, originOk := sound, states := (rs.map stpUse).sum }, true)
  | _, _ => (s, false)

/-- Items that a swap leg has not listed yet. -/
def swapMore (s : State) (g : Leg) (early : Bool) : List LegItem :=
  (swapItems s g.srcLane g.batons).filter fun it =>
    (!early || swapEarly it) && g.pages.all fun p =>
      !(p.item.baton == it.baton && p.item.kind == it.kind && p.item.state == it.state && p.item.layer == it.layer
        && p.item.index == it.index)

/-- Add items to a swap leg and ask the target, which allocates them or aborts the leg (R181). -/
def swapAdd (s : State) (g : Leg) (early : Bool) : State :=
  let its := swapMore s g early
  match its, g.batons.findSome? (findReq s) with
  | _ :: _, some r =>
    let s := modLeg s g.index fun g => { g with pages := g.pages ++ its.map pageOf }
    sendAsk s g.peer { askOf s r legSwap g.srcLane g.dstLane its (legIdOf g) with ask := .add, leg := targetId g, batons := g.batons }
  | _, _ => s

/-- Pages that sealed since join the swap legs. -/
def swapSealed (s : State) : State :=
  if s.mar.swapActive && s.mpl.epoch != s.mar.swapEpoch then
    setPrecopy ((swapSources s).foldl (fun s g => swapAdd s g true) s)
  else s

/-- Members leave their batch, and are resident again when their share is. -/
def leaveBatch (s : State) (n : LaneNo) : State :=
  (laneOf s n).st.batch.foldl (fun s m => modReq (unqueue s m.1) m.1 fun r => { r with resident := false }) s

/-- The mutable parts of a swap leg go after the switch: the items that are left join the leg, and the control parts go as far as
they are cleared. -/
def swapFinal (s : State) (g : Leg) : State :=
  sendParts (g.ctlBlocks + 1) (swapAdd s g false) g.index

/-- At a switch whose group list differs, or that a swap waits for, every member of the group's lanes leaves (R335). -/
def swapSwitch (s : State) (before after : List DevId) : State :=
  let due := s.mar.swapActive && s.mpl.epoch == s.mar.swapEpoch
  let s := if due || (decide (1 < before.length) && before != after) then
      (lanesWhere s fun l => l.role == roleGen).foldl leaveBatch s
    else s
  if due then (swapSources s).foldl swapFinal s else s

end Sys2Proof.Machine
end

