-- ==== Sys2Proof/Machine/Pacer.lean ====
section
/-! DEFINITION. Pacer: the choice of the next frame, shapers and pauses (09_pacer.md R262 to R268, R272; R224). -/

namespace Sys2Proof.Machine

open Sys2Proof

/-- A frame's charge (R262). -/
def charge (s : State) (port : Nat) (f : TxFrame) : Nat := txBytes port f + overhead s port

/-- Line rate in bytes per ns: 800 Gb/s, and 3.2 or 3.0 Tb/s on a relay link (R224). -/
def lineRate (s : State) (port : Nat) : Nat :=
  if isRelay port then (if vgetD (vmap s.rly fun r => r.state) (port - 16) 0 = 3 then 375 else 400) else 100

/-- PTP time of the running lap's commit point (R91). -/
def commitAt (s : State) : Nat := s.lap.boundaryAt + (s.lap.period - s.lap.quiet) * 1000

/-- A DATA or LEG frame that would not end before the commit point, or that heads its queue in the quiet window, waits for
the boundary (R224, R265). -/
def crosses (s : State) (port : Nat) (f : TxFrame) : Bool :=
  (f.cls = clsData || f.cls = clsLeg) && s.lap.running &&
    (s.lap.inQuiet || decide (lineRate s port * (commitAt s - s.clk.now) ≤ charge s port f))

/-- RATE of a queue's shaper; 0 is unshaped. -/
def qRate (s : State) (port q : Nat) : Nat :=
  match pacPort s port with
  | some p => (vgetD p.queues q ⟨0, 0, 0, 0⟩).rate.toNat
  | none => 0

def qWeight (s : State) (port q : Nat) : Nat :=
  match pacPort s port with
  | some p => (vgetD p.queues q ⟨0, 0, 0, 0⟩).weight.toNat
  | none => 0

/-- Credits of a class on a relay link. -/
def creditsOf (s : State) (port : Nat) (cls : BitVec 2) : Nat :=
  vgetD (vgetD (vmap s.rly fun r => r.credits) (port - 16) (Vector.replicate 4 0)) cls.toNat 0

def creditNeed (port : Nat) (f : TxFrame) : Nat := (txBytes port f + 255) / 256

/-- Mark heads that would cross the commit point as held, and count each once (R224). -/
def holdHeads (s : State) (port : Nat) : State :=
  (List.range 32).foldl (fun s q =>
    let x := pacQueue s port q
    match x.frames with
    | f :: _ =>
      if !x.heldHead && crosses s port f then
        let s := modPacQ s port q fun x => { x with heldHead := true }
        { s with te := { s.te with cnt := { s.te.cnt with hold := satInc s.te.cnt.hold } } }
      else s
    | [] => s) s

/-- R264. -/
def eligible_ (s : State) (port q : Nat) : Bool :=
  let x := pacQueue s port q
  match x.frames with
  | [] => false
  | f :: _ =>
    !x.heldHead && !x.paused && (!isRelay port || decide (creditNeed port f ≤ creditsOf s port f.cls))
    && (qRate s port q = 0 || decide (charge s port f * 8000 ≤ x.tokens))

/-- One pass over the weighted group from rr on; the queue chosen. -/
def weightedPass (s : State) (port : Nat) : List Nat → State × Option Nat
  | [] => (s, none)
  | q :: rest =>
    let x := pacQueue s port q
    match x.frames with
    | [] => weightedPass (modPacQ s port q fun x => { x with deficit := 0, fresh := true }) port rest
    | f :: _ =>
      if !eligible_ s port q then weightedPass (modPacQ s port q fun x => { x with fresh := true }) port rest
      else
        let d := if x.fresh then x.deficit + 1024 * qWeight s port q else x.deficit
        let c := charge s port f
        if c ≤ d then
          (modPacPort (modPacQ s port q fun x => { x with deficit := d - c, fresh := false }) port fun p => { p with rr := q },
            some q)
        else weightedPass (modPacQ s port q fun x => { x with deficit := d, fresh := true }) port rest

/-- The queues of a pass in order: rr first. -/
def passOrder (rr : Nat) : List Nat := (List.range 28).map fun i => 4 + (rr - 4 + i) % 28

/-- Repeat passes while a weighted queue is eligible; each adds at least 1,024 to an eligible queue's deficit, so eleven passes
cover the largest charge, 9,279 bytes, after one that adds none. -/
def weightedLoop (s : State) (port : Nat) : Nat → State × Option Nat
  | 0 => (s, none)
  | n + 1 =>
    if ((List.range 28).map (4 + ·)).any (eligible_ s port) then
      match weightedPass s port (passOrder (vgetD (vmap s.pac.ports fun p => p.rr) port 4)) with
      | (s, some q) => (s, some q)
      | (s, none) => weightedLoop s port n
    else (s, none)

def chooseQueue (s : State) (port : Nat) : State × Option Nat :=
  match (List.range 4).find? (eligible_ s port) with
  | some q => (s, some q)
  | none => weightedLoop s port 11

/-- PCP of a frame's class (R268). -/
def framePcp (s : State) (port : Nat) (cls : BitVec 2) : BitVec 3 :=
  match pacPort s port with
  | some p =>
    if cls = clsMarshal then p.pcp.extractLsb' 0 3 else if cls = clsControl then p.pcp.extractLsb' 4 3
    else if cls = clsData then p.pcp.extractLsb' 8 3 else p.pcp.extractLsb' 12 3
  | none => 0

/-- The head of a queue starts to serialise: debited, stamped with TX_TIME (R267), counted. -/
def startFrame (s : State) (port q : Nat) : State :=
  match (pacQueue s port q).frames with
  | [] => s
  | f :: rest =>
    let c := charge s port f * 8000
    let s := modPacQ s port q fun x =>
      { x with frames := rest, tokens := if qRate s port q = 0 then x.tokens else x.tokens - c, txCnt := satInc x.txCnt }
    let s := if isRelay port then
        { s with rly := vmodN s.rly (port - 16) fun r =>
          { r with credits := vmodN r.credits f.cls.toNat fun k => k - creditNeed port f } }
      else s
    let s := modPacPort s port fun p => { p with busyUntil := s.clk.now + (charge s port f + lineRate s port - 1) / lineRate s port }
    let pcp := framePcp s port f.cls
    let time := lo32 (ptpTime s)
    pumpAll (emit s (.frame port pcp time f (wireBytes s port pcp time f)))

/-- PACER_CHOOSE, at the end of a frame or while the port idles: buckets fill up to now, heads that would cross are held, and the chosen queue's head starts. -/
def execPacerChoose (port : Fin 19) (s : State) : Res :=
  .next (if pacHeld s || !portUsable s port.val || decide (s.clk.now < (s.pac.ports.get port).busyUntil) then s
    else
      let s := holdHeads (fillPort s port.val) port.val
      match chooseQueue s port.val with
      | (s, some q) => startFrame s port.val q
      | (s, none) => s)

/-- Priorities that pause queue 0 and queue 1 of a port (R266). -/
def pfcQueues (s : State) (port : Nat) (prio : BitVec 3) : List Nat :=
  (if framePcp s port clsMarshal = prio then [0] else []) ++ (if framePcp s port clsControl = prio then [1] else [])

def setPaused (s : State) (port : Nat) (prio : BitVec 3) (p : Bool) : State :=
  (pfcQueues s port prio).foldl (fun s q => modPacQ s port q fun x => { x with paused := p }) s

/-- PFC_FRAME_RX: a pause time of 0 ends the pause. -/
def execPfcFrameRx (port : Fin 16) (priority : BitVec 3) (pause : Nat) (s : State) : Res :=
  .next (if !fabricUsable s port.val || (pacPort s port.val).isNone then s else setPaused s port.val priority (decide (0 < pause)))

/-- PFC_PAUSE_END. -/
def execPfcPauseEnd (port : Fin 16) (priority : BitVec 3) (s : State) : Res :=
  .next (if (pacPort s port.val).isNone then s else setPaused s port.val priority false)

/-- A lap boundary frees held heads (R265). -/
def releaseHeads (s : State) : State :=
  { s with pac := ⟨vmap s.pac.ports fun p => { p with queues := vmap p.queues fun q => { q with heldHead := false } }⟩ }

/-- A new plan refills every bucket and clears every deficit; no queued frame is dropped (R272). -/
def pacRefill (s : State) : State :=
  match s.mpl.current with
  | none => s
  | some plan =>
    { s with pac := ⟨Vector.ofFn fun i =>
      let p := s.pac.ports.get i
      let cfg := plan.pacer.get i
      { p with
        rr := 4, filledAt := s.clk.now
        queues := Vector.ofFn fun k =>
          { p.queues.get k with tokens := (cfg.queues.get k).burstKib.toNat * kibUnits, deficit := 0, fresh := true }
        meters := Vector.ofFn fun k =>
          { p.meters.get k with tc := (cfg.meters.get k).cbsKib.toNat * kibUnits, tp := (cfg.meters.get k).pbsKib.toNat * kibUnits } }⟩ }

/-- A reset that reaches PAC (R272): queues empty, counters zero, buckets full, deficits 0. -/
def pacReset (s : State) : State := pacRefill { s with pac := Pac.reset }

end Sys2Proof.Machine
end

