-- ==== Sys2Proof/Machine/Track.lean ====
section
/-! DEFINITION. Track frames received, operations and queues (08_track_transport.md R219 to R253), and the doorbells of Track queues (R377, R378). -/

namespace Sys2Proof.Machine

open Sys2Proof

/-! ### Executing a request at the target (R226 to R228) -/

def getRx (s : State) (n : Nat) : Option RxCtx := tblGet s.te.rxs n
def putRx (s : State) (n : Nat) (x : RxCtx) : State := { s with te := { s.te with rxs := tblSet s.te.rxs n x } }

/-- A DATA response on channel n: it takes the next number of the channel's responses, which nothing acknowledges, and names the
request's PSN in AUX (R223, R228, log 13). -/
def sendResponse (s : State) (n : Nat) (op : Byte) (flags : BitVec 16) (aux : Word) (addr : BitVec 64) (payload : List Byte) : State :=
  match getRx s n with
  | none => s
  | some x =>
    sendLoose (putRx s n { x with respPsn := x.respPsn + 1 }) none { deviceFrame s clsData x.source op aux addr payload with
      flags, psn := x.respPsn, dstCh := BitVec.ofNat 14 n, tenant := x.tenant, kgen := tblGetD s.te.kgen x.tenant.toNat 0 }

/-- FIRST and LAST of frame i of k, with the request's ORD. -/
def respFlags (ord : BitVec 16) (i k : Nat) : BitVec 16 :=
  (if i = 0 then flFirst else 0) ||| (if i + 1 = k then flLast else 0) ||| (ord &&& flOrd)

/-- The READ_RESP frames of a read, split as a WRITE is (R223). -/
def sendRead (s : State) (n : Nat) (h : Hdr) (a len : Nat) : State :=
  let P := tableLimit s sysTable
  let k := (len + P - 1) / P
  (List.range k).foldl (fun s i =>
    let bs := memBytes s.mem.data (a + i * P) (min P (len - i * P))
    sendResponse s n opReadResp (respFlags h.flags i k) h.psn (BitVec.ofNat 64 (i * P)) bs) s

def sendOld (s : State) (n : Nat) (h : Hdr) (old : BitVec 64) : State :=
  sendResponse s n opAtomicResp (respFlags h.flags 0 1) h.psn 0 (u64Bytes old)

/-- A 64-bit operand at an offset of a payload. -/
def operand (bs : List Byte) (off : Nat) : BitVec 64 :=
  BitVec.ofNat 64 (((bs.drop off).take 8).foldr (fun b acc => b.toNat + 256 * acc) 0)

/-- An atomic's new value (R227). -/
def atomicNew (op : Byte) (old : BitVec 64) (payload : List Byte) : BitVec 64 :=
  if op = opCmpSwap then (if old = operand payload 0 then operand payload 8 else old) else old + operand payload 0

/-- Execute an atomic; an old value that returns is kept with its PSN, the last 256 per channel (R228). -/
def execAtomic (s : State) (n : Nat) (x : RxCtx) (h : Hdr) (f : Frame) : State :=
  let a := targetAddr s f
  let old := memU64 s.mem.data a
  let s := placeData s a (u64Bytes (atomicNew h.op old f.payload))
  if h.op = opAtomicAdd then s
  else
    let s := putRx s n { x with atoms := (x.atoms ++ [(h.psn, old)]).drop (x.atoms.length + 1 - 256) }
    sendOld s n h old

/-! ### Receive queues (R249 to R252) -/

def rqCpl (code : Finish) (q bytes : Nat) (last : Bool) : List Word :=
  [0, 0, lo32 ((finishCode code).toNat + at_ q 16), lo32 (bytes + at_ (ofB last) 31)]

/-- Write a receive queue's completions in ring order and signal its vector. -/
def postRq (s : State) (q : Nat) (ws : List (List Word)) : State :=
  match tblGet s.te.rqs q with
  | none => s
  | some r =>
    if ws.isEmpty || !hostUp s then s
    else
      let s := { s with te := { s.te with rqs := tblSet s.te.rqs q { r with cplIdx := r.cplIdx + BitVec.ofNat 32 ws.length } } }
      let s := emitAll s (ws.zipIdx.map fun p =>
        .hostWrite r.func.val (r.cplRing + BitVec.ofNat 64 (16 * ((r.cplIdx.toNat + p.2) % 2 ^ r.log2))) p.1)
      msix s r.func.val r.vector

def bufBytes (bs : List RxBuffer) : Nat := (bs.map fun b => b.len.toNat).sum

/-- Claim buffers in ring order until the claimed length covers `need`; none when the ring runs dry. -/
def claim : Nat → List RxBuffer → List RxBuffer → Option (List RxBuffer × List RxBuffer)
  | need, have_, ring =>
    if need ≤ bufBytes have_ then some (have_, ring)
    else match ring with
      | [] => none
      | b :: rest => claim need (have_ ++ [b]) rest

/-- Place message bytes from an offset over the claimed buffers, and count what each received. -/
def placeMsg (s : State) (t : Tenant) : List RxBuffer → List Nat → Nat → List Byte → State × List Nat
  | [], cs, _, _ => (s, cs)
  | b :: bs, cs, off, data =>
    let n := b.len.toNat
    let c := cs.headD 0
    if n ≤ off then
      let r := placeMsg s t bs cs.tail (off - n) data
      (r.1, c :: r.2)
    else
      let part := data.take (n - off)
      let s := match localAddr s t b.localKey (b.localOff + BitVec.ofNat 48 off) part.length with
        | some a => placeData s a part
        | none => s
      let r := placeMsg s t bs cs.tail 0 (data.drop (n - off))
      (r.1, (c + part.length) :: r.2)

def getMsg (r : RecvQ) (m : Word) : RxMsg :=
  (r.msgs.find? fun x => x.number == m).getD ⟨m, 0, [], 0, []⟩

def putMsg (r : RecvQ) (x : RxMsg) : RecvQ := { r with msgs := r.msgs.filter (fun y => y.number != x.number) ++ [x] }

/-- Completions of R252: OK and the bytes of each buffer; bit 31 set in the last. -/
def msgCpls (q : Nat) (x : RxMsg) : List (List Word) :=
  x.written.zipIdx.map fun p => rqCpl .ok q p.1 (decide (p.2 + 1 = x.written.length))

/-- What a SEND frame came to. -/
inductive SendOut where
  | wait
  | late
  | dropped (s : State)
  | placed (s : State)
deriving Repr

/-- A SEND frame at its receive queue (R250 to R252). A frame of a dropped message is late until the 100 us of its NACK have
passed (log 14). A claim that runs dry has claimed every posted buffer, and returns them with those claimed before. -/
def runSend (s : State) (x : RxCtx) (h : Hdr) (f : Frame) : SendOut :=
  match tblGet s.te.rqs x.queue with
  | none => .late
  | some r =>
    let m := f.aux
    let len := (f.addr.extractLsb' 32 32).toNat
    let off := (f.addr.extractLsb' 0 32).toNat
    let isLate := match tblGet r.dropped m.toNat with
      | some t => decide (s.clk.now < t + 100000)
      | none => false
    if isLate then .late
    else if m != r.nextMsg && psnLe r.nextMsg m then .wait
    else
      let msg := { getMsg r m with len }
      match (if m = r.nextMsg then claim (off + h.len) msg.bufs r.bufs else some (msg.bufs, r.bufs)) with
      | none =>
        let ws := ((msg.bufs ++ r.bufs).zipIdx.map fun p => rqCpl .abandoned x.queue (msg.written.getD p.2 0) false)
        let r := { r with msgs := r.msgs.filter fun y => y.number != m, bufs := [], dropped := tblSet r.dropped m.toNat s.clk.now }
        let s := { s with te := { s.te with
          rqs := tblSet s.te.rqs x.queue r, cnt := { s.te.cnt with rxAbandon := satInc s.te.cnt.rxAbandon } } }
        .dropped (postRq s x.queue ws)
      | some (bufs, ring) =>
        let counts := msg.written ++ List.replicate (bufs.length - msg.written.length) 0
        let p := placeMsg s x.tenant bufs counts off f.payload
        let s := p.1
        let msg := { msg with bufs, written := p.2, arrived := msg.arrived + h.len }
        let full := decide (len ≤ bufBytes bufs)
        let r := { r with bufs := ring, nextMsg := if m = r.nextMsg && full then m + 1 else r.nextMsg
                          dropped := tblErase r.dropped m.toNat }
        let done := decide (len ≤ msg.arrived)
        let r := if done then { r with msgs := r.msgs.filter fun y => y.number != m } else putMsg r msg
        let s := { s with te := { s.te with rqs := tblSet s.te.rqs x.queue r } }
        let s := if done then
            let s := postRq s x.queue (msgCpls x.queue msg)
            match x.counter with
            | some c => incCtr s c.toNat
            | none => s
          else s
        .placed s

/-- Execute one frame; none where a SEND must wait for its claim. -/
def runFrame (s : State) (n : Nat) (f : Frame) : Option State :=
  match getRx s n with
  | none => some s
  | some x =>
    let h := parseHdr s f
    let bump := fun (s : State) =>
      if h.flags.getLsbD 3 then (match x.counter with | some c => incCtr s c.toNat | none => s) else s
    if h.op = opWrite then some (bump (placeData s (targetAddr s f) f.payload))
    else if h.op = opReadReq then some (bump (sendRead s n h (targetAddr s f) f.aux.toNat))
    else if h.op = opSend then
      match runSend s x h f with
      | .wait => none
      | .late => some s
      | .dropped s => some (sendNack s h 0x0B 100)
      | .placed s => some (bump s)
    else some (bump (execAtomic s n x h f))

/-! ### Order at the target (R225, R235) -/

/-- Every lower PSN of the channel has executed: none is missing below it, and none of them waits. -/
def inOrder (s : State) (x : RxCtx) (psn : Word) : Bool :=
  psnLe (psn + 1) x.expected && x.waiting.all fun g =>
    let p := (parseHdr s g).psn
    p == psn || !psnLe p psn

/-- A frame of an ordered channel, or a flagged one, waits for its place. -/
def mayExec (s : State) (x : RxCtx) (f : Frame) : Bool :=
  let h := parseHdr s f
  (!h.flags.getLsbD 2 && !h.flags.getLsbD 3) || inOrder s x h.psn

/-- Execute the first waiting frame that may run now. -/
def execWaiting (s : State) (n : Nat) : List Frame → Option State
  | [] => none
  | f :: fs =>
    match getRx s n with
    | none => none
    | some x =>
      if mayExec s x f then
        match runFrame (putRx s n { x with waiting := x.waiting.filter (· ≠ f) }) n f with
        | some s => some s
        | none => execWaiting s n fs
      else execWaiting s n fs

/-- Run waiting frames while any may run. -/
def drainCtx (s : State) (n : Nat) : Nat → State
  | 0 => s
  | k + 1 =>
    match getRx s n with
    | none => s
    | some x =>
      match execWaiting s n x.waiting with
      | some s => drainCtx s n k
      | none => s

/-- Bytes in the reorder buffer. -/
def reorderBytes (s : State) : Nat :=
  (s.te.rxs.map fun e => (e.2.waiting.map fun f => f.payload.length).sum).sum

/-- A SEND frame whose message may not claim yet waits too (R250). -/
def sendWaits (s : State) (x : RxCtx) (h : Hdr) (f : Frame) : Bool :=
  h.op = opSend && (match tblGet s.te.rqs x.queue with
    | some r => f.aux != r.nextMsg && psnLe r.nextMsg f.aux
    | none => false)

/-- A request that passed every check: metered, numbered, executed or held, acknowledged as R243 asks. -/
def acceptReq (s : State) (n : Nat) (x : RxCtx) (h : Hdr) (f : Frame) : State :=
  let (c, s) := meterFrame s f x.tenant
  if c = .red then s
  else
    let w := takePsn x.expected x.got h.psn
    let gap := decide (h.psn ≠ x.expected)
    let cg := congestion s h f x.minDelay
    let counted := h.op != opReadReq
    let y := { x with
      expected := w.1, got := w.2, minDelay := cg.2
      marked := if counted && (cg.1 || c = .yellow) then x.marked + h.len else x.marked
      total := if counted then x.total + h.len else x.total
      owed := if counted then some (x.owed.getD s.clk.now) else x.owed }
    let waits := !mayExec s y f || sendWaits s y h f
    if waits && decide (4194304 < reorderBytes s + h.len) then
      { s with te := { s.te with cnt := { s.te.cnt with reorderDrop := satInc s.te.cnt.reorderDrop } } }
    else
      let s := putRx s n { y with waiting := y.waiting ++ [f] }
      let s := drainCtx s n (y.waiting.length + 1)
      if gap || h.flags.getLsbD 6 || decide (65536 ≤ y.total) then ackCtx s n else s

/-- A duplicate: dropped and acknowledged again; a re-sent READ_REQ whose first copy has executed is read again, a re-sent atomic
with a value answered from its record (R225, R228, R234). -/
def duplicate (s : State) (n : Nat) (x : RxCtx) (h : Hdr) (f : Frame) : State :=
  let waits := x.waiting.any fun g => (parseHdr s g).psn == h.psn
  if h.op = opReadReq && !waits then
    match accessCheck s h f with
    | some code => checkFail s f h code
    | none => sendRead s n h (targetAddr s f) f.aux.toNat
  else
    let s := match x.atoms.find? fun a => a.1 == h.psn with
      | some a => if wantsResponse h.op then sendOld s n h a.2 else s
      | none => s
    ackCtx s n

/-- A request frame of a channel, checked in the order of R232. -/
def rxRequest (s : State) (f : Frame) (op : Byte) : State :=
  arrive s f fun s =>
    let h := parseHdr s f
    match headCheck s h f op with
    | some code => checkFail s f h code
    | none =>
      let n := h.dstCh.toNat
      match getRx s n with
      | none => checkFail s f h 0x03
      | some x =>
        if h.dstCh = sysCh || x.source != h.src || x.tenant != frameTenant f then checkFail s f h 0x03
        else
          let d := (h.psn - x.expected).toNat
          if 2147483648 ≤ d || x.got.contains h.psn then duplicate s n x h f
          else if 4096 ≤ d then checkFail s f h 0x04
          else match accessCheck s h f with
            | some code => checkFail s f h code
            | none => acceptReq s n x h f

/-- WRITE. -/
def execWrite (f : Frame) (s : State) : Res := .next (rxRequest s f opWrite)
/-- READ_REQ. -/
def execReadReq (f : Frame) (s : State) : Res := .next (rxRequest s f opReadReq)
/-- ATOMIC_ADD. -/
def execAtomicAdd (f : Frame) (s : State) : Res := .next (rxRequest s f opAtomicAdd)
/-- FETCH_ADD. -/
def execFetchAdd (f : Frame) (s : State) : Res := .next (rxRequest s f opFetchAdd)
/-- CMP_SWAP. -/
def execCmpSwap (f : Frame) (s : State) : Res := .next (rxRequest s f opCmpSwap)
/-- SEND. -/
def execSend (f : Frame) (s : State) : Res := .next (rxRequest s f opSend)

/-! ### Responses (R228) -/

/-- The operation that an AUX names. -/
def requestOf (x : SendQ) (op : Byte) (psn : Word) : Option TxOp :=
  x.ops.find? fun o => opHas o psn && (if op = opReadResp then o.desc.op == opReadReq else (o.desc.op == opFetchAdd || o.desc.op == opCmpSwap))

/-- Place a response at LOCAL and end the operation when all of it is there. -/
def placeResponse (s : State) (q : Nat) (x : SendQ) (o : TxOp) (f : Frame) : State :=
  let d := o.desc
  let n := f.payload.length
  let off := if d.op = opReadReq then f.addr.toNat else 0
  let s := match localAddr s x.tenant d.localKey (d.localOff + BitVec.ofNat 48 off) n with
    | some a => placeData s a f.payload
    | none => s
  let o' := { o with placed := addRange off n o.placed }
  let s := putSq s q { x with ops := x.ops.map fun y => if y = o then o' else y }
  if d.len.toNat ≤ rangeBytes o'.placed then pumpAll (endOp s q o' (okCode o')) else s

def rxResponse (s : State) (f : Frame) (op : Byte) : State :=
  arrive s f fun s =>
    let h := parseHdr s f
    match headCheck s h f op with
    | some code => checkFail s f h code
    | none =>
      match chanOf s h.src h.dstCh with
      | none => checkFail s f h 0x08
      | some q =>
        match getSq s q with
        | none => checkFail s f h 0x08
        | some x =>
          if x.tenant != frameTenant f then checkFail s f h 0x03
          else match tenantCheck s f with
            | some code => checkFail s f h code
            | none =>
              match requestOf x op f.aux with
              | none => checkFail s f h 0x08
              | some o =>
                if o.desc.len.toNat < (if op = opReadResp then f.addr.toNat else 0) + f.payload.length then checkFail s f h 0x07
                else
                  let (c, s) := meterFrame s f x.tenant
                  if c = .red then s else placeResponse s q x o f

/-- READ_RESP. -/
def execReadResp (f : Frame) (s : State) : Res := .next (rxResponse s f opReadResp)
/-- ATOMIC_RESP. -/
def execAtomicResp (f : Frame) (s : State) : Res := .next (rxResponse s f opAtomicResp)

/-! ### ACK and NACK at the sender (R243, R244, R256) -/

/-- The PSN is acknowledged: up to the cumulative one, or marked in the bitmap. -/
def ackedBy (cum : Word) (bitmap : BitVec 64) (psn : Word) : Bool :=
  psnLe psn cum || (let i := (psn - (cum + 1)).toNat; decide (i < 64) && bitmap.getLsbD i)

/-- Frames that stay after an acknowledgement: those not acknowledged, and those that a response ends, marked. -/
def keepUnacked (cum : Word) (bitmap : BitVec 64) (fs : List TxFrame) : List TxFrame :=
  (fs.filter fun f => !ackedBy cum bitmap f.psn || wantsResponse f.op).map fun f =>
    if ackedBy cum bitmap f.psn then { f with rt := { f.rt with acked := true } } else f

/-- RING frames that an acknowledgement covers, in the order in which they were sent: their entries are written (R163, R165). -/
def ringsTaken (s : State) (d : DevId) (cum : Word) (bitmap : BitVec 64) (fs : List TxFrame) : State :=
  (fs.filter fun f => f.op == opRing && ackedBy cum bitmap f.psn).foldl (fun s f => ringTaken s d f.payload) s

def ackQueue (s : State) (q : Nat) (f : Frame) : State :=
  match getSq s q with
  | none => s
  | some x =>
    let marked := (operand f.payload 0).toNat % 4294967296
    let total := (operand f.payload 0).toNat / 4294967296
    let r := if 0 < total then rateAck x.law s.te.rateMin.toNat x.rateMax marked total s.clk.now else (x.law, false)
    let s := putSq s q { x with unacked := keepUnacked f.aux (operand f.payload 8) x.unacked, law := r.1 }
    let s := if r.2 then { s with te := { s.te with cnt := { s.te.cnt with rateCut := satInc s.te.cnt.rateCut } } } else s
    pumpAll (endAcked s q)

def ackPeer (s : State) (d : DevId) (f : Frame) : State :=
  match tblGet s.te.sysTx d.toNat with
  | none => s
  | some x =>
    let marked := (operand f.payload 0).toNat % 4294967296
    let total := (operand f.payload 0).toNat / 4294967296
    let r := if 0 < total then rateAck x.law s.te.rateMin.toNat rateDefault marked total s.clk.now else (x.law, false)
    let s := ringsTaken s d f.aux (operand f.payload 8) x.unacked
    let s := putSysTx s d { x with
      unacked := keepUnacked f.aux (operand f.payload 8) x.unacked, law := r.1, fresh := false, lastUse := s.clk.now }
    pumpAll (if r.2 then { s with te := { s.te with cnt := { s.te.cnt with rateCut := satInc s.te.cnt.rateCut } } } else s)

/-- Checks of a device frame that uses no number (ACK and NACK). -/
def rxAckLike (s : State) (f : Frame) (op : Byte) (k : State → Hdr → State) : State :=
  arrive s f fun s =>
    let h := parseHdr s f
    match headCheck s h f op with
    | some code => checkFail s f h code
    | none =>
      let known := if h.dstCh = sysCh then (tblGet s.te.sysTx h.src.toNat).isSome else (chanOf s h.src h.dstCh).isSome
      if !known then checkFail s f h 0x03
      else if !isRelay f.port.val && f.kgen != s.te.sysKgen then checkFail s f h 0x06
      else k s h

/-- ACK. -/
def execAck (f : Frame) (s : State) : Res :=
  .next (rxAckLike s f opAck fun s h =>
    if h.dstCh = sysCh then ackPeer s h.src f
    else match chanOf s h.src h.dstCh with
      | some q => ackQueue s q f
      | none => s)

/-- The sender's outcome for a NACK code that ends the operation. -/
def nackFinish (code : Byte) : Option Finish :=
  if code = 0x01 || code = 0x03 || code = 0x04 then some .falseStart
  else if code = 0x02 then some .planMismatch
  else if code = 0x05 || code = 0x06 || code = 0x07 then some .keyDenied
  else if code = 0x0C then some .fenced
  else none

/-- A message that ran dry goes again, whole, with new PSNs after RETRY_US (R251). -/
def reformMsg (o : TxOp) (code : Byte) (at_ : Nat) : TxOp :=
  { o with formed := 0, lastNack := code, retries := o.retries + 1, waitRetry := true, retryAt := at_ }

/-- A frame that met an absent page: it goes again after RETRY_US, which doubles on each further fault up to 400 us (R230); its timer
of R236 stands still meanwhile (log 73). -/
def faultFrame (now retryUs : Nat) (f : TxFrame) : TxFrame :=
  let us := min 400 (if f.rt.faultUs = 0 then retryUs else 2 * f.rt.faultUs)
  { f with rt := { f.rt with dueAt := none, faultUs := us, faultAt := some (now + 1000 * us) } }

/-- A NACK for a frame of a send queue. -/
def nackQueue (s : State) (q : Nat) (psn : Word) (code : Byte) (retryUs : Nat) : State :=
  match getSq s q with
  | none => s
  | some x =>
    match x.ops.find? fun o => opHas o psn with
    | none => s
    | some o =>
      let set := fun (s : State) (o' : TxOp) (un : List TxFrame) =>
        putSq s q { x with ops := x.ops.map fun y => if y = o then o' else y, unacked := un }
      match nackFinish code with
      | some fin =>
        let o' := { o with lastNack := code }
        pumpAll (endOp (set s o' x.unacked) q o' fin)
      | none =>
        if code = 0x0A then set s { o with lastNack := code, faulted := true } (x.unacked.map fun f =>
          if f.psn = psn then faultFrame s.clk.now retryUs f else f)
        else if code = 0x0B then
          if 7 ≤ o.retries then
            let o' := { o with lastNack := code }
            pumpAll (endOp (set s o' x.unacked) q o' .refused)
          else set s (reformMsg o code (s.clk.now + 1000 * retryUs)) (x.unacked.filter fun f => !opHas o f.psn)
        else s

/-! ### Opening and closing queues (R219, R249, R380) -/

/-- A queue's vector: 0 to 2,047, and never the PF's Marshal vector (R385). -/
def vectorOk (f : Func) (v : BitVec 16) : Bool := decide (v.toNat ≤ 2047) && (f.val != 0 || v != 0)

def log2Ok (b : Byte) : Bool := decide (6 ≤ b.toNat) && decide (b.toNat ≤ 16)

/-- RATE_MAX, with 0 for its default (log 15). -/
def rateMaxOf (w : Word) : Nat := if w = 0 then rateDefault else w.toNat

def sqOpenOk (s : State) (h : HostHdr) (a : SqOpenArg) : Bool :=
  decide (a.queue.toNat < 8192) && (getSq s a.queue.toNat).isNone && decide (a.mode.toNat ≤ 1) && decide (a.rxCtx.toNat < 8192)
  && log2Ok a.descLog2 && log2Ok a.cplLog2 && vectorOk h.func a.vector
  && decide (1000 ≤ rateMaxOf a.rateMax) && decide (rateMaxOf a.rateMax ≤ 12800000)

/-- SQ_OPEN. -/
def execSqOpen (h : HostHdr) (a : SqOpenArg) (s : State) : Res :=
  .next (hostCmd s h 0x12 false fun s =>
    if !sqOpenOk s h a then complete s h 0x12 .refused
    else
      let x : SendQ := {
        tenant := h.tenant, target := a.target, pathTable := a.pathTable.toNat, relaxed := a.mode == 1
        rxCtx := a.rxCtx.setWidth 14, descLog2 := a.descLog2.toNat, cplLog2 := a.cplLog2.toNat, vector := a.vector.toNat
        func := h.func, cplRing := a.cplRing, rateMax := rateMaxOf a.rateMax, tail := 0, head := 0, posted := [], ops := []
        nextPsn := 0, message := 0, unacked := [], resend := [], rot := 0, nextAt := 0, cplIdx := 0, cplHead := 0, heldCpl := []
        law := RateLaw_open (rateMaxOf a.rateMax) s.clk.now }
      complete (putSq s a.queue.toNat x) h 0x12 .ok)

def rqOpenOk (s : State) (h : HostHdr) (a : RqOpenArg) : Bool :=
  decide (a.rxCtx.toNat < 8192) && (getRx s a.rxCtx.toNat).isNone && decide (a.queue.toNat < 4096)
  && (tblGet s.te.rqs a.queue.toNat).isNone && log2Ok a.bufLog2 && vectorOk h.func a.vector
  && (a.counter == 0xFFFF || decide (a.counter.toNat < 4096))

/-- RQ_OPEN. -/
def execRqOpen (h : HostHdr) (a : RqOpenArg) (s : State) : Res :=
  .next (hostCmd s h 0x13 false fun s =>
    if !rqOpenOk s h a then complete s h 0x13 .refused
    else
      let c : RxCtx := {
        source := a.source, tenant := h.tenant, expected := 0, got := [], waiting := [], minDelay := none, marked := 0
        total := 0, owed := none, atoms := [], queue := a.queue.toNat, respPsn := 0
        counter := if a.counter = 0xFFFF then none else some (a.counter.setWidth 12) }
      let r : RecvQ := {
        ctx := a.rxCtx.toNat, log2 := a.bufLog2.toNat, vector := a.vector.toNat, func := h.func, cplRing := a.cplRing, tail := 0
        bufs := [], msgs := [], nextMsg := 0, dropped := [], cplIdx := 0 }
      let s := putRx s a.rxCtx.toNat c
      complete { s with te := { s.te with rqs := tblSet s.te.rqs a.queue.toNat r } } h 0x13 .ok)

/-- SQ_CLOSE: only the queue's own tenant closes it. -/
def execSqClose (h : HostHdr) (queue : BitVec 16) (s : State) : Res :=
  .next (hostCmd s h 0x14 false fun s =>
    match getSq s queue.toNat with
    | some x => if x.tenant = h.tenant then complete (closeSq s queue.toNat) h 0x14 .ok else complete s h 0x14 .refused
    | none => complete s h 0x14 .refused)

/-- RQ_CLOSE. -/
def execRqClose (h : HostHdr) (queue : BitVec 16) (s : State) : Res :=
  .next (hostCmd s h 0x14 false fun s =>
    match tblGet s.te.rqs queue.toNat with
    | some r =>
      match getRx s r.ctx with
      | some x => if x.tenant = h.tenant then complete (closeRq s queue.toNat) h 0x14 .ok else complete s h 0x14 .refused
      | none => complete s h 0x14 .refused
    | none => complete s h 0x14 .refused)

/-! ### Doorbells of Track queues (R377, R378) -/

def badBell (s : State) : State := { s with hif := { s.hif with dbBad := satInc s.hif.dbBad } }

/-- A doorbell's new tail: at most the ring's size ahead of the device's head. -/
def tailOk (log2 : Nat) (head tail : Word) : Bool := decide ((tail - head).toNat ≤ 2 ^ log2)

/-- DESCRIPTOR_RING_TAIL: the descriptors between the old and the new tail are posted. -/
def execDescriptorRingTail (f : Func) (queue : BitVec 13) (tail : Word) (descs : List Descriptor) (s : State) : Res :=
  .next (match getSq s queue.toNat with
    | some x =>
      if tenantFunc s x.tenant = f.val && tailOk x.descLog2 x.head tail then
        putSq s queue.toNat { x with tail, posted := x.posted ++ descs.take (tail - x.tail).toNat }
      else badBell s
    | none => badBell s)

/-- TRACK_COMPLETION_RING_HEAD: host software has consumed completions up to the new head. -/
def execTrackCompletionRingHead (f : Func) (queue : BitVec 13) (head : Word) (s : State) : Res :=
  .next (match getSq s queue.toNat with
    | some x =>
      if tenantFunc s x.tenant = f.val && tailOk x.cplLog2 x.cplHead head then
        pumpTrackCpl (putSq s queue.toNat { x with cplHead := head }) queue.toNat
      else badBell s
    | none => badBell s)

/-- A buffer entry in range (R249). -/
def bufferOk (b : RxBuffer) : Bool := decide (64 ≤ b.len.toNat) && decide (b.len.toNat ≤ 1073741824) && b.rsvClear

/-- BUFFER_RING_TAIL: buffers are posted in ring order; an entry out of range is not posted (log 15). SEND frames that waited
for buffers of an earlier message try again. -/
def execBufferRingTail (f : Func) (queue : BitVec 12) (tail : Word) (bufs : List RxBuffer) (s : State) : Res :=
  .next (match tblGet s.te.rqs queue.toNat with
    | some r =>
      match getRx s r.ctx with
      | some x =>
        if tenantFunc s x.tenant = f.val && tailOk r.log2 r.tail tail
            && decide (r.bufs.length + (tail - r.tail).toNat ≤ 2 ^ r.log2) then
          let new := (bufs.take (tail - r.tail).toNat).filter bufferOk
          let s := { s with te := { s.te with rqs := tblSet s.te.rqs queue.toNat { r with tail, bufs := r.bufs ++ new } } }
          drainCtx s r.ctx (x.waiting.length + 1)
        else badBell s
      | none => badBell s
    | none => badBell s)

/-! ### Descriptors (R220, R222, R223, R247, R253) -/

/-- The ranges of R220. -/
def descOk (s : State) (x : SendQ) (d : Descriptor) : Bool :=
  d.rsvClear && (d.op = opWrite || d.op = opReadReq || isAtomicOp d.op || d.op = opSend)
  && decide (d.ctl.toNat < 16) && decide (d.waitCtr.toNat < 4096) && decide (d.incCtr.toNat < 4096)
  && decide (1 ≤ d.len.toNat) && decide (d.len.toNat ≤ 1073741824) && (!isAtomicOp d.op || d.len == 8)
  && (schemeKeyed s || d.rkey == 0)
  && (d.op = opAtomicAdd || (localAddr s x.tenant d.localKey d.localOff d.len.toNat).isSome)

/-- Memory operations outstanding (TE_OUTSTANDING). -/
def outstanding (s : State) : Nat := (s.te.sqs.map fun e => e.2.ops.length).sum

/-- Room under the limits of R222. -/
def limitsOk (s : State) (x : SendQ) (d : Descriptor) : Bool :=
  decide (outstanding s < 65536) &&
  (!(d.op = opFetchAdd || d.op = opCmpSwap) ||
    decide ((x.ops.filter fun o => o.desc.op = opFetchAdd || o.desc.op = opCmpSwap).length < 256))

def dropHead (s : State) (q : Nat) (x : SendQ) : State := putSq s q { x with posted := x.posted.tail, head := x.head + 1 }

/-- A descriptor that ends at once, without a frame. -/
def endDesc (s : State) (q : Nat) (x : SendQ) (d : Descriptor) (code : Finish) : State :=
  postTrack (dropHead s q x) q (trackCpl d.user code 0 q 0)

/-- The operation that a descriptor becomes. -/
def mkOp (s : State) (x : SendQ) (d : Descriptor) : TxOp :=
  let P := tableLimit s x.pathTable
  let split := d.op = opWrite || d.op = opSend
  { desc := d, limit := P, frames := if split then (d.len.toNat + P - 1) / P else 1, formed := 0, firstPsn := 0
    message := x.message, placed := [], faulted := false, lastNack := 0, retries := 0, waitRetry := false, retryAt := 0 }

/-- DESCRIPTOR_SPLIT: TE takes the descriptor at the head of a queue once WAIT and the limits allow. The codes stand in the order of
R13; of a peer that Marshal declared dead, DEAD_TARGET is the code (R253, R328). -/
def execDescriptorSplit (queue : BitVec 13) (s : State) : Res :=
  .next (match getSq s queue.toNat with
    | none => s
    | some x =>
      match x.posted with
      | [] => s
      | d :: _ =>
        let q := queue.toNat
        if teHeld s then s
        else if isFenced s then endDesc s q x d .fenced
        else if s.te.dead.contains x.target then endDesc (deadLoad s x d) q x d .deadTarget
        else if s.te.fenced.contains x.target then endDesc s q x d .fenced
        else if !descOk s x d then endDesc s q x d .refused
        else if !waitMet s d || !limitsOk s x d || !tableValid s x.pathTable then s
        else
          let s := dropHead s q x
          match getSq s q with
          | none => s
          | some y =>
            let y := { y with ops := y.ops ++ [mkOp s x d], message := if d.op = opSend then y.message + 1 else y.message }
            pumpSq (putSq s q y) q 4096)

/-! ### Timers of the sender (R230, R236, R244, R251) and of the receiver (R243) -/

/-- A frame's timer has run out (R236). -/
def timerOut (now : Nat) (psn : Word) (f : TxFrame) : Bool :=
  f.psn == psn && (match f.rt.dueAt with | some t => decide (t ≤ now) | none => false)

/-- A page-faulted frame's RETRY_US has passed. -/
def faultOut (now : Nat) (psn : Word) (f : TxFrame) : Bool :=
  f.psn == psn && (match f.rt.faultAt with | some t => decide (t ≤ now) | none => false)

/-- A frame of a queue goes again now, and is counted, or as soon as it can. -/
def sendAgain (s : State) (q : Nat) (psn : Word) (pf : Bool) : State :=
  match resendSq s q psn with
  | some s => if pf then countPf s else countRetx s
  | none =>
    match getSq s q with
    | none => s
    | some x =>
      let off := fun (f : TxFrame) => if f.psn = psn then { f with rt := { f.rt with dueAt := none, faultAt := none } } else f
      putSq s q { x with resend := x.resend ++ [(psn, pf)], unacked := x.unacked.map off }

/-- The same of a system context. -/
def sendAgainSys (s : State) (d : DevId) (psn : Word) : State :=
  match resendSys s d psn with
  | some s => countRetx s
  | none =>
    match tblGet s.te.sysTx d.toNat with
    | none => s
    | some x =>
      let off := fun (f : TxFrame) => if f.psn = psn then { f with rt := { f.rt with dueAt := none } } else f
      putSysTx s d { x with resend := x.resend ++ [psn], unacked := x.unacked.map off }

/-- RETX_TIMEOUT: an unacknowledged frame whose timer has run out goes again. Frames to a dead target do not (R253). -/
def execRetxTimeout (chan : Chan) (psn : Word) (s : State) : Res :=
  .next (match chan with
    | .num q => (match getSq s q.toNat with
        | some x =>
          if !s.te.dead.contains x.target && x.unacked.any (timerOut s.clk.now psn) then sendAgain s q.toNat psn false else s
        | none => s)
    | .sys d => (match tblGet s.te.sysTx d.toNat with
        | some x => if !s.te.dead.contains d && x.unacked.any (timerOut s.clk.now psn) then sendAgainSys s d psn else s
        | none => s))

/-- PAGE_FAULT_RETRY: a faulted frame goes again after its RETRY_US. -/
def execPageFaultRetry (queue : BitVec 13) (psn : Word) (s : State) : Res :=
  .next (match getSq s queue.toNat with
    | some x => if x.unacked.any (faultOut s.clk.now psn) then sendAgain s queue.toNat psn true else s
    | none => s)

/-- PAGE_PRESENT: a page that a frame found absent comes from the tenant's allowance (R230). -/
def execPagePresent (tenant : Tenant) (page : Nat) (s : State) : Res :=
  .next (if pageWanted s tenant page then
      { s with te := { s.te with
        present := s.te.present ++ [(tenant, page)], wanted := s.te.wanted.filter (· ≠ (tenant, page)) } }
    else s)

/-- RX_NO_BUFFER_RETRY: after RETRY_US the message is formed and sent again. -/
def execRxNoBufferRetry (queue : BitVec 13) (message : Word) (s : State) : Res :=
  .next (match getSq s queue.toNat with
    | some x =>
      let ops := x.ops.map fun o =>
        if o.desc.op = opSend && o.message = message && o.waitRetry && decide (o.retryAt ≤ s.clk.now) then
          { o with waitRetry := false }
        else o
      pumpSq (putSq s queue.toNat { x with ops }) queue.toNat 4096
    | none => s)

/-- An acknowledgement is due 8 us after the first unacknowledged frame (R243). -/
def ackDue (now : Nat) (owed : Option Nat) : Bool := match owed with | some t => decide (t + 8000 ≤ now) | none => false

/-- ACK_TIMER. -/
def execAckTimer (chan : Chan) (s : State) : Res :=
  .next (match chan with
    | .num n => (match getRx s n.toNat with
        | some x => if ackDue s.clk.now x.owed then ackCtx s n.toNat else s
        | none => s)
    | .sys d => (match tblGet s.te.sysRx d.toNat with
        | some x => if ackDue s.clk.now x.owed then ackSys s d else s
        | none => s))

/-- RATE_INCREASE: not before 20 us since the last step. -/
def execRateIncrease (chan : Chan) (s : State) : Res :=
  .next (match chan with
    | .num q => (match getSq s q.toNat with
        | some x =>
          if x.law.lastInc + 20000 ≤ s.clk.now then putSq s q.toNat { x with law := rateStep x.law x.rateMax s.clk.now } else s
        | none => s)
    | .sys d => (match tblGet s.te.sysTx d.toNat with
        | some x =>
          if x.law.lastInc + 20000 ≤ s.clk.now then putSysTx s d { x with law := rateStep x.law rateDefault s.clk.now } else s
        | none => s))

/-- SYSTEM_CONTEXT_IDLE: a sender closes a context after 0.5 s idle. -/
def execSystemContextIdle (peer : DevId) (s : State) : Res :=
  .next (match tblGet s.te.sysTx peer.toNat with
    | some x =>
      if x.unacked.isEmpty && x.ctlWait.isEmpty && x.legWait.isEmpty && decide (x.lastUse + 500000000 ≤ s.clk.now) then
        closeSysTx s peer
      else s
    | none => s)

/-! ### Frames of system contexts (R238) -/

/-- A context for a peer's first SYNC frame: a free one, or the one idle longest if that is at least 1 s. -/
def takeSysRx (s : State) (d : DevId) (psn : Word) : Option State :=
  let fresh : SysRx := ⟨psn, [], [], s.clk.now, none, 0, 0, none⟩
  if s.te.sysRx.length < 4096 then some { s with te := { s.te with sysRx := tblSet s.te.sysRx d.toNat fresh } }
  else
    match s.te.sysRx.foldl (fun (acc : Option (Nat × SysRx)) e =>
        match acc with
        | some a => if e.2.lastUse < a.2.lastUse then some e else acc
        | none => some e) none with
    | some e =>
      if e.2.lastUse + 1000000000 ≤ s.clk.now then
        some { s with te := { s.te with sysRx := tblSet (tblErase s.te.sysRx e.1) d.toNat fresh } }
      else none
    | none => none

/-- One ring entry of a RING frame's payload: host address, FUNC, interrupt wish, VECTOR, four words (log 11). -/
def ringItems : Nat → List Byte → List (BitVec 64 × Nat × Bool × Nat × List Word)
  | 0, _ => []
  | n + 1, bs =>
    if bs.length < 32 then []
    else
      let v := (bs.getD 10 0).toNat + 256 * (bs.getD 11 0).toNat
      (operand bs 0, (bs.getD 8 0).toNat, bs.getD 9 0 != 0, v, bytesWords ((bs.drop 16).take 16)) :: ringItems n (bs.drop 32)

/-- The serving device writes a RING frame's entries to host memory and signals once where the frame asks (R163). -/
def runRing (s : State) (f : Frame) : State :=
  if !hostUp s then s
  else
    let xs := ringItems f.payload.length f.payload
    let s := emitAll s (xs.map fun x => .hostWrite x.2.1 x.1 x.2.2.2.2)
    match xs.find? fun x => x.2.2.1 with
    | some x => msix s x.2.1 x.2.2.2.1
    | none => s

/-- RING frames run in PSN order, so that a ring's entries are written in the order of their positions (R162, log 74). -/
def runRings (s : State) (d : DevId) : State :=
  match tblGet s.te.sysRx d.toNat with
  | none => s
  | some x =>
    let ready := fun (f : Frame) => psnLe ((parseHdr s f).psn + 1) x.expected
    let run := x.waiting.takeWhile ready
    if run.isEmpty then s
    else run.foldl runRing { s with te := { s.te with sysRx := tblSet s.te.sysRx d.toNat { x with waiting := x.waiting.drop run.length } } }

/-- Into a list of frames in PSN order. -/
def insertPsn (s : State) (f : Frame) : List Frame → List Frame
  | [] => [f]
  | g :: gs => if psnLe (parseHdr s f).psn (parseHdr s g).psn then f :: g :: gs else g :: insertPsn s f gs

/-- A receive system context that has taken a frame's number. -/
def sysTake (s : State) (f : Frame) (h : Hdr) (x : SysRx) : SysRx :=
  let w := takePsn x.expected x.got h.psn
  let cg := if h.cls = clsLeg then congestion s h f x.minDelay else (false, x.minDelay)
  { x with
    expected := w.1, got := w.2, lastUse := s.clk.now, minDelay := cg.2, owed := some (x.owed.getD s.clk.now)
    marked := if cg.1 then x.marked + h.len else x.marked, total := x.total + h.len }

/-- What follows an accepted frame: RING frames that may run do, and the context is acknowledged as R243 asks. -/
def sysAfter (s : State) (h : Hdr) (x y : SysRx) : State :=
  let s := runRings s h.src
  if h.psn ≠ x.expected || h.flags.getLsbD 6 || 65536 ≤ y.total then ackSys s h.src else s

/-- The rest of R232 for a CONTROL or LEG frame with a number; `k` takes an accepted frame once. -/
def rxSysIn (s : State) (f : Frame) (h : Hdr) (k : State → State) : State :=
  match tblGet s.te.sysRx h.src.toNat with
  | none => s
  | some x =>
    let d := (h.psn - x.expected).toNat
    if 2147483648 ≤ d || x.got.contains h.psn then ackSys s h.src
    else if 4096 ≤ d then checkFail s f h 0x04
    else if !isRelay f.port.val && f.kgen != s.te.sysKgen then checkFail s f h 0x06
    else
      let y := sysTake s f h x
      sysAfter (k { s with te := { s.te with sysRx := tblSet s.te.sysRx h.src.toNat y } }) h x y

/-- A CONTROL or LEG frame (R232, R238). -/
def rxSystem (s : State) (f : Frame) (op : Byte) (k : State → State) : State :=
  arrive s f fun s =>
    let h := parseHdr s f
    match headCheck s h f op with
    | some code => checkFail s f h code
    | none =>
      if h.dstCh ≠ sysCh then checkFail s f h 0x03
      else if (tblGet s.te.sysRx h.src.toNat).isSome then rxSysIn s f h k
      else if h.flags.getLsbD 7 then
        match takeSysRx s h.src h.psn with
        | some s => rxSysIn s f h k
        | none => s
      else checkFail s f h 0x03

/-- RING_RX: the frame takes its place among those that wait for a lower PSN. -/
def execRingRx (f : Frame) (s : State) : Res :=
  .next (rxSystem s f opRing fun s =>
    let d := (parseHdr s f).src
    match tblGet s.te.sysRx d.toNat with
    | some x => { s with te := { s.te with sysRx := tblSet s.te.sysRx d.toNat { x with waiting := insertPsn s f x.waiting } } }
    | none => s)

/-! ### Ports -/

/-- NONTRACK_FRAME_RX. -/
def execNontrackFrameRx (port : Fin 16) (s : State) : Res :=
  .next (if teHeld s || !fabricUsable s port.val then s else dropNontrack s)

/-- PTP time follows a message that gives it; a lap that free-ran takes its boundaries from PTP. -/
def setPtp (s : State) (time : Nat) : State :=
  { s with
    clk := { s.clk with now := time, ptpLock := true, ptpHold := none }
    lap := { s.lap with source := if s.lap.running && s.lap.source = 0 then 2 else s.lap.source } }

/-- PTP_FRAME_RX (R211): a message of the device's domain. A Sync is answered with a delay request, a delay request with its receive
time (log 69). A fenced port takes no part in PTP (R337). -/
def execPtpFrameRx (port : Fin 16) (m : PtpMsg) (s : State) : Res :=
  .next (if !fabricUsable s port.val || m.domain != Config.ptpDomain then s
    else match m.kind with
      | .sync => emit (setPtp s m.time) (.ptp port.val .delayReq m.time)
      | .delayResp => setPtp s m.time
      | .delayReq => emit s (.ptp port.val .delayResp m.time))

/-- PORT_DOWN: logged as PORT_DOWN (R338); path entries that name the port are skipped (R239). -/
def execPortDown (port : Fin 16) (s : State) : Res :=
  .next (let s := { s with te := { s.te with portUp := s.te.portUp &&& ~~~((1 : BitVec 16) <<< port.val) } }
    marLog s evPortDown 0xF s.mpl.devId 0xFF (lo32 port.val))

/-- PORT_UP: channels that held frames for want of a usable entry may send again. -/
def execPortUp (port : Fin 16) (s : State) : Res :=
  .next (if s.clk.ethOk then pumpAll { s with te := { s.te with portUp := s.te.portUp ||| (1 <<< port.val) } } else s)

/-- RELAY_LINK_DOWN. -/
def execRelayLinkDown (link : Fin 3) (s : State) : Res :=
  .next { s with rly := vmod s.rly link fun r => { r with state := 0, credits := Vector.replicate 4 0 } }

/-- RELAY_CREDIT_RETURN: units of 256 bytes, up to the pool of the class (R217). -/
def creditPool (cls : Nat) : Nat := if cls = 0 then 64 else if cls = 1 then 256 else 2048

def execRelayCreditReturn (link : Fin 3) (cls : BitVec 2) (units : Nat) (s : State) : Res :=
  .next { s with rly := vmod s.rly link fun r =>
    { r with credits := vmodN r.credits cls.toNat fun c => min (creditPool cls.toNat) (c + units) } }

/-- Lanes out of use decide the link (R218): with 16 or more of the 17 left it runs on 16 lanes, or on 15 where the fabric manager
demoted it; with 15 left on 15; with fewer it is down. -/
def lanesOut (o : BitVec 17) : Nat := ((List.range 17).filter fun i => o.getLsbD i).length

def linkState (o : BitVec 17) (demoted : Bool) : BitVec 2 :=
  if 2 < lanesOut o then 0 else if lanesOut o = 2 || demoted then 3 else 2

/-- The spare stands in for the first lane out of use; in a demoted link the lane bypassed is not replaced. -/
def spareIn (o : BitVec 17) (demoted : Bool) : Bool := decide ((if demoted then 2 else 1) ≤ lanesOut o)

def fullCredits : Vector Nat 4 := Vector.ofFn fun i => creditPool i.val

/-- Take physical lanes out of use: the link retrains, or goes down. -/
def takeLanesOut (s : State) (link : Fin 3) (o : BitVec 17) : State :=
  { s with rly := vmod s.rly link fun r =>
    let out' := r.out ||| o
    { r with out := out', spareUsed := spareIn out' r.demoted, state := if lanesOut out' ≤ 2 then 1 else 0,
             credits := Vector.replicate 4 0 } }

/-- RLY_LANE_OUT: logged as RELAY_LANE_OUT. -/
def execRlyLaneOut (link : Fin 3) (lane : Fin 17) (s : State) : Res :=
  .next (if (s.rly.get link).out.getLsbD lane.val then s
    else
      let s := takeLanesOut s link (1 <<< lane.val)
      marLog s evRelayLaneOut 0xF (s.rly.get link).peer 0xFF (lo32 (at_ link.val 4 + lane.val % 16)))

/-- RLY_LINK_TRAINED: RLY learns the peer and its tags; lanes that failed are out of use. A demotion by the fabric manager
lasts (R218). -/
def execRlyLinkTrained (link : Fin 3) (peer : DevId) (tagCur tagNext : BitVec 64) (failed : List (Fin 17)) (s : State) : Res :=
  .next (if !s.clk.ethOk || s.sta.blockHeld.getLsbD 5 then s
    else
      let fo : BitVec 17 := failed.foldl (fun b i => b ||| (1 <<< i.val)) 0
      let s := { s with rly := vmod s.rly link fun r =>
        let o := r.out ||| fo
        { r with peer, tagCur, tagNext, out := o, spareUsed := spareIn o r.demoted, state := linkState o r.demoted,
                 credits := if linkState o r.demoted = 0 then Vector.replicate 4 0 else fullCredits } }
      pumpAll s)

end Sys2Proof.Machine
end

