-- ==== Sys2Proof/Machine/Blocks.lean ====
section
/-! DEFINITION. What a reset of each block of Bolzil does (R343: R172, R209, R258, R272, R291, R314, R339), and the closing of
Track's queues. -/

namespace Sys2Proof.Machine

open Sys2Proof

/-! ### TE and RLY (R258) -/

/-- Buffers that an unfinished message claimed complete with a code. -/
def endMsgs (s : State) (q : Nat) (code : Finish) : State :=
  match tblGet s.te.rqs q with
  | none => s
  | some r => postRq s q (r.msgs.flatMap fun x => x.bufs.zipIdx.map fun p => rqCpl code q (x.written.getD p.2 0) false)

/-- Close a receive queue with its unfinished work. -/
def discardRq (s : State) (q : Nat) : State := closeRq (endMsgs s q .discarded) q

/-- Close every send queue, receive context and receive queue; their work completes with DISCARDED (R258, R312). -/
def closeQueues (s : State) : State :=
  let s := s.te.sqs.foldl (fun s e => closeSq s e.1) s
  let s := s.te.rqs.foldl (fun s e => discardRq s e.1) s
  { s with te := { s.te with rxs := [] } }

/-- TE: every channel, context, path table and completion counter goes; the fenced-source table, the region entries and
the ports' states stay. -/
def teReset (s : State) : State :=
  let s := closeQueues s
  { s with te := { Te.reset with
    fenced := s.te.fenced, dead := s.te.dead, regions := s.te.regions, dataTop := s.te.dataTop, present := s.te.present
    portUp := s.te.portUp } }

/-- RLY: the links go down and learn their lanes again when they train. -/
def rlyReset (s : State) : State := { s with rly := Vector.replicate 3 Rly.reset }

/-! ### BTN and XZ (R209) -/

/-- The slots of a baton's running fetches return. -/
def endFetches (s : State) (b : BatonId) : State :=
  match findReq s b with
  | none => s
  | some r =>
    match r.lane with
    | none => s
    | some n =>
      let far := r.pages.filter fun e => e.state == pFar
      let s := freeSlots s n (far.flatMap fun e => e.slots)
      modReq s b fun r => { r with pages := r.pages.map fun e => if e.state = pFar then { e with slots := [] } else e }

/-- Batons that BTN_PARKED counts. -/
def parkedIds (s : State) : List BatonId := (s.reqs.filter fun r => resting r && r.lost.isNone).map (·.id)

/-- Every open leg aborts with DISCARDED, and with them the audits that replay from theirs; granules and control blocks return; leg
entries keep their generations, and BTN_PARKED counts from 0 again. -/
def btnReset (s : State) : State :=
  let s := (s.reqs.map (·.id)).foldl (fun s b => endAudit s b .discarded) s
  let s := s.btn.legs.foldl (fun s g => if g.type = legFetch then dropLeg s g.index else abortLeg s g .discarded false) s
  let ps := s.btn.pulls
  let s := ps.foldl (fun s p => completeB s p.h 0x03 .discarded 0 (batonWords p.baton)) s
  let s := { s with btn := { Btn.reset with gens := s.btn.gens, moved := s.btn.moved, uncounted := parkedIds s }, xz := Xz.reset, mem := { s.mem with xz := [], ctl := [] } }
  (s.reqs.map (·.id)).foldl (fun s b => scrub (endFetches s b) b) s

/-! ### JDG, STP, SRG (R172) -/

def jdgReset (s : State) : State := { s with jdg := Jdg.reset }

def stpReset (s : State) : State := { s with stp := Stp.reset }

/-- SRG's windows empty; what they held is written by a resume (R165). -/
def srgReset (s : State) : State :=
  { s with srg := Srg.reset, reqs := s.reqs.map fun r => { r with strm := { r.strm with window := [] } } }

/-! ### MAR (R339) -/

/-- Rings, log, counters and fenced state clear; the failed-core records are fuses, and what they left of the spares stays. -/
def marReset (s : State) : State :=
  { s with mar := { Mar.reset with lastFailed := s.mar.lastFailed, spares := s.mar.spares } }

/-! ### MPL (R314) -/

/-- A load in progress and a staged plan end with DISCARDED. -/
def endLoads (s : State) : State :=
  let s := match s.mpl.load with
    | .idle => s
    | .fetching h _ => complete s h 0x20 .discarded
    | .fetched h _ _ => complete s h 0x20 .discarded
  match s.mpl.stagedCmd with
  | some h => postCpl s { code := .discarded, lead := (0, 0), second := true, body := [], user := h.user, op := 0x20
                          reason := 0, tenant := h.tenant }
  | none => s

/-- The plans and the device ID go; without a plan no lap runs, so every lane that runs stops. -/
def mplReset (s : State) : State :=
  let s := (lanesWhere s runs).foldl enterStopped s
  let s := endLoads s
  { s with mpl := Mpl.reset, lap := Lap.reset }

/-- The effect of a block's reset by its bit in STA_BLOCK_RESET (R343). -/
def blockReset (s : State) : Nat → State
  | 0 => jdgReset s
  | 1 => stpReset s
  | 2 => srgReset s
  | 3 => btnReset s
  | 4 => teReset s
  | 5 => rlyReset s
  | 6 => pacReset s
  | 7 => bibReset s
  | 8 => marReset s
  | 9 => mplReset s
  | _ => s

end Sys2Proof.Machine
end

