-- ==== Sys2Proof/Machine/Access.lean ====
section
/-! DEFINITION. How an access reaches a register: accessors, blocks held in reset, select copies, and the access error
record (16_register_map.md R403 to R412, R417). -/

namespace Sys2Proof.Machine

open Sys2Proof

/-- Vendor debug over JTAG is open (R358). -/
def debugOpen (s : State) : Bool := s.fus.lc = .blank || s.fus.lc = .provisioned || s.fus.lc = .returned

/-- The accessor reaches BAR0 of the physical function: a virtual function has its own BAR0 (R417), the management ports
serve after the strap (R350), and JTAG debug where the life cycle opens it (R358). -/
def reaches (s : State) : Accessor → Bool
  | .pf => true
  | .vf _ => false
  | .spi => s.sta.boot.strapDone
  | .uart => s.sta.boot.strapDone
  | .jtag => debugOpen s

/-- STA_BLOCK_RESET bit of a global window (R343). -/
def windowBlock : Nat → Option Nat
  | 0x05 => some 9
  | 0x06 => some 3
  | 0x07 => some 3
  | 0x09 => some 0
  | 0x0A => some 1
  | 0x0B => some 2
  | 0x0C => some 4
  | 0x0D => some 6
  | 0x0E => some 7
  | 0x0F => some 8
  | 0x11 => some 5
  | _ => none

/-- Lane of an offset in a lane window, and its offset there (R403). -/
def laneWindow (off : Nat) : Option (LaneNo × Nat) :=
  let n := (off - 0x01000000) / 0x00100000
  if h : 0x01000000 ≤ off ∧ n < 12 then some (⟨n, h.2⟩, (off - 0x01000000) % 0x00100000) else none

/-- A lane reset still holds the lane (R344). -/
def laneHeld (s : State) (n : LaneNo) : Bool := decide (s.clk.now < (laneOf s n).heldUntil)

/-- A lane's register is held: until its die's domain releases, and while a lane reset holds the lane, which does not reach the
registers of its HBC (R340, R404). -/
def laneOffHeld (s : State) (off : Nat) : Bool :=
  !s.sta.boot.dieLinksUp ||
  match laneWindow off with
  | some (n, o) => laneHeld s n && !(decide (0x40000 ≤ o) && decide (o < 0x80000))
  | none => false

/-- The register's block or lane is held in reset (R411): the standby blocks until the standby domain releases, the others
until theirs does (R342, R350), a block that STA_BLOCK_RESET holds, and a lane that STA_LANE_RESET holds. -/
def offHeld (s : State) (off : Nat) : Bool :=
  let b := s.sta.boot
  if 0x01000000 ≤ off then laneOffHeld s off
  else
    let w := off / 0x10000
    if w = 0x01 || w = 0x02 || w = 0x13 then !b.stbyReleased
    else if w = 0x12 then !b.fabricUp || !b.perstN
    else if off = 0x100 then !b.coachUp
    else !b.fabricUp || (match windowBlock w with | some k => s.sta.blockHeld.getLsbD k | none => false)

/-- PATH of an accessor. -/
def accPath : Accessor → BitVec 3
  | .pf => 0
  | .vf _ => 1
  | .spi => 2
  | .uart => 3
  | .jtag => 4

def kindUnmapped : BitVec 2 := 1
def kindPartial : BitVec 2 := 2
def kindRange : BitVec 2 := 3

/-- Record an access (R407): GLB_ACCESS_ERR and its counter, which stand in Bolzil's fabric domain. -/
def recordAccess (s : State) (a : Accessor) (kind : BitVec 2) (off : Nat) : State :=
  if !s.sta.boot.fabricUp then s
  else { s with glb := { s.glb with
    errKind := kind, errPath := accPath a, errOffset := BitVec.ofNat 24 (off / 4), errCnt := satInc s.glb.errCnt } }

/-- An accessor's select copies and latches (R408, R409). -/
def accSel (s : State) (a : Accessor) : Sel :=
  match s.sel.find? fun e => e.1 == a with
  | some e => e.2
  | none => Sel.zero

def modSel (s : State) (a : Accessor) (f : Sel → Sel) : State :=
  { s with sel := (s.sel.filter fun e => e.1 != a) ++ [(a, f (accSel s a))] }

/-- An access of a virtual function outside its registers: an offset of its 64 KiB BAR0 is unmapped (R417), any other lies in no
BAR0 of its own. -/
def vfOutside (s : State) (a : Accessor) (off : Nat) : State :=
  if off < 0x10000 then recordAccess s a kindUnmapped off else s

/-- A register command on a register of the physical function: it acts where its accessor reaches the register and the
register's block is out of reset. -/
def regWrite (s : State) (a : Accessor) (off : Nat) (act : State → State) : State :=
  match a with
  | .vf _ => vfOutside s a off
  | _ => if reaches s a && !offHeld s off then act s else s

def regCmd (s : State) (a : Accessor) (off : Nat) (act : State → State) : Res := .next (regWrite s a off act)

end Sys2Proof.Machine
end

