-- ==== Sys2Proof/Machine/FitTest.lean ====
section
/-! DEFINITION. The load-time fit test of a lap table (04_laps_and_lap_tables.md R96 to R101, R107, R188). -/

namespace Sys2Proof.Machine

open Sys2Proof

/-! ### Slot types (R98) -/

def tIdle : BitVec 4 := 0x0
def tLayer : BitVec 4 := 0x1
def tAttn : BitVec 4 := 0x2
def tExpert : BitVec 4 := 0x3
def tExchange : BitVec 4 := 0x4
def tSample : BitVec 4 := 0x5
def tLeg : BitVec 4 := 0x6
def tPrompt : BitVec 4 := 0x7
def tSeal : BitVec 4 := 0x8
def tHeat : BitVec 4 := 0x9
def tStage : BitVec 4 := 0xA
def tSwitch : BitVec 4 := 0xB

/-- PARAM as the type gives it. -/
def paramOk (x : Slot) : Bool :=
  if x.type = tExpert || x.type = tExchange || x.type = tPrompt || x.type = tSeal then x.param != 0
  else if x.type = tLeg then true
  else if x.type = tSwitch then decide (x.param.toNat ≤ 30720)
  else x.param == 0

/-- CORES may be empty for LEG and STAGE; a SWITCH names all 24 positions. -/
def coresOk (x : Slot) : Bool :=
  if x.type = tLeg || x.type = tStage then true
  else if x.type = tSwitch then x.cores == BitVec.allOnes 24
  else x.cores != 0

/-- Predecessors below the slot's own index, none named twice (R99). -/
def depsOk (i : Nat) (x : Slot) : Bool :=
  decide (x.deps.length ≤ 4) && x.deps.all (fun d => decide (d.toNat < i)) && decide (x.deps.Nodup)

/-- What the fit test takes from the plan: period and quiet window, the lane section, and NKERN of each bound model. -/
structure FitEnv where
  period : Nat
  quiet : Nat
  sec : LaneSec
  nkern : Nat → Nat

/-- A model index that the lane binds. -/
def bound (e : FitEnv) (i : Nat) : Bool := vgetD e.sec.model i 0xFF != 0xFF

def slotOk (e : FitEnv) (t : LapTable) (p : Slot × Nat) : Bool :=
  let x := p.1
  x.rsvClear && decide (x.type.toNat ≤ 0xB) && decide (x.subbatch.toNat < t.subbatches.toNat)
  && decide (x.model.toNat < t.models.toNat) && decide (x.kernel.toNat < e.nkern (vgetD e.sec.model x.model.toNat 0xFF).toNat)
  && decide (1 ≤ x.budget.toNat) && decide (x.budget.toNat ≤ 32000000) && coresOk x && depsOk p.2 x && paramOk x

/-- FORMAT: every field in its range, RSV bits zero, models bound, CRC right. -/
def formatOk (e : FitEnv) (t : LapTable) : Bool :=
  t.rsvClear && t.crcOk && decide (1 ≤ t.nslots.toNat) && decide (t.nslots.toNat ≤ 1024) && decide (t.slots.length = t.nslots.toNat)
  && decide (t.periodUs.toNat = e.period) && decide (t.quietUs.toNat = e.quiet)
  && decide (1 ≤ t.models.toNat) && decide (t.models.toNat ≤ 4) && (List.range t.models.toNat).all (bound e)
  && decide (t.batchMax.toNat ≤ 4096) && decide (1 ≤ t.subbatches.toNat) && decide (t.subbatches.toNat ≤ 64)
  && t.preemptGap != 0 && t.overrunLimit != 0 && decide (t.promptQueueMax.toNat ≤ 16777216)
  && t.slots.zipIdx.all (slotOk e t)

/-- BATCH: the geometry against the lane's role. -/
def batchOk (e : FitEnv) (t : LapTable) : Bool :=
  (if e.sec.role = 2 then t.batchMax != 0 else t.batchMax == 0 && t.slots.all fun x => !x.preempt)
  && (t.batchMax != 0 || t.subbatches == 1)
  && (t.batchMax == 0 || decide (t.batchMax.toNat % t.subbatches.toNat = 0))

/-- Cycles of a lap for slots: 800 cycles are the guard. -/
def availCycles (e : FitEnv) : Nat := (e.period - e.quiet) * 1600 - 800

def windowBytes (x : LaneSec) : Nat := 24 * x.windowKib.toNat * 1024

/-- t_switch in cycles (R107). -/
def switchCycles (x : Slot) : Nat := 1440 + (x.param.toNat * 1024 * 1600 + 1599999) / 1600000

/-- Cycles to load a streamed slot's weights at 1.70 TB/s. -/
def loadCycles (x : Slot) : Nat := (x.hbmRd.toNat * 4096 * 16 + 16999) / 17000

/-- The running values of the procedure: ends of the slots, cores free at, start of the stream load. -/
structure FitRun where
  ends : List Nat
  free : Vector Nat 24
  loadFrom : Nat

/-- Start of a slot, before its stream. -/
def fitStart (r : FitRun) (x : Slot) : Nat :=
  let a := x.deps.foldl (fun m d => max m (r.ends.getD d.toNat 0)) 0
  (List.finRange 24).foldl (fun m c => if x.cores.getLsbD c.val then max m (r.free.get c) else m) a

/-- One slot of the procedure; an error is the reason of refusal. -/
def fitSlot (e : FitEnv) (r : FitRun) (x : Slot) : Except Byte FitRun :=
  let s0 := fitStart r x
  if x.stream && decide (windowBytes e.sec / 2 < x.hbmRd.toNat * 4096) then .error 0x04
  else if x.type = tSwitch && decide (x.budget.toNat < switchCycles x) then .error 0x05
  else
    let start := if x.stream then max s0 (r.loadFrom + loadCycles x) else s0
    let fin := start + x.budget.toNat
    .ok ⟨r.ends ++ [fin], Vector.ofFn fun c => if x.cores.getLsbD c.val then fin else r.free.get c,
      if x.stream then start else r.loadFrom⟩

def fitSlots (e : FitEnv) : FitRun → List Slot → Except Byte FitRun
  | r, [] => .ok r
  | r, x :: xs =>
    match fitSlot e r x with
    | .ok r => fitSlots e r xs
    | .error c => .error c

/-- Declared traffic past the sustained rate (R38). -/
def hbmOk (e : FitEnv) (t : LapTable) : Bool :=
  let rd := 4096 * (t.slots.map fun x => x.hbmRd.toNat).sum
  let wr := 4096 * (t.slots.map fun x => x.hbmWr.toNat).sum
  let rate := if wr = 0 then 1700000000000 else 1600000000000
  decide ((rd + wr) * 1000000 ≤ rate * (e.period - e.quiet))

def stageOk (e : FitEnv) (t : LapTable) : Bool :=
  let stage := 4096 * ((t.slots.filter fun x => x.type == tStage).map fun x => x.hbmWr.toNat).sum
  decide (stage * 1000000 ≤ 121000000000 * (e.period - e.quiet))

/-- The lane's part of the exchange-zone reserve test (R188). -/
def xzLaneOk (e : FitEnv) (t : LapTable) : Bool :=
  let d := ((t.slots.filter fun x => x.type == tLeg).map fun x => x.param.toNat).sum
  decide (e.sec.guar.toNat ≤ e.sec.cap.toNat) && decide (e.sec.cap.toNat ≤ 6144) && decide (d ≤ 512 + e.sec.guar.toNat)

/-- R101: 0 accepts, any other value is the reason code. -/
def fitTest (e : FitEnv) (t : LapTable) : Byte :=
  if !formatOk e t then 0x01
  else if !batchOk e t then 0x08
  else match fitSlots e ⟨[], Vector.replicate 24 0, 0⟩ t.slots with
    | .error c => c
    | .ok r =>
      if availCycles e < r.ends.foldl max 0 then 0x02
      else if !hbmOk e t then 0x03
      else if !stageOk e t then 0x06
      else if !xzLaneOk e t then 0x07
      else 0x00

/-- The fit environment of a lane under a plan. -/
def fitEnv (p : PlanImage) (n : LaneNo) : FitEnv :=
  { period := p.system.periodUs.toNat, quiet := p.system.quietUs.toNat, sec := p.lanes.get n
    nkern := fun k => match p.models.find? fun m => m.number == k with | some m => m.nkern | none => 0 }

end Sys2Proof.Machine
end

