-- ==== Sys2Proof/Machine/KvWork.lean ====
section
/-! DEFINITION. What a lane's kernels and the device do with KV pages: append, attention over a sequence's pages, sealing, probes,
heat records and selection (03_arithmetic_and_formats.md R80 to R84; 05_kv_pages_and_heat_retrieval.md R124 to R138). -/

namespace Sys2Proof.Machine

open Sys2Proof

/-! ### The basis tables of a model (R129, R297) -/

/-- MODEL index under which a lane holds a model. -/
def modelIx (l : Lane) (k : Nat) : Nat := (l.models.toList.findIdx? fun x => x == some k).getD 4

/-- Bytes of the weights that a LANE section binds to a MODEL index. -/
def boundBytes (s : State) (l : Lane) (ix : Nat) : Nat :=
  match l.sec with
  | some x => (match modelOf s (vgetD x.model ix 0xFF).toNat with | some m => m.weightBytes.toNat | none => 0)
  | none => 0

/-- Stack address of the weights of a MODEL index: past the control area, the bound models one after another (R41, log 62). -/
def weightAddr (s : State) (l : Lane) (ix : Nat) : Nat := 536870912 + ((List.range ix).map (boundBytes s l)).sum

/-- Bytes of a model's basis tables, the end of its weight image (R129, R297). -/
def basisBytes (m : ModelSec) : Nat := mLayers m * mHeads m * mRank m * m.headDim.toNat * 2

/-- The basis of a layer and KV head as the lane's weight area holds it, row after row, decoded from BF16. -/
def basisOf (s : State) (n : LaneNo) (m : ModelSec) (layer head : Nat) : List (List F32) :=
  let l := laneOf s n
  let hd := m.headDim.toNat
  let base := weightAddr s l (modelIx l m.number) + m.weightBytes.toNat - basisBytes m
  (List.range (mRank m)).map fun i =>
    let a := base + ((layer * mHeads m + head) * mRank m + i) * hd * 2
    (List.range hd).map fun j => widen .bf16 (BitVec.ofNat 32 (bytesLe (memBytes (stackOf s n) (a + 2 * j) 2)))

/-! ### Append (R124) -/

/-- A vector quantised into MXFP8 E4M3 blocks, with the flags it sets. -/
def mx8Vector (x : List F32) : Fx (List Byte) := storeF32 .mxfp8e4 false x

/-- Append position `pos` of a layer at its place of the open image. -/
def appendKv (s : State) (n : LaneNo) (b : BatonId) (layer pos : Nat) (keys vals : List (List F32)) : State :=
  match workReq s n b with
  | none => s
  | some r =>
    match modelOf s r.model, findPage r kPage layer (pos / 128) with
    | some m, some e =>
      if e.state = pOpen then
        let l := laneOf s n
        let put := fun (value : Bool) (acc : Mem × BitVec 5) (p : List F32 × Nat) =>
          let q := runFx (mx8Vector p.1) acc.2
          (storeImage acc.1 l e.slots (tokenOff m false (pos % 128) p.2 value) q.1, q.2)
        let a := keys.zipIdx.foldl (put false) (stackOf s n, 0)
        let c := vals.zipIdx.foldl (put true) a
        let s := modWork s n b fun r => modPage r kPage layer (pos / 128) fun e => { e with wrote := e.wrote ||| (1 <<< (pos % 128)) }
        raiseArith (setStack s n c.1) n c.2
      else s
    | _, _ => s

/-! ### Sealing (R126 to R129, R133, R134) -/

/-- Elements of a token's vector in the open image. -/
def openVector (m : ModelSec) (mem : Mem) (l : Lane) (e : PageEnt) (place head : Nat) (value : Bool) : List F32 :=
  mx8Decode (loadImage mem l e.slots (tokenOff m false place head value) (33 * mNb m))

/-- The sealed form of a key or a value (R128, R129). -/
def sealVector (m : ModelSec) (value : Bool) (basis : List (List F32)) (x : List F32) : Fx (List Byte) := do
  if value || mRank m = 0 then
    let bs ← mapFx cb3Seal (groupsOf 32 x.length x)
    pure bs.flatten
  else
    let cs ← lrCoefs (modelSat m) x basis
    pure (packElems .bf16 cs)

/-- The key elements that a sealed key decodes to, as E4M3 codes (R133, R66, R80). -/
def sealedKeyCodes (m : ModelSec) (basis : List (List F32)) (bs : List Byte) : Fx (List Byte) := do
  if mRank m = 0 then pure ((groupsOf 20 bs.length bs).flatMap cb3Codes)
  else
    let cs := (unpackElems .bf16 bs).map (widen .bf16)
    let ws ← lrKey (mRank m) cs basis
    pure (ws.map fun w => w.setWidth 8)

/-- The sealed image of a page in its new slot, with the flags of the encoding. -/
def sealImage (m : ModelSec) (l : Lane) (e : PageEnt) (k : Nat) (basis : List (List (List F32))) (mem : Mem) : Mem × BitVec 5 :=
  let parts := (List.range 128).flatMap fun place => (List.range (mHeads m)).flatMap fun h => [(place, h, false), (place, h, true)]
  parts.foldl (fun (acc : Mem × BitVec 5) p =>
    let x := openVector m mem l e p.1 p.2.1 p.2.2
    let q := runFx (sealVector m p.2.2 (basis.getD p.2.1 []) x) acc.2
    (storeImage acc.1 l [k] (tokenOff m true p.1 p.2.1 p.2.2) q.1, q.2)) (mem, 0)

/-- The keys of every KV head as a sealed image decodes them. -/
def sealedKeys (m : ModelSec) (l : Lane) (k : Nat) (basis : List (List (List F32))) (mem : Mem) : Fx (List (List (List Byte))) :=
  mapFx (fun h => mapFx (fun place =>
    sealedKeyCodes m (basis.getD h []) (loadImage mem l [k] (tokenOff m true place h false) (sealKeyBytes m))) (List.range 128))
    (List.range (mHeads m))

/-- Seal one full page: the sealed image into its new slot, its page record into the run's record slots, and the run record. -/
def sealPage (s : State) (n : LaneNo) (b : BatonId) (layer page : Nat) : State :=
  match workReq s n b with
  | none => s
  | some r =>
    match modelOf s r.model, findPage r kPage layer page with
    | some m, some e =>
      match e.sealSlot with
      | none => s
      | some k =>
        let l := laneOf s n
        let basis := (List.range (mHeads m)).map (basisOf s n m layer)
        let out := sealImage m l e k basis (stackOf s n)
        let keys := runFx (sealedKeys m l k basis out.1) out.2
        let heat' := addHeat r.heatNew layer page (keys.1.map (boundKeys max32)) (keys.1.map (boundKeys min32))
        let mem := match findPage r kRecords layer (page / 64), heat'.getLast? with
          | some x, some h => storeImage out.1 l x.slots (page % 64 * heatRecBytes m) (heatBytes m h)
          | _, _ => out.1
        let s := modWork (setStack s n mem) n b fun r =>
          { modPage r kPage layer page (fun e => { e with sealedNow := true }) with heatNew := heat' }
        raiseArith s n keys.2
    | _, _ => s

/-- Every place of a page has been appended. -/
def pageFull (e : PageEnt) : Bool := (List.range 128).all (placeWritten e)

/-- Pages of a request that the lap is to seal and has not yet sealed. -/
def unsealed (r : Req) : List PageEnt :=
  if r.missNow = 0 then r.pages.filter fun e => e.kind == kPage && e.sealSlot.isSome && !e.sealedNow else []

/-- The sequences of a lane, scratch sequences of audits after the others. -/
def laneSeqs (s : State) (n : LaneNo) : List Req :=
  (s.reqs.filter fun r => r.lane == some n) ++ s.btn.replays.filter fun q => q.lane == some n

/-- Pages of a lane that wait for their seal. -/
def toSeal (s : State) (n : LaneNo) : List (BatonId × PageEnt) :=
  (laneSeqs s n).flatMap fun r => (unsealed r).map fun e => (r.id, e)

/-! ### Attention over a sequence's pages (R82 to R84, R127, R130) -/

/-- Offset of a token's vector by the page's index entry for its block; a sealed image that the lap has just written is located as
its entry will be (R120, R122). -/
def readOff (m : ModelSec) (e : PageEnt) (sealed : Bool) (place head : Nat) (value : Bool) : Nat :=
  let ix := if e.sealedNow then indexEntries m true 128 else e.index_
  let w := ix.getD (place / 16) 0
  let kb := if sealed then sealKeyBytes m else openKeyBytes m
  let vb := if sealed then 20 * mNb m else 33 * mNb m
  if value then 4 * (w.extractLsb' 24 20).toNat + 16 * vb * head + vb * (place % 16)
  else 4 * (w.extractLsb' 44 20).toNat + 16 * kb * head + kb * (place % 16)

/-- One position of a page as the matrix unit reads it: the key's codes and the value's elements. -/
def readPlace (m : ModelSec) (l : Lane) (mem : Mem) (basis : List (List F32)) (e : PageEnt) (sealed : Bool) (place head : Nat) :
    Fx (MatRow × List F32) := do
  let slots := if e.sealedNow && sealed then e.sealSlot.toList else e.slots
  let rd := fun (value : Bool) (len : Nat) => loadImage mem l slots (readOff m e sealed place head value) len
  if sealed then
    let v := rowF32 (loadRow .cb3 (rd true (20 * mNb m)))
    if mRank m = 0 then pure (loadRow .cb3 (rd false (20 * mNb m)), v)
    else
      let ks ← sealedKeyCodes m basis (rd false (2 * mRank m))
      pure (⟨.e4m3, ks.map fun b => b.setWidth 32, []⟩, v)
  else pure (loadRow .mxfp8e4 (rd false (33 * mNb m)), mx8Decode (rd true (33 * mNb m)))

/-- The blocks of a page that a query at position t reads: all eight of a page below its own, those of the open page up to its
place; positions past t are absent. -/
def pageBlocks (m : ModelSec) (l : Lane) (mem : Mem) (basis : List (List F32)) (e : PageEnt) (head t : Nat) :
    Fx (List (List (Option (MatRow × List F32)))) :=
  let sealed := decide (e.index.toNat < t / 128)
  mapFx (fun b => mapFx (fun i => do
    if sealed || decide (16 * b + i ≤ t % 128) then
      let x ← readPlace m l mem basis e sealed (16 * b + i) head
      pure (some x)
    else pure none) (List.range 16)) (List.range (if sealed then 8 else t % 128 / 16 + 1))

/-- The attention list of a position in one layer. -/
def queryPages (m : ModelSec) (r : Req) (layer t : Nat) : List Nat := attnPages m (genAt r t) (selOf r.sel layer) t

/-- Every image that a query reads is there: pages below its own are sealed, and its own position has been appended (R124, R127). -/
def queryReady (m : ModelSec) (r : Req) (layer t : Nat) : Bool :=
  (queryPages m r layer t).all fun p =>
    match findPage r kPage layer p with
    | some e =>
      if p < t / 128 then e.state == pSealed || e.sealedNow
      else e.state == pOpen && (List.range (t % 128 + 1)).all (placeWritten e)
    | none => false

/-- One query head at a position: its output into the SRAM of a core. -/
def attendWork (s : State) (n : LaneNo) (m : ModelSec) (r : Req) (layer head t : Nat) (o : KernelOp) (q : Src) (dst : Dst) : State :=
  let l := laneOf s n
  let basis := basisOf s n m layer head
  let q := loadRow (fmtOfCode o.fmtA) (srcBytes s n q)
  let es := (queryPages m r layer t).filterMap fun p => findPage r kPage layer p
  putFx s n dst (do
    let bs ← mapFx (fun e => pageBlocks m l (stackOf s n) basis e head t) es
    attend q m.attnScale m.segBlocks.toNat bs.flatten (fmtOfCode o.fmtOut) (modelSat m))

/-! ### Probe and selection (R135 to R138) -/

/-- The probe of a layer from the step's queries. -/
def probeWork (s : State) (n : LaneNo) (m : ModelSec) (b : BatonId) (layer : Nat) (queries : List (List (List F32))) : State :=
  let x := withFlags s n (mapFx (probeOf (modelSat m)) queries)
  modWork x.2 n b fun r => { r with probeNew := putLayer r.probeNew layer x.1 }

/-- Scores of records. -/
def scoreAll (probe : List (List F32)) (hs : List HeatRec) : Fx (List (F32 × Nat)) :=
  mapFx (fun h => do
    let x ← heatScore probe h.kmax h.kmin
    pure (x, h.index)) hs

def nanScores (xs : List (F32 × Nat)) : Nat := xs.countP fun p => isNan32 p.1

/-- The selection of a step over its candidate pages, whether the summary level ran, and the NaN scores (R137). -/
def selectPages (m : ModelSec) (heat : List HeatRec) (layer : Nat) (cand : List Nat) (probe : List (List F32)) :
    Fx (List Nat × Bool × Nat) := do
  if cand.length ≤ m.topk.toNat then pure (cand, false, 0)
  else
    let rs ← scoreAll probe (heat.filter fun h => h.run && h.layer == layer && cand.any fun p => p / 64 == h.index)
    let keep := ((rankAll rs).take m.runs.toNat).map (·.2)
    let ps ← scoreAll probe
      (heat.filter fun h => !h.run && h.layer == layer && cand.contains h.index && keep.contains (h.index / 64))
    pure (((rankAll ps).take m.topk.toNat).map (·.2), true, nanScores rs + nanScores ps)

def probeLayer (probe : List (Nat × List (List F32))) (layer : Nat) : List (List F32) :=
  match probe.find? fun e => e.1 == layer with
  | some e => e.2
  | none => []

/-- The selection of one layer for the step at position t, with HEAT's counters. -/
def selectLayer (s : State) (n : LaneNo) (m : ModelSec) (r : Req) (probe : List (Nat × List (List F32))) (t layer : Nat) :
    State × (Nat × List Nat) :=
  let x := withFlags s n (selectPages m r.heatNew layer (List.range (candCount m t)) (probeLayer probe layer))
  let s := modLane x.2 n fun l => { l with kv := { l.kv with heatNan := satAdd l.kv.heatNan x.1.2.2 } }
  (if x.1.2.1 then { s with glb := { s.glb with heatSelCnt := satInc s.glb.heatSelCnt } } else s, (layer, x.1.1))

/-- The selection of every layer for the step at position t. -/
def selectAll (s : State) (n : LaneNo) (m : ModelSec) (r : Req) (probe : List (Nat × List (List F32))) (t : Nat) :
    State × List (Nat × List Nat) :=
  (List.range (mLayers m)).foldl (fun acc l =>
    let x := selectLayer acc.1 n m r probe t l
    (x.1, acc.2 ++ [x.2])) (s, [])

/-- Every layer has a probe, and every candidate page its heat record, so that HEAT can select for the step at position t. -/
def canSelect (m : ModelSec) (r : Req) (probe : List (Nat × List (List F32))) (t : Nat) : Bool :=
  ((List.range (mLayers m)).all fun l => probe.any fun e => e.1 == l)
  && r.pages.all fun e => e.sealSlot.isNone || e.sealedNow || decide (candCount m t ≤ e.index.toNat)

/-- HEAT for a sequence whose work runs in the lap: the selection for the step after it (R138). -/
def heatNext (s : State) (n : LaneNo) (b : BatonId) : State :=
  match workReq s n b with
  | none => s
  | some r =>
    match modelOf s r.model with
    | none => s
    | some m =>
      let x := selectAll s n m r r.probeNew (r.done + workLen r)
      modWork x.1 n b fun r => { r with selNew := x.2 }

/-- HEAT for a baton that has arrived: the selection for its next step from the probe that it carries (R140). -/
def heatArrived (s : State) (n : LaneNo) (b : BatonId) : State :=
  match findReq s b with
  | none => s
  | some r =>
    match modelOf s r.model with
    | none => s
    | some m =>
      if selMissing m r && canSelect m r r.probe r.done then
        let x := selectAll s n m r r.probe r.done
        modReq x.1 b fun r => { r with sel := x.2, listed := true }
      else s

end Sys2Proof.Machine
end

