-- ==== Sys2Proof/Machine/LapOps.lean ====
section
/-! DEFINITION. A lane's lap: joins, pre-emption, prompt takes, page needs and the length table at the boundary, the slots' scoreboard,
and the commit (04_laps_and_lap_tables.md R90 to R113; 05 R131 to R144; 06 R146 to R167; 07 R207). -/

namespace Sys2Proof.Machine

open Sys2Proof

/-! ### Throttled clock (R427, R428) -/

/-- The level of a die. -/
def dieLevel (s : State) (d : Fin 4) : Nat := max (s.sta.tl.get d) s.sta.pl

/-- Cycles per microsecond at a level. -/
def levelClock (level : Nat) : Nat := 1600 - 100 * level

/-- Cycles that a lane runs in a time. -/
def cyclesIn (s : State) (n : LaneNo) (ns : Nat) : Nat := ns * levelClock (dieLevel s (dieOf n)) / 1000

/-- The command cutoff of the boundary that is now (R50). -/
def byCutoff (s : State) (t : Nat) : Bool := decide (t + 10000 ≤ s.clk.now)

/-! ### Joins and leaves (R104, R105) -/

/-- A member or a request with queued work that must go. -/
def mustLeave (s : State) (r : Req) : Bool :=
  r.lost.isSome || r.phase == .parking || r.phase == .parked || r.phase == .ended ||
  (r.parkNext && (r.phase == .generation || r.endReason != 0 || r.cancelled || r.parkWhy != .ok)) || s.te.dead.contains r.strm.ring.serve

/-- Those that must leave do so (R105); the serving device's death parks the baton with DEAD_TARGET (R165). -/
def leaveOne (s : State) (b : BatonId) : State :=
  match findReq s b with
  | none => s
  | some r =>
    let dead := s.te.dead.contains r.strm.ring.serve && r.strm.ring.serve != s.mpl.devId
    let s := if dead && !r.parkNext && (r.phase = .generation || r.phase = .prompt || r.phase = .handoff) then
        modReq s b fun r => { r with parkNext := true, parkWhy := .deadTarget }
      else s
    if mustLeave s r then unqueue s b else s

/-- Places that a join may take: while a swap is pending, no more than the new table gives (R104). -/
def joinLimit (l : Lane) (t : LapTable) : Nat :=
  match l.tables.repl, bgTable l with
  | some _, some x => min t.batchMax.toNat x.batchMax.toNat
  | _, _ => t.batchMax.toNat

def joinOne (s : State) (n : LaneNo) (t : LapTable) (x : BitVec 48 × BatonId) : State :=
  let l := laneOf s n
  match findReq s x.2 with
  | none => s
  | some r =>
    if byCutoff s r.residentAt && decide (l.st.batch.length < joinLimit l t) then
      match freeSub l.st.batch t with
      | some k => setLane s n { l with st := { l.st with
          batch := l.st.batch ++ [(x.2, k)], joinQ := l.st.joinQ.filter fun y => y.2 != x.2 } }
      | none => s
    else s

def joins (s : State) (n : LaneNo) : State :=
  let l := laneOf s n
  match fgTable l with
  | some t => if l.ctl = .serving && l.role = roleGen then l.st.joinQ.foldl (fun s x => joinOne s n t x) s else s
  | none => s

/-! ### Pre-emption (R110) -/

/-- Sub-batches that qualify: pre-empted PREEMPT_GAP laps ago or never; `none` is never. -/
def gapOk (s : State) (l : Lane) (t : LapTable) (k : Nat) : Bool :=
  match tblGet l.st.lastPreempt k with
  | some x => decide (x + t.preemptGap.toNat ≤ s.lap.count.toNat)
  | none => true

/-- The least recently pre-empted, the lower number on a tie. -/
def leastRecent (l : Lane) : List Nat → Option Nat
  | [] => none
  | k :: ks =>
    match leastRecent l ks with
    | none => some k
    | some j =>
      match tblGet l.st.lastPreempt k, tblGet l.st.lastPreempt j with
      | none, _ => some k
      | some _, none => some j
      | some a, some b => if a ≤ b then some k else some j

/-- Token capacity of the sub-batch's pre-emptible slots. -/
def preemptRoom (t : LapTable) (k : Nat) : Nat :=
  ((t.slots.filter fun x => x.preempt && decide (x.subbatch.toNat = k)).map fun x => Config.preemptCap x.kernel).sum

/-- Requests that may share a lap's length table (R131). -/
def tableMax : Nat := 4096

/-- Give the lap's tokens to queued work, the head first; `left` entries of the length table remain, and a request that would need
one more waits for the next lap (R110, R131). -/
def serveExt (s : State) : Nat → Nat → List (BatonId × Nat × Nat) → State
  | _, _, [] => s
  | room, left, (b, m, _) :: rest =>
    let first := match findReq s b with | some r => r.take == 0 | none => false
    let k := if first && left == 0 then 0 else min m room
    let s := modReq s b fun r => { r with take := r.take + k }
    serveExt s (room - k) (if first && k != 0 then left - 1 else left) rest

/-- Queued work whose request can run: resident and not about to park. -/
def extReady (s : State) (x : BatonId × Nat × Nat) : Bool :=
  match findReq s x.1 with
  | some r => r.resident && !r.parkNext && r.lost.isNone && byCutoff s x.2.2
  | none => false

/-- TO of the audit that a scratch sequence replays; 0 while its parts are still on their way (R206). -/
def replayTo (s : State) (q : Req) : Nat :=
  if s.btn.legs.any fun g => g.replay && g.batons == [q.id] then 0
  else match (findReq s q.id).bind (·.audit) with
    | some a => a.toPos.toNat
    | none => 0

/-- Positions of prompt work that a replay can run from where it stands: ORIGIN 0b00 or 0b10, below TO (R207). -/
def promptRun (s : State) (q : Req) : Nat :=
  ((List.range (replayTo s q - q.done)).takeWhile fun i => !genAt q (q.done + i)).length

def laneReplays (s : State) (n : LaneNo) : List Req := s.btn.replays.filter fun q => q.lane == some n

/-- Replays take what room the queued work leaves, in the order in which their audits began (log 25). -/
def serveReplays (s : State) : Nat → Nat → List Req → State
  | _, _, [] => s
  | room, left, q :: rest =>
    let k := if left = 0 then 0 else min (promptRun s q) room
    serveReplays (modReplay s q.id fun q => { q with take := k }) (room - k) (if k = 0 then left else left - 1) rest

/-- Requests and members of the pre-empted sub-batch that run no queued work miss the lap with cause PREEMPT (R110, R167). -/
def missPreempted (s : State) (n : LaneNo) : State :=
  let l := laneOf s n
  (l.st.batch.filter fun m => l.st.preempted == some m.2).foldl (fun s m =>
    match findReq s m.1 with
    | some r => if r.take = 0 then missReq s m.1 2 else s
    | none => s) s

def preempt (s : State) (n : LaneNo) : State :=
  let l := laneOf s n
  let s := modLane s n fun l => { l with st := { l.st with preempted := none } }
  match fgTable l with
  | none => s
  | some t =>
    let work := l.st.preemptQ.filter (extReady s)
    let replays := (laneReplays s n).filter fun q => promptRun s q != 0
    if l.role ≠ roleGen || (work.isEmpty && replays.isEmpty) then s
    else
      match leastRecent l ((List.range t.subbatches.toNat).filter (gapOk s l t)) with
      | none => s
      | some k =>
        let s := modLane s n fun l => { l with st := { l.st with
          preempted := some k, lastPreempt := tblSet l.st.lastPreempt k s.lap.count.toNat, preemptCnt := satInc l.st.preemptCnt } }
        let s := serveExt s (preemptRoom t k) tableMax work
        let took := s.reqs.filter fun r => r.lane == some n && r.take != 0
        let s := serveReplays s (preemptRoom t k - (took.map (·.take)).sum) (tableMax - took.length) replays
        missPreempted s n

/-- Generation steps of replays, one position per lap, each in one batch place that no member holds (R207). -/
def stepReplays (s : State) (n : LaneNo) : State :=
  match fgTable (laneOf s n) with
  | none => s
  | some t =>
    let room := t.batchMax.toNat - (laneOf s n).st.batch.length
    (((laneReplays s n).filter fun q => genAt q q.done && decide (q.done < replayTo s q)).take room).foldl
      (fun s q => modReplay s q.id fun q => { q with take := 1 }) s

/-! ### Prompt takes (R103, R382) -/

/-- Prompt tokens per lap of a table. -/
def promptRoom (t : LapTable) : Nat := ((t.slots.filter fun x => x.type == tPrompt).map fun x => x.param.toNat).sum

/-- A token word whose RSV bits are clear and whose token the model has. -/
def tokenOk (m : ModelSec) (w : Word) : Bool := decide (w.toNat < m.vocab.toNat)

/-- Take tokens in queue order, for at most `entries` requests (R131); a request with a bad token ends at once. -/
def takePrompts (s : State) : Nat → Nat → List (BatonId × Nat) → State
  | _, _, [] => s
  | room, entries, (b, left) :: rest =>
    match findReq s b with
    | none => takePrompts s room entries rest
    | some r =>
      let k := if entries = 0 then 0 else min left room
      let ok := match modelOf s r.model with
        | some m => ((r.prompt.drop r.done).take k).all (tokenOk m)
        | none => true
      if ok then takePrompts (modReq s b fun r => { r with take := k }) (room - k) (if k = 0 then entries else entries - 1) rest
      else takePrompts (abortReq s b .refused) room entries rest

/-! ### Needs (R139, R142 to R144) -/

/-- A listed page is missing, or landed after the cutoff. -/
def pagesLate (s : State) (r : Req) : Bool :=
  match modelOf s r.model with
  | some m => !pagesInPlace m r || decide (s.clk.now < r.readyAt + 10000)
  | none => false

/-- A request whose pages are not in place: its fetches go on, and it is held (R139). Where one of them finds no slot, what the pass
gave it returns (R143). -/
def holdFetch (s : State) (n : LaneNo) (b : BatonId) : State :=
  match findReq s b with
  | none => s
  | some r =>
    match modelOf s r.model with
    | none => s
    | some m =>
      let x := meetNeeds s n b m (((farListed m r).filter fun e => e.slots.isEmpty).map fun e => .fetch e.layer.toNat e.index.toNat)
      if x.2 then holdReq x.1 n b 5
      else holdReq (dropStaleFetches (undoNeeds x.1 n b r.pages) b) n b 4

/-- A sequence's work of the lap gets what it needs, or is held. -/
def serveWork (s : State) (n : LaneNo) (b : BatonId) : State :=
  match findReq s b with
  | none => s
  | some r => if pagesLate s r then holdFetch s n b else serveSeq s n b (workLen r)

/-- A member's step, a prompt chunk or an extension runs in the lap, as far as the boundary can tell. -/
def hasWork (l : Lane) (r : Req) : Bool :=
  r.take != 0 || (l.role == roleGen && isMember_ l r.id && r.missNow == 0 && r.endReason == 0)

def seqNeeds (s : State) (n : LaneNo) (b : BatonId) : State :=
  match findReq s b with
  | none => s
  | some r => if hasWork (laneOf s n) r then serveWork s n b else s

/-- Those held in the previous lap first, in slot order, then the others in the order given (R143). -/
def heldFirst (s : State) (bs : List BatonId) : List BatonId :=
  let was := fun b => match findReq s b with | some r => r.heldPrev | none => false
  bySlot (bs.filter was) ++ bs.filter fun b => !was b

def clearHeld (s : State) (bs : List BatonId) : State := bs.foldl (fun s b => modReq s b fun r => { r with heldPrev := false }) s

/-- The held counter returns to 0 in a lap in which the sequence runs (R144). -/
def clearRunning (s : State) (n : LaneNo) (bs : List BatonId) : State :=
  bs.foldl (fun s b => modReq s b fun r => if hasWork (laneOf s n) r && r.missNow == 0 then { r with held := 0 } else r) s

/-- A replay's open pairs and new slots of the lap come from its scratch slots, its seals from the lap's capacity; a replay that
lacks any runs no position in the lap (R207). -/
def replayNeed (s : State) (n : LaneNo) (q : Req) : State :=
  match modelOf s q.model, (findReq s q.id).bind (·.audit) with
  | some m, some a =>
    let layers := List.range (mLayers m)
    let seals := (crossings q.done q.take 128 127).flatMap fun p => layers.map fun l => (l, p)
    let opens := ((crossings q.done q.take 128 0).flatMap fun p => layers.map fun l => (l, p)).filter fun x =>
      (findPage q kPage x.1 x.2).isNone
    let free := a.scratch.filter fun k => !(q.pages.any fun e => (entSlots false e).contains k)
    if selMissing m q || (laneOf s n).kv.sealLeft < seals.length || free.length < seals.length + 2 * opens.length then
      modReplay s q.id fun q => { q with take := 0 }
    else
      let q' := opens.zipIdx.foldl (fun q x => addPage q
        { newPage kPage pOpen x.1.1 x.1.2 ((free.drop (2 * x.2)).take 2) s.lap.count true with index_ := indexEntries m false 0 }) q
      let rest := free.drop (2 * opens.length)
      let q' := seals.zipIdx.foldl (fun q x => modPage q kPage x.1.1 x.1.2 fun e => { e with sealSlot := rest[x.2]? }) q'
      modLane (modReplay s q.id fun _ => q') n fun l => { l with kv := { l.kv with sealLeft := l.kv.sealLeft - seals.length } }
  | _, _ => modReplay s q.id fun q => { q with take := 0 }

def replayNeeds (s : State) (n : LaneNo) : State :=
  ((laneReplays s n).filter fun q => q.take != 0).foldl (fun s q => replayNeed s n q) s

/-- Everything a lane serves in the lap: its sequences, then the scratch sequences of audits. -/
def laneNeeds (s : State) (n : LaneNo) : State :=
  let l := laneOf s n
  let bs := if l.role = roleGen then bySlot ((l.st.batch.map (·.1) ++ l.st.preemptQ.map (·.1)).eraseDups) else l.st.promptQ.map (·.1)
  let s := (heldFirst s bs).foldl (fun s b => seqNeeds s n b) (clearHeld s bs)
  replayNeeds (clearRunning (missPreempted s n) n bs) n

/-! ### The length table (R131, R132) -/

/-- Sequences that run prompt work in the lap, in queue order. -/
def tableSeqs (s : State) (n : LaneNo) : List Req :=
  let l := laneOf s n
  let bs := if l.role = roleGen then (l.st.preemptQ.map (·.1)).eraseDups else l.st.promptQ.map (·.1)
  ((bs.filterMap (findReq s)) ++ (laneReplays s n).filter fun q => !genAt q q.done).filter fun r => r.take != 0

/-- Entries follow one another row after row. -/
def lenEntries (gen : Bool) : Nat → List Req → List LenEntry
  | _, [] => []
  | row, r :: rest =>
    let n := workLen r
    ⟨batonSlot r.id, n, r.done, row, !gen && decide (r.done + r.take = r.promptLen)⟩ :: lenEntries gen (row + n) rest

def lenBytes (e : LenEntry) : List Byte :=
  leBytes 2 e.slot ++ leBytes 2 e.count ++ leBytes 4 e.start ++ leBytes 4 e.row ++ [BitVec.ofNat 8 (ofB e.last), 0, 0, 0]

/-- A slot of the pre-empted sub-batch that does not run. -/
def skipped (l : Lane) (x : Slot) : Bool :=
  match l.st.preempted with
  | some k => decide (x.subbatch.toNat = k) && !x.preempt
  | none => false

/-- The type of work that a slot does in the lap: a slot with PREEMPT = 1 of the pre-empted sub-batch runs prompt work instead of its
own kernel (R110). -/
def hosted (l : Lane) (x : Slot) : BitVec 4 :=
  if x.preempt && l.st.preempted == some x.subbatch.toNat then tPrompt else x.type

/-- The lap's length table, written into the SRAM of the cores of every slot that runs prompt work. -/
def writeTable (s : State) (n : LaneNo) : State :=
  let es := lenEntries (decide ((laneOf s n).role = roleGen)) 0 (tableSeqs s n)
  let s := modLane s n fun l => { l with st := { l.st with lenTable := es } }
  let bs := es.flatMap lenBytes
  match fgTable (laneOf s n) with
  | some t =>
    if bs.isEmpty then s
    else (t.slots.filter fun x => hosted (laneOf s n) x == tPrompt).foldl (fun s x =>
      ((List.range 24).filter fun i => x.cores.getLsbD i).foldl (fun s i =>
        sramWrite s n i (Config.lenTableAt x.kernel) bs) s) s
  | none => s

/-! ### Heat directory (R141) -/

def dirLaps (entries : Nat) : Nat := max 1 (ceilDiv entries 8192)

def bgDir (kv : LaneKv) : List BatonId := if kv.dirFg then kv.dirA else kv.dirB

/-- The copy that a rebuild writes: changes in order, additions beyond DIR_ENTRIES left for a later rebuild. -/
def rebuildDir (kv : LaneKv) : List BatonId × List (Bool × BatonId) :=
  kv.dirPend.foldl (fun acc c =>
    if c.1 then
      (if acc.1.contains c.2 then acc
       else if acc.1.length < kv.dirMax then (insertBySlot c.2 acc.1, acc.2) else (acc.1, acc.2 ++ [c]))
    else (acc.1.filter fun b => b != c.2, acc.2)) (fgDir kv, [])

/-- The laps since a rebuild started. -/
def dirAge (s : State) (t : BitVec 48) : Nat := (s.lap.count - t).toNat

/-- A rebuild is complete. -/
def dirReady (s : State) (kv : LaneKv) (t : BitVec 48) : Bool := decide (dirLaps (bgDir kv).length + kv.dirHeld ≤ dirAge s t)

/-- A directory as its next rebuild takes it: with the DIR_ENTRIES of the plan in force (R309). -/
def nextDir (l : Lane) (kv : LaneKv) : LaneKv :=
  { kv with dirMax := match l.sec with | some x => x.dirEntries.toNat | none => kv.dirMax }

/-- A rebuild that is complete by its deadline, 4 laps after its start, swaps in; then pending changes start one. Where every pending
change is an addition to a full directory there is nothing to rebuild, and they stay deferred. -/
def heatBoundary (s : State) (n : LaneNo) : State :=
  modLane s n fun l =>
    let kv := l.kv
    let kv := match kv.dirStart with
      | some t => if dirReady s kv t && decide (dirAge s t ≤ 4) then { kv with dirFg := !kv.dirFg, dirStart := none } else kv
      | none => kv
    let new := nextDir l kv
    let x := rebuildDir new
    let kv := if kv.dirStart.isSome || decide (x.2.length = kv.dirPend.length) then kv
      else if kv.dirFg then { new with dirA := x.1, dirPend := x.2, dirStart := some s.lap.count, dirHeld := 0 }
      else { new with dirB := x.1, dirPend := x.2, dirStart := some s.lap.count, dirHeld := 0 }
    { l with kv := kv }

/-- Laps of a Coach restart do not advance a rebuild. -/
def heatHold (s : State) (n : LaneNo) : State :=
  modLane s n fun l => { l with kv := { l.kv with dirHeld := if l.kv.dirStart.isSome then l.kv.dirHeld + 1 else l.kv.dirHeld } }

/-! ### Slots (R99, R100, R108, R110) -/

/-- A slot that does not run in the lap stands as complete and counts in nobody's pending number (log 63). -/
def loadSlot (l : Lane) (t : LapTable) (x : Slot) : SlotRun :=
  let gone := fun (d : BitVec 10) => match t.slots[d.toNat]? with | some y => skipped l y | none => false
  ⟨(x.deps.filter fun d => !gone d).length, if skipped l x then .complete else .waiting, 0, 0, [], 0⟩

/-- The first streamed slot from index i on that runs in the lap. -/
def streamFrom (l : Lane) (t : LapTable) (i : Nat) : Option Nat :=
  (t.slots.zipIdx.find? fun p => decide (i ≤ p.2) && p.1.stream && !skipped l p.1).map (·.2)

/-- Load the pending counts; the first streamed slot's weights begin to load (R99, R108). -/
def loadSlots (s : State) (n : LaneNo) : State :=
  modLane s n fun l =>
    match fgTable l with
    | some t =>
      { l with
        st := { l.st with
          slots := t.slots.map (loadSlot l t), win := { WeightWin.reset with loading := streamFrom l t 0 }, lapLost := false, experts := [] } }
    | none => { l with st := { l.st with slots := [], win := WeightWin.reset, lapLost := false, experts := [] } }

def sealRoom (t : LapTable) : Nat := ((t.slots.filter fun x => x.type == tSeal).map fun x => x.param.toNat).sum

def loadSeals (s : State) (n : LaneNo) : State :=
  modLane s n fun l => { l with kv := { l.kv with sealLeft := match fgTable l with | some t => sealRoom t | none => 0 } }

def slotAt (l : Lane) (i : Nat) : Option (Slot × SlotRun) :=
  match fgTable l with
  | some t =>
    match t.slots[i]?, l.st.slots[i]? with
    | some x, some r => some (x, r)
    | _, _ => none
  | none => none

/-- Every lower-indexed slot that shares a core with slot i has completed. -/
def coresReady (l : Lane) (i : Nat) (x : Slot) : Bool :=
  (List.range i).all fun j =>
    match slotAt l j with
    | some (y, r) => y.cores &&& x.cores == 0 || r.phase == .complete
    | none => true

/-- A half of the weight window holds a slot's weights. -/
def halfHolds (l : Lane) (i : Nat) : Bool := l.st.win.halves.toList.any fun h => match h with | some x => x.1 == i | none => false

/-- R100's conditions for a start. -/
def slotReady (l : Lane) (i : Nat) (x : Slot) (r : SlotRun) : Bool :=
  r.phase == .waiting && decide (r.pending = 0) && coresReady l i x && (!x.stream || halfHolds l i)

/-- No slot of lower index is ready: it would start first. -/
def firstReady (l : Lane) (i : Nat) : Bool :=
  (List.range i).all fun j => match slotAt l j with | some (y, r) => !slotReady l j y r | none => true

/-- A streamed slot starts: the next one's weights load into the other half (R108). -/
def streamStarts (l : Lane) (i : Nat) : Lane :=
  let w := l.st.win
  let k := w.next + 1
  let nxt := match fgTable l with | some t => streamFrom l t (i + 1) | none => none
  { l with st := { l.st with win := { loading := nxt, halves := vset w.halves k none, next := k } } }

/-- The load that runs is complete: its half holds the slot's HBM_RD bytes. -/
def halfFills (l : Lane) : Lane :=
  let w := l.st.win
  match w.loading, fgTable l with
  | some i, some t =>
    let bytes := match t.slots[i]? with | some x => x.hbmRd.toNat * 4096 | none => 0
    { l with st := { l.st with win := { w with loading := none, halves := vset w.halves w.next (some (i, bytes)) } } }
  | _, _ => l

def setSlot (l : Lane) (i : Nat) (f : SlotRun → SlotRun) : Lane :=
  { l with st := { l.st with slots := l.st.slots.zipIdx.map fun p => if p.2 = i then f p.1 else p.1 } }

/-- A slot completes: each slot that names it counts one predecessor less. -/
def completeSlot (l : Lane) (i : Nat) : Lane :=
  let l := setSlot l i fun r => { r with phase := .complete }
  match fgTable l with
  | some t =>
    { l with st := { l.st with slots := l.st.slots.zipIdx.map fun p =>
        if (match t.slots[p.2]? with | some y => y.deps.contains (BitVec.ofNat 10 i) | none => false) then
          { p.1 with pending := p.1.pending - 1 } else p.1 } }
  | none => l

/-- The lap runs and slots may run. -/
def lapOpen (s : State) (l : Lane) : Bool := s.lap.running && !s.lap.inQuiet && runs l

/-! ### Committing a token (R149, R152, R156, R158) -/

def logWord (tok : BitVec 18) (origin : BitVec 2) : Word := (0 : BitVec 12) ++ origin ++ tok

/-- Count tokens into a request's table; those not tracked go to JDG_TRACK_FULL_CNT. -/
def countInto (s : State) (b : BatonId) (toks : List (BitVec 18)) : State :=
  match findReq s b with
  | none => s
  | some r =>
    let x := countTokens toks r.samp.counts
    let s := modReq s b fun r => { r with samp := { r.samp with counts := x.1 } }
    { s with jdg := { s.jdg with trackFull := satAdd s.jdg.trackFull x.2 } }

def stepPatterns (s : State) (b : BatonId) (tok : BitVec 18) : State :=
  modReq s b fun r => { r with samp := { r.samp with patterns := r.samp.patterns.map (patStep tok.toNat) } }

/-- A STOP match ends the request; true where it did. -/
def stopCheck (s : State) (b : BatonId) : State × Bool :=
  match findReq s b with
  | none => (s, false)
  | some r =>
    match stopMatch r.samp.patterns with
    | some k => (endRequest { s with stp := { s.stp with stopCnt := satInc s.stp.stopCnt } } b reasonStop k, true)
    | none => (s, false)

/-- A drawn token commits. -/
def commitDraw (s : State) (n : LaneNo) (b : BatonId) (r : Req) (tok : BitVec 18) : State :=
  let pos := r.samp.counter
  let s := streamToken s b tok pos
  let s := modReq s b fun r => { r with
    log := r.log ++ [logWord tok 1], done := r.log.length, draw := none, take := 0
    samp := { r.samp with counter := r.samp.counter + 1, drawn := r.samp.drawn + 1 } }
  let s := stepPatterns (countInto s b [tok]) b tok
  let s := commitPages s n b
  let x := stopCheck s b
  if x.2 then x.1
  else if r.samp.maxNew ≤ r.samp.drawn + 1 then endRequest x.1 b reasonMaxNew 0
  else x.1

/-- No candidate: the request ends at position n − 1; nothing is drawn or logged (R151). -/
def commitNone (s : State) (n : LaneNo) (b : BatonId) : State :=
  let s := discardPages s n b
  endRequest { s with jdg := { s.jdg with noCand := satInc s.jdg.noCand } } b reasonNoCandidate 0

/-- The RING_FULL miss of R164. -/
def ringMiss (s : State) (b : BatonId) : State :=
  missReq { s with srg := { s.srg with ringFull := satInc s.srg.ringFull } } b 6

/-- The sequence ran in the lap: it no longer counts as waiting for an expert (R29). -/
def ranOnce (s : State) (b : BatonId) : State := modReq s b fun r => { r with expertWait := false }

/-- A member's step at the commit point. A member whose own extension ran misses the lap with cause PREEMPT (R110, log 18). -/
def commitMember (s : State) (n : LaneNo) (b : BatonId) : State :=
  match findReq s b with
  | none => s
  | some r =>
    if r.take ≠ 0 then (if r.missNow = 0 then modReq s b fun r => { streamMiss { r with missNow := 2 } with missNow := 0 } else s)
    else if r.missNow ≠ 0 then missLap s n b
    else match r.draw with
      | none => ranOnce (discardPages s n b) b
      | some none => commitNone s n b
      | some (some tok) => if ringBlocked r.strm then missLap (ringMiss s b) n b else ranOnce (commitDraw s n b r tok) b

/-! ### Prompt chunks and extensions -/

/-- Tokens of the prompt enter the log; with TRACK.PROMPT they are counted (R149). -/
def commitPromptTokens (s : State) (b : BatonId) (r : Req) : State :=
  let toks := ((r.prompt.drop r.done).take r.take).map fun w => w.setWidth 18
  let s := modReq s b fun r => { r with
    log := r.log ++ toks.map fun t => logWord t 0, done := r.done + r.take, take := 0 }
  if r.samp.settings.track.getLsbD 0 then countInto s b toks else s

def setPromptLeft (s : State) (n : LaneNo) (b : BatonId) (k : Nat) : State :=
  modLane s n fun l => { l with st := { l.st with
    promptQ := if k = 0 then l.st.promptQ.filter fun x => x.1 != b
      else l.st.promptQ.map fun x => if x.1 = b then (b, k) else x } }

/-- A prompt request's chunk at the commit point; its last chunk commits with its first draw. -/
def commitPrompt (s : State) (n : LaneNo) (b : BatonId) : State :=
  match findReq s b with
  | none => s
  | some r =>
    if r.missNow ≠ 0 then missLap s n b
    else if r.take = 0 then s
    else if r.done + r.take < r.promptLen then
      let s := ranOnce (commitPages (commitPromptTokens s b r) n b) b
      setPromptLeft s n b (r.promptLen - (r.done + r.take))
    else
      match r.draw with
      | none => modReq (discardPages s n b) b fun r => { r with take := 0 }
      | some none =>
        let s := commitPages (commitPromptTokens s b r) n b
        let s := endRequest { s with jdg := { s.jdg with noCand := satInc s.jdg.noCand } } b reasonNoCandidate 0
        setPromptLeft (modReq s b fun r => { r with draw := none, expertWait := false }) n b 0
      | some (some tok) =>
        if ringBlocked r.strm then missLap (ringMiss s b) n b
        else
          let s := commitPromptTokens s b r
          match findReq s b with
          | none => s
          | some r => setPhase (setPromptLeft (ranOnce (commitDraw s n b r tok) b) n b 0) b .handoff

/-- Extension tokens enter the log one by one, and a STOP match drops the rest (R156, R158, R177). -/
def appendExt (s : State) (b : BatonId) : List (BitVec 18) → State
  | [] => s
  | tok :: rest =>
    let s := modReq s b fun r => { r with
      log := r.log ++ [logWord tok 2], samp := { r.samp with counter := r.samp.counter + 1 } }
    let s := match findReq s b with
      | some r => if r.samp.settings.track.getLsbD 0 then countInto s b [tok] else s
      | none => s
    let x := stopCheck (stepPatterns s b tok) b
    if x.2 then x.1 else appendExt x.1 b rest

/-- EXTEND commands whose last token has committed complete. -/
def endExts : Nat → List (HostHdr × Nat) → List HostHdr × List (HostHdr × Nat)
  | _, [] => ([], [])
  | k, (h, m) :: rest => if m ≤ k then let x := endExts (k - m) rest; (h :: x.1, x.2) else ([], (h, m - k) :: rest)

/-- Tokens leave the front of the lane's pre-emption queue for a baton. -/
def takeQueued (b : BatonId) : Nat → List (BatonId × Nat × Nat) → List (BatonId × Nat × Nat)
  | _, [] => []
  | k, (c, m, t) :: rest =>
    if c = b then (if m ≤ k then takeQueued b (k - m) rest else (c, m - k, t) :: rest) else (c, m, t) :: takeQueued b k rest

/-- An extension that did not run to its end misses the lap; a member's first cause is PREEMPT (R167). -/
def missExt (s : State) (n : LaneNo) (b : BatonId) (r : Req) : State :=
  let s := missLap (if isMember_ (laneOf s n) b then missReq s b 2 else s) n b
  modReq s b fun x => { x with expertWait := r.missNow == 3 }

/-- Pre-emption work of a lap commits. -/
def commitExt (s : State) (n : LaneNo) (b : BatonId) : State :=
  match findReq s b with
  | none => s
  | some r =>
    if r.take = 0 then s
    else if r.missNow ≠ 0 then missExt s n b r
    else
      let toks := (r.extQ.take r.take).map fun w => w.setWidth 18
      let s := modReq s b fun x => { x with extQ := r.extQ.drop r.take, take := 0, strm := { x.strm with ext := true } }
      let s := appendExt s b toks
      let s := modReq s b fun r => { r with done := r.log.length - 1, expertWait := false }
      let s := commitPages s n b
      let ended := match findReq s b with | some r => r.endReason != 0 | none => false
      let x := if ended then (r.extCmds.map (·.1), []) else endExts r.take r.extCmds
      let s := modReq s b fun r => { r with extCmds := x.2 }
      let s := modLane s n fun l => { l with st := { l.st with
        preemptQ := if ended then l.st.preemptQ.filter fun y => y.1 != b else takeQueued b r.take l.st.preemptQ } }
      completeEach s b (x.1.map fun h => (0x06, h)) .ok

/-! ### Replays (R207) -/

/-- A scratch sequence's positions commit; the open pairs of the pages that were sealed are scratch again. -/
def commitScratch (s : State) (q : Req) : State :=
  match modelOf s q.model with
  | none => s
  | some m =>
    if q.take = 0 then s
    else if q.missNow ≠ 0 then modReplay s q.id fun q => { discardReplay q with expertWait := q.missNow == 3 }
    else modReplay s q.id fun q =>
      { q with
        done := q.done + q.take, take := 0, expertWait := false, heat := q.heatNew, probeNew := [], sel := q.selNew, selNew := []
        pages := q.pages.map fun e => (commitEnt m (q.done + q.take) s.lap.count e).1
        probe := q.probeNew.foldl (fun acc e => putLayer acc e.1 e.2) q.probe, listed := selFull m q.selNew }

/-! ### The lane's commit (R91, R112) -/

/-- The lowest-indexed slot not completed. -/
def lateSlot (l : Lane) : Option Nat := l.st.slots.findIdx? fun r => r.phase != .complete

/-- The hard overrun's record (LST_LAST_OVERRUN). -/
def recordHard (s : State) (n : LaneNo) (i : Nat) : State :=
  modLane s n fun l =>
    let excess := match slotAt l i with
      | some (x, r) => if r.phase = .running then cyclesIn s n (s.clk.now - r.startAt) - x.budget.toNat else 0
      | none => 0
    { l with st := { l.st with
      hardRun := l.st.hardRun + 1, missedLap := satInc l.st.missedLap, lastHard := true, lastSlot := BitVec.ofNat 10 i
      lastExcess := BitVec.ofNat 21 (min 0x1FFFFF excess) } }

/-- A lane at the commit point; true where its lap committed. A lap that a core's failure cost is no hard overrun, and leaves the run of
them as it is (log 67). -/
def commitLane (s : State) (n : LaneNo) : State × Bool :=
  let l := laneOf s n
  if !runs l then (s, false)
  else
    let bs := lapReqs l
    let late := lateSlot l
    let stop := fun (s : State) => modLane s n fun l => { l with st := { l.st with slots := [], lapLost := false } }
    if l.st.lapLost || late.isSome then
      let s := match late with
        | some i => if l.st.lapLost then s else recordHard s n i
        | none => s
      (stop (missAll s n), false)
    else
      let s := modLane s n fun l => { l with st := { l.st with hardRun := 0, expertsDone := l.st.experts } }
      let s := if l.role = roleGen then
          let s := (bySlot (l.st.batch.map (·.1))).foldl (fun s b => commitMember s n b) s
          let s := (l.st.preemptQ.map (·.1)).eraseDups.foldl (fun s b => commitExt s n b) s
          (laneReplays s n).foldl commitScratch s
        else (l.st.promptQ.map (·.1)).foldl (fun s b => commitPrompt s n b) s
      (stop (clearMiss s bs), true)

end Sys2Proof.Machine
end

