-- ==== Sys2Proof/Machine/Lanes.lean ====
section
/-! DEFINITION. Lane commands, lane tests, and failures of cores, stacks, stewards, controllers and die links
(15_host_and_management_ports.md R381; 13_start_reset_lifecycle.md R353 to R357; 12_marshal_and_resilience.md R328 to
R333). -/

namespace Sys2Proof.Machine

open Sys2Proof

def opLane : Byte := 0x22

/-- A lane number of a command. -/
def laneArg (b : Byte) : Option LaneNo := if h : b.toNat < 12 then some ⟨b.toNat, h⟩ else none

/-- A LANE command on a lane of the device. -/
def laneCmd (h : HostHdr) (lane : Byte) (serve : LaneNo → State → State) (s : State) : Res :=
  .next (hostCmd s h opLane true fun s =>
    match laneArg lane with
    | none => complete s h opLane .refused
    | some n => serve n s)

/-- The time of the first drain command that waits; later ones join it (R50). -/
def drainTime (s : State) (l : Lane) : Nat := if l.drainReq then l.drainAt else s.clk.now

/-- Drain (R381). -/
def drainLane (h : HostHdr) (n : LaneNo) (s : State) : State :=
  match (laneOf s n).ctl with
  | .serving => modLane s n fun l => { l with
      drainReq := true, drainCmds := l.drainCmds ++ [h], drainAt := drainTime s l }
  | .draining | .stopped => complete s h opLane .ok
  | .unassigned | .testing | .retired => complete s h opLane .refused

/-- LANE_DRAIN. -/
def execLaneDrain (h : HostHdr) (lane : Byte) (s : State) : Res := laneCmd h lane (drainLane h) s

/-- The time of the first serve command that waits; later ones join it (R50). -/
def serveTime (s : State) (l : Lane) : Nat := if l.serveReq then l.serveAt else s.clk.now

/-- Serve (R381): at the next boundary, after a rebuild where a destructive test emptied the stack. -/
def serveLane (h : HostHdr) (n : LaneNo) (s : State) : State :=
  let l := laneOf s n
  match l.ctl with
  | .serving => complete s h opLane .ok
  | .unassigned | .testing | .retired => complete s h opLane .refused
  | .draining => modLane s n fun l => { l with serveReq := true, serveCmds := l.serveCmds ++ [h], serveAt := serveTime s l }
  | .stopped =>
    if l.st.overrunStop then complete s h opLane .refused
    else modLane s n fun l => { l with
      serveReq := !l.destructed, serveCmds := l.serveCmds ++ [h], serveAt := serveTime s l
      build := if l.destructed && l.build = .none then .copying else l.build }

/-- LANE_SERVE. -/
def execLaneServe (h : HostHdr) (lane : Byte) (s : State) : Res := laneCmd h lane (serveLane h) s

/-! ### Lane tests (R353 to R357) -/

def coreMode (m : BitVec 3) : Bool := m = 1 || m = 4 || m = 5
def stackMode (m : BitVec 3) : Bool := m = 2 || m = 3 || m = 4 || m = 5
def destructMode (m : BitVec 3) : Bool := m = 3 || m = 5

/-- A baton share lies in the lane's stack. -/
def holdsShare (s : State) (n : LaneNo) : Bool :=
  s.reqs.any fun r => r.lane == some n && r.lost.isNone

/-- The conditions of R355. -/
def testOk (s : State) (n : LaneNo) (mode : Nat) : Bool :=
  (laneOf s n).ctl == .stopped && decide (1 ≤ mode) && decide (mode ≤ 5)
  && !(destructMode (BitVec.ofNat 3 mode) && holdsShare s n)

/-- A byte of the data space lies in a region's page that a lane's stack alone holds. -/
def inNear (S : Nat) (n : LaneNo) (g : Region) (a : Nat) : Bool :=
  decide (g.base ≤ a) && decide (a < g.base + g.len) &&
  g.near.any fun p => p.lane == n && !p.copied && decide (g.base + p.page * S ≤ a) && decide (a < g.base + (p.page + 1) * S)

/-- Bytes of regions that lie in a stack go with its contents, but for pages with a current copy. -/
def loseRegions (s : State) (n : LaneNo) : State :=
  let S := slotBytes (laneOf s n)
  { s with mem := { s.mem with data := s.mem.data.filter fun c => !(s.te.regions.any fun x => inNear S n x.2 c.1) } }

/-- A destructive test empties the stack: no weights, lap tables or pages (R357); legs that use it end (R54). -/
def emptyStack (s : State) (n : LaneNo) : State :=
  let s := abortLaneLegs (modLane s n fun l => { l with dataOpen := false }) n .discarded
  let s := setStack (loseRegions s n) n []
  modLane s n fun l => { l with
    destructed := true, models := Vector.replicate 4 none, variantReady := none, sramSave := []
    tables := { l.tables with copyA := none, copyB := none } }

/-- A core test saves the lane's live operand SRAM to the stack control area, and restores it after the march (R354). -/
def saveSram (s : State) (n : LaneNo) : State :=
  let img := laneSram s n
  modLane s n fun l => { l with sramSave := tblSet l.sramSave l.curModel img }

def restoreSram (s : State) (n : LaneNo) : State :=
  match tblGet (laneOf s n).sramSave (laneOf s n).curModel with
  | some img => setLaneSram s n img
  | none => s

/-- Start a test: the lane enters TESTING. -/
def startTest (s : State) (n : LaneNo) (mode : Nat) (cmd : Option HostHdr) : State :=
  let m := BitVec.ofNat 3 mode
  let s := if coreMode m then saveSram s n else s
  let s := modLane s n fun l => { l with ctl := .testing, mch := { l.mch with busy := true, mode := m, progress := 0, cmd := cmd } }
  if destructMode m then emptyStack s n else s

/-- A write to MCH_TEST (R355); a write of 0 to its WO field has no effect (R407). -/
def writeMchTest (s : State) (n : LaneNo) (mode : Nat) : State :=
  if mode = 0 || (laneOf s n).mch.busy then s
  else if testOk s n mode then startTest s n mode none
  else modLane s n fun l => { l with mch := { l.mch with result := finishCode .refused } }

/-- MCH_TEST_START: a write to MCH_TEST of a lane. -/
def execMchTestStart (a : Accessor) (lane : LaneNo) (v : Word) (s : State) : Res :=
  regCmd s a (0x010E0000 + lane.val * 0x00100000) fun s => writeMchTest s lane (bits v.toNat 2 0)

/-- The LANE test command (R381). -/
def testLane (h : HostHdr) (mode : Byte) (n : LaneNo) (s : State) : State :=
  if (laneOf s n).mch.busy then complete s h opLane .refused
  else if testOk s n mode.toNat then startTest s n mode.toNat (some h)
  else
    let s := modLane s n fun l => { l with mch := { l.mch with result := finishCode .refused } }
    completeB s h opLane .refused 0 [(finishCode .refused).setWidth 32]

/-- LANE_TEST. -/
def execLaneTest (h : HostHdr) (lane : Byte) (mode : Byte) (s : State) : Res := laneCmd h lane (testLane h mode) s

/-- Record a test's first failure; FAIL sets at each. -/
def noteFail (s : State) (n : LaneNo) (first : Bool) (unit : BitVec 2) (pos : Nat) (word : Nat) : State :=
  modLane s n fun l => { l with mch :=
    if first then { l.mch with
      fail := true, failUnit := unit, failPos := BitVec.ofNat 5 pos, failWord := BitVec.ofNat 30 word }
    else { l.mch with fail := true } }

/-- Failed cores of a test: operand SRAM with its word, or core logic (R330). -/
def testCores (s : State) (n : LaneNo) : Bool → List (Fin 24 × Bool × Nat) → State
  | _, [] => s
  | first, (i, logic, word) :: rest =>
    let s := noteFail s n first (if logic then 1 else 0) i.val (if logic then 0 else word)
    testCores (coreFails s (dieOf n) (coreAt ((laneOf s n).cores.get i))) n false rest

def logRow (s : State) (n : LaneNo) (bank : Nat) (what : Nat) : State :=
  marLog s evHbmRow n.val s.mpl.devId 0xFF (lo32 (at_ (bank % 256) 8 + what))

/-- Enter a row in the repair list; a list already full overflows, and the lane retires (R331). -/
def listRow (s : State) (n : LaneNo) (bank row : Nat) : State :=
  let h := (laneOf s n).hbc
  if h.rows.any fun r => decide (r.bank = bank) && decide (r.row = row) then
    modLane s n fun l => { l with hbc := { l.hbc with
      rows := l.hbc.rows.map fun r => if r.bank = bank ∧ r.row = row then { r with lap := s.lap.count } else r } }
  else if 64 ≤ h.rows.length then retireLane s n 0x04 false
  else logRow (modLane s n fun l => { l with hbc := { l.hbc with rows := l.hbc.rows ++ [⟨bank, row, s.lap.count⟩] } }) n bank 0x01

def testRows (s : State) (n : LaneNo) : Bool → List (Nat × Nat × Nat) → State
  | _, [] => s
  | first, (bank, row, word) :: rest => testRows (listRow (noteFail s n first 2 0 word) n bank row) n false rest

/-- Post-package repair of every listed row (R331). -/
def repairRows (s : State) (n : LaneNo) : State :=
  let rows := (laneOf s n).hbc.rows
  let s := rows.foldl (fun s r => logRow s n r.bank 0x02) s
  modLane s n fun l => { l with hbc := { l.hbc with
    rows := [], repaired := BitVec.ofNat 8 (min 0xFF (l.hbc.repaired.toNat + rows.length)) } }

/-- The stack part of a test's end: rows are listed, then repaired; a bank without a spare row retires the lane. -/
def endStackTest (s : State) (n : LaneNo) (first : Bool) (found : TestFinding) : State :=
  let s := testRows s n first found.rows
  if (laneOf s n).ctl = .retired then s
  else if found.noSpareRow then retireLane s n 0x04 false
  else repairRows s n

/-- MCH_TEST_DONE (R357): LANE_RETIRED where a retirement cause arose, else OK and the lane is STOPPED. -/
def execMchTestDone (lane : LaneNo) (found : TestFinding) (s : State) : Res :=
  let m := (laneOf s lane).mch
  if !m.busy then .next s
  else
    let s := modLane s lane fun l => { l with dataOpen := true }
    let s := if coreMode m.mode then testCores (restoreSram s lane) lane true found.cores else s
    let s := if stackMode m.mode then endStackTest s lane (!coreMode m.mode || found.cores.isEmpty) found else s
    let gone := (laneOf s lane).ctl == .retired
    let code := if gone then Finish.laneRetired else .ok
    let cmd := (laneOf s lane).mch.cmd
    let s := modLane s lane fun l => { l with
      ctl := if gone then .retired else .stopped
      mch := { l.mch with busy := false, result := finishCode code, progress := 100, cmd := none } }
    let s := match cmd with
      | some h => completeB s h opLane code 0 [(finishCode code).setWidth 32]
      | none => s
    .next (raiseEvt s 12)

/-! ### Failures (R330 to R332) -/

/-- CORE_FAILURE: a core of a die is found failed. -/
def execCoreFailure (die : Fin 4) (core : Nat) (s : State) : Res := .next (coreFails s die core)

/-- CORE_STOP_TIMEOUT: the core at a position did not stop at the commit point. -/
def execCoreStopTimeout (lane : LaneNo) (position : Fin 24) (s : State) : Res :=
  .next (coreFails s (dieOf lane) (coreAt ((laneOf s lane).cores.get position)))

/-- HBM_UNCORRECTABLE (R331): the lap is discarded and the row listed; the same row within 16 laps stops a running lane. -/
def execHbmUncorrectable (lane : LaneNo) (bank row : Nat) (s : State) : Res :=
  let old := (laneOf s lane).hbc.rows.find? fun r => decide (r.bank = bank) && decide (r.row = row)
  let again := match old with
    | some r => decide ((s.lap.count - r.lap).toNat ≤ 16)
    | none => false
  let s := modLane s lane fun l => { l with
    hbc := { l.hbc with eccUe := satInc l.hbc.eccUe }, st := { l.st with lapLost := l.st.lapLost || !l.st.slots.isEmpty } }
  let s := listRow s lane bank row
  .next (if again && runs (laneOf s lane) then enterStopped s lane else s)

/-- STEWARD_FAULT. -/
def execStewardFault (lane : LaneNo) (s : State) : Res := .next (retireLane s lane 0x02 true)

/-- HBC_FAULT. -/
def execHbcFault (lane : LaneNo) (s : State) : Res := .next (retireLane s lane 0x03 false)

/-- DIE_LINK_FAULT: all three lanes of the die retire. -/
def execDieLinkFault (die : Fin 4) (s : State) : Res :=
  .next ((dieLanes die).foldl (fun s n => retireLane s n 0x05 false) s)

end Sys2Proof.Machine
end

