-- ==== Sys2Proof/Machine/Regions.lean ====
section
/-! DEFINITION. Regions: REGION_ALLOC and REGION_FREE, their placement and their charge (02_structure_and_hierarchies.md R42 to R46;
08_track_transport.md R229). -/

namespace Sys2Proof.Machine

open Sys2Proof

/-- The flags of R42 that an allocation may carry. -/
def allocOk (b : Byte) : Bool :=
  decide (b.toNat < 8) && (b.getLsbD 0 || b.getLsbD 1) && !(b.getLsbD 0 && !b.getLsbD 1 && b.getLsbD 2)

/-- Shared-pool page slots of the lowest lane that has enough of them, while the tenant stays within its ceiling (R45, log 16). -/
def nearSlots (s : State) (t : Tenant) (len : Nat) : Option (LaneNo × List Nat) :=
  laneNos.findSome? fun n =>
    let l := laneOf s n
    let S := slotBytes l
    let k := ceilDiv len S
    if S = 0 || decide (l.kv.sharedFree.length < k) || decide (tenantCeiling s t < tenantCharge s t + k) then none
    else some (n, l.kv.sharedFree.take k)

/-- Space by the table of R43: near slots, a far port; none where no space is left. With every flag set and one tier full the region
takes the other: it is refused only when both are full. -/
def placeRegion (s : State) (t : Tenant) (flags : Byte) (len : Nat) : Option (Option (LaneNo × List Nat) × Option (Fin 4)) :=
  let near := if flags.getLsbD 0 then nearSlots s t len else none
  let far := if flags.getLsbD 1 then bestPort s len else none
  match near, far with
  | none, none => none
  | some n, far => some (some n, if flags.getLsbD 2 then far else none)
  | none, some p => some (none, some p)

/-- Take near slots, charged to the tenant. -/
def takeNear (s : State) (t : Tenant) (x : Option (LaneNo × List Nat)) : State :=
  match x with
  | some (n, ks) => modLane s n fun l => { l with kv := { l.kv with
      sharedFree := l.kv.sharedFree.filter fun k => !ks.contains k
      owner := ks.foldl (fun o k => tblSet o k t.toNat) l.kv.owner } }
  | none => s

def takeFar (s : State) (p : Option (Fin 4)) (len : Nat) : State :=
  match p with
  | some p => { s with cap := { s.cap with ports := vmod s.cap.ports p fun c => { c with used := c.used + len } } }
  | none => s

/-- The lowest table entry that is free, of the plan's REGIONS. -/
def freeRegion (s : State) : Option Nat :=
  lowestFree (s.te.regions.map (·.1)) (regionCount s) 0

/-- The region's pages in the slots of a lane. -/
def nearPages (s : State) (near : Option (LaneNo × List Nat)) : List RegPage :=
  match near with
  | some (n, ks) => ks.zipIdx.map fun x => ⟨x.2, n, x.1, s.lap.count, false⟩
  | none => []

/-- REGION_ALLOC: under KEYED the entry's index returns as RKEY, with every right; under PAGED no entry is made (log 16). A length of
0 is refused: R43 gives the length no range (log 66). -/
def execRegionAlloc (h : HostHdr) (flags : Byte) (len : BitVec 64) (s : State) : Res :=
  .next (hostCmd s h 0x10 false fun s =>
    if !allocOk flags || len = 0 then complete s h 0x10 .refused
    else if !schemeKeyed s then complete s h 0x10 .ok
    else match freeRegion s, placeRegion s h.tenant flags len.toNat with
      | some k, some (near, far) =>
        let r : Region := {
          tenant := h.tenant, base := s.te.dataTop, len := len.toNat, rights := 0xF, near := nearPages s near
          far := far.map fun p => (p, len.toNat) }
        let s := takeFar (takeNear s h.tenant near) far len.toNat
        let s := { s with te := { s.te with regions := tblSet s.te.regions k r, dataTop := s.te.dataTop + len.toNat } }
        completeB s h 0x10 .ok 0 [lo32 k]
      | _, _ => complete s h 0x10 .refused)

/-- Give a region's space back. -/
def freeRegionSpace (s : State) (r : Region) : State :=
  let s := r.near.foldl (fun s x => freeSlot s x.lane x.slot) s
  match r.far with
  | some (p, n) => { s with cap := { s.cap with ports := vmod s.cap.ports p fun c => { c with used := c.used - n } } }
  | none => s

/-- REGION_FREE: only the tenant's own entry. -/
def execRegionFree (h : HostHdr) (rkey : BitVec 16) (s : State) : Res :=
  .next (hostCmd s h 0x11 false fun s =>
    match tblGet s.te.regions rkey.toNat with
    | some r =>
      if schemeKeyed s && r.tenant = h.tenant then
        let s := freeRegionSpace s r
        complete { s with te := { s.te with regions := tblErase s.te.regions rkey.toNat } } h 0x11 .ok
      else complete s h 0x11 .refused
    | none => complete s h 0x11 .refused)

end Sys2Proof.Machine
end

