-- ==== Sys2Proof/Machine/PlanCheck.lean ====
section
/-! DEFINITION. The checks of a meet-plan image in the order of R307 (11_meet_plan.md R292 to R311, R315, R440). -/

namespace Sys2Proof.Machine

open Sys2Proof

/-- Why an image is refused: reason, directory entry, lane (R307). -/
structure Refuse where
  reason : Byte
  sect : Byte
  lane : BitVec 4
deriving DecidableEq, Repr

/-! ### Directory entries -/

def secSystem : Nat := 0x01
def secDevice : Nat := 0x02
def secTenant : Nat := 0x03
def secModel : Nat := 0x04
def secLane : Nat := 0x05
def secPacer : Nat := 0x06
def secBib : Nat := 0x07
def secSig : Nat := 0x0F

/-- The directory entry of a section; 0xFF where it has none. -/
def dirIx (p : PlanImage) (type index : Nat) : Byte :=
  match p.dir.findIdx? fun e => decide (e.type.toNat = type) && decide (e.index.toNat = index) with
  | some i => BitVec.ofNat 8 i
  | none => 0xFF

def refuseAt (p : PlanImage) (reason : Byte) (type index : Nat) : Option Refuse := some ⟨reason, dirIx p type index, 0xF⟩
def refuseLane (p : PlanImage) (reason : Byte) (n : LaneNo) : Option Refuse :=
  some ⟨reason, dirIx p secLane n.val, BitVec.ofNat 4 n.val⟩

/-- Lanes to which the plan gives a role. -/
def built (p : PlanImage) : List LaneNo := laneNos.filter fun n => (p.lanes.get n).role != 0

/-- The first lane with a role that fails a test. -/
def firstLane (p : PlanImage) (bad : LaneNo → LaneSec → Bool) : Option LaneNo := (built p).find? fun n => bad n (p.lanes.get n)

def planModel (p : PlanImage) (b : Byte) : Option ModelSec := p.models.find? fun m => decide (m.number = b.toNat)

/-- Models that a LANE section names, variants included. -/
def laneModels (p : PlanImage) (x : LaneSec) : List ModelSec := x.model.toList.filterMap (planModel p)

/-! ### HEADER (R292 to R294) -/

def entKey (e : DirEntry) : Nat := 256 * e.type.toNat + e.index.toNat

/-- Ascending TYPE and then INDEX, at 64-byte boundaries, one after another without overlap. -/
def dirOrder : List DirEntry → Bool
  | a :: b :: rest =>
    decide (entKey a < entKey b) && decide (a.offset.toNat + a.length.toNat ≤ b.offset.toNat) && dirOrder (b :: rest)
  | _ => true

def countType (p : PlanImage) (t : Nat) : Nat := p.dir.countP fun e => decide (e.type.toNat = t)

/-- Types, counts and indices of the section table. -/
def dirCounts (p : PlanImage) : Bool :=
  [secSystem, secDevice, secTenant, secPacer, secSig].all (fun t => decide (countType p t = 1))
  && decide (1 ≤ countType p secModel) && decide (countType p secModel ≤ 16) && decide (countType p secLane = 12)
  && decide (countType p secBib ≤ 1)
  && p.dir.all fun e =>
    let t := e.type.toNat
    let i := e.index.toNat
    (t = secModel && decide (i ≤ 15)) || (t = secLane && decide (i ≤ 11))
    || ([secSystem, secDevice, secTenant, secPacer, secBib, secSig].contains t && decide (i = 0))

/-- SIG occupies the last 192 bytes of the image. -/
def sigPlace (p : PlanImage) : Bool :=
  p.dir.all fun e => decide (e.type.toNat ≠ secSig)
    || (decide (e.offset.toNat + 192 = p.totalBytes.toNat) && decide (e.length.toNat = 192))

def dirPlaces (p : PlanImage) : Bool :=
  p.dir.all (fun e => decide (e.offset.toNat % 64 = 0) && decide (64 + 16 * p.nsect.toNat ≤ e.offset.toNat)
    && decide (e.offset.toNat + e.length.toNat ≤ p.totalBytes.toNat))

def headerOk (p : PlanImage) (cmdBytes : Nat) : Bool :=
  p.magic == 0x4E4C504D && p.format == 1 && decide (18 ≤ p.nsect.toNat) && decide (p.nsect.toNat ≤ 64)
  && decide (p.dir.length = p.nsect.toNat) && decide (1024 ≤ p.totalBytes.toNat) && decide (p.totalBytes.toNat ≤ 67108864)
  && decide (p.totalBytes.toNat % 64 = 0) && decide (p.totalBytes.toNat = cmdBytes) && p.hdrRsvClear
  && p.dir.all (fun e => e.crcOk && e.rsvClear) && dirOrder p.dir && dirCounts p && dirPlaces p && sigPlace p

def chkHeader (p : PlanImage) (cmdBytes : Nat) : Option Refuse :=
  if headerOk p cmdBytes then none
  else match p.dir.findIdx? fun e => !(e.crcOk && e.rsvClear) with
    | some i => some ⟨0x01, BitVec.ofNat 8 i, 0xF⟩
    | none => some ⟨0x01, 0xFF, 0xF⟩

/-! ### Key, life cycle, identity -/

/-- A fuse key group whose CRC-32C holds; a failing group is treated as absent (R348). -/
def groupOk (g : KeyGroup) : Bool := crc32c ((List.range 48).map fun i => g.value.extractLsb' (8 * i) 8) == g.crc

/-- R295; in BLANK no plan-key hash is fused (R358). -/
def chkSignature (s : State) (p : PlanImage) : Option Refuse :=
  if s.fus.lc != .blank && groupOk s.fus.planKey && p.keyHash == s.fus.planKey.value && p.sigValid then none
  else refuseAt p 0x02 secSig 0

def plansLoad (s : State) : Bool := s.fus.lc == .blank || s.fus.lc == .provisioned || s.fus.lc == .field

def chkLifecycle (s : State) : Option Refuse := if plansLoad s then none else some ⟨0x03, 0xFF, 0xF⟩

def chkTarget (s : State) (p : PlanImage) : Option Refuse :=
  if s.mpl.current.isNone || p.targetDev == s.mpl.devId then none else some ⟨0x04, 0xFF, 0xF⟩

/-- R308. -/
def chkEpoch (s : State) (p : PlanImage) : Option Refuse :=
  let e := p.system.epoch
  if s.mpl.current.isNone || (if declaredDead s then e != s.mpl.epoch else e == s.mpl.epoch + 1) then none
  else refuseAt p 0x06 secSystem 0

/-- The plan tag (R296). -/
def planTag (p : PlanImage) : BitVec 64 := p.planDigest.setWidth 64

def chkTag (s : State) (p : PlanImage) : Option Refuse :=
  if s.mpl.current.isSome && planTag p == s.mpl.tagCur then refuseAt p 0x07 secSystem 0 else none

/-! ### RANGE -/

def systemOk (x : SystemSec) : Bool :=
  (x.scheme == 1 || x.scheme == 2) && decide (x.groups.length ≤ 4096)
  && (if x.scheme = 1 then decide (1 ≤ x.regions.toNat) && decide (x.regions.toNat ≤ 65536) else x.regions == 0)
  && decide (x.activate.toNat ≤ x.deadline.toNat) && x.rsvClear

def deviceOk (x : DeviceSec) : Bool :=
  decide (x.leader.toNat ≤ 3) && x.idleLaps != 0 && x.handoffWait != 0 && x.holdLimit != 0 && decide (60 ≤ x.scrubS.toNat)
  && decide (x.scrubS.toNat ≤ 86400) && decide (x.park.length ≤ 16) && x.park.all (fun t => decide (t.lane.toNat ≤ 11))
  && x.spares.toList.all (fun l => decide (l.length ≤ 2)) && x.rsvClear

def tenantOk (paged : Bool) (x : TenantRec) : Bool :=
  decide (x.cls.toNat ≤ 29) && decide (x.slotQuota.toNat ≤ 65536) && (paged || x.paged2m == 0) && x.rsvClear

/-- Positive and finite as an FP32 pattern. -/
def posFinite (x : F32) : Bool := decide (0 < x.toNat) && decide (x.toNat < 0x7F800000)

/-- Profile fields (R71, R117, R147, R301). -/
def modelOk (m : ModelSec) : Bool :=
  decide (m.arithMode.toNat ≤ 1) && [0, 16, 32, 48, 64].contains m.lrRank.toNat
  && decide (32 ≤ m.headDim.toNat) && decide (m.headDim.toNat ≤ 512) && decide (m.headDim.toNat % 32 = 0)
  && [16, 32, 64, 128, 256, 512, 1024].contains m.segBlocks.toNat && posFinite m.attnScale
  && decide (1 ≤ m.kvHeads.toNat) && decide (m.kvHeads.toNat ≤ 32) && decide (m.retrieve.toNat ≤ 1)
  && decide (1 ≤ m.layers.toNat) && decide (m.layers.toNat ≤ 1024) && decide (m.windowTokens.toNat ≤ 65536)
  && decide (m.windowTokens.toNat % 128 = 0) && decide (1 ≤ m.topk.toNat) && decide (m.topk.toNat ≤ 512)
  && decide (1 ≤ m.runs.toNat) && decide (m.runs.toNat ≤ 64) && decide (m.topk.toNat ≤ 64 * m.runs.toNat)
  && decide (2 ≤ m.vocab.toNat) && decide (m.vocab.toNat ≤ 262144) && decide (m.sampleRows.toNat ≤ 65536)
  && decide (1 ≤ m.maxLen.toNat) && decide (m.maxLen.toNat ≤ 4194304) && m.rsvClear

/-- A lane of ROLE 0b00: every field zero, no list entries, no table (R302). -/
def laneZero (x : LaneSec) : Bool :=
  x.dirEntries == 0 && x.model.toList.all (· == 0) && x.mflags.toList.all (· == 0) && x.cores.toList.all (· == 0)
  && x.windowKib == 0 && x.weight2m == 0 && x.slot4k == 0 && x.kvFlags == 0 && x.reserve == 0 && x.shared == 0
  && x.runCells == 0 && x.guar == 0 && x.cap == 0 && x.handoff.isEmpty && x.exch.isEmpty && x.table.isNone

def laneSecOk (p : PlanImage) (x : LaneSec) : Bool :=
  x.rsvClear &&
  if x.role = 0 then laneZero x
  else
    decide (1 ≤ x.dirEntries.toNat) && decide (x.dirEntries.toNat ≤ 16384)
    && x.model.toList.all (fun b => b == 0xFF || (planModel p b).isSome) && x.mflags.toList.all (fun b => decide (b.toNat ≤ 1))
    && decide (2 ≤ x.windowKib.toNat) && decide (x.windowKib.toNat ≤ 512) && decide (x.windowKib.toNat % 2 = 0)
    && decide (1 ≤ x.weight2m.toNat) && decide (x.weight2m.toNat ≤ 24000) && decide (4 ≤ x.slot4k.toNat)
    && decide (x.slot4k.toNat ≤ 256) && allocOk x.kvFlags && decide (x.runCells.toNat ≤ 16777215)
    && decide (x.guar.toNat ≤ x.cap.toNat) && decide (x.cap.toNat ≤ 6144) && decide (x.handoff.length ≤ 16)
    && (x.handoff.isEmpty || x.role == 1) && x.handoff.all (fun t => decide (t.lane.toNat ≤ 11))
    && decide (x.exch.length ≤ 1024)
    && x.exch.all (fun e => match x.table with | some t => decide (e.1.toNat < t.slots.length) | none => false)

/-- Ranges of one queue record (R260, R263); `top` is the port's line rate. -/
def pacQueueOk (top q : Nat) (x : PacQueue) : Bool :=
  decide (16 ≤ x.qlimitKib.toNat) && decide (x.qlimitKib.toNat ≤ 1024) && (decide (q < 4) || x.weight != 0)
  && decide (x.rate.toNat ≤ top)
  && (x.rate == 0 || (decide (1 ≤ x.burstKib.toNat) && decide (x.burstKib.toNat ≤ 16384)))

/-- Ranges of one meter record (R269). -/
def pacMeterOk (x : PacMeter) : Bool :=
  let rate := fun (w : Word) => decide (1 ≤ w.toNat) && decide (w.toNat ≤ 800000)
  let size := fun (w : BitVec 16) => decide (1 ≤ w.toNat) && decide (w.toNat ≤ 16384)
  rate x.cir && rate x.pir && size x.cbsKib && size x.pbsKib

def pacPortOk (port : Nat) (x : PacPort) : Bool :=
  decide (2 ≤ x.legQ.toNat) && decide (x.legQ.toNat ≤ 31) && decide (x.overhead.toNat ≤ 63) && x.rsvClear
  && (if isRelay port then x.maxFrame == 0 && x.police == 0
      else decide (1518 ≤ x.maxFrame.toNat) && decide (x.maxFrame.toNat ≤ 9216) && decide (x.police.toNat ≤ 2)
        && x.meters.toList.all pacMeterOk)
  && x.queues.toList.zipIdx.all fun e => pacQueueOk (if isRelay port then 3200000 else 800000) e.2 e.1

def bibRangeOk (b : BibSec) : Bool :=
  (b.cascade == 0 || (decide (2 ≤ b.cascade.toNat) && decide (b.cascade.toNat ≤ 4))) && b.deadline != 0
  && decide (1 ≤ b.parts.length) && decide (b.parts.length ≤ 16) && b.rsvClear
  && b.parts.all fun x => decide (x.base.toNat ≤ 1023) && decide (1 ≤ x.ngroups.toNat) && decide (x.ngroups.toNat ≤ 1024) && x.rsvClear

/-- The first field outside its range or RSV bit set, by section. -/
def chkRange (p : PlanImage) : Option Refuse :=
  if !systemOk p.system then refuseAt p 0x08 secSystem 0
  else if !deviceOk p.device then refuseAt p 0x08 secDevice 0
  else if !p.tenants.all (fun t => tenantOk (p.system.scheme == 2) t.2) then refuseAt p 0x08 secTenant 0
  else match p.models.find? fun m => !modelOk m with
  | some m => refuseAt p 0x08 secModel m.number
  | none =>
    match laneNos.find? fun n => !laneSecOk p (p.lanes.get n) with
    | some n => refuseLane p 0x08 n
    | none =>
      if !p.pacer.toList.zipIdx.all (fun e => pacPortOk e.2 e.1) then refuseAt p 0x08 secPacer 0
      else match p.bib with
        | some b => if bibRangeOk b then none else refuseAt p 0x08 secBib 0
        | none => none

/-! ### SCALE, LAP_TIME, CAPACITY, CORES -/

def chkScale (p : PlanImage) : Option Refuse :=
  let d := p.system.devices.toNat
  if decide (1 ≤ d) && decide (d ≤ 131072) && p.system.groups.all (fun g => decide (1 ≤ g.2.length) && decide (g.2.length ≤ 32))
      && !(p.system.scheme == 1 && decide (4096 < d)) then none
  else refuseAt p 0x09 secSystem 0

/-- PTP time of boundary n of a plan (R94). -/
def boundaryTime (x : SystemSec) (n : Nat) : Nat := x.lapBase.toNat + n * x.periodUs.toNat * 1000

def chkLapTime (s : State) (p : PlanImage) : Option Refuse :=
  let per := p.system.periodUs.toNat
  let q := p.system.quietUs.toNat
  let a := p.system.activate.toNat
  if !(decide (200 ≤ per) && decide (per ≤ 20000) && decide (2 ≤ q) && decide (q ≤ 64) && decide (10 * q ≤ per)) then
    refuseAt p 0x0A secSystem 0
  else if 1000000 < p.device.idleLaps.toNat * per then refuseAt p 0x0A secDevice 0
  else match s.mpl.current with
    | some c => if boundaryTime p.system a = boundaryTime c.system a then none else refuseAt p 0x0A secSystem 0
    | none => none

/-- Fitted stack capacity in bytes (R7). -/
def stackBytes (s : State) : Nat := s.fus.hbmCode.toNat * 1000000000

/-- The partition does not fit its stack, its models' pages do not fit its slots, or its weights do not fit their area. -/
def laneTooBig (s : State) (p : PlanImage) (x : LaneSec) : Bool :=
  let S := x.slot4k.toNat * 4096
  let area := x.weight2m.toNat * 2097152
  decide (stackBytes s < 536870912 + area + (x.reserve.toNat + x.shared.toNat) * S)
  || (laneModels p x).any (fun m =>
    decide (S < sealedImage m) || decide (2 * S < openImage m) || decide (2095104 < 64 * heatRecBytes m))
  || decide (area < ((laneModels p x).map fun m => m.weightBytes.toNat).sum)

def chkCapacity (s : State) (p : PlanImage) : Option Refuse :=
  match firstLane p fun _ x => laneTooBig s p x with
  | some n => refuseLane p 0x0B n
  | none => none

/-- Spare cores of a die as the plan lists them; 0xFF is no entry. -/
def spareList (p : PlanImage) (d : Fin 4) : List Nat := ((p.device.spares.get d).map (·.toNat)).filter (· != 255)

/-- Cores that the plan maps to the other lanes of a lane's die. -/
def otherCores (p : PlanImage) (n : LaneNo) : List Nat :=
  ((dieLanes (dieOf n)).filter fun m => m != n && (p.lanes.get m).role != 0).flatMap fun m =>
    (p.lanes.get m).cores.toList.map (·.toNat)

def badCores (s : State) (p : PlanImage) (n : LaneNo) (x : LaneSec) : Bool :=
  let cs := x.cores.toList.map (·.toNat)
  !(decide cs.Nodup) || cs.any fun c =>
    decide (73 < c) || fusesCore s (dieOf n) c || (spareList p (dieOf n)).contains c || (otherCores p n).contains c

def badSpares (s : State) (p : PlanImage) (d : Fin 4) : Bool :=
  (spareList p d).any fun c => decide (73 < c) || fusesCore s d c

def chkCores (s : State) (p : PlanImage) : Option Refuse :=
  match firstLane p fun n x => badCores s p n x with
  | some n => refuseLane p 0x0C n
  | none => if (List.finRange 4).any (badSpares s p) then refuseAt p 0x0C secDevice 0 else none

/-! ### MODEL (R68, R69, R71, R147, R297, R440) -/

def fmtCodeOk (c : Byte) : Bool := decide (1 ≤ c.toNat) && decide (c.toNat ≤ 15) && c != 0x0B
def intCode (c : Byte) : Bool := c == 1 || c == 2

/-- Rising split boundaries, multiples of 256 above 0 and below K. -/
def boundsOk (k : Nat) : Nat → List Nat → Bool
  | _, [] => true
  | lo, d :: ds => decide (lo < d) && decide (d < k) && decide (d % 256 = 0) && boundsOk k d ds

/-- An operation record. FMT_B 0 is an attention operation, whose operands in pages are floating-point. The 32-bit class gives FP32
alone (R70, log 77). -/
def opOk (m : ModelSec) (o : KernelOp) : Bool :=
  let attn := o.fmtB == 0
  let bothInt := intCode o.fmtA && intCode o.fmtB
  let wide := o.fmtA == 0x0A || o.fmtB == 0x0A
  let outOk := if bothInt then o.fmtOut == 0x0B
    else if wide && !attn then o.fmtOut == 0x0A
    else decide (3 ≤ o.fmtOut.toNat) && decide (o.fmtOut.toNat ≤ 14) && o.fmtOut != 0x0B
  decide (o.kernel.toNat < m.nkern) && fmtCodeOk o.fmtA && (attn || fmtCodeOk o.fmtB)
  && (intCode o.fmtA == intCode o.fmtB) && outOk && decide (1 ≤ o.k.toNat) && decide (o.k.toNat ≤ 1048576)
  && (!attn || decide (o.k.toNat = m.headDim.toNat)) && decide (o.bounds.length ≤ 767) && boundsOk o.k.toNat 0 o.bounds
  && o.rsvClear

def kernelsOk (m : ModelSec) : Bool :=
  m.digestOk && decide (1 ≤ m.nkern) && decide (m.nkern ≤ 65536) && decide (m.ops.length ≤ 1048576) && m.ops.all (opOk m)

/-- Logits per lap of every model that a lane with a role names, each once. -/
def judgeLoad (p : PlanImage) : Nat :=
  let named := (built p).flatMap fun n => (p.lanes.get n).model.toList.map (·.toNat)
  ((p.models.filter fun m => named.contains m.number).map fun m => m.sampleRows.toNat * m.vocab.toNat).sum

/-- Two MODEL sections under one digest with unlike bytes: the stored digest of one of them is not its own (R72, R118, R297). The
section's number is no part of its bytes. -/
def digestClash (a b : ModelSec) : Bool := a.digest == b.digest && { a with number := b.number } != b

/-- Models whose content the device knows beside a section of a new plan: the current plan's, and the new plan's other sections. -/
def knownModels (s : State) (p : PlanImage) (m : ModelSec) : List ModelSec :=
  (match s.mpl.current with | some c => c.models | none => []) ++ p.models.takeWhile fun x => decide (x.number < m.number)

def chkModel (s : State) (p : PlanImage) : Option Refuse :=
  match p.models.find? fun m => !kernelsOk m || (knownModels s p m).any (digestClash m) with
  | some m => refuseAt p 0x0D secModel m.number
  | none =>
    if 512000 * (p.system.periodUs.toNat - p.system.quietUs.toNat) < judgeLoad p then some ⟨0x0D, 0xFF, 0xF⟩ else none

/-! ### TENANT_BUSY, PACER, BIB, XZ, RETIRED_LANE, LANE_TABLE, WEIGHTS, LATE -/

def planEnables (p : PlanImage) (t : Tenant) : Bool :=
  match p.tenants.find? fun e => e.1 == t with
  | some e => e.2.enabled
  | none => false

/-- Tenants that hold a sequence slot of this device or an open send queue. -/
def busyTenants (s : State) : List Tenant :=
  ((s.reqs.filter fun r => batonHome r.id == s.mpl.devId).map fun r => batonTenant r.id) ++ s.te.sqs.map fun e => e.2.tenant

def chkTenantBusy (s : State) (p : PlanImage) : Option Refuse :=
  if (busyTenants s).all (planEnables p) then none else refuseAt p 0x0E secTenant 0

/-- The largest charge of a shaped queue's frame on a port (R262). -/
def topCharge (port : Nat) (x : PacPort) : Nat := (if isRelay port then 8192 + 36 else x.maxFrame.toNat) + x.overhead.toNat

def pacFits (port : Nat) (x : PacPort) : Bool :=
  decide ((x.queues.toList.map fun q => q.qlimitKib.toNat).sum ≤ 2048)
  && (x.queues.get 2).rate != 0 && (x.queues.get 3).rate != 0
  && x.queues.toList.all (fun q => q.rate == 0 || decide (topCharge port x ≤ 1024 * q.burstKib.toNat))
  && (isRelay port || x.meters.toList.all fun m => decide (m.cir.toNat ≤ m.pir.toNat)
    && decide (x.maxFrame.toNat ≤ 1024 * m.cbsKib.toNat) && decide (x.maxFrame.toNat ≤ 1024 * m.pbsKib.toNat))

def chkPacer (p : PlanImage) : Option Refuse :=
  if p.pacer.toList.zipIdx.all fun e => pacFits e.2 e.1 then none else refuseAt p 0x0F secPacer 0

def partsApart : List BibPart → Bool
  | [] => true
  | x :: xs => xs.all (fun y => decide (x.base.toNat + x.ngroups.toNat ≤ y.base.toNat)
      || decide (y.base.toNat + y.ngroups.toNat ≤ x.base.toNat)) && partsApart xs

def bibFits (b : BibSec) : Bool :=
  b.parts.all (fun x => decide (x.base.toNat + x.ngroups.toNat ≤ 1024) && (!x.casc || decide (2 ≤ b.cascade.toNat)))
  && partsApart b.parts && decide ((b.parts.countP fun x => x.userBtn) ≤ 1)

def chkBib (p : PlanImage) : Option Refuse :=
  match p.bib with
  | some b => if bibFits b then none else refuseAt p 0x10 secBib 0
  | none => none

def chkXz (p : PlanImage) : Option Refuse :=
  if 6144 < (p.lanes.toList.map fun x => x.guar.toNat).sum then some ⟨0x11, 0xFF, 0xF⟩ else none

/-- The plan names a lane of this device in its own park or handoff lists. -/
def listsLane (p : PlanImage) (n : LaneNo) : Bool :=
  (p.device.park ++ p.lanes.toList.flatMap fun x => x.handoff).any fun t => t.dev == p.targetDev && decide (t.lane.toNat = n.val)

def chkRetired (s : State) (p : PlanImage) : Option Refuse :=
  match laneNos.find? fun n => (laneOf s n).ctl == .retired && ((p.lanes.get n).role != 0 || listsLane p n) with
  | some n => refuseLane p 0x12 n
  | none => none

/-- The fit test on a lane's table; a lane with a role has one. -/
def tableReason (p : PlanImage) (n : LaneNo) : Byte :=
  match (p.lanes.get n).table with
  | some t => fitTest (fitEnv p n) t
  | none => 0x01

def chkTables (p : PlanImage) : Option Refuse :=
  match firstLane p fun n _ => tableReason p n != 0 with
  | some n => refuseLane p 0x13 n
  | none => none

def inStore (s : State) (d : Digest) : Bool := s.cap.weights.any fun w => w.1 == d

def chkWeights (s : State) (p : PlanImage) : Option Refuse :=
  match firstLane p fun _ x => (laneModels p x).any fun m => !inStore s m.weightDigest with
  | some n => refuseLane p 0x14 n
  | none => none

/-- R310: the first boundary of a first plan, ACTIVATE or later and at least 1 ms after now. -/
def firstBoundary (s : State) (p : PlanImage) : Nat :=
  max p.system.activate.toNat
    (ceilDiv (s.clk.now + 1000000 - p.system.lapBase.toNat) (p.system.periodUs.toNat * 1000))

def chkLate (s : State) (p : PlanImage) : Option Refuse :=
  let n := if s.mpl.current.isNone then firstBoundary s p else s.lap.count.toNat + 1
  if n ≤ p.system.deadline.toNat then none else refuseAt p 0x15 secSystem 0

/-- R307: the checks in order; the first failure decides. -/
def checkPlan (s : State) (p : PlanImage) (cmdBytes : Nat) : Option Refuse :=
  chkHeader p cmdBytes <|> chkSignature s p <|> chkLifecycle s <|> chkTarget s p <|> chkEpoch s p <|> chkTag s p
  <|> chkRange p <|> chkScale p <|> chkLapTime s p <|> chkCapacity s p <|> chkCores s p <|> chkModel s p
  <|> chkTenantBusy s p <|> chkPacer p <|> chkBib p <|> chkXz p <|> chkRetired s p <|> chkTables p <|> chkWeights s p
  <|> chkLate s p

end Sys2Proof.Machine
end

