-- ==== Sys2Proof/Machine/SlotWork.lean ====
section
/-! DEFINITION. What a slot's kernel computes: which sequences a slot serves, one operation of each kind, operations that wait for an
append or a seal, the sealing of full pages and the expert routes (03_arithmetic_and_formats.md; 04 R98, R103, R107, R110;
05 R124 to R138; 01 R29, R30). -/

namespace Sys2Proof.Machine

open Sys2Proof

/-! ### Sequences of a slot -/

/-- A slot type whose kernel computes (R98); the device itself does the work of the others (log 76). -/
def computes (t : BitVec 4) : Bool :=
  t == tLayer || t == tAttn || t == tExpert || t == tExchange || t == tSample || t == tPrompt

/-- A sequence that runs prompt work in the lap: tokens taken, and for a replay no position of a drawn token (R207). -/
def promptWork (r : Req) : Bool := r.take != 0 && !(r.replay && genAt r r.done)

/-- A slot serves a sequence: in a prompt lane those with tokens taken; in a generation lane a slot that runs prompt work those with
prompt work, another one the members of its sub-batch and the replays that step (R103, R110, R207). -/
def slotServes (s : State) (n : LaneNo) (x : Slot) (b : BatonId) : Bool :=
  let l := laneOf s n
  match workReq s n b with
  | none => false
  | some r =>
    r.missNow == 0 &&
    (if l.role != roleGen || hosted l x == tPrompt then promptWork r
     else if r.replay then r.take != 0 && genAt r r.done
     else r.take == 0 && r.endReason == 0 && memberSub l b == some x.subbatch.toNat)

/-- A position is one that the sequence runs in the lap. -/
def runsPos (s : State) (n : LaneNo) (b : BatonId) (pos : Nat) : Bool :=
  match workReq s n b with
  | some r => decide (r.done ≤ pos) && decide (pos < r.done + workLen r)
  | none => false

/-- Sequences of the lane that a slot serves. -/
def served (s : State) (n : LaneNo) (x : Slot) : List BatonId := ((laneSeqs s n).map (·.id)).filter (slotServes s n x)

/-- A slot hands logits to Judge: a SAMPLE slot, and in a prompt lane whose table has none its PROMPT slots (R98, R146, log 20). -/
def handsLogits (l : Lane) (x : Slot) : Bool :=
  x.type == tSample || (l.role != roleGen && x.type == tPrompt
    && (match fgTable l with | some t => t.slots.all fun y => y.type != tSample | none => false))

/-- A request that takes a draw in the running lap. -/
def drawsNow (l : Lane) (r : Req) : Bool :=
  if l.role = roleGen then r.missNow == 0 && decide (r.take = 0) && r.endReason == 0
  else r.missNow == 0 && decide (0 < r.take) && decide (r.done + r.take = r.promptLen) && r.endReason == 0

/-- Members of a sub-batch. -/
def subMembers (l : Lane) (k : Nat) : List BatonId := (l.st.batch.filter fun m => m.2 == k).map (·.1)

/-- Requests that a slot with logits serves. -/
def sampled (l : Lane) (x : Slot) : List BatonId :=
  if l.role = roleGen then (if hosted l x == tPrompt then [] else subMembers l x.subbatch.toNat) else l.st.promptQ.map (·.1)

/-! ### Expert routes (R29, R30) -/

def waitedBefore (s : State) (n : LaneNo) (b : BatonId) : Bool := match workReq s n b with | some r => r.expertWait | none => false

/-- Sequences of a layer's routes in serving order. -/
def routeOrder (s : State) (n : LaneNo) (routes : List (BatonId × Nat)) : List BatonId :=
  let bs := bySlot (routes.map (·.1)).eraseDups
  bs.filter (waitedBefore s n) ++ bs.filter fun b => !waitedBefore s n b

/-- Key of a slot's, layer's and expert's count. -/
def expertKey (slot layer expert : Nat) : Nat := (slot * 1024 + layer) * 65536 + expert

/-- One token to an expert: counted while the capacity lasts; past it the sequence misses the lap with cause EXPERT. -/
def assignOne (n : LaneNo) (slot layer cap : Nat) (s : State) (x : BatonId × Nat) : State :=
  let k := expertKey slot layer x.2
  let used := tblGetD (laneOf s n).st.experts k 0
  if used < cap then modLane s n fun l => { l with st := { l.st with experts := tblSet l.st.experts k (used + 1) } }
  else modWork s n x.1 fun r => miss r 3

def assignRoutes (s : State) (n : LaneNo) (slot layer cap : Nat) (routes : List (BatonId × Nat)) : State :=
  (routeOrder s n routes).foldl (fun s b => (routes.filter fun x => x.1 == b).foldl (assignOne n slot layer cap) s) s

/-! ### Operations -/

/-- Record `op` of a slot's kernel with its model. A slot that runs prompt work in place of its own runs the PROMPT kernel, whose
number the table does not give: the record is then counted over the model's whole table (log 22). -/
def opOf (s : State) (n : LaneNo) (x : Slot) (op : Nat) : Option (ModelSec × KernelOp) :=
  match laneModel s n x.model.toNat with
  | none => none
  | some m =>
    let o := if hosted (laneOf s n) x == tPrompt && x.type != tPrompt then m.ops[op]? else kernelOp m x.kernel op
    o.map fun o => (m, o)

/-- The elements of an operand as exact values with their group's scale (R59, R65). -/
def opndNums (v : MatRow) : List Num :=
  (List.range v.codes.length).map fun k => match matGet v k with
    | .fin s m e => .fin s m (e + matScale v (k / 32))
    | o => o

/-- Columns of B with their biases. -/
def loadCols (s : State) (n : LaneNo) (o : KernelOp) (cols : List (Src × Option F32)) : List (MatRow × Option F32) :=
  cols.map fun c => (loadRow (fmtOfCode o.fmtB) (srcBytes s n c.1), c.2)

/-- Every operand of a matrix operation has the record's K elements along its reduction dimension. -/
def lengthsOk (o : KernelOp) (a : MatRow) (bs : List (MatRow × Option F32)) : Bool :=
  decide (matLen a = o.k.toNat) && bs.all fun b => decide (matLen b.1 = o.k.toNat)

def matrixWork (s : State) (n : LaneNo) (m : ModelSec) (o : KernelOp) (a : Src) (cols : List (Src × Option F32)) (dst : Dst) : State :=
  let row := loadRow (fmtOfCode o.fmtA) (srcBytes s n a)
  let bs := loadCols s n o cols
  if lengthsOk o row bs then putFx s n dst (matrixRow row bs o.k.toNat o.bounds (fmtOfCode o.fmtOut) (modelSat m)) else s

/-- The model's last matrix operation for one sequence (R85): FP32 logits for the sequence's draw, one per vocabulary entry. -/
def logitsWork (s : State) (n : LaneNo) (m : ModelSec) (o : KernelOp) (b : BatonId) (a : Src) (cols : List (Src × Option F32)) : State :=
  let row := loadRow (fmtOfCode o.fmtA) (srcBytes s n a)
  let bs := loadCols s n o cols
  if lengthsOk o row bs && decide (cols.length = m.vocab.toNat) && !fmtIsInt row.fmt then
    let x := withFlags s n (mapFx (fun c => matrixF32 row c.1 o.k.toNat o.bounds c.2) bs)
    modReq x.2 b fun r => { r with logits := some x.1 }
  else s

/-- A quantised or converted operand in the stored form of a format (R62, R63). -/
def convertRow (fmt : Fmt) (sat : Bool) (v : MatRow) : Fx (List Byte) :=
  match fmt with
  | .mxfp4 | .mxfp8e4 | .mxfp8e5 => storeF32 fmt sat (rowF32 v)
  | _ => do
    let ws ← mapFx (fun x => Num.convert fmt sat x) (opndNums v)
    pure (packElems fmt ws)

/-- A unary function takes its operand alone; a binary one pairs elements. -/
def pairOp (a b : List F32) : List (F32 × F32) := a.zipIdx.map fun p => (p.1, b.getD p.2 0)

/-- A sequence's draw, in a slot that hands logits on (R132, R146): only a row that draws sends logits. -/
def logitsFor (s : State) (n : LaneNo) (x : Slot) (b : BatonId) : Bool :=
  let l := laneOf s n
  handsLogits l x && (sampled l x).contains b && (match findReq s b with | some r => drawsNow l r | none => false)

/-- One operation of slot i. Operations on positions that the lap does not run, padding rows among them (R132), have no effect. -/
def doWork (s : State) (n : LaneNo) (i : Nat) (x : Slot) (w : Work) : State :=
  let ty := hosted (laneOf s n) x
  let sat := match laneModel s n x.model.toNat with | some m => modelSat m | none => false
  if !computes ty then s
  else match w with
  | .matrix op a cols dst => match opOf s n x op with | some (m, o) => matrixWork s n m o a cols dst | none => s
  | .logits b op a cols => match opOf s n x op with
    | some (m, o) => if logitsFor s n x b then logitsWork s n m o b a cols else s
    | none => s
  | .vector f a b dst => putFx s n dst (do
      let ys ← mapFx (fun p => vecApply f p.1 p.2) (pairOp (opndF32 s n a) (opndF32 s n b))
      pure (packElems .fp32 ys))
  | .reduce f xs dst => putFx s n dst (do
      let y ← vecReduce f (opndF32 s n xs)
      pure (wordBytes y))
  | .convert fmt v dst => putFx s n dst (convertRow fmt sat (opndRow s n v))
  | .quantise fmt v dst => putFx s n dst (convertRow fmt sat (opndRow s n v))
  | .cb3 block dst => putDst s n dst (cb3Codes (srcBytes s n block))
  | .lowRank layer head coef dst => match laneModel s n x.model.toNat with
    | some m => if mRank m = 0 then s else putFx s n dst (do
        let ws ← lrKey (mRank m) ((unpackElems .bf16 (srcBytes s n coef)).map (widen .bf16)) (basisOf s n m layer head)
        pure (packElems .e4m3 ws))
    | none => s
  | .attend b layer head pos op q dst =>
    (match workReq s n b, opOf s n x op with
     | some r, some (_, o) => match modelOf s r.model with
       | some m =>
         if (ty == tAttn || ty == tPrompt) && slotServes s n x b && runsPos s n b pos then attendWork s n m r layer head pos o q dst else s
       | none => s
     | _, _ => s)
  | .append b layer pos keys vals =>
    if slotServes s n x b && runsPos s n b pos then appendKv s n b layer pos (keys.map (opndF32 s n)) (vals.map (opndF32 s n)) else s
  | .probe b layer queries =>
    (match workReq s n b with
     | some r => match modelOf s r.model with
       | some m => if slotServes s n x b then probeWork s n m b layer (queries.map fun qs => qs.map (opndF32 s n)) else s
       | none => s
     | none => s)
  | .route layer routes =>
    if ty == tExpert then assignRoutes s n i layer x.param.toNat (routes.filter fun r => slotServes s n x r.1) else s
  | .stall k => modLane s n fun l => { l with stallCnt := satAdd l.stallCnt k }

/-! ### Operations that wait (R124, R127) -/

/-- The core whose SRAM an operation writes; a core runs its operations in order. -/
def workCore : Work → Option (Fin 24)
  | .matrix _ _ _ d | .vector _ _ _ d | .reduce _ _ d | .convert _ _ d | .quantise _ _ d | .cb3 _ d | .lowRank _ _ _ d
  | .attend _ _ _ _ _ _ d => some d.pos
  | .logits _ _ _ _ | .append _ _ _ _ _ | .probe _ _ _ | .route _ _ | .stall _ => none

/-- An attention operation waits until every image that it reads is written; another operation does not wait by itself. -/
def workReady (s : State) (n : LaneNo) (x : Slot) : Work → Bool
  | .attend b layer _ pos _ _ _ =>
    !(slotServes s n x b && runsPos s n b pos) ||
    (match workReq s n b with
     | some r => (match modelOf s r.model with | some m => queryReady m r layer pos | none => true)
     | none => true)
  | _ => true

/-- Run operations in order; one that is not ready waits, and those behind it on its core with it. -/
def runWorks (n : LaneNo) (i : Nat) (x : Slot) : State → List Work → List Work → State × List Work
  | s, kept, [] => (s, kept)
  | s, kept, w :: ws =>
    if workReady s n x w && !(kept.any fun k => (workCore k).isSome && workCore k == workCore w) then
      runWorks n i x (doWork s n i x w) kept ws
    else runWorks n i x s (kept ++ [w]) ws

/-- The slots of a lane that run. -/
def runningSlots (l : Lane) : List (Nat × Slot × SlotRun) :=
  (List.range l.st.slots.length).filterMap fun i =>
    match slotAt l i with
    | some (x, r) => if r.phase = .running then some (i, x, r) else none
    | none => none

/-- Run what a slot was given, or what waits in it. -/
def runSlot (s : State) (n : LaneNo) (i : Nat) (x : Slot) (ws : List Work) : State :=
  let out := runWorks n i x s [] ws
  modLane out.1 n fun l => setSlot l i fun r => { r with todo := out.2 }

/-- A running SEAL slot with capacity left seals the first page that waits and is full (R98, R126). -/
def sealOnce (s : State) (n : LaneNo) : Option State :=
  let l := laneOf s n
  match (runningSlots l).find? (fun p => p.2.1.type == tSeal && decide (p.2.2.sealed < p.2.1.param.toNat)),
      (toSeal s n).find? (fun e => pageFull e.2) with
  | some p, some e =>
    let s := sealPage s n e.1 e.2.layer.toNat e.2.index.toNat
    some (modLane s n fun l => setSlot l p.1 fun r => { r with sealed := r.sealed + 1 })
  | _, _ => none

/-- Operations that wait in a lane's running slots. -/
def waitingWork (l : Lane) : Nat := ((runningSlots l).map fun p => p.2.2.todo.length).sum

/-- Seals and waiting operations go on, each as soon as it can, until none can; `fuel` bounds their number. -/
def settle : Nat → State → LaneNo → State
  | 0, s, _ => s
  | fuel + 1, s, n =>
    match sealOnce s n with
    | some s' => settle fuel s' n
    | none =>
      let s' := (runningSlots (laneOf s n)).foldl (fun s p => if p.2.2.todo.isEmpty then s else runSlot s n p.1 p.2.1 p.2.2.todo) s
      if waitingWork (laneOf s' n) < waitingWork (laneOf s n) then settle fuel s' n else s'

def settleLane (s : State) (n : LaneNo) : State := settle ((toSeal s n).length + waitingWork (laneOf s n) + 1) s n

/-! ### Selection and fetches after a HEAT slot (R138 to R140) -/

/-- Sequences of a HEAT slot: those of its sub-batch that run in the lap, in a prompt lane those with tokens taken, and replays. -/
def heatSeqs (s : State) (n : LaneNo) (x : Slot) : List Req :=
  let l := laneOf s n
  (laneSeqs s n).filter fun r => r.missNow == 0 &&
    (if r.replay || l.role != roleGen || r.take != 0 then r.take != 0 else memberSub l r.id == some x.subbatch.toNat && r.endReason == 0)

/-- Those whose next step needs a selection. -/
def heatDue (s : State) (n : LaneNo) (x : Slot) : List Req :=
  (heatSeqs s n x).filter fun r => match modelOf s r.model with | some m => nextNeedsSel m r (workLen r) | none => false

/-- HEAT has what each of them needs: the step's probe and the records of its candidates. -/
def heatReady (s : State) (n : LaneNo) (x : Slot) : Bool :=
  (heatDue s n x).all fun r => match modelOf s r.model with
    | some m => canSelect m r r.probeNew (r.done + workLen r)
    | none => true

/-- FAR pages of the list that HEAT fixed for the step after the lap's. -/
def nextFar (m : ModelSec) (r : Req) : List PageEnt :=
  let t := r.done + workLen r
  r.pages.filter fun e => e.kind == kPage && e.state == pFar
    && (attnPages m (nextGen r (workLen r)) (selOf r.selNew e.layer.toNat) t).contains e.index.toNat

def fetchNext (s : State) (n : LaneNo) (b : BatonId) : State :=
  match findReq s b with
  | none => s
  | some r =>
    match modelOf s r.model with
    | none => s
    | some m => ((nextFar m r).filter fun e => e.slots.isEmpty).foldl (fun s e =>
        (meetNeed s n b m (.fetch e.layer.toNat e.index.toNat)).1) s

/-- A baton that has arrived in a generation lane and could join. -/
def arrived (s : State) (r : Req) (n : LaneNo) : Bool :=
  let l := laneOf s n
  r.phase == .generation && l.role == roleGen && !r.resident && r.lost.isNone && !r.parkNext && r.endReason == 0
  && !isMember_ l r.id && !inLeg s r.id && l.ctl != .unassigned && l.ctl != .retired

/-- Batons that have arrived in a lane and could join it. -/
def arrivedIn (s : State) (n : LaneNo) : List BatonId := bySlot ((s.reqs.filter fun r => r.lane == some n && arrived s r n).map (·.id))

/-- The list of an arrived baton is fixed: by its selection, or because it needs none. -/
def listFixed (s : State) (b : BatonId) : Bool :=
  match findReq s b with
  | some r => (match modelOf s r.model with | some m => !selMissing m r | none => false)
  | none => false

/-- CAP starts the fetches of arrived batons. -/
def fetchArrived (s : State) (n : LaneNo) : State :=
  (arrivedIn s n).foldl (fun s b => if listFixed s b then startFetches s n b else s) s

/-- A HEAT slot ends: the selections for the steps after the lap's and for arrived batons, then the fetches. -/
def heatEnd (s : State) (n : LaneNo) (x : Slot) : State :=
  let bs := (heatSeqs s n x).map (·.id)
  let due := (heatDue s n x).map (·.id)
  let s := due.foldl (fun s b => heatNext s n b) s
  let s := (arrivedIn s n).foldl (fun s b => heatArrived s n b) s
  fetchArrived (bs.foldl (fun s b => fetchNext s n b) s) n

/-! ### Staging and the switch of models (R107, R109) -/

/-- A staged model's weights in the capacity tier. -/
def weightsAt (s : State) (d : Digest) : Option (Fin 4 × Nat × Nat) := (s.cap.weights.find? fun e => e.1 == d).map (·.2)

/-- A STAGE slot copies its HBM_WR bytes more of the variant being staged into the lane's weight area (R109). -/
def stageBytes (s : State) (n : LaneNo) (x : Slot) : State :=
  let l := laneOf s n
  match l.stagingCmd with
  | none => s
  | some (_, ix) =>
    match modelOf s (match l.sec with | some y => (vgetD y.model ix 0xFF).toNat | none => 255) with
    | none => s
    | some m =>
      match weightsAt s m.weightDigest with
      | none => s
      | some (p, a, len) =>
        let k := min (x.hbmWr.toNat * 4096) (len - l.staged)
        let s := setStack s n (memMove (s.mem.cap.get p) (a + l.staged) k (stackOf s n) (weightAddr s l ix + l.staged))
        modLane s n fun l => { l with staged := l.staged + k }

/-- A SWITCH slot: the outgoing model's SRAM goes to the stack, and that of the slot's model comes back; one that was never saved
finds the cores' bytes as they are (log 68). -/
def switchSram (s : State) (n : LaneNo) (x : Slot) : State :=
  let l := laneOf s n
  let img := laneSram s n
  let s' := modLane s n fun l => { l with sramSave := tblSet l.sramSave l.curModel img, curModel := x.model.toNat }
  match tblGet (tblSet l.sramSave l.curModel img) x.model.toNat with
  | some y => setLaneSram s' n y
  | none => s'

end Sys2Proof.Machine
end

