-- ==== Sys2Proof/Machine/Plan.lean ====
section
/-! DEFINITION. Meet plans: load, withdrawal, staging, the switch and lane builds (11_meet_plan.md R305 to R315); lap-table
replacements (R113, R114); the weight store and variants (R306, R109). -/

namespace Sys2Proof.Machine

open Sys2Proof

def opPlanLoad : Byte := 0x20
def opPlanWithdraw : Byte := 0x21

def mplHeld (s : State) : Bool := s.sta.blockHeld.getLsbD 9

/-- A completion of a PLAN_LOAD: MPL's reason in body byte 8 and in byte 41 (R380, R383). -/
def planCpl (s : State) (h : HostHdr) (code : Finish) (second : Bool) (reason : Byte) : State :=
  postCpl s { code, lead := (0, 0), second, body := [reason.setWidth 32], user := h.user, op := opPlanLoad, reason, tenant := h.tenant }

/-- Record a refusal in MPL_REFUSE. -/
def noteRefuse (s : State) (x : Refuse) : State :=
  { s with mpl := { s.mpl with refuseReason := x.reason, refuseSection := x.sect, refuseLane := x.lane } }

def refuseLoad (s : State) (h : HostHdr) (x : Refuse) : State :=
  planCpl { noteRefuse s x with mpl := { (noteRefuse s x).mpl with load := .idle } } h .refused false x.reason

def cxlWorks (s : State) : Bool := s.cap.ports.toList.any capUp

/-! ### Commands (R305, R307, R313) -/

/-- PLAN_LOAD: BUSY, or no port to stage on, refuses at once; otherwise the image is fetched. -/
def execPlanLoad (h : HostHdr) (totalBytes : Word) (s : State) : Res :=
  .next (hostCmd s h opPlanLoad true fun s =>
    if mplHeld s then complete s h opPlanLoad .refused
    else if s.mpl.load ≠ .idle || s.mpl.staged.isSome || s.mpl.grace then
      planCpl (noteRefuse s ⟨0x05, 0xFF, 0xF⟩) h .refused false 0x05
    else if !cxlWorks s then refuseLoad s h ⟨0x0B, 0xFF, 0xF⟩
    else { s with mpl := { s.mpl with load := .fetching h totalBytes } })

/-- The staged plan goes: its tag clears, and its load's switch completion carries a reason. -/
def dropStaged (s : State) (reason : Byte) : State :=
  let cmd := s.mpl.stagedCmd
  let s := noteRefuse s ⟨reason, 0xFF, 0xF⟩
  let s := { s with mpl := { s.mpl with
    staged := none, stagedCmd := none, tagNext := 0, laneClass := 0xFFFFFF, due := false, firstLap := 0 } }
  match cmd with
  | some h => planCpl s h .refused true reason
  | none => s

/-- PLAN_WITHDRAW. -/
def execPlanWithdraw (h : HostHdr) (s : State) : Res :=
  .next (hostCmd s h opPlanWithdraw true fun s =>
    if s.mpl.staged.isSome then complete (dropStaged s 0x16) h opPlanWithdraw .ok
    else complete s h opPlanWithdraw .refused)

/-- PLAN_IMAGE_FETCHED. -/
def execPlanImageFetched (img : PlanImage) (s : State) : Res :=
  match s.mpl.load with
  | .fetching h n => .next { s with mpl := { s.mpl with load := .fetched h n img } }
  | .idle => .next s
  | .fetched _ _ _ => .next s

/-! ### Lane classes (R309) -/

/-- Ordered MODEL digests of a LANE section under a plan's models. -/
def secDigests (ms : List ModelSec) (x : LaneSec) : List (Option Digest) :=
  x.model.toList.map fun b => (ms.find? fun m => decide (m.number = b.toNat)).map (·.digest)

/-- Cores of a lane as it runs, or as its build will map them. -/
def runningCores (l : Lane) : List Nat :=
  match l.ctl, l.sec with
  | .unassigned, some x => x.cores.toList.map (·.toNat)
  | _, _ => l.cores.toList.map coreAt

def runningTable (l : Lane) : Option LapTable :=
  match l.ctl, l.sec with
  | .unassigned, some x => x.table
  | _, _ => fgTable l

/-- Fields whose change rebuilds the lane. -/
def mustRebuild (old : PlanImage) (new : PlanImage) (l : Lane) (a b : LaneSec) : Bool :=
  a.role != b.role || secDigests old.models a != secDigests new.models b || a.mflags != b.mflags
  || runningCores l != b.cores.toList.map (·.toNat) || a.windowKib != b.windowKib || a.weight2m != b.weight2m
  || a.slot4k != b.slot4k || a.kvFlags != b.kvFlags || a.reserve != b.reserve || a.shared != b.shared
  || a.runCells != b.runCells

/-- Fields whose change swaps the table only. -/
def mustSwap (old : PlanImage) (new : PlanImage) (l : Lane) (a b : LaneSec) : Bool :=
  runningTable l != b.table || a.guar != b.guar || a.cap != b.cap || a.dirEntries != b.dirEntries
  || a.handoff != b.handoff || a.exch != b.exch
  || old.system.periodUs != new.system.periodUs || old.system.quietUs != new.system.quietUs

def classUnchanged : Nat := 0
def classTable : Nat := 1
def classRebuild : Nat := 2

/-- A lane of ROLE 0b00 in both plans stays UNCHANGED. -/
def laneClass (s : State) (new : PlanImage) (n : LaneNo) : Nat :=
  let l := laneOf s n
  let b := new.lanes.get n
  match l.sec, s.mpl.current with
  | some a, some old =>
    if a.role = 0 && b.role = 0 then classUnchanged
    else if mustRebuild old new l a b then classRebuild
    else if mustSwap old new l a b then classTable
    else classUnchanged
  | none, _ => if b.role = 0 then classUnchanged else classRebuild
  | some a, none => if a.role = 0 && b.role = 0 then classUnchanged else classRebuild

def classWord (s : State) (new : PlanImage) : BitVec 24 :=
  BitVec.ofNat 24 ((laneNos.map fun n => at_ (laneClass s new n) (2 * n.val)).sum)

/-- Class of a lane from MPL_LANE_CLASS. -/
def classOfLane (s : State) (n : LaneNo) : Nat := bits s.mpl.laneClass.toNat (2 * n.val + 1) (2 * n.val)

/-! ### Staging (R307, R309) -/

/-- A passed image becomes STAGED; receivers accept its tag from now on. -/
def stagePlan (s : State) (h : HostHdr) (p : PlanImage) : State :=
  let cls := classWord s p
  let first := if s.mpl.current.isNone then firstBoundary s p else 0
  planCpl { s with mpl := { s.mpl with
    load := .idle, staged := some p, stagedCmd := some h, tagNext := planTag p, laneClass := cls, due := false
    firstLap := first } } h .ok false 0

/-- The lane's table reason, where its table was refused. -/
def noteTable (s : State) (p : PlanImage) (x : Refuse) : State :=
  if x.reason = 0x13 then
    match laneNos.find? fun n => decide (n.val = x.lane.toNat) with
    | some n => modLane s n fun l => { l with tables := { l.tables with reason := tableReason p n } }
    | none => s
  else s

/-- PLAN_CHECKED: staged, or refused with the first failing check. -/
def execPlanChecked (s : State) : Res :=
  match s.mpl.load with
  | .fetched h n p =>
    match checkPlan s p n.toNat with
    | some x => .next (refuseLoad (noteTable s p x) h x)
    | none => .next (stagePlan s h p)
  | .idle => .next s
  | .fetching _ _ => .next s

/-- DEADLINE has passed without a switch. -/
def deadlineOver (s : State) (p : PlanImage) : Bool :=
  if s.mpl.current.isSome then decide (p.system.deadline.toNat ≤ s.lap.count.toNat) else decide (p.system.deadline.toNat < s.mpl.firstLap)

/-- PLAN_DEADLINE_PASSED (R310). -/
def execPlanDeadlinePassed (s : State) : Res :=
  match s.mpl.staged with
  | some p =>
    if deadlineOver s p then .next (raiseEvt (dropStaged { s with mpl := { s.mpl with late := true } } 0x15) 5) else .next s
  | none => .next s

/-! ### The swap of a lap table (R113) -/

/-- The copies exchange roles; members move only where the new sub-batches ask for it. -/
def swapCopies (l : Lane) (new : LapTable) : Lane :=
  let old := fgTable l
  let moves := (match old with | some t => t.subbatches != new.subbatches | none => true)
    || (List.range new.subbatches.toNat).any fun k => decide (placesPer new < l.st.batch.countP fun m => m.2 == k)
  { l with
    tables := { l.tables with fg := !l.tables.fg, repl := none }
    st := { l.st with batch := if moves then reassign l.st.batch new else l.st.batch, overrunStop := false } }

/-- The new table goes into the background copy and swaps in. -/
def swapIn (l : Lane) (new : LapTable) : Lane := swapCopies { l with tables := setBgTable l.tables (some new) } new

/-! ### The switch (R310, R312, R315) -/

/-- Lane conditions of R310. -/
def laneReady (s : State) (p : PlanImage) (n : LaneNo) : Bool :=
  let l := laneOf s n
  let c := classOfLane s n
  if c = classRebuild then (l.ctl == .stopped || l.ctl == .unassigned || l.ctl == .retired) && !holdsShare s n
  else if c = classTable then
    match (p.lanes.get n).table with
    | some t => decide (l.st.batch.length ≤ t.batchMax.toNat)
    | none => true
  else true

def coachReady (s : State) : Bool :=
  s.coach.phase == .serving || (s.mpl.current.isNone && s.coach.phase == .awaiting)

/-- The staged plan may take effect at the boundary of lap m. -/
def switchReady (s : State) (p : PlanImage) (m : Nat) : Bool :=
  decide (p.system.activate.toNat ≤ m) && decide (m ≤ p.system.deadline.toNat) && coachReady s && laneNos.all (laneReady s p)

/-- The model number that a digest has under a plan; 255 where the plan does not carry it. -/
def numberOf (p : PlanImage) (d : Digest) : Nat :=
  match p.models.find? fun m => m.digest == d with
  | some m => m.number
  | none => 255

/-- Resident models of a lane whose MODEL digests did not change, under the new plan's numbers. -/
def renumber (l : Lane) (x : LaneSec) : Vector (Option Nat) 4 :=
  Vector.ofFn fun i => (l.models.get i).map fun _ => (x.model.get i).toNat

/-- A lane that waits for its build: everything but its stack's repair state and test results starts again, the lane's registers
among them, CORE_ARITH_FLAGS and EXP_STALL_CNT too: the spec speaks of resets and of retired lanes only (log 36). -/
def unbuiltLane (n : LaneNo) (l : Lane) (sec : Option LaneSec) (b : Build) : Lane :=
  { Lane.reset n with
    ctl := .unassigned, dataOpen := l.hbc.trained, build := b, sec := sec, cores := l.cores, hbc := l.hbc, heldUntil := l.heldUntil
    mch := { l.mch with busy := false, cmd := none } }

/-- Regions whose bytes lie in a lane's shared pool go with its page slots. -/
def dropRegionsIn (s : State) (n : LaneNo) : State :=
  let gone := s.te.regions.filter fun e => e.2.near.any fun x => x.lane == n
  let s := gone.foldl (fun s e => freeRegionSpace s e.2) s
  { s with te := { s.te with regions := s.te.regions.filter fun e => !(e.2.near.any fun x => x.lane == n) } }

def endAuditsIn (s : State) (n : LaneNo) : State :=
  (s.reqs.filter fun r => match r.audit with | some a => a.lane == n | none => false).foldl
    (fun s r => endAudit s r.id .discarded) s

/-- Shares lost with the lane's stack hold no slot of the lane that is built anew. -/
def dropLost (s : State) (n : LaneNo) : State :=
  { s with reqs := s.reqs.map fun r => if r.lane = some n then { r with pages := [], lane := none } else r }

/-- A REBUILD lane becomes UNASSIGNED; its build starts where the plan gives it a role. -/
def rebuildLane (s : State) (p : PlanImage) (n : LaneNo) : State :=
  let x := p.lanes.get n
  let s := dropLost (abortLaneLegs (endAuditsIn (dropRegionsIn (returnSpares s n) n) n) n .discarded) n
  let s := failLaneCmds s n .discarded
  setLane s n (unbuiltLane n (laneOf s n) (some x) (if x.role = 0 then .none else .copying))

/-- A pending replacement completes with REFUSED. -/
def dropReplacement (s : State) (n : LaneNo) : State :=
  if (laneOf s n).tables.repl.isSome then
    emit (modLane s n fun l => { l with tables := { l.tables with repl := none } }) (.replacement n .refused)
  else s

/-- One lane at the switch. A lane that retired while the plan that builds it was staged stays RETIRED. -/
def switchLane (s : State) (p : PlanImage) (n : LaneNo) : State :=
  let s := dropReplacement s n
  let x := p.lanes.get n
  let c := classOfLane s n
  if (laneOf s n).ctl = .retired then (if x.role = 0 then rebuildLane s p n else s)
  else if c = classRebuild then rebuildLane s p n
  else modLane s n fun l =>
    let l := { l with
      sec := some x, epoch := if l.role = 0 then l.epoch else p.system.epoch, models := renumber l x
      st := { l.st with overrunStop := false } }
    match x.table with
    | some t =>
      if c ≠ classTable then l
      else if l.ctl = .unassigned then (if l.build = .built then { l with tables := setFgTable l.tables (some t) } else l)
      else swapIn l t
    | none => l

/-- Spares of a die under a plan: those it lists, each once, and no failure or substitution has taken (R36). -/
def plannedSpares (s : State) (p : PlanImage) (d : Fin 4) : List Nat :=
  let used := (dieLanes d).flatMap fun n =>
    let l := laneOf s n
    (if l.ctl = .unassigned || l.ctl = .retired then [] else l.cores.toList.map coreAt) ++ l.subst.map (·.2)
  (spareList p d).eraseDups.filter fun c => !fusesCore s d c && !used.contains c

/-- A Bib partition's record is the same in both plans. -/
def samePart (old : Option BibSec) (b : BibSec) (k : Nat) : Bool :=
  match old with
  | some o => (o.parts[k]?).isSome && o.parts[k]? == b.parts[k]?
  | none => false

/-- Partitions that keep their entries. -/
def keptParts (old new : Option BibSec) : List (Nat × BibPart) :=
  match new with
  | some b => (b.parts.zipIdx.filter fun e => samePart old b e.2).map fun e => (e.2, e.1)
  | none => []

/-- Bib at the switch (R312): other partitions empty in both copies, and their batches complete with REFUSED. -/
def switchBib (s : State) (old new : Option BibSec) : State :=
  let kept := keptParts old new
  let keep := fun (t : Tbl BibEntry) => t.filter fun e => kept.any fun k => inPart k.2 e
  let gone := s.bib.queue.filter fun b => !kept.any fun k => k.1 == b.part
  let headGone := match s.bib.queue with | b :: _ => gone.contains b | [] => false
  let s := { s with bib := { s.bib with
    copyA := keep s.bib.copyA, copyB := keep s.bib.copyB, queue := s.bib.queue.filter fun b => kept.any fun k => k.1 == b.part
    engine := if headGone then .idle else s.bib.engine, deadMember := false, fencedMember := false } }
  gone.foldl (fun s b => completeB s b.h 0x18 .refused 0 (updateBody 0xFFFF)) s

/-- Entries at or above REGIONS become invalid. -/
def trimRegions (s : State) (k : Nat) : State :=
  let gone := s.te.regions.filter fun e => decide (k ≤ e.1)
  let s := gone.foldl (fun s e => freeRegionSpace s e.2) s
  { s with te := { s.te with regions := s.te.regions.filter fun e => decide (e.1 < k) } }

/-- A counter's mode is the same in both plans. -/
def sameMode (a b : PlanImage) (c : Nat) : Bool :=
  a.device.ctrLap.contains (BitVec.ofNat 12 c) == b.device.ctrLap.contains (BitVec.ofNat 12 c)

/-- Track at the switch: key scheme, region table, counter modes. -/
def switchTrack (s : State) (old : Option PlanImage) (p : PlanImage) : State :=
  match old with
  | none => s
  | some o =>
    let s := if o.system.scheme = p.system.scheme then s else closeQueues s
    let s := trimRegions s p.system.regions.toNat
    { s with te := { s.te with ctrs := s.te.ctrs.filter fun e => sameMode o p e.1 } }

/-- Lap timing and leader from this boundary (R93, R94, R312). -/
def switchLap (s : State) (p : PlanImage) (m : Nat) : State :=
  let lead := p.device.leader.setWidth 2
  let isLeader := s.sta.pos == lead
  let src := if isLeader then ptpSource s else if s.lap.running && !s.lap.leader then s.lap.source else 1
  let s := { s with lap := { s.lap with
    period := p.system.periodUs.toNat, quiet := p.system.quietUs.toNat, base := p.system.lapBase
    count := BitVec.ofNat 48 m, inQuiet := false, leader := isLeader, leadPos := lead } }
  let s := setSource s src
  { s with lap := { s.lap with running := true } }

/-- Requests follow their model's digest to its new number. -/
def switchModels (s : State) (p : PlanImage) : State :=
  { s with reqs := s.reqs.map fun r => { r with model := numberOf p r.digest } }

/-- Lanes that stay RETIRED although the plan builds them. -/
def keptRetired (s : State) (p : PlanImage) : Option LaneNo :=
  laneNos.find? fun n => (laneOf s n).ctl == .retired && (p.lanes.get n).role != 0

/-- The plan's own registers at the switch. -/
def takePlan (s : State) (p : PlanImage) : State :=
  let old := s.mpl.current
  { s with
    mpl := { s.mpl with
      current := some p, staged := none, stagedCmd := none, due := false, firstLap := 0, laneClass := 0xFFFFFF
      tagCur := planTag p, tagNext := if old.isSome then s.mpl.tagCur else 0, grace := old.isSome
      epoch := p.system.epoch, devSet := true, devId := if old.isSome then s.mpl.devId else p.targetDev }
    coach := { s.coach with phase := if s.coach.phase = .awaiting then .serving else s.coach.phase } }

/-- The switch at the boundary of lap m (R312), and the load's switch completion. -/
def planSwitch (s : State) (p : PlanImage) (m : Nat) : State :=
  let old := s.mpl.current
  let before := if old.isSome then groupDevs s else []
  let cmd := s.mpl.stagedCmd
  let s := laneNos.foldl (fun s n => switchLane s p n) s
  let s := takePlan s p
  let s := { s with mar := { s.mar with spares := Vector.ofFn fun d => plannedSpares s p d } }
  let s := switchTrack (switchBib (pacRefill (switchLap (switchModels s p) p m)) (old.bind (·.bib)) p.bib) old p
  let s := marSwitch (swapSwitch s before (groupDevs s)) p.system.epoch
  let s := raiseEvt s 6
  match keptRetired s p with
  | some n =>
    let s := { s with mpl := { s.mpl with refuseLane := BitVec.ofNat 4 n.val } }
    (match cmd with | some h => planCpl s h .laneRetired true 0 | none => s)
  | none => (match cmd with | some h => planCpl s h .ok true 0 | none => s)

/-! ### Lane builds (R306, R357) -/

/-- WEIGHT_DIGESTs that a build of a lane must find, in index order; variants are staged later. -/
def buildDigests (p : PlanImage) (x : LaneSec) : List Digest :=
  (List.finRange 4).filterMap fun i =>
    if (x.mflags.get i).getLsbD 0 then none else (planModel p (x.model.get i)).map (·.weightDigest)

/-- Resident models after a build. -/
def builtModels (x : LaneSec) : Vector (Option Nat) 4 :=
  Vector.ofFn fun i => if (x.mflags.get i).getLsbD 0 || x.model.get i = 0xFF then none else some (x.model.get i).toNat

/-- Page slots, run cells and directory size of the LANE section (R41, R121, R141). -/
def builtKv (kv : LaneKv) (x : LaneSec) : LaneKv :=
  { LaneKv.reset with
    slotSize := x.slot4k.setWidth 9, reserveFree := List.range x.reserve.toNat
    sharedFree := (List.range x.shared.toNat).map (x.reserve.toNat + ·), reserveSize := x.reserve.toNat
    clean := kv.clean, runFree := List.range x.runCells.toNat, dirMax := x.dirEntries.toNat }

/-- The weights that a build copies lie in the lane's weight area, each image at its place (R41, R306, log 62). -/
def copyWeights (s : State) (n : LaneNo) (x : LaneSec) : State :=
  (List.finRange 4).foldl (fun s i =>
    if (x.mflags.get i).getLsbD 0 then s
    else match modelOf s (x.model.get i).toNat with
      | none => s
      | some m => match weightsAt s m.weightDigest with
        | some (p, a, len) => setStack s n (memMove (s.mem.cap.get p) a len (stackOf s n) (weightAddr s (laneOf s n) i.val))
        | none => s) s

/-- A build ends: role, core map, table, models and page storage stand as the LANE section gives them. -/
def finishBuild (s : State) (n : LaneNo) (x : LaneSec) : State :=
  modLane (copyWeights s n x) n fun l => { l with
    role := x.role, epoch := s.mpl.epoch, build := .built, builtAt := s.clk.now, destructed := false, curModel := 0, sramSave := []
    models := builtModels x, cores := Vector.ofFn fun i => ⟨false, (x.cores.get i).setWidth 7⟩, subst := []
    tables := setBgTable (setFgTable { l.tables with repl := none } x.table) none
    kv := if l.ctl = .unassigned then builtKv l.kv x else l.kv }

/-- LANE_BUILD_DONE: the digests of the landed images decide. -/
def execLaneBuildDone (lane : LaneNo) (digest : List Digest) (s : State) : Res :=
  let l := laneOf s lane
  match l.build, s.mpl.current with
  | .copying, some p =>
    let x := p.lanes.get lane
    if digest = buildDigests p x then .next (finishBuild s lane x)
    else
      let cmds := l.serveCmds
      let s := modLane s lane fun l => { l with
        build := .none, sec := none, ctl := .unassigned, role := 0, serveCmds := [], serveReq := false }
      .next (completeAll (noteRefuse s ⟨0x14, dirIx p secLane lane.val, BitVec.ofNat 4 lane.val⟩) cmds 0x22 .refused)
  | _, _ => .next s

/-! ### Weight store and variants (R306, R109) -/

/-- WEIGHT_PUT: the image lies whole on one port, under its digest; an image of the same digest is replaced. `data` are the image's
bytes that are not zero, by offset. -/
def execWeightPut (h : HostHdr) (len : BitVec 64) (digest : Digest) (data : List (Nat × Byte)) (s : State) : Res :=
  .next (hostCmd s h 0x23 true fun s =>
    let old := s.cap.weights.filter fun w => w.1 == digest
    let freed := { s with cap := { s.cap with
      weights := s.cap.weights.filter fun w => w.1 != digest
      ports := old.foldl (fun ps w => vmod ps w.2.1 fun c => { c with used := c.used - w.2.2.2 }) s.cap.ports } }
    match bestPort freed len.toNat with
    | none => complete s h 0x23 .refused
    | some p =>
      let x := capTake freed p len.toNat
      let bytes := data.filter fun c => decide (c.1 < len.toNat)
      let mem := bytes.foldl (fun m c => memWrite m (x.1 + c.1) c.2) (x.2.mem.cap.get p)
      complete { x.2 with
        cap := { x.2.cap with weights := x.2.cap.weights ++ [(digest, p, x.1, len.toNat)] }
        mem := { x.2.mem with cap := vset x.2.mem.cap p mem } } h 0x23 .ok)

/-- The model that STAGE_VARIANT names: one that the LANE section lists as staged, with its weights in the store. -/
def variantModel (s : State) (n : LaneNo) (i : Nat) : Option ModelSec :=
  match s.mpl.current, (laneOf s n).sec with
  | some p, some x =>
    if decide (i < 4) && (vgetD x.mflags i 0).getLsbD 0 then planModel p (vgetD x.model i 0xFF) else none
  | _, _ => none

/-- STAGE_VARIANT. -/
def execStageVariant (h : HostHdr) (lane : Byte) (model : Byte) (s : State) : Res :=
  .next (hostCmd s h 0x24 true fun s =>
    if hl : lane.toNat < 12 then
      let n : LaneNo := ⟨lane.toNat, hl⟩
      match variantModel s n model.toNat with
      | some m =>
        if runs (laneOf s n) && (laneOf s n).stagingCmd.isNone && inStore s m.weightDigest then
          modLane s n fun l => { l with stagingCmd := some (h, model.toNat), variantReady := none, staged := 0 }
        else complete s h 0x24 .refused
      | none => complete s h 0x24 .refused
    else complete s h 0x24 .refused)

/-- STAGE slots have copied the whole image of a model. -/
def stagedAll (s : State) (l : Lane) (m : ModelSec) : Bool :=
  match weightsAt s m.weightDigest with
  | some (_, _, len) => decide (len ≤ l.staged)
  | none => false

/-- VARIANT_LANDED: once the last byte has landed, a matching variant becomes resident at the next boundary. -/
def execVariantLanded (lane : LaneNo) (digest : Digest) (s : State) : Res :=
  let l := laneOf s lane
  match l.stagingCmd with
  | none => .next s
  | some (h, i) =>
    if l.variantReady.isSome then .next s
    else match variantModel s lane i with
      | some m =>
        if !stagedAll s l m then .next s
        else if m.weightDigest = digest then .next (modLane s lane fun l => { l with variantReady := some i })
        else .next (complete (modLane s lane fun l => { l with stagingCmd := none }) h 0x24 .refused)
      | none => .next (complete (modLane s lane fun l => { l with stagingCmd := none }) h 0x24 .refused)

/-- A landed variant becomes resident under its index (R109). -/
def takeVariant (s : State) (n : LaneNo) : State :=
  let l := laneOf s n
  match l.variantReady, l.stagingCmd, l.sec with
  | some i, some (h, _), some x =>
    complete (modLane s n fun l => { l with
      variantReady := none, stagingCmd := none, staged := 0, models := vmodN l.models i fun _ => some (vgetD x.model i 0xFF).toNat }) h 0x24 .ok
  | _, _, _ => s

/-! ### Lap-table replacements (R113, R114, R333) -/

/-- LAP_TABLE_REPLACEMENT: written into the background copy; refused for a retired or unbuilt lane, or while one is pending. -/
def execLapTableReplacement (lane : LaneNo) (table : LapTable) (swapLap deadlineLap : BitVec 48) (s : State) : Res :=
  let l := laneOf s lane
  if mplHeld s || l.ctl = .retired || l.ctl = .unassigned || l.tables.repl.isSome || decide (deadlineLap.toNat < swapLap.toNat) then
    .next (emit s (.replacement lane .refused))
  else .next (setLane s lane { l with tables := { setBgTable l.tables (some table) with repl := some ⟨swapLap, deadlineLap, false⟩ } })

/-- A replacement ends refused; the background copy never runs. -/
def refuseTable (s : State) (n : LaneNo) (reason : Byte) : State :=
  emit (modLane s n fun l =>
    { l with tables := { setBgTable l.tables none with repl := none, reason := if reason = 0 then l.tables.reason else reason } })
    (.replacement n .refused)

/-- LAP_TABLE_READY: the fit test under the plan in force decides. -/
def execLapTableReady (lane : LaneNo) (s : State) : Res :=
  let l := laneOf s lane
  match l.tables.repl, bgTable l, s.mpl.current with
  | some r, some t, some p =>
    if r.ready then .next s
    else
      let c := fitTest (fitEnv p lane) t
      if c = 0 then .next (setLane s lane { l with tables := { l.tables with repl := some { r with ready := true } } })
      else .next (refuseTable s lane c)
  | _, _, _ => .next s

/-- LAP_TABLE_LATE: boundary D has passed without a swap. -/
def execLapTableLate (lane : LaneNo) (s : State) : Res :=
  match (laneOf s lane).tables.repl with
  | some r =>
    if r.deadlineLap.toNat ≤ s.lap.count.toNat then
      .next (raiseEvt (modLane (refuseTable s lane 0) lane fun l => { l with tables := { l.tables with late := true } }) 2)
    else .next s
  | none => .next s

/-- The swap at the boundary of lap m, from S to D. -/
def swapTable (s : State) (n : LaneNo) (m : Nat) : State :=
  let l := laneOf s n
  match l.tables.repl, bgTable l with
  | some r, some t =>
    if r.ready && decide (r.swapLap.toNat ≤ m) && decide (m ≤ r.deadlineLap.toNat) && decide (l.st.batch.length ≤ t.batchMax.toNat) then
      emit (setLane s n (swapCopies l t)) (.replacement n .ok)
    else s
  | _, _ => s

end Sys2Proof.Machine
end

