-- ==== Sys2Proof/Machine/Fwu.lean ====
section
/-! DEFINITION. Firmware update: the image store, its commands, the trial and the fallback (14_firmware_update.md R364 to R373),
and Coach's restarts and service pauses (02_structure_and_hierarchies.md R51). -/

namespace Sys2Proof.Machine

open Sys2Proof

def offFwuCmd : Nat := 0x0003000C

/-! ### The image store (R365 to R367) -/

def fwuSlot (s : State) (b : Bool) : FwSlot := if b then s.fwu.slotB else s.fwu.slotA

def setFwuSlot (s : State) (b : Bool) (x : FwSlot) : State :=
  { s with fwu := if b then { s.fwu with slotB := x } else { s.fwu with slotA := x } }

def setSlotState (s : State) (b : Bool) (x : SlotState) : State := setFwuSlot s b { fwuSlot s b with state := x }

/-- The slot that runs; none under ROM. -/
def runningSlot (s : State) : Option Bool :=
  match s.fwu.running with
  | .rom => none
  | .a => some false
  | .b => some true

def runOf : Option Bool → Running
  | none => .rom
  | some false => .a
  | some true => .b

/-- A slot holds an image on trial. -/
def inTrial (s : State) (b : Bool) : Bool := (fwuSlot s b).state == .trial

/-- The running slot is on trial. -/
def onTrial (s : State) : Bool := match runningSlot s with | some b => inTrial s b | none => false

/-- A key group of n bytes whose CRC-32C holds (R348). -/
def keyOk (g : KeyGroup) (n : Nat) : Bool := crc32c ((List.range n).map fun i => g.value.extractLsb' (8 * i) 8) == g.crc

/-- TOTAL: the whole image's length (R365). -/
def imageTotal (x : FwImage) : Nat := x.bodyBytes.toNat + 272

/-- The checks of R366 on an image of which n bytes were fetched, in order; 0 is none. -/
def imageReason (s : State) (x : FwImage) (n : Nat) : Byte :=
  if !(x.magic == 0x46574E41 && x.format == 1 && x.rsvClear && decide (4096 ≤ x.bodyBytes.toNat)
      && decide (x.bodyBytes.toNat ≤ 8388336) && decide (x.bodyBytes.toNat % 16 = 0)
      && decide (n = imageTotal x)) then 0x01
  else if !(keyOk s.fus.fwKey 48 && x.keyHash == s.fus.fwKey.value && x.sigValid) then 0x02
  else if !(keyOk s.fus.family 32 && x.tagValid) then 0x03
  else if s.coach.romRev.toNat < x.romMin.toNat then 0x04
  else 0

/-! ### Service pauses (R369, R51) -/

def fwuResult (s : State) (code : Finish) (reason : Byte) : State :=
  { s with fwu := { s.fwu with result := finishCode code, reason := reason } }

def fwuRefuse (s : State) (reason : Byte) : State := fwuResult s .refused reason

/-- Coach runs: it awaits a plan or serves. -/
def coachRuns (s : State) : Bool := s.coach.phase == .awaiting || s.coach.phase == .serving

/-- After a fallback: the other slot if it is GOOD, else ROM (R370). -/
def fallbackTo (s : State) (b : Bool) : Running := if (fwuSlot s (!b)).state = .good then runOf (some (!b)) else .rom

/-- A trial ends in a fallback: the slot is REJECTED, counted and signalled; what runs instead is chosen apart (R370). -/
def rejectTrial (s : State) (b : Bool) : State :=
  let s := setSlotState s b .rejected
  raiseEvt { s with fwu := { s.fwu with fellBack := true, healthy := false, fallbackCnt := satInc s.fwu.fallbackCnt } } 8

/-- Coach stops for the command or the fallback that waits. -/
def startPause (s : State) : State :=
  let s := { s with coach := { s.coach with phase := .restarting, pause := .service }, fwu := { s.fwu with healthy := false } }
  match s.fwu.op with
  | .activate b => { setSlotState s b .trial with fwu := { (setSlotState s b .trial).fwu with running := runOf (some b) } }
  | .rom => { s with fwu := { s.fwu with running := .rom } }
  | .none | .stage _ _ =>
    match runningSlot s with
    | some b => { s with fwu := { s.fwu with running := fallbackTo s b } }
    | none => s

/-- A service pause waits for its start. -/
def pauseDue (s : State) : Bool :=
  s.fwu.fallback || match s.fwu.op with | .activate _ => true | .rom => true | .none => false | .stage _ _ => false

/-- The image that an ACTIVATE would run is checked again as Coach stops (R369); one that fails does not run, and its command
completes with REFUSED and the reason (log 39). -/
def recheck (s : State) : State :=
  match s.fwu.op with
  | .activate b =>
    let r := match (fwuSlot s b).image with
      | some x => imageReason s x (imageTotal x)
      | none => 0x07
    if r = 0 then s else fwuRefuse { s with fwu := { s.fwu with op := .none } } r
  | .none | .stage _ _ | .rom => s

/-- Coach stops at the lap boundary, or at once where no plan is current. -/
def pauseAtBoundary (s : State) : State :=
  if coachRuns s then
    let s := recheck s
    if pauseDue s then startPause s else s
  else s

def pauseAtOnce (s : State) : State := if s.mpl.current.isNone then pauseAtBoundary s else s

/-- IMAGE_REV of what runs. -/
def runningRev (s : State) : Word :=
  match runningSlot s with
  | some b => (match (fwuSlot s b).image with | some x => x.rev | none => 0)
  | none => 0

/-- Completions that waited for Coach go out. -/
def flushLate (s : State) : State :=
  let xs := s.coach.late
  xs.foldl deliverCpl { s with coach := { s.coach with late := [] } }

/-- COACH_SERVES_AGAIN: a watchdog restart or a service pause ends; the command that asked for the pause completes with OK. -/
def execCoachServesAgain (s : State) : Res :=
  if s.coach.phase ≠ .restarting then .next s
  else
    let pause := s.coach.pause
    let s := { s with
      coach := { s.coach with
        phase := if s.mpl.current.isSome then .serving else .awaiting, pause := .none
        imageActive := s.fwu.running != .rom }
      fwu := { s.fwu with rev := runningRev s } }
    let s := if pause = .service then
        match s.fwu.op with
        | .activate _ => { s with fwu := { s.fwu with op := .none, result := finishCode .ok, reason := 0, fallback := false } }
        | .rom => { s with fwu := { s.fwu with op := .none, result := finishCode .ok, reason := 0, fallback := false } }
        | .none => { s with fwu := { s.fwu with fallback := false } }
        | .stage _ _ => { s with fwu := { s.fwu with fallback := false } }
      else s
    .next (pauseAtOnce (flushLate s))

/-- COACH_WATCHDOG: Coach restarts from ROM; an image on trial falls back before any firmware runs (R370, R371), and one whose
fallback still waited for its pause does not run again. -/
def execCoachWatchdog (s : State) : Res :=
  if !coachRuns s then .next s
  else
    let s := { s with coach := { s.coach with
      phase := .restarting, pause := .watchdog, imageActive := false
      restarts := if s.coach.restarts = 0xFF then 0xFF else s.coach.restarts + 1 } }
    match runningSlot s with
    | some b =>
      if inTrial s b then
        let dest := fallbackTo s b
        .next { rejectTrial s b with fwu := { (rejectTrial s b).fwu with running := dest } }
      else if (fwuSlot s b).state = .good then .next s
      else .next { s with fwu := { s.fwu with running := fallbackTo s b, fallback := false } }
    | none => .next s

/-- COACH_RESTART_TIMEOUT: 30 ms after the watchdog Coach has not resumed service. -/
def execCoachRestartTimeout (s : State) : Res :=
  .next (if s.coach.phase = .restarting && s.coach.pause = .watchdog then fatalError s else s)

/-! ### Commands (R368) -/

/-- BUSY of FWU_CMD: a command runs. -/
def fwuBusy (s : State) : Bool := s.fwu.op != .none

/-- A state in which the update image may run (R358, R372). -/
def lcTakesImage (s : State) : Bool := s.fus.lc == .provisioned || s.fus.lc == .field || s.fus.lc == .returned

/-- A command that meets another one, or a transition. -/
def fwuBlocked (s : State) : Bool := fwuBusy s || s.fus.lcRun != .idle

/-- MPL_STATUS.STATE is idle. -/
def mplIdle (s : State) : Bool := s.mpl.load == .idle && s.mpl.staged.isNone

/-- What ACTIVATE and ROM ask of the rest of the device, past the strap mode. -/
def pauseAllowed (s : State) : Bool := mplIdle s && !s.mar.busy && coachRuns s

/-- The slot that STAGE writes: the one that does not run, slot A under ROM. -/
def stageSlot (s : State) : Bool := match runningSlot s with | some b => !b | none => false

def fwuStage (s : State) : State :=
  if fwuBlocked s then fwuRefuse s 0x06
  else if !lcTakesImage s then fwuRefuse s 0x05
  else if inTrial s false || inTrial s true || s.fwu.slotA.state = .staging || s.fwu.slotB.state = .staging then fwuRefuse s 0x07
  else
    let b := stageSlot s
    let s := setFwuSlot s b ⟨.staging, none⟩
    { s with fwu := { s.fwu with op := .stage b s.fwu.len } }

/-- The slot that ACTIVATE names can run. -/
def slotRunnable (s : State) (b : Bool) : Bool :=
  ((fwuSlot s b).state == .staged || (fwuSlot s b).state == .good) && runningSlot s != some b

/-- Strap mode NORMAL or FULL. -/
def modeTakesImage (s : State) : Bool := decide (s.sta.mode.toNat < 2)

def fwuActivate (s : State) (b : Bool) : State :=
  if fwuBlocked s then fwuRefuse s 0x06
  else if !lcTakesImage s then fwuRefuse s 0x05
  else if !slotRunnable s b then fwuRefuse s 0x07
  else if !modeTakesImage s then fwuRefuse s 0x08
  else if !pauseAllowed s then fwuRefuse s 0x07
  else pauseAtOnce { s with fwu := { s.fwu with op := .activate b } }

def fwuConfirm (s : State) : State :=
  if fwuBlocked s then fwuRefuse s 0x06
  else match runningSlot s with
    | some b => if inTrial s b && s.fwu.healthy then fwuResult (setSlotState s b .good) .ok 0 else fwuRefuse s 0x07
    | none => fwuRefuse s 0x07

def fwuRom (s : State) : State :=
  if fwuBlocked s then fwuRefuse s 0x06
  else if (runningSlot s).isNone || inTrial s false || inTrial s true then fwuRefuse s 0x07
  else if !modeTakesImage s then fwuRefuse s 0x08
  else if !pauseAllowed s then fwuRefuse s 0x07
  else pauseAtOnce { s with fwu := { s.fwu with op := .rom } }

/-- A write to FWU_CMD: OP in bits 3:0, SLOT in bit 4; 0 has no effect (R407), other values complete with REFUSED. -/
def writeFwuCmd (s : State) (v : Word) : State :=
  match bits v.toNat 3 0 with
  | 0 => s
  | 1 => fwuStage s
  | 2 => fwuActivate s (v.getLsbD 4)
  | 3 => fwuConfirm s
  | 4 => fwuRom s
  | _ => if fwuBlocked s then fwuRefuse s 0x06 else fwuRefuse s 0x00

/-- FWU STAGE. -/
def execFwuStage (a : Accessor) (s : State) : Res := regCmd s a offFwuCmd fun s => fwuStage s

/-- FWU ACTIVATE. -/
def execActivate (a : Accessor) (slotB : Bool) (s : State) : Res := regCmd s a offFwuCmd fun s => fwuActivate s slotB

/-- FWU CONFIRM. -/
def execConfirm (a : Accessor) (s : State) : Res := regCmd s a offFwuCmd fun s => fwuConfirm s

/-- FWU ROM. -/
def execRom (a : Accessor) (s : State) : Res := regCmd s a offFwuCmd fun s => fwuRom s

/-- FWU_STAGE_DONE: the image of the FWU_LEN bytes fetched is checked. -/
def execFwuStageDone (img : FwImage) (s : State) : Res :=
  match s.fwu.op with
  | .stage b n =>
    let r := imageReason s img n.toNat
    let s := { s with fwu := { s.fwu with op := .none } }
    if r = 0 then .next (fwuResult (setFwuSlot s b ⟨.staged, some img⟩) .ok 0)
    else .next (fwuRefuse (setFwuSlot s b FwSlot.empty) r)
  | .none => .next s
  | .activate _ => .next s
  | .rom => .next s

/-- HEALTHY_TIMER: the TRIAL slot has served for 1 s. -/
def execHealthyTimer (s : State) : Res :=
  .next (if onTrial s && coachRuns s then { s with fwu := { s.fwu with healthy := true } } else s)

/-- CONFIRM_WINDOW_EXPIRED: the trial falls back; what runs next is taken up in a service pause. -/
def execConfirmWindowExpired (s : State) : Res :=
  match runningSlot s with
  | some b =>
    if inTrial s b && coachRuns s then
      let s := rejectTrial s b
      .next (pauseAtOnce { s with fwu := { s.fwu with fallback := true } })
    else .next s
  | none => .next s

end Sys2Proof.Machine
end

