-- ==== Sys2Proof/Machine/Marshal.lean ====
section
/-! DEFINITION. Marshal's commands: messages received, round timers, MAR_CMD, port fences, straggler reports, and the NACK
(12_marshal_and_resilience.md; 08_track_transport.md R256). -/

namespace Sys2Proof.Machine

open Sys2Proof

/-! ### Messages received (R232, R324) -/

/-- A MARSHAL frame: a payload out of R324 is malformed; then the checks of R232 that a frame without a context meets. `k`
gets the source that TE knows. -/
def rxMarshal (s : State) (f : Frame) (m : MarMsg) (mtype : Byte) (k : State → DevId → State) : State :=
  arrive s f fun s =>
    let h := parseHdr s f
    if malformed h f opMarshal || !marOk m mtype then checkFail s f h 0x01
    else match headCheck s h f opMarshal with
      | some code => checkFail s f h code
      | none =>
        if !isRelay f.port.val && f.kgen != s.te.sysKgen then checkFail s f h 0x06
        else if marHeld s then s
        else k s h.src

/-- A stray message counts once: the second copy is ignored (R317, R318). -/
def strayMsg (s : State) (m : MarMsg) : State :=
  if s.mar.rounds.strays.contains m then s
  else
    let s := modRounds s fun x => { x with strays := x.strays ++ [m] }
    { s with mar := { s.mar with stray := satInc s.mar.stray } }

/-- A heartbeat of a watched device: echoed in time, counted when late, nothing where none is expected or where
Marshal is not active (R316 to R319). -/
def takeHeartbeat (s : State) (m : MarMsg) : State :=
  let d := m.sender
  if (watchedPlace s d).isNone then strayMsg s m
  else
    let s := modRounds s fun x => { x with epochs := tblSet x.epochs d.toNat m.epoch }
    let x := s.mar.rounds
    if s.mar.state = .inactive || !expectsHb s d m.round || x.got.contains (d, m.round) || x.late.contains (d, m.round) then s
    else if s.clk.now ≤ roundStart s m.round + 1246000 then
      let s := modRounds s fun x => { x with got := x.got ++ [(d, m.round)] }
      let e := openMsg s mtEcho d m.round
      marSend e.2 d e.1 []
    else
      let s := modRounds s fun x => { x with late := x.late ++ [(d, m.round)] }
      { s with mar := { s.mar with lateHb := satInc s.mar.lateHb } }

/-- HEARTBEAT. -/
def execHeartbeat (f : Frame) (m : MarMsg) (s : State) : Res := .next (rxMarshal s f m mtHeartbeat fun s _ => takeHeartbeat s m)

/-- Place of a watcher. -/
def watcherPlace (s : State) (d : DevId) : Option Nat := (List.range 5).find? fun k => ringDev s.mar.ringCur k == some d

/-- An echo of a watcher, in time for its round (R321). -/
def takeEcho (s : State) (m : MarMsg) : State :=
  match watcherPlace s m.sender with
  | some k =>
    if m.subject = s.mpl.devId && decide (s.clk.now ≤ roundStart s m.round + 1496000)
        && !s.mar.rounds.echoes.contains (k, m.round) then
      modRounds s fun x => { x with echoes := x.echoes ++ [(k, m.round)] }
    else s
  | none => s

/-- ECHO. -/
def execEcho (f : Frame) (m : MarMsg) (s : State) : Res := .next (rxMarshal s f m mtEcho fun s _ => takeEcho s m)

/-- A co-watcher's suspicion, tallied once per watcher and round before the tally closes (R317, R320). -/
def takeSuspect (s : State) (m : MarMsg) : State :=
  if !(coWatchers s m.subject).contains m.sender then strayMsg s m
  else if s.clk.now < roundStart s m.round + 1996000
      && !s.mar.rounds.suspects.contains (m.subject, m.round, m.sender) then
    modRounds s fun x => { x with suspects := x.suspects ++ [(m.subject, m.round, m.sender)] }
  else s

/-- SUSPECT. -/
def execSuspect (f : Frame) (m : MarMsg) (s : State) : Res := .next (rxMarshal s f m mtSuspect fun s _ => takeSuspect s m)

/-- FENCE: nothing from a source held fenced (R322). -/
def execFence (f : Frame) (m : MarMsg) (s : State) : Res :=
  .next (rxMarshal s f m mtFence fun s src =>
    if s.te.fenced.contains src || decide (1 < m.kind.toNat) then s else fenceIn s m.subject m.epoch (m.kind == 0) true m.round)

/-- READMIT. -/
def execReadmit (f : Frame) (m : MarMsg) (s : State) : Res :=
  .next (rxMarshal s f m mtReadmit fun s src => if s.te.fenced.contains src then s else readmitIn s m.subject m.epoch m.round)

/-- REPORT: an entry for the fabric manager; the device that receives it does nothing with it (R338). -/
def execReport (f : Frame) (m : MarMsg) (_entry : List Word) (s : State) : Res :=
  .next (rxMarshal s f m mtReport fun s _ => s)

/-! ### Round timers (R318 to R321) -/

/-- So many us of a round have passed (R318). -/
def roundDue (s : State) (r : BitVec 48) (us : Nat) : Bool := decide (roundStart s r + us * 1000 ≤ s.clk.now)

/-- HEARTBEAT_SEND: 996 us into the round. LIVE or fenced with kind ADMIN, and not before the first round that began after the device became LIVE. -/
def execHeartbeatSend (round : BitVec 48) (s : State) : Res :=
  .next (if (s.mar.state = .live || s.mar.state = .fenced) && decide (s.mar.rounds.liveAt.toNat ≤ round.toNat)
      && !s.mar.rounds.sent.contains round && !marHeld s && roundDue s round 996 then
    let s := modRounds s fun x => { x with sent := x.sent ++ [round] }
    marSendAll s (watchers s) (mkMsg s mtHeartbeat 0 s.mpl.devId s.mpl.epoch round)
  else s)

/-- Suspect one watched device. -/
def suspectDev (s : State) (d : DevId) (r : BitVec 48) : State :=
  let s := marLog { s with mar := { s.mar with hbMiss := satInc s.mar.hbMiss } } evHbMissed 0xF d 0xFF (r.setWidth 32)
  let s := modRounds s fun x => { x with suspects := x.suspects ++ [(d, r, s.mpl.devId)] }
  let e := openMsg s mtSuspect d r
  marSendAll e.2 (coWatchers e.2 d) e.1

/-- HEARTBEAT_DUE, after 1,246 us: every watched device whose heartbeat was expected and has not come is suspected. -/
def execHeartbeatDue (round : BitVec 48) (s : State) : Res :=
  .next (if s.mar.state = .live && !marHeld s && roundDue s round 1246 then
    ((watched s).filter fun d => expectsHb s d round && !s.mar.rounds.got.contains (d, round)
      && !s.mar.rounds.suspects.contains (d, round, s.mpl.devId)).foldl (fun s d => suspectDev s d round) s
  else s)

/-- A round in which this device sent its heartbeat and fewer than three watchers echoed. -/
def lonely (s : State) (r : BitVec 48) : Bool :=
  decide (s.mar.rounds.liveAt.toNat ≤ r.toNat) && s.mar.rounds.sent.contains r && decide (echoCount s r < 3)

/-- Watchers that this device does not hold fenced. -/
def freeWatchers (s : State) : Nat := ((watchers s).filter fun d => (heldFence s d).isNone).length

/-- ECHO_DUE, after 1,496 us: ECHOED takes the round's watchers; two lonely rounds in a row self-fence a LIVE device that still has three
watchers, and fewer than three are logged once a round. -/
def execEchoDue (round : BitVec 48) (s : State) : Res :=
  if marHeld s || !roundDue s round 1496 then .next s
  else
    let s := { s with mar := { s.mar with echoed := echoMask s round } }
    .next (if s.mar.state ≠ .live then s
      else if freeWatchers s < 3 then
        (if s.mar.rounds.thin.contains round then s
         else
           let s := modRounds s fun x => { x with thin := x.thin ++ [round] }
           marLog s evWatchThin 0xF s.mpl.devId 0xFF (lo32 (freeWatchers s)))
      else if 0 < round.toNat && lonely s (round - 1) && lonely s round then
        let s := { s with mar := { s.mar with seen := s.mar.seen ++ [⟨s.mpl.devId, s.mpl.epoch, true⟩] } }
        marLog (fenceSelf s s.mpl.epoch true) evSelfFenced 0xF s.mpl.devId 0xFF (round.setWidth 32)
      else s)

/-- The tally of one subject closes (R320). -/
def closeTally (s : State) (r : BitVec 48) (d : DevId) : State :=
  if expectsHb s d r && decide (3 ≤ suspectCount s d r) && !hasMajority s d r then
    let twice := decide (0 < r.toNat) && hasMajority s d (r - 1)
    let s := modRounds s fun x => { x with majority := x.majority ++ [(d, r)] }
    if twice then fenceIn s d (tblGetD s.mar.rounds.epochs d.toNat s.mpl.epoch) true false r else s
  else s

/-- TALLY_CLOSE, after 1,996 us: a majority in two rounds in a row declares the subject dead. -/
def execTallyClose (round : BitVec 48) (s : State) : Res :=
  .next (if s.mar.state = .live && !marHeld s && roundDue s round 1996 then
    trimRounds ((watched s).foldl (fun s d => closeTally s round d) s) round
  else s)

/-! ### MAR_CMD (R326, R327, R335) -/

def marCmdOff : Nat := 0x000F0018

def marResult (s : State) (code : Finish) : State := { s with mar := { s.mar with result := finishCode code } }

/-- FENCE ADMIN: a fenced device accepts none. -/
def marCmdFence (s : State) : State :=
  if isFenced s then marResult s .fenced
  else marResult (fenceIn s s.mar.arg0 s.mar.argEpoch false false (roundNow s)) .ok

/-- READMIT: the host port of any device takes it. -/
def marCmdReadmitNow (s : State) : State := marResult (readmitIn s s.mar.arg0 s.mar.argEpoch (roundNow s)) .ok

/-- MAR_CMD FENCE ADMIN. -/
def execMarCmdFenceAdmin (a : Accessor) (s : State) : Res := regCmd s a marCmdOff marCmdFence

/-- MAR_CMD READMIT. -/
def execMarCmdReadmit (a : Accessor) (s : State) : Res := regCmd s a marCmdOff marCmdReadmitNow

/-- Why a SWAP does not start. -/
def swapRefusal (s : State) : Option Finish :=
  if isFenced s then some .fenced
  else if s.te.dead.contains s.mar.arg0 then some .deadTarget
  else if s.te.fenced.contains s.mar.arg0 then some .fenced
  else if s.mar.busy || s.mar.argLanes = 0 || s.mar.arg0 = s.mpl.devId || s.mpl.current.isNone || !btnOpen s
    || decide (4096 < s.btn.legs.length + (laneNos.filter fun n => s.mar.argLanes.getLsbD n.val).length)
    || laneNos.any (fun n => s.mar.argLanes.getLsbD n.val && ((laneOf s n).role != roleGen || !(laneOf s n).dataOpen)) then
    some .refused
  else none

/-- SWAP: one SWAP leg per named lane; BUSY until the last has ended. -/
def marCmdSwapNow (s : State) : State :=
  match swapRefusal s with
  | some code => marResult s code
  | none =>
    let s := { s with mar := { s.mar with
      busy := true, result := 0, swapActive := true, precopy := false, swapDev := s.mar.arg0
      swapEpoch := s.mar.argEpoch, swapLanes := s.mar.argLanes } }
    let s := (laneNos.filter fun n => s.mar.argLanes.getLsbD n.val).foldl (fun s n => (openSwap s s.mar.swapDev n).1) s
    setPrecopy s

/-- MAR_CMD SWAP. -/
def execMarCmdSwap (a : Accessor) (s : State) : Res := regCmd s a marCmdOff marCmdSwapNow

/-! ### Port fences and stragglers (R334, R337) -/

/-- PORT_FENCE_WRITE: frames that waited for a path may go where a port came back. -/
def execPortFenceWrite (a : Accessor) (v : Word) (s : State) : Res :=
  regCmd s a 0x000F0038 fun s => pumpAll { s with mar := { s.mar with portFence := v.setWidth 16 } }

/-- Laps of the straggler window. -/
def stragWindow (s : State) : Nat := if s.lap.period = 0 then 0 else ceilDiv 1000000 s.lap.period

/-- Late laps of a device in the window. -/
def lateCount (s : State) (d : DevId) : Nat :=
  (s.mar.lateLaps.filter fun x => x.1 == d && decide ((s.lap.count - x.2).toNat < stragWindow s)).length

/-- STRAGGLER_REPORT: past LIMIT, and no sooner than 1 s after the last report of the device. -/
def execStragglerReport (dev : DevId) (s : State) : Res :=
  let due := match tblGet s.mar.reportedAt dev.toNat with
    | some t => decide (t + 1000000000 ≤ s.clk.now)
    | none => true
  .next (if decide (s.mar.stragLimit.toNat < lateCount s dev) && due && !marHeld s then
    let s := { s with mar := { s.mar with reportedAt := tblSet s.mar.reportedAt dev.toNat s.clk.now } }
    marLog s evStraggler 0xF dev 0xFF (lo32 (lateCount s dev))
  else s)

/-! ### NACK (R256, R326) -/

/-- The source leg that a system frame belongs to. -/
def legOfFrame (s : State) (f : TxFrame) : Option Leg :=
  if f.op = opLegCtl || f.op = opLegPage then
    s.btn.legs.find? fun g => !g.localLeg && !g.atTarget && g.peer == f.dst && (g.peerId.map fun i => i.setWidth 32) == some f.aux
  else none

/-- A NACK for a frame of a system context: the frame is not sent again, and its leg aborts with the sender's outcome. -/
def nackSys (s : State) (d : DevId) (psn : Word) (code : Byte) : State :=
  match tblGet s.te.sysTx d.toNat with
  | none => s
  | some x =>
    match x.unacked.find? fun f => f.psn == psn with
    | none => s
    | some f =>
      let fin := if code = 0x09 then some Finish.falseStart else nackFinish code
      match fin with
      | none => s
      | some fin =>
        let s := putSysTx s d { x with unacked := x.unacked.filter fun g => g.psn != psn }
        match legOfFrame s f with
        | some g => abortLeg s g fin (fin != .falseStart || code != 0x09)
        | none => s

/-- NACK. FENCED_SOURCE tells this device that it is fenced; the kind is not in the NACK, so it is a free value (log 4). -/
def execNack (f : Frame) (s : State) : Res :=
  .next (rxAckLike s f opNack fun s h =>
    let code := f.payload.headD 0
    let s := if h.dstCh = sysCh then nackSys s h.src f.aux code
      else match chanOf s h.src h.dstCh with
        | some q => nackQueue s q f.aux code (operand f.payload 4).toNat
        | none => s
    if code = 0x0C && !isFenced s then
      let x := takeFree s
      fenceSelf x.2 s.mpl.epoch (x.1.getLsbD 0)
    else s)

end Sys2Proof.Machine
end

