-- ==== Sys2Proof/Machine/Pages.lean ====
section
/-! DEFINITION. Events of page storage, residency and holding (05_kv_pages_and_heat_retrieval.md R139 to R144, R441;
07_batons_and_exchange_zone.md R199). -/

namespace Sys2Proof.Machine

open Sys2Proof

/-- Capacity-tier space for one more copy of a baton: on the port that holds its others, else by R40. -/
def tierPlace (s : State) (r : Req) (bytes : Nat) : Option (Fin 4 × Nat × State) :=
  let p := match r.capPort with
    | some p => if capUp (s.cap.ports.get p) && decide (bytes ≤ portRoom s p) then some p else none
    | none => bestPort s bytes
  p.map fun p => let x := capTake s p bytes; (p, x.1, x.2)

/-- The copy of one sealed page is complete and current. -/
def copyPage (s : State) (b : BatonId) (r : Req) (e : PageEnt) : State :=
  let bs := entImage s r e
  match tierPlace s r (packed bs.length) with
  | none => s
  | some (p, a, s) =>
    let s := { s with mem := { s.mem with cap := vmod s.mem.cap p fun m => memStore m a bs } }
    modReq s b fun r =>
      let r := modPage r kPage e.layer.toNat e.index.toNat fun e => { e with copy := true, tierAddr := a }
      { r with capPort := some p, tierBytes := r.tierBytes + packed bs.length }

/-- CAP_COPY_DONE (R441): a sealed page of a lane whose KV region has COPY = 1. -/
def execCapCopyDone (baton : BatonId) (layer : BitVec 10) (index : BitVec 16) (s : State) : Res :=
  match findReq s baton with
  | none => .next s
  | some r =>
    match r.lane, findPage r kPage layer.toNat index.toNat with
    | some n, some e =>
      if e.state = pSealed && !e.copy && kvFlag (laneOf s n) 2 then .next (copyPage s baton r e) else .next s
    | _, _ => .next s

/-- The port from which a FETCH leg reads. -/
def fetchPort (s : State) (g : Leg) : Option (Fin 4) := (g.batons.head?.bind (findReq s)).bind (·.capPort)

/-- The first fetch that CAP received of those that read a port; they are served in that order (R139). -/
def headFetch (s : State) (p : Fin 4) : Option Leg := s.btn.legs.find? fun g => g.type == 7 && fetchPort s g == some p

/-- The fetched page lies in its slot, SEALED, with its index record, and its FETCH leg ends. A retired lane's counters keep their
values (R145). -/
def fetchLand (s : State) (n : LaneNo) (b : BatonId) (r : Req) (m : ModelSec) (p : Fin 4) (e : PageEnt) (len : Nat) : State :=
  let bs := memBytes (s.mem.cap.get p) e.tierAddr len
  let s := setStack s n (storeImage (stackOf s n) (laneOf s n) e.slots 0 bs)
  let s := modReq s b fun r =>
    { modPage r kPage e.layer.toNat e.index.toNat (fun e => { e with state := pSealed, copy := true, index_ := indexEntries m true 128 }) with
      readyAt := s.clk.now }
  let s := modLane s n fun l => if l.ctl = .retired then l else { l with kv := { l.kv with fetchCnt := satInc l.kv.fetchCnt } }
  dropStaleFetches s r.id

/-- PAGE_FETCH_DONE (R139): a FAR page that holds a slot and is the one being fetched from a working port. -/
def execPageFetchDone (baton : BatonId) (layer : BitVec 10) (index : BitVec 16) (s : State) : Res :=
  match findReq s baton with
  | none => .next s
  | some r =>
    match r.lane, findPage r kPage layer.toNat index.toNat, r.capPort, modelOf s r.model with
    | some n, some e, some p, some m =>
      if e.state = pFar && !e.slots.isEmpty && capUp (s.cap.ports.get p)
          && (match headFetch s p with | some g => isFetch baton layer.toNat index.toNat g | none => false) then
        .next (fetchLand s n baton r m p e (itemBytes m (slotBytes (laneOf s n)) kPage pSealed 0))
      else .next s
    | _, _, _, _ => .next s

/-- What a rebuild had taken up: the changes by which its copy differs from the one in use. -/
def undoRebuild (kv : LaneKv) : List (Bool × BatonId) :=
  let bg := bgDir kv
  let fg := fgDir kv
  ((fg.filter fun b => !bg.contains b).map fun b => (false, b)) ++ ((bg.filter fun b => !fg.contains b).map fun b => (true, b))

/-- HEAT_DIR_LATE (R141): a rebuild that is not complete 4 laps after it started is abandoned. -/
def execHeatDirLate (lane : LaneNo) (s : State) : Res :=
  match (laneOf s lane).kv.dirStart with
  | none => .next s
  | some t =>
    if 4 ≤ dirAge s t && !(dirReady s (laneOf s lane).kv t && decide (dirAge s t = 4)) then
      .next (raiseEvt (modLane s lane fun l => { l with kv := { l.kv with
        dirPend := undoRebuild l.kv ++ l.kv.dirPend, dirStart := none, dirHeld := 0, dirLate := true } }) 3)
    else .next s

/-! ### Residency (R104, R140) -/

/-- The conditions of R140. -/
def residentOk (s : State) (r : Req) (n : LaneNo) : Bool :=
  match modelOf s r.model with
  | some m => (!wantsDir s r || (fgDir (laneOf s n).kv).contains r.id) && pagesInPlace m r
  | none => false

/-- BATON_RESIDENT: the baton becomes resident and enters the join queue. -/
def execBatonResident (baton : BatonId) (s : State) : Res :=
  match findReq s baton with
  | none => .next s
  | some r =>
    match r.lane with
    | none => .next s
    | some n =>
      if arrived s r n && residentOk s r n then
        let s := modReq s baton fun r => { r with resident := true, residentAt := s.clk.now }
        .next (modLane s n fun l => { l with st := { l.st with joinQ := insertJoin (s.lap.count, baton) l.st.joinQ } })
      else .next s

/-! ### Holding and waiting (R144, R199) -/

/-- HOLD_LIMIT and HANDOFF_WAIT of the plan. -/
def holdLimit (s : State) : Nat := match deviceSec s with | some d => d.holdLimit.toNat | none => 8
def handoffLimit (s : State) : Nat := match deviceSec s with | some d => d.handoffWait.toNat | none => 16

/-- The informational completion HELD_NO_PAGE of a request. -/
def heldCpl (s : State) (r : Req) : State :=
  postCpl s { code := .heldNoPage, lead := (0, 0), second := false, body := batonWords r.id, user := r.hdr.user, op := 0x01
              reason := 0, tenant := r.hdr.tenant }

/-- HOLD_LIMIT_PARK: the baton parks with HELD_NO_PAGE at the next boundary (R105, R144). -/
def execHoldLimitPark (baton : BatonId) (s : State) : Res :=
  match findReq s baton with
  | none => .next s
  | some r =>
    match r.lane with
    | none => .next s
    | some n =>
      if holdLimit s ≤ r.held && !r.parkNext && r.lost.isNone && (r.phase = .generation || r.phase = .prompt) then
        let s := modLane s n fun l => { l with kv := { l.kv with holdParkCnt := satInc l.kv.holdParkCnt } }
        .next (heldCpl (modReq s baton fun r => { r with parkNext := true, parkWhy := .heldNoPage, held := 0 }) r)
      else .next s

/-- HANDOFF_WAIT_EXPIRED: the baton parks (R199). -/
def execHandoffWaitExpired (baton : BatonId) (s : State) : Res :=
  match findReq s baton with
  | none => .next s
  | some r =>
    if r.phase = .handoff && !inLeg s baton && handoffLimit s ≤ r.handoffWait && !r.parkNext then .next (parkRequest s baton)
    else .next s

end Sys2Proof.Machine
end

