-- ==== Sys2Proof/Machine/Laps.lean ====
section
/-! DEFINITION. The lap: slots, Judge's return, the commit point, the boundary and the tray's alignment
(04_laps_and_lap_tables.md R90 to R113; 17_electrical_mechanical.md R427, R428). -/

namespace Sys2Proof.Machine

open Sys2Proof

/-! ### Slots (R100, R108, R111, R248) -/

/-- A page that the lap's attention lists is used in it (R46). -/
def touchReq (s : State) (b : BatonId) : State :=
  modReq s b fun r =>
    match modelOf s r.model with
    | some m =>
      let ps := listedPages m r
      { r with pages := r.pages.map fun e =>
          if e.kind = kPage && ps.contains (e.layer.toNat, e.index.toNat) then { e with lastUse := s.lap.count } else e }
    | none => r

/-- Requests whose attention lists a slot reads. -/
def slotReaders (s : State) (n : LaneNo) (x : Slot) : List BatonId :=
  let ty := hosted (laneOf s n) x
  if ty = tPrompt || ty = tAttn then served s n x else []

/-- SLOT_START: the slot starts, the lower index first, and its kernel runs its operations. -/
def execSlotStart (lane : LaneNo) (slot : Nat) (work : List Work) (s : State) : Res :=
  let l := laneOf s lane
  match slotAt l slot with
  | none => .next s
  | some (x, r) =>
    if lapOpen s l && slotReady l slot x r && firstReady l slot then
      let l' := setSlot l slot fun r => { r with phase := .running, startAt := s.clk.now }
      let s := setLane s lane (if x.stream then streamStarts l' slot else l')
      let s := (slotReaders s lane x).foldl touchReq s
      .next (settleLane (runSlot s lane slot x work) lane)
    else .next s

/-- WEIGHT_HALF_FULL: the load that runs has filled its half. -/
def execWeightHalfFull (lane : LaneNo) (s : State) : Res :=
  let l := laneOf s lane
  if lapOpen s l then .next (setLane s lane (halfFills l)) else .next s

/-- Judge has returned every draw of a SAMPLE slot. -/
def drawsDone (s : State) (l : Lane) (x : Slot) : Bool :=
  (sampled l x).all fun b => match findReq s b with
    | some r => !drawsNow l r || r.draw.isSome
    | none => true

/-- The LAP-mode counter bound to an EXCHANGE slot has reached PARAM (R248). -/
def exchanged (s : State) (l : Lane) (slot : Nat) (x : Slot) : Bool :=
  match l.sec with
  | some c =>
    (match c.exch.find? fun e => decide (e.1.toNat = slot) with
     | some e => decide (x.param.toNat ≤ (ctrOf s e.2.toNat).toNat)
     | none => false)
  | none => false

/-- What a slot of its type waits for (R98, R108, R126, R138, R248): an IDLE slot holds its cores for its budget, a slot with operations
that wait has not ended, a SEAL slot ends once its capacity is used or no page waits. -/
def slotDone (s : State) (n : LaneNo) (slot : Nat) (x : Slot) (r : SlotRun) (cycles : Nat) : Bool :=
  let l := laneOf s n
  let ty := hosted l x
  r.todo.isEmpty &&
  (if handsLogits l x && ty == x.type then drawsDone s l x
   else if ty = tExchange then exchanged s l slot x
   else if ty = tIdle then decide (x.budget.toNat ≤ cycles)
   else if ty = tSeal then decide (x.param.toNat ≤ r.sealed) || (toSeal s n).isEmpty
   else if ty = tHeat then heatReady s n x
   else true)

/-- What the device does at the end of a slot of its type. -/
def slotEnd (s : State) (n : LaneNo) (x : Slot) : State :=
  let ty := hosted (laneOf s n) x
  if ty = tHeat then heatEnd s n x
  else if ty = tStage then stageBytes s n x
  else if ty = tSwitch then switchSram s n x
  else s

/-- The record of an overrun (LST_LAST_OVERRUN). -/
def softOverrun (l : Lane) (slot excess : Nat) : Lane :=
  { l with st := { l.st with
    soft := satInc l.st.soft, lastHard := false, lastSlot := BitVec.ofNat 10 slot
    lastExcess := BitVec.ofNat 21 (min 0x1FFFFF excess) } }

/-- A late source of a soft overrun of an EXCHANGE slot, once per lap (R334). -/
def lateSource (s : State) (d : DevId) : State :=
  if s.mar.lateLaps.contains (d, s.lap.count) then s
  else { s with mar := { s.mar with lateLaps := s.mar.lateLaps ++ [(d, s.lap.count)] } }

/-- SLOT_COMPLETE: `cycles` from the slot's start; `source` sent the last completion of an EXCHANGE slot. -/
def execSlotComplete (lane : LaneNo) (slot : Nat) (cycles : Nat) (source : Option DevId) (s : State) : Res :=
  let l := laneOf s lane
  match slotAt l slot with
  | none => .next s
  | some (x, r) =>
    if lapOpen s l && r.phase = .running && slotDone s lane slot x r cycles then
      let late := decide (x.budget.toNat < cycles)
      let l := if late then softOverrun l slot (cycles - x.budget.toNat) else l
      let s := slotEnd (setLane s lane (completeSlot l slot)) lane x
      .next (match source with
        | some d => if late && x.type = tExchange then lateSource s d else s
        | none => s)
    else .next s

/-! ### Judge (R146 to R153) -/

/-- A SAMPLE slot that serves the request runs. -/
def sampling (l : Lane) (b : BatonId) : Bool :=
  match fgTable l with
  | some t => (t.slots.zip l.st.slots).any fun p => handsLogits l p.1 && p.2.phase == .running && (sampled l p.1).contains b
  | none => false

/-- The count table that a draw sees: with TRACK.PROMPT a prompt's last chunk counts before the first draw (R149). -/
def drawCounts (l : Lane) (r : Req) : CountTable :=
  if l.role != roleGen && r.samp.settings.track.getLsbD 0 then
    (countTokens (((r.prompt.drop r.done).take r.take).map fun w => w.setWidth 18) r.samp.counts).1
  else r.samp.counts

/-- JUDGE_RETURN: the draw of a request from the logits that the lap's last matrix operation gave for it. -/
def execJudgeReturn (lane : LaneNo) (baton : BatonId) (s : State) : Res :=
  let l := laneOf s lane
  match findReq s baton with
  | none => .next s
  | some r =>
    match r.logits with
    | none => .next s
    | some xs =>
      if lapOpen s l && r.lane == some lane && sampling l baton && drawsNow l r && r.draw.isNone && !s.sta.blockHeld.getLsbD 0 then
        let d := sampleToken r.samp.settings (drawCounts l r) r.samp.patterns r.samp.counter xs
        let s := modReq s baton fun r => { r with draw := some d }
        .next { s with jdg := { s.jdg with nanCnt := satAdd s.jdg.nanCnt (nanLogits xs) } }
      else .next s

/-! ### The commit point (R91, R92, R112, R163, R184, R199, R336) -/

/-- Requests that wait for a handoff with no leg open. -/
def handoffs (s : State) : List BatonId :=
  (s.reqs.filter fun r => r.phase == .handoff && !inLeg s r.id && !r.parkNext && r.lost.isNone).map (·.id)

/-- MAR_PRODUCTIVE_LAPS counts a lap that every running generation lane committed, outside a swap's pause (R336). -/
def countProductive (s : State) (done : List (LaneNo × Bool)) : State :=
  let gen := done.filter fun x => (laneOf s x.1).role == roleGen && runs (laneOf s x.1)
  let paused := s.mar.swapActive && s.mpl.epoch == s.mar.swapEpoch
  if !gen.isEmpty && gen.all (·.2) && !paused then { s with mar := { s.mar with prodLaps := satInc s.mar.prodLaps } } else s

/-- The commit of every lane, with who committed. -/
def commitLanes (s : State) : State × List (LaneNo × Bool) :=
  laneNos.foldl (fun acc n => let x := commitLane acc.1 n; (x.1, acc.2 ++ [(n, x.2)])) (s, [])

/-- The quiet window begins. The rings are written before a handoff forms its record, which so counts the lap's entries (R165). -/
def doCommit (s : State) : State :=
  let s := { s with clk := { s.clk with now := max s.clk.now (commitAt s) }, lap := { s.lap with inQuiet := true } }
  let run := laneNos.filter fun n => runs (laneOf s n)
  let x := commitLanes s
  let s := countProductive x.1 (x.2.filter fun y => run.contains y.1)
  let s := flushRings (swapSealed (commitLegs s))
  (handoffs s).foldl tryHandoff s

/-- COMMIT_POINT. -/
def execCommitPoint (s : State) : Res :=
  .next (if s.lap.running && !s.lap.inQuiet then pumpAll (doCommit s) else s)

/-! ### Throttle (R427) -/

def msNs : Nat := 1000000

/-- A temperature of a die's stacks, or of the die. -/
def dieTemps (sta : Sta) (d : Fin 4) : List Int :=
  sta.dieTemp.get d :: (List.range 3).map fun i => vgetD sta.stackTemp (3 * d.val + i) 0

def hotDie (sta : Sta) (d : Fin 4) : Bool := (dieTemps sta d).any fun t => decide (1520 ≤ t)

def coolDie (now : Nat) (sta : Sta) (d : Fin 4) : Bool :=
  match sta.coolSince.get d with
  | some t => decide (t + 10 * msNs ≤ now)
  | none => false

/-- The level of one die. -/
def throttleDie (now : Nat) (sta : Sta) (d : Fin 4) : Sta :=
  if hotDie sta d && decide (sta.tUp.get d + msNs ≤ now) then
    { sta with
      tl := vset sta.tl d (min 4 (sta.tl.get d + 1)), tUp := vset sta.tUp d now, tChg := vset sta.tChg d now }
  else if coolDie now sta d && decide (0 < sta.tl.get d) && decide (sta.tChg.get d + 10 * msNs ≤ now) then
    { sta with tl := vset sta.tl d (sta.tl.get d - 1), tChg := vset sta.tChg d now }
  else sta

/-- Mean of the module power's samples above 3,600 W. -/
def powerHigh (sta : Sta) : Bool := decide (3600 * sta.power.length < sta.power.sum)

def powerLow (now : Nat) (sta : Sta) : Bool :=
  match sta.lowSince with
  | some t => decide (t + 10 * msNs ≤ now)
  | none => false

def throttlePower (now : Nat) (sta : Sta) : Sta :=
  if powerHigh sta && decide (sta.pUp + msNs ≤ now) then { sta with pl := min 4 (sta.pl + 1), pUp := now, pChg := now }
  else if powerLow now sta && decide (0 < sta.pl) && decide (sta.pChg + 10 * msNs ≤ now) then
    { sta with pl := sta.pl - 1, pChg := now }
  else sta

/-- Levels at a boundary; STA_THROTTLE_CNT counts laps with a level above 0, and the event rises with THROTTLE. -/
def throttleUpdate (s : State) : State :=
  let was := throttling s.sta
  let sta := throttlePower s.clk.now ((List.finRange 4).foldl (throttleDie s.clk.now) s.sta)
  let on := throttling sta
  let s := { s with sta := { sta with throttleCnt := if on then satInc sta.throttleCnt else sta.throttleCnt } }
  if on && !was then raiseEvt s 11 else s

/-! ### Leader (R93 to R95) -/

/-- The tray's device at a position is fenced, as far as this device knows. -/
def positionFenced (s : State) (p : BitVec 2) : Bool :=
  (isFenced s && p == s.sta.pos) || s.mar.held.any fun f => trayPlace s f.subject == some p.toNat

/-- The place that leads: the next higher one while the leader is fenced. -/
def nextLeader (s : State) : Nat → BitVec 2 → BitVec 2
  | 0, p => p
  | n + 1, p => if positionFenced s p then nextLeader s n (p + 1) else p

def leaderTakeover (s : State) : State :=
  let p := nextLeader s 3 s.lap.leadPos
  if p = s.lap.leadPos then s
  else
    let lead := s.sta.pos == p
    setSource { s with lap := { s.lap with leadPos := p, leader := lead } }
      (if lead then ptpSource s else if s.lap.leader then 1 else s.lap.source)

/-- A leader pulls LAP_SYNC low for 500 ns. -/
def leadPulse (s : State) : State :=
  if s.lap.leader then drivePin (drivePin s .lapSync true) .lapSync false else s

/-! ### The boundary (R90, R92, R99, R104, R105, R110, R113) -/

/-- A drain that came in time takes effect (R50). -/
def startDrain (s : State) (n : LaneNo) : State :=
  let l := laneOf s n
  if l.drainReq && l.ctl = .serving && byCutoff s l.drainAt then modLane s n fun l => { l with ctl := .draining, drainReq := false }
  else s

/-- Lane commands that take effect at the boundary (R50, R381), and lanes whose build ended in time. -/
def laneCommands (s : State) (n : LaneNo) : State :=
  if !coachServes s then s
  else
    let s := startDrain s n
    let l := laneOf s n
    if l.serveReq && (l.ctl = .stopped || l.ctl = .draining) && byCutoff s l.serveAt then
      let ds := l.drainCmds
      let ss := l.serveCmds
      let s := modLane s n fun l => { l with ctl := .serving, serveReq := false, drainReq := false, drainCmds := [], serveCmds := [] }
      completeAll (completeAll s ds 0x22 .ok) ss 0x22 .ok
    else if l.build = .built && (l.ctl = .unassigned || l.ctl = .stopped) && byCutoff s l.builtAt then
      let ss := l.serveCmds
      let s := modLane s n fun l => { l with ctl := .serving, build := .none, serveCmds := [], serveReq := false }
      completeAll s ss 0x22 .ok
    else s

/-- OVERRUN_LIMIT consecutive hard overruns (R112). -/
def overrunLimit (l : Lane) : Nat := match fgTable l with | some t => t.overrunLimit.toNat | none => 0

def boundaryStops (s : State) (n : LaneNo) : State :=
  let l := laneOf s n
  if !runs l then s
  else if overrunLimit l ≤ l.st.hardRun && decide (0 < l.st.hardRun) then overrunStop s n
  else if l.st.stopNext then enterStopped (modLane s n fun l => { l with st := { l.st with stopNext := false } }) n
  else s

/-- The SPILL of a baton in a cache lane that waited for Coach (R51), or whose last one ended without a commit. -/
def retrySpill (s : State) (b : BatonId) : State :=
  match findReq s b with
  | none => s
  | some r =>
    match r.lane with
    | none => s
    | some n =>
      if r.phase = .parking && isCache (laneOf s n) && !inLeg s b && r.lost.isNone && btnOpen s && (laneOf s n).dataOpen then
        match r.spillDue with
        | some x => openSpill s b x.1 x.2
        | none =>
          match allocTier s r.capPort (spillBytes s r (legItems s legSpill r n false)) with
          | (s, some tier) => openSpill s b n tier
          | (s, none) => s
      else s

/-- A baton that must park and has no leg tries its list again. -/
def retryPark (s : State) (b : BatonId) : State :=
  match findReq s b with
  | none => s
  | some r =>
    let due := match r.phase with
      | .generation | .handoff => r.parkNext
      | .prompt => r.parkNext && (r.endReason != 0 || r.cancelled || r.parkWhy != .ok || laneHalted s r)
      | _ => false
    if due && !inLeg s b && r.lost.isNone then tryPark s b else s

/-- A baton that waits for a handoff tries its list again; HANDOFF_WAIT counts the laps (R199). -/
def retryHandoff (s : State) (b : BatonId) : State :=
  tryHandoff (modReq s b fun r => { r with handoffWait := r.handoffWait + 1 }) b

/-- What Coach and BTN do at a boundary for requests: leaves, commands, and moves that wait. None of it while Coach is away. -/
def boundaryReqs (s : State) : State :=
  if !coachServes s then s
  else
    let ids := bySlot (s.reqs.map (·.id))
    let s := ids.foldl leaveOne s
    let s := ids.foldl applyAtBoundary s
    let s := (s.btn.pulls.map (·.baton)).foldl applyPullHead s
    let s := ids.foldl leaveOne s
    let s := ids.foldl retryPark s
    let s := (handoffs s).foldl retryHandoff s
    ids.foldl retrySpill s

/-- An empty DRAINING lane enters STOPPED (R52). -/
def drainedLane (s : State) (n : LaneNo) : State :=
  if coachServes s && (laneOf s n).ctl = .draining && laneEmpty s n then enterStopped s n else s

/-- HEAT's directory at a boundary; a retired lane's registers keep their last values (R145). -/
def dirBoundary (s : State) (n : LaneNo) : State :=
  if (laneOf s n).ctl = .retired then s else if coachServes s then heatBoundary s n else heatHold s n

/-- Pages of a lane's shared pool that have a current copy, each once (HBC_SHARED_CLEAN). -/
def cleanPages (s : State) (n : LaneNo) : Nat :=
  let shared := fun (k : Nat) => decide ((laneOf s n).kv.reserveSize ≤ k)
  (s.reqs.map fun r =>
    if r.lane = some n && r.lost.isNone then
      r.pages.countP fun e => e.copy && e.state != pFar && (entSlots (isCache (laneOf s n)) e).any shared
    else 0).sum
  + (s.te.regions.map fun g => g.2.near.countP fun p => p.lane == n && p.copied && shared p.slot).sum

def countClean (s : State) (n : LaneNo) : State :=
  modLane s n fun l => { l with kv := { l.kv with clean := BitVec.ofNat 24 (cleanPages s n) } }

/-- Lanes that run take up the new lap: joins, pre-emption, prompt tokens, needs and slots. -/
def startLane (s : State) (n : LaneNo) : State :=
  let s := fetchArrived (dirBoundary s n) n
  if !runs (laneOf s n) then s
  else
    let s := if coachServes s then joins s n else s
    let s := stepReplays (preempt s n) n
    let s := match fgTable (laneOf s n) with
      | some t => if (laneOf s n).role = roleGen then s else takePrompts s (promptRoom t) tableMax (laneOf s n).st.promptQ
      | none => s
    loadSlots (writeTable (laneNeeds (loadSeals s n) n) n) n

/-- Everything at a boundary past the counter and the switch. -/
def boundaryWork (s : State) : State :=
  let m := s.lap.count.toNat
  let s := laneNos.foldl (fun s n => takeVariant (applySubst s n) n) s
  let s := laneNos.foldl boundaryStops s
  let s := laneNos.foldl laneCommands s
  let s := laneNos.foldl (fun s n => swapTable s n m) s
  let s := boundaryReqs s
  let s := laneNos.foldl drainedLane s
  let s := throttleUpdate s
  let s := zeroLapCtrs s
  let s := laneNos.foldl startLane s
  let s := bibBoundary s
  let s := leadPulse (leaderTakeover s)
  let s := laneNos.foldl countClean s
  pauseAtBoundary (releaseHeads s)

/-- The grace lap of the replaced plan's tag ends (R312). -/
def endGrace (s : State) : State :=
  if s.mpl.grace then { s with mpl := { s.mpl with grace := false, tagNext := 0 } } else s

/-- A staged plan at the boundary of lap m: it switches, or is due. -/
def stagedAt (s : State) (m : Nat) : State :=
  match s.mpl.staged with
  | none => s
  | some p =>
    if switchReady s p m then planSwitch s p m
    else if decide (p.system.activate.toNat ≤ m) then { s with mpl := { s.mpl with due := true } }
    else s

/-- Time of the next boundary: in a lap that takes its boundaries from PTP, R94's; else one period on. -/
def nextBoundary (s : State) : Nat :=
  let n := s.lap.count.toNat + 1
  let t := s.lap.base.toNat + n * s.lap.period * 1000
  if s.lap.source = 2 && s.lap.boundaryAt ≤ t then t else s.lap.boundaryAt + s.lap.period * 1000

/-- A running lap's boundary; a lap that has not reached its commit point reaches it first. -/
def nextLap (s : State) : State :=
  let s := if s.lap.inQuiet then s else doCommit s
  let t := nextBoundary s
  let s := { s with
    clk := { s.clk with now := max s.clk.now t }
    lap := { s.lap with count := s.lap.count + 1, inQuiet := false, boundaryAt := t } }
  boundaryWork (stagedAt (endGrace s) s.lap.count.toNat)

/-- The boundary at which a first plan starts the laps (R312), and the one after it where the switch could not take place. -/
def firstLap (s : State) (p : Plan) : State :=
  let m := s.mpl.firstLap
  let t := boundaryTime p.system m
  let s := { s with clk := { s.clk with now := max s.clk.now t } }
  if switchReady s p m then
    let s := planSwitch s p m
    boundaryWork { s with lap := { s.lap with boundaryAt := t } }
  else { s with mpl := { s.mpl with due := true, firstLap := m + 1 } }

/-- LAP_BOUNDARY. -/
def execLapBoundary (s : State) : Res :=
  if s.lap.running then .next (pumpAll (nextLap s))
  else match s.mpl.current, s.mpl.staged with
    | none, some p => .next (pumpAll (firstLap s p))
    | _, _ => .next s

/-! ### Alignment within a tray (R93, R95) -/

/-- OFFSET saturates at ±32,767. -/
def offsetField (x : Int) : BitVec 16 := BitVec.ofInt 16 (max (-32767) (min 32767 x))

/-- LAP_SYNC_EDGE: a falling edge on LAP_SYNC; `offset` is the device's own boundary minus the edge, in ns. A device that takes
its boundaries from LAP_SYNC sets its boundary to the edge. -/
def execLapSyncEdge (offset : Int) (s : State) : Res :=
  if s.lap.leader || !s.lap.running then .next s
  else
    let near := decide (-2000 ≤ offset) && decide (offset ≤ 2000)
    let at_ := (Int.ofNat s.lap.boundaryAt - offset).toNat
    .next { s with lap := { s.lap with
      offset := offsetField offset
      boundaryAt := if s.lap.source = 1 && near then at_ else s.lap.boundaryAt } }

/-- SYNC_LOST: 3 laps in a row without an edge near the expected boundary. -/
def execSyncLost (s : State) : Res :=
  if s.lap.leader || !s.lap.running || s.lap.source != 1 then .next s
  else
    let s := raiseEvt { s with lap := { s.lap with syncLost := true } } 7
    .next (setSource s (ptpSource s))

/-- SYNC_REGAINED: 3 edges in a row near the expected boundary. -/
def execSyncRegained (s : State) : Res :=
  if s.lap.leader || !s.lap.running || s.lap.source == 1 then .next s
  else .next { s with lap := { s.lap with source := 1 } }

/-- PTP_LOCK_LOST: a device that takes its boundaries from PTP free-runs. -/
def execPtpLockLost (s : State) : Res :=
  let s := { s with clk := { s.clk with ptpLock := false } }
  if s.lap.running && s.lap.source = 2 then .next (setSource s 0) else .next s

end Sys2Proof.Machine
end

