-- ==== Sys2Proof/Machine/HostPort.lean ====
section
/-! DEFINITION. The host port: doorbells, contexts, resets of functions, interrupt holdoffs, link events; and the capacity-tier
ports (15_host_and_management_ports.md R374 to R390). -/

namespace Sys2Proof.Machine

open Sys2Proof

/-! ### Doorbells of a context (R377 to R379, R384) -/

/-- COMMAND_RING_TAIL: the receipt starts the TTFT of every SUBMIT that it publishes. -/
def execCommandRingTail (f : Func) (tenant : Tenant) (tail : Word) (s : State) : Res :=
  let c := ctxOf s tenant
  if decide (tenantFunc s tenant = f.val) && c.enable && tailOk c.cmdLog2.toNat c.head tail then
    .next (setCtx s tenant { c with
      tail, bells := (c.bells.filter fun p => decide ((p.1 - c.head).toNat < 2147483648)) ++ [(tail, s.clk.now)] })
  else .next (badBell s)

/-- COMPLETION_RING_HEAD: freed entries take held completions. -/
def execCompletionRingHead (f : Func) (tenant : Tenant) (head : Word) (s : State) : Res :=
  let c := ctxOf s tenant
  if decide (tenantFunc s tenant = f.val) && c.enable && tailOk c.cplLog2.toNat c.cplHead head then
    .next (pumpCpl (setCtx s tenant { c with cplHead := head }) tenant)
  else .next (badBell s)

/-! ### Interrupt holdoffs (R385, R415) -/

/-- CONTEXT_MSI_X_HOLDOFF: completions written within the 2 us are signalled now. -/
def execContextMsiXHoldoff (tenant : Tenant) (s : State) : Res :=
  let c := ctxOf s tenant
  if !c.msiHold then .next s
  else
    let s := setCtx s tenant { c with msiHold := false, msiLater := false }
    .next (if c.msiLater then signalCtx s tenant else s)

/-- EVT_MSI_HOLDOFF: a condition that arose within the 2 us is signalled if P is still nonzero. -/
def execEvtMsiHoldoff (s : State) : Res :=
  if !s.glb.evtHold then .next s
  else
    let later := s.glb.evtLater
    let s := { s with glb := { s.glb with evtHold := false, evtLater := false } }
    .next (if later && s.glb.evt &&& s.glb.evtEn != 0 then sendEvt s else s)

/-! ### Function level reset and PERST_N (R386, R402, R418) -/

def dropCpls (s : State) (n : Nat) : State := { s with hif := { s.hif with cplDrop := satAdd s.hif.cplDrop n } }

/-- A send queue of a function goes: operations in flight end unseen, and their completions count as not written. -/
def dropSq (s : State) (q : Nat) : State :=
  match getSq s q with
  | none => s
  | some x => dropCpls { s with te := { s.te with sqs := tblErase s.te.sqs q } } (x.ops.length + x.heldCpl.length)

/-- A receive queue of a function goes with the buffers that unfinished messages claimed. -/
def dropRq (s : State) (q : Nat) : State :=
  match tblGet s.te.rqs q with
  | none => s
  | some r => dropCpls (closeRq s q) (r.msgs.map fun m => m.bufs.length).sum

/-- A request whose ring names the function is paused, with no command to complete (R24). -/
def pauseRing (s : State) (f : Nat) (b : BatonId) : State :=
  match findReq s b with
  | none => s
  | some r =>
    if decide (r.strm.ring.func.toNat = f) && r.strm.ring.serve == s.mpl.devId && r.lost.isNone && !resting r
        && r.phase != .parking && r.endReason == 0 then
      if laneHalted s r then parkRequest s b else modReq s b fun r => { r with parkNext := true }
    else s

/-- The state of one function: its queues, its contexts, and the pause of its requests. -/
def closeFunc (s : State) (f : Nat) : State :=
  let s := s.te.sqs.foldl (fun s e => if e.2.func.val = f then dropSq s e.1 else s) s
  let s := s.te.rqs.foldl (fun s e => if e.2.func.val = f then dropRq s e.1 else s) s
  let own := s.hif.ctxs.filter fun e => decide (tblGetD s.hif.funcOf e.1 0 = f)
  let s := own.foldl (fun s e => dropCpls { s with hif := { s.hif with ctxs := tblErase s.hif.ctxs e.1 } } e.2.heldCpl.length) s
  (s.reqs.map (·.id)).foldl (fun s b => pauseRing s f b) s

/-- The accessor of a virtual function. -/
def isVf (f : Nat) : Accessor → Bool
  | .vf n => decide (n.val + 1 = f)
  | _ => false

/-- FUNCTION_LEVEL_RESET. -/
def execFunctionLevelReset (f : Func) (s : State) : Res :=
  let s := closeFunc s f.val
  .next { s with sel := s.sel.filter fun e => !isVf f.val e.1 }

/-- Functions that hold contexts, queues or rings. -/
def allFuncs : List Nat := List.range 65

/-- The select copies that HIF holds. -/
def hostAccessor : Accessor → Bool
  | .pf => true
  | .vf _ => true
  | _ => false

/-- PCIE_FUNDAMENTAL_RESET: PERST_N low resets HIF for every function at once; lanes keep serving. -/
def execPcieFundamentalReset (s : State) : Res :=
  let s := allFuncs.foldl closeFunc s
  .next { s with
    hif := Hif.reset, sel := s.sel.filter fun e => !hostAccessor e.1
    sta := { s.sta with boot := { s.sta.boot with perstN := false } } }

/-- HIF trains the link once PERST_N is high and the PLLs have locked (R351), REFCLK is there and no fatal error holds. -/
def startTraining (s : State) : State :=
  let ok := s.sta.boot.perstN && s.sta.boot.fabricUp && !s.glb.fatal && !(s.clk.refFail && !s.clk.refOk) && !s.hif.linkUp
  { s with hif := { s.hif with training := ok } }

/-- PERST_RELEASE. -/
def execPerstRelease (s : State) : Res :=
  .next (startTraining { s with sta := { s.sta with boot := { s.sta.boot with perstN := true } } })

/-- A width and rate of R374, FLIT mode at 64 GT/s and at no other rate. -/
def linkOk (width : Byte) (speed : BitVec 4) (flit : Bool) : Bool :=
  [1, 2, 4, 8, 16].contains width.toNat && decide (1 ≤ speed.toNat) && decide (speed.toNat ≤ 6) && flit == (speed == 6)

/-- What waited for the host goes out. -/
def pumpHost (s : State) : State :=
  let s := s.hif.ctxs.foldl (fun s e => pumpCpl s (BitVec.ofNat 12 e.1)) s
  s.te.sqs.foldl (fun s e => pumpTrackCpl s e.1) s

/-- PCIE_LINK_UP. -/
def execPcieLinkUp (width : Byte) (speed : BitVec 4) (flit : Bool) (s : State) : Res :=
  if s.hif.training && !s.glb.fatal && linkOk width speed flit then
    .next (pumpHost { s with hif := { s.hif with linkUp := true, width, speed, flit, training := false } })
  else .next s

/-- The link goes to Detect. -/
def linkDetect (s : State) : State :=
  emit { s with hif := { s.hif with linkUp := false, width := 0, speed := 0, flit := false, training := false } } .linkDetect

/-- PCIE_LINK_DOWN_AFTER_FATAL. -/
def execPcieLinkDownAfterFatal (s : State) : Res := .next (if s.glb.fatal && s.hif.linkUp then linkDetect s else s)

/-- PCIE_CONFIG_REQUEST: Request Retry Status until start-up is done. -/
def execPcieConfigRequest (f : Func) (s : State) : Res :=
  .next (if !s.hif.linkUp then s else if s.sta.boot.imageChecked && s.coach.phase != .booting then emit s (.configServed f) else emit s (.configRetry f))

/-! ### Capacity-tier ports (R388 to R390) -/

/-- What a training gives: ×16, ×8, or left down; capacity above 2 TiB unused. -/
def capTrained (r : CapTrain) : CapPort :=
  if r.deviceOk && (r.up16 || r.up8) then ⟨if r.up16 then 2 else 3, min 8192 r.sizeUnits, 0, 0, 0⟩ else CapPort.reset

/-- A baton's copies on the port are void; one whose only copy of something lay there is lost. -/
def voidCopies (s : State) (p : Fin 4) (b : BatonId) : State :=
  match findReq s b with
  | none => s
  | some r =>
    if r.capPort ≠ some p then s
    else
      let s := endFetches s b
      let s := modReq s b fun r =>
        let gone := r.pages.any fun e => e.state == pFar
        { r with
          pages := r.pages.map fun e => { e with copy := false, tierAddr := 0 }
          copies := r.copies.filter fun c => !c.tier, capPort := none, tierBytes := 0
          lost := if gone && r.lost.isNone then some .port else r.lost, resident := r.resident && !gone }
      dropStaleFetches s b

/-- A region loses its space on the port: what its near pages hold stays, now without a copy. -/
def regionLess (p : Fin 4) (r : Region) : Region :=
  match r.far with
  | some x => if x.1 = p then { r with far := none, near := r.near.map fun q => { q with copied := false } } else r
  | none => r

/-- A byte of the data space that a region held on the port alone. -/
def portByte (s : State) (p : Fin 4) (r : Region) (a : Nat) : Bool :=
  (match r.far with | some x => x.1 == p | none => false)
  && decide (r.base ≤ a) && decide (a < r.base + r.len)
  && !r.near.any fun q => decide (r.base + q.page * slotBytes (laneOf s q.lane) ≤ a)
      && decide (a < r.base + (q.page + 1) * slotBytes (laneOf s q.lane))

/-- Regions lose what lay on the port alone; one with no space left goes (R40, R390). -/
def dropRegionsOn (s : State) (p : Fin 4) : State :=
  let data := s.mem.data.filter fun c => !s.te.regions.any fun e => portByte s p e.2 c.1
  let regions := (s.te.regions.map fun e => (e.1, regionLess p e.2)).filter fun e => e.2.far.isSome || !e.2.near.isEmpty
  { s with te := { s.te with regions }, mem := { s.mem with data } }

/-- The staging region goes with its port: the load ends, and a staged plan is dropped, with DISCARDED. -/
def loseStaging (s : State) (p : Fin 4) : State :=
  if stagingPort s = some p then
    let s := endLoads s
    { s with mpl := { s.mpl with
      load := .idle, staged := none, stagedCmd := none, due := false, firstLap := 0
      tagNext := if s.mpl.grace then s.mpl.tagNext else 0, laneClass := 0xFFFFFF } }
  else s

/-- A port's link goes down with everything on it; its poison counter stays. -/
def capDown (s : State) (p : Fin 4) : State :=
  if (s.cap.ports.get p).state = 0 then s
  else
    let up := capUp (s.cap.ports.get p)
    let s := loseStaging s p
    let s := (s.btn.legs.filter fun g => match g.tier with | some t => t.1 == p | none => false).foldl
      (fun s g => abortLeg s g .discarded true) s
    let s := (s.reqs.map (·.id)).foldl (fun s b => voidCopies s p b) s
    let s := dropRegionsOn s p
    let s := { s with
      cap := { s.cap with
        ports := vmod s.cap.ports p fun c => { CapPort.reset with poison := c.poison }
        weights := s.cap.weights.filter fun w => w.2.1 != p }
      mem := { s.mem with cap := vset s.mem.cap p [] } }
    if up then raiseEvt s 10 else s

/-- CAP_LINK_DOWN. -/
def execCapLinkDown (port : Fin 4) (s : State) : Res := .next (capDown s port)

/-- A write of RETRAIN: a port that is up goes down first. -/
def retrainCap (s : State) (p : Fin 4) (v : Word) : State :=
  if !v.getLsbD 0 || (s.cap.ports.get p).state = 1 then s
  else
    let s := capDown s p
    { s with cap := { s.cap with ports := vmod s.cap.ports p fun c => { c with state := 1 } } }

/-- CAP_RETRAIN: a write to CAP_CTRL_i. -/
def execCapRetrain (a : Accessor) (port : Fin 4) (v : Word) (s : State) : Res :=
  regCmd s a (0x0010000C + 0x100 * port.val) fun s => retrainCap s port v

/-- CAP_PORT_TRAINED. -/
def execCapPortTrained (port : Fin 4) (r : CapTrain) (s : State) : Res :=
  if (s.cap.ports.get port).state = 1 then
    .next { s with cap := { s.cap with ports := vmod s.cap.ports port fun c => { capTrained r with poison := c.poison } } }
  else .next s

end Sys2Proof.Machine
end

