-- ==== Sys2Proof/Machine/Legs.lean ====
section
/-! DEFINITION. The legs' commands (07_batons_and_exchange_zone.md R180 to R208). -/

namespace Sys2Proof.Machine

open Sys2Proof

/-! ### Requests at the target -/

def lateDrop (s : State) : State := { s with xz := { s.xz with lateDrop := satInc s.xz.lateDrop } }

/-- The model geometry of an inbound leg: the resident model of the target lane, or for a cache lane the plan's. -/
def inboundModel (s : State) (n : LaneNo) (d : Digest) : Option ModelSec :=
  match modelByDigest s n d with
  | some k => modelOf s k
  | none =>
    if (laneOf s n).role = roleCache then
      match s.mpl.current with
      | some p => p.models.find? fun m => m.digest == d
      | none => none
    else none

/-- Each item has the size that its KIND, STATE, INDEX and the KV profile give (R192); probe pieces are cut by the sender's slot
size, which its largest piece shows. -/
def itemsOk (m : ModelSec) (its : List LegItem) : Bool :=
  let piece := ((its.filter fun it => it.kind == kProbe).map (·.bytes)).foldl max 0
  its.all fun it => decide (it.bytes = itemBytes m piece it.kind it.state it.index.toNat) && it.state != 3

/-- The checks of R174, R180, R181, R185, R195, R199, R204 and R205 on a request from another device for a lane. -/
def inboundSound (s : State) (r : LegReq) (n : LaneNo) : Bool :=
  btnOpen s && inboundOk s n r.type
  && (r.type = legHandoff || r.type = legPark || r.type = legResume || r.type = legCopy
      || (r.type = legSwap && (laneOf s n).role == roleGen && n == r.srcLane))
  && r.recordRsvClear && r.counterOk && r.originOk && !r.batons.isEmpty && (r.type = legSwap || decide (r.batons.length = 1))
  && ((laneOf s n).role != roleGen || decide (r.nshares.toNat = shareCount s))
  && (r.type != legHandoff || hasRoom (laneOf s n))
  && (r.type != legResume || (!r.cancelled && s.btn.pulls.any fun p =>
      r.batons.contains p.baton && p.holder == r.src && (!r.ended || p.ext.isSome)))
  && !s.te.fenced.contains r.src && !s.te.dead.contains r.src

/-- Capacity-tier bytes of an inbound leg: FAR items, and for a PARK the SPILL of the others. -/
def inboundTier (r : LegReq) : Nat :=
  (r.items.map fun it => if it.state = pFar || r.type = legPark then packed it.bytes else 0).sum

/-- Try to accept a request into one lane. -/
def tryInbound (s : State) (r : LegReq) (n : LaneNo) : State × Bool :=
  match inboundModel s n r.digest with
  | none => (s, false)
  | some m =>
    if !inboundSound s r n || !itemsOk m r.items then (s, false)
    else
      let dirs := if (laneOf s n).role == roleGen && m.retrieve != 0 then r.batons.length else 0
      match acceptLeg s ⟨r.type, false, r.src, some r.entry, r.srcLane, n, r.batons, r.lead, r.items, r.states, none, inboundTier r,
          dirs⟩ m with
      | (s, none) => (s, false)
      | (s, some _) => (if dirs = 0 then s else r.batons.foldl (fun s b => dirChange s n true b) s, true)

/-- The first lane of a list that accepts. -/
def tryInboundLanes (s : State) (r : LegReq) : List LaneNo → State × Bool
  | [] => (s, false)
  | n :: ns =>
    match tryInbound s r n with
    | (s, true) => (s, true)
    | (s, false) => tryInboundLanes s r ns

/-- A leg is asked for at its target (R195). The device that resumes chooses its own generation lane, in lane order (R22, log
57); every other leg names its lane. A pull that no lane takes ends with REFUSED (R20). -/
def inboundOpen (s : State) (r : LegReq) : State :=
  let x := tryInboundLanes s r (if r.type = legResume then laneNos else [r.dstLane])
  if x.2 then x.1
  else
    let s := refuseAsk x.1 r.src r.entry (r.batons.headD 0) .refused
    if r.type = legResume then
      (s.btn.pulls.filter fun p => r.batons.contains p.baton && p.holder == r.src).foldl (fun s p => endPull s p .refused) s
    else s

/-- Another device pulls a baton that rests here (R22, R203): its copies are checked, evicted parts come back by a RECALL, and the
RESUME leg opens toward the device that asks. A baton that is still parking is sent once it rests. -/
def servePull (s : State) (b : BatonId) (dev : DevId) (ext : Bool) : State :=
  let s := scrub (endAudit s b .discarded) b
  match findReq s b with
  | none => refuseAsk s dev 0 b .refused
  | some r =>
    match r.lost, r.lane with
    | some x, _ => refuseAsk s dev 0 b (lossCode x)
    | none, none => refuseAsk s dev 0 b .refused
    | none, some n =>
      let wait := fun (s : State) => modReq s b fun r => { r with pulledBy := some (dev, ext) }
      if r.phase = .parking then wait s
      else if !(r.phase = .parked || r.phase = .ended) || r.cancelled || (r.endReason != 0 && !ext)
          || r.samp.counter ≠ r.log.length || !originsOk r then refuseAsk s dev 0 b .refused
      else if !(evicted r).isEmpty then
        match openRecall s b n with
        | (s, true) => wait s
        | (s, false) => refuseAsk s dev 0 b .refused
      else match openRemote s legResume b dev 0 with
        | (s, true) => modReq s b fun r => { r with pulledBy := none }
        | (s, false) => refuseAsk s dev 0 b .refused

/-- A device that waits for a baton is served now. -/
def serveWaiting (s : State) (b : BatonId) : State :=
  match findReq s b with
  | some r =>
    match r.pulledBy with
    | some (dev, ext) => servePull (modReq s b fun r => { r with pulledBy := none }) b dev ext
    | none => s
  | none => s

/-- Pages that join an open SWAP leg are allocated as they are added; where one cannot be the leg aborts with REFUSED (R181). -/
def inboundAdd (s : State) (r : LegReq) : State :=
  match s.btn.legs.find? (fun g => g.atTarget && !g.localLeg && g.peer == r.src && g.peerId == some r.entry && g.type == legSwap) with
  | none => lateDrop s
  | some g =>
    match inboundModel s g.dstLane r.digest with
    | none => abortLeg s g .refused true
    | some m =>
      match allocItems s g.dstLane m r.items with
      | (s, none) => abortLeg s g .refused true
      | (s, some places) =>
        let s := modLeg s g.index fun g => { g with
          state := if g.state = .landed then .clearing else g.state
          pages := g.pages ++ (r.items.zip places).map fun p => ⟨p.1, false, 0, 0, 0, false, p.2.1, p.2.2, none⟩ }
        clearLeg 65536 s g.index

/-- LEG_REQUEST: space, entry and control clearance, or REFUSED (R195). A request of this device opens a local leg; what another
device's BTN asks comes in LEG_CTL frames (log 17). -/
def execLegRequest (f : Option Frame) (r : LegReq) (s : State) : Res :=
  match f with
  | none => .next (match r.ask, r.batons with
      | .opens, [b] => (openLocal s r.type b r.dstLane).1
      | _, _ => s)
  | some f => .next (rxSystem s f opLegCtl fun s =>
      let r := { r with src := (parseHdr s f).src }
      match r.ask with
      | .opens => inboundOpen s r
      | .pull => r.batons.foldl (fun s b => servePull s b r.src r.ext) s
      | .add => inboundAdd s r
      | .hold => { s with btn := { s.btn with legs := s.btn.legs.map fun g =>
          if g.atTarget && g.peer == r.src && g.peerId == some r.entry then { g with hold := true } else g } })

/-! ### Control parts (R197, R198) -/

/-- LEG_CONTROL_PART_RX inside the device: the part as it arrived must have the CRC of the part as it stands. -/
def partHere (s : State) (leg : LegId) (part : CtlKind) (bytes : List Byte) : State :=
  match findLeg s leg with
  | none => lateDrop s
  | some g =>
    let pn := partNum 0 part
    if !g.atTarget || (g.state != .opened && g.state != .clearing) then lateDrop s
    else if g.ctlBlocks = 0 || !g.partsLeft.contains pn || !g.localLeg then s
    else match g.batons.head?.bind (findReq s) with
      | none => s
      | some r =>
        if crc32c bytes = crc32c (ctlBytes s r part) then partsDone (passPart s g pn bytes) g.index
        else failPart s g pn

/-- LEG_CONTROL_PART_RX in a LEG_CTL frame: AUX names the leg, ADDR the part and the offset, and FLAGS.LAST its end. -/
def partFrameIn (s : State) (f : Frame) : State :=
  let h := parseHdr s f
  let pn := (f.addr.extractLsb' 32 32).toNat
  match findLeg s (f.aux.setWidth 28) with
  | none => lateDrop s
  | some g =>
    if !g.atTarget || g.localLeg || g.peer ≠ h.src || (g.state != .opened && g.state != .clearing) || g.ctlBlocks = 0
        || !g.partsLeft.contains pn then lateDrop s
    else takeChunk s g pn (f.addr.extractLsb' 0 32).toNat (h.flags.getLsbD 1) f.payload

/-- LEG_CONTROL_PART_RX: a part that fails its CRC is discarded, counted and requested again; the third failure of a part
aborts the leg with DISCARDED. -/
def execLegControlPartRx (x : CtlRx) (s : State) : Res :=
  .next (match x with
    | .here leg part bytes => partHere s leg part bytes
    | .track f => rxSystem s f opLegCtl fun s => partFrameIn s f)

/-! ### Pages -/

/-- The checks of R192 against the item at ORDINAL. COPY and LOC are not compared. -/
def hdrSound (leg : LegId) (k : Nat) (it : LegItem) (h : PageHdr) : Bool :=
  h.baton == it.baton && h.leg == leg.setWidth 32 && decide (h.ordinal.toNat = k) &&
  h.map.extractLsb' 60 4 == it.kind ++ it.state && h.map.extractLsb' 48 10 == it.layer &&
  h.map.extractLsb' 32 16 == it.index && decide (h.bytes.toNat = it.bytes) && h.crc == crc32c (hdrHead h)

/-- Frames of one page: header and image, cut at the payload limit (R189). -/
def sendPage (s : State) (g : Leg) (k : Nat) (it : LegItem) (image : List Byte) : State :=
  (cutBytes (tableLimit s sysTable) (hdrBytes (pageHdr (targetId g) k it) ++ image)).foldl (fun s p =>
    sysSend s g.peer opLegPage ((targetId g).setWidth 32) (lo32 k ++ lo32 p.1) p.2) s

/-- The word of a leg message at a place. -/
def msgWord (f : Frame) (i : Nat) : Word := (bytesWords f.payload).getD i 0

/-- The kind of a leg message, none for a frame that carries a control part. -/
def msgKind (f : Frame) : Option Nat :=
  let pn := (f.addr.extractLsb' 32 32).toNat
  if 2147483648 ≤ pn then some (pn - 2147483648) else none

/-- The source end that a message from its target names: by its own leg ID, and by the target's once it is known. -/
def findSource (s : State) (f : Frame) : Option Leg :=
  s.btn.legs.find? fun g => !g.atTarget && !g.localLeg && g.peer == (parseHdr s f).src && (legIdOf g).setWidth 32 == msgWord f 3
    && (g.peerId.isNone || g.peerId == some (f.aux.setWidth 28))

/-- The source sends the pages that a clearance covers, in leg order. -/
def sendCleared (s : State) (g : Leg) (pages : Nat) : State :=
  let ps := ((g.pages.zipIdx.drop g.sent).take pages)
  let s := ps.foldl (fun s p =>
    match findReq s p.1.item.baton with
    | some r => sendPage s g p.2 p.1.item (itemImage s r p.1.item)
    | none => s) s
  setPrecopy (sourceDone (modLeg s g.index fun g => { g with sent := g.sent + ps.length }) g.index)

/-- A CLEAR at its source: control clearance, which is also the target's acceptance and names its leg ID; data clearance; or a
part that is to be sent again (R189, R198). -/
def takeClear (s : State) (f : Frame) (g : Leg) : State :=
  let n := (msgWord f 1).toNat
  let s := modLeg s g.index fun g => { g with peerId := some (f.aux.setWidth 28) }
  match s.btn.legs.find? (fun x => x.index == g.index) with
  | none => s
  | some g =>
    match (msgWord f 0).toNat with
    | 0 => sendParts (n + g.ctlBlocks + 1) (modLeg s g.index fun g => { g with ctlBlocks := g.ctlBlocks + n }) g.index
    | 1 => sendCleared s g n
    | _ => sendParts (g.ctlBlocks + 1) (modLeg s g.index fun g => { g with
        partsLeft := if g.partsLeft.contains n then g.partsLeft else g.partsLeft ++ [n] }) g.index

/-- CLEAR_RX: the source sends the control parts or the pages that the clearance covers; after the last it is RELEASING. -/
def execClearRx (f : Frame) (s : State) : Res :=
  .next (rxSystem s f opLegCtl fun s =>
    match findSource s f with
    | none => lateDrop s
    | some g => if msgKind f = some msgClear && (g.state = .sending || g.state = .releasing) then takeClear s f g else lateDrop s)

/-- LEG_PAGE_RX: each byte at its offset in the cleared page; a frame of a stale leg or beyond the clearance falls (R197). -/
def execLegPageRx (f : Frame) (s : State) : Res :=
  .next (rxSystem s f opLegPage fun s =>
    match findLeg s (f.aux.setWidth 28) with
    | none => lateDrop s
    | some g =>
      let k := (f.addr.extractLsb' 32 32).toNat
      let off := (f.addr.extractLsb' 0 32).toNat
      match g.pages[k]? with
      | none => lateDrop s
      | some p =>
        if !g.atTarget || g.localLeg || g.peer ≠ (parseHdr s f).src || g.state ≠ .clearing || !p.cleared || p.written || decide (32 + p.item.bytes < off + f.payload.length) then
          lateDrop s
        else
          let s := { s with mem := { s.mem with xz := memStore s.mem.xz (xzKey g.index k off) f.payload } }
          modLeg s g.index fun g => setPage g k fun p =>
            { p with arrived := p.arrived + f.payload.length, head := if off = 0 then some f else p.head })

/-- The header as staged. -/
def stagedHdr (s : State) (g : Leg) (k : Nat) : PageHdr :=
  let b := memBytes s.mem.xz (xzKey g.index k 0) 32
  ⟨BitVec.ofNat 64 (recNat b 0 8), lo32 (recNat b 8 4), lo32 (recNat b 12 4), BitVec.ofNat 64 (recNat b 16 8),
    lo32 (recNat b 24 4), lo32 (recNat b 28 4)⟩

/-- A page whose every byte has arrived. A local leg's bytes come from the lane itself. -/
def pageArrived (s : State) (g : Leg) (k : Nat) (p : LegPage) (h : PageHdr) : Bool :=
  g.atTarget && g.state == .clearing && p.cleared && !p.written &&
  (g.localLeg || (decide (32 + p.item.bytes ≤ p.arrived) && h == stagedHdr s g k))

/-- Write a page's image in the form of its target (R193): into its slots, or for a FAR page into the capacity tier. The run cells
of a lane hold the run records that the request carries. -/
def writeImage (s : State) (g : Leg) (k : Nat) (p : LegPage) : State :=
  let image := if g.localLeg then
      (match findReq s p.item.baton with
       | some r => itemImage s r p.item
       | none => [])
    else xzImage s g k p.item.bytes
  if p.item.state = pFar then
    match g.tier with
    | some t => { s with mem := { s.mem with cap := vmod s.mem.cap t.1 fun m => memStore m (farAddr g k) image } }
    | none => s
  else if p.item.kind = kRunRec && !isCache (laneOf s g.dstLane) then s
  else setStack s g.dstLane (storeImage (stackOf s g.dstLane) (laneOf s g.dstLane) p.slots p.off image)

/-- XZ_PAGE_WRITTEN: header check, re-encoding, write, granules free (R189, R192). A page that fails is dropped and counted,
it is a false start, and the leg aborts. -/
def execXzPageWritten (leg : LegId) (ordinal : Nat) (hdr : PageHdr) (s : State) : Res :=
  match findLeg s leg with
  | none => .next s
  | some g =>
    match g.pages[ordinal]? with
    | none => .next s
    | some p =>
      if !pageArrived s g ordinal p hdr then .next s
      else if hdrSound leg ordinal p.item hdr then .next (pageDone (writeImage s g ordinal p) g ordinal)
      else
        let s := { s with xz := { s.xz with hdrBad := satInc s.xz.hdrBad } }
        let s := match p.head with
          | some f => falseStart s f (parseHdr s f) 0x09
          | none => s
        .next (abortLeg s g .falseStart true)

/-! ### Ends of legs -/

/-- The share has gone to another device, which a resume here pulls it from later; what waits here ends, and everything it held
frees. -/
def leaveDevice (d : DevId) (s : State) (b : BatonId) : State :=
  match findReq s b with
  | none => s
  | some r =>
    let s := modReq s b fun r => { r with waitPark := [] }
    let s := freeReq (completeEach s b r.waitPark .ok) b .refused
    { s with btn := { s.btn with moved := (s.btn.moved.filter fun x => x.1 != b) ++ [(b, d)] } }

/-- LEG_COMMIT_RX: a RELEASING source frees the share; from any other leg it is void. -/
def execLegCommitRx (f : Frame) (s : State) : Res :=
  .next (rxSystem s f opLegCtl fun s =>
    match findSource s f with
    | none => lateDrop s
    | some g =>
      if msgKind f ≠ some msgCommit || g.state ≠ .releasing then s
      else swapEnd (g.batons.foldl (leaveDevice g.peer) (dropLeg s g.index)))

/-- The finish code of a byte. -/
def finishOfByte (b : Byte) : Finish :=
  match b.toNat with
  | 0 => .ok | 1 => .discarded | 2 => .stalled | 3 => .refused | 4 => .fenced | 5 => .keyDenied | 6 => .pageFaultResent
  | 7 => .planMismatch | 8 => .deadTarget | 9 => .heldNoPage | 10 => .cancelledDropped | 11 => .abandoned | 12 => .falseStart
  | 13 => .lapOverrun | 14 => .laneRetired | 15 => .auditMismatch
  | _ => .discarded

/-- The target end that a message from its source names. -/
def findTarget (s : State) (f : Frame) : Option Leg :=
  s.btn.legs.find? fun g => g.atTarget && !g.localLeg && g.peer == (parseHdr s f).src
    && g.peerId == some ((msgWord f 3).setWidth 28)

/-- The pull that a refusal names by its baton. -/
def findPull (s : State) (f : Frame) : Option Pull :=
  s.btn.pulls.find? fun p => p.holder == (parseHdr s f).src && batonWords p.baton == [msgWord f 4, msgWord f 5]

/-- LEG_ABORT_RX: the leg ends ABORTED here too; a pull that its holder refuses ends with the code. -/
def execLegAbortRx (f : Frame) (s : State) : Res :=
  .next (rxSystem s f opLegCtl fun s =>
    let code := finishOfByte ((msgWord f 0).setWidth 8)
    if msgKind f ≠ some msgAbort then lateDrop s
    else match findSource s f, findTarget s f with
      | some g, _ => abortLeg s g code false
      | none, some g => abortLeg s g code false
      | none, none => (match findPull s f with
          | some p => endPull s p code
          | none => lateDrop s))

/-- LEG_IDLE_TIMEOUT at a target with clearance outstanding and not filled (R196); inside the device nothing is in flight. -/
def execLegIdleTimeout (leg : LegId) (s : State) : Res :=
  match findLeg s leg with
  | none => .next s
  | some g =>
    if g.atTarget && g.state == .clearing && g.pages.any fun p => p.cleared && decide (p.arrived < 32 + p.item.bytes) then
      .next (abortLeg { s with btn := { s.btn with stallCnt := satInc s.btn.stallCnt } } g .stalled true)
    else .next s

/-- LEG_SOURCE_TIMEOUT of a SENDING source (R196); a source in RELEASING never aborts on a timer (R184). -/
def execLegSourceTimeout (leg : LegId) (s : State) : Res :=
  match findLeg s leg with
  | none => .next s
  | some g => if !g.atTarget && g.state == .sending then .next (abortLeg s g .stalled true) else .next s

/-- The leg of a type that moves a baton inside the device. -/
def legOf (s : State) (type : BitVec 4) (b : BatonId) : Option Leg :=
  s.btn.legs.find? fun g => g.type == type && g.batons == [b]

/-- SPILL_DONE: the baton becomes PARKED or ENDED, SRG writes the NOTICE (R201), and a device that waits for it is served (R22). -/
def execSpillDone (baton : BatonId) (s : State) : Res :=
  match legOf s legSpill baton with
  | none => .next s
  | some g => .next (serveWaiting (spillCommit s baton g) baton)

/-- A resume ends with a code; its baton stays parked. -/
def resumeFails (s : State) (b : BatonId) (code : Finish) : State :=
  match findReq s b with
  | none => s
  | some r =>
    let s := setPhase (modReq s b fun r => { r with waitLand := [], waitPark := [], parkNext := false, landing := none }) b
      (if r.endReason = 0 then .parked else .ended)
    completeEach (completeEach s b r.waitLand code) b r.waitPark .ok

/-- RECALL_DONE: the parts are back in the cache lane, and the RESUME leg opens, here or to the device that pulls (R203); an
audit's RECALL is followed by the leg that fills its scratch slots (R206). -/
def execRecallDone (baton : BatonId) (s : State) : Res :=
  match legOf s legRecall baton with
  | none => .next s
  | some g =>
    if g.replay then .next (openReplayLeg (dropLeg s g.index) baton)
    else
      let s := recallLand s g baton
      match findReq s baton with
      | none => .next s
      | some r =>
        if r.pulledBy.isSome then
          .next (serveWaiting (setPhase s baton (if r.endReason = 0 then .parked else .ended)) baton)
        else
          let x := tryResumeLanes s baton (resumeLanes s r)
          .next (if x.2 then x.1 else resumeFails x.1 baton .refused)

/-- CONTROL_SCRUB of a baton at rest (R202). -/
def execControlScrub (baton : BatonId) (s : State) : Res :=
  match findReq s baton with
  | none => .next s
  | some r => .next (if r.phase = .parked || r.phase = .ended then scrub s baton else s)

/-! ### The end of an audit (R207, R208) -/

/-- The bytes of an image that an audit compares: all of a page whose positions all lie below TO; of the page that holds TO - 1
its blocks of sixteen committed positions, where both images are open. -/
def comparedBytes (m : ModelSec) (e : PageEnt) (upto : Nat) : Nat :=
  if 128 * (e.index.toNat + 1) ≤ upto then (if e.state = pOpen then openImage m else sealedImage m)
  else if e.state = pOpen then (upto - 128 * e.index.toNat) / 16 * (openImage m / 8) else 0

/-- The regenerated pages of a replay in leg order (R190), each with the stored entry that it is compared with. -/
def comparedPages (m : ModelSec) (r q : Req) (a : AuditRun) : List (PageEnt × PageEnt) :=
  (legOrder m r.done (q.pages.filter fun e => e.kind == kPage && decide (a.fromPos.toNat ≤ 128 * e.index.toNat))).filterMap fun e =>
    match findPage r kPage e.layer.toNat e.index.toNat with
    | some x => if 0 < comparedBytes m e a.toPos.toNat && ((x.state = pOpen) = (e.state = pOpen)) then some (e, x) else none
    | none => none

/-- A regenerated image in its scratch slots. -/
def scratchImage (s : State) (n : LaneNo) (e : PageEnt) (len : Nat) : List Byte := loadImage (stackOf s n) (laneOf s n) e.slots 0 len

/-- The stored image that it is compared with. -/
def storedImage (s : State) (r : Req) (e : PageEnt) (len : Nat) : List Byte := (entImage s r e).take len

/-- REPAIR: the regenerated bytes replace the stored ones, in the cache lane and in the capacity-tier copy. -/
def repairPage (s : State) (r : Req) (e : PageEnt) (bs : List Byte) : State :=
  let s := match r.lane with
    | some n => if e.slots.isEmpty then s else setStack s n (storeImage (stackOf s n) (laneOf s n) e.slots e.off bs)
    | none => s
  match r.capPort with
  | some p => if e.copy || e.state = pFar then
      { s with mem := { s.mem with cap := vmod s.mem.cap p fun mm => memStore mm e.tierAddr bs } } else s
  | none => s

/-- AUDIT_DONE: once the replay has reached TO its images are compared: OK, or AUDIT_MISMATCH with FLAGS.AUDIT_FAIL; REPAIR
overwrites what differs; the scratch slots free. -/
def execAuditDone (baton : BatonId) (s : State) : Res :=
  match findReq s baton, s.btn.replays.find? (fun q => q.id == baton) with
  | some r, some q =>
    match r.audit, modelOf s r.model with
    | some a, some m =>
      if q.done < a.toPos.toNat then .next s
      else
        let ps := comparedPages m r q a
        let bad := ps.filter fun p =>
          let n := comparedBytes m p.1 a.toPos.toNat
          scratchImage s a.lane p.1 n != storedImage s r p.2 n
        let s := if a.repair then bad.foldl (fun s p =>
            repairPage s r p.2 (scratchImage s a.lane p.1 (comparedBytes m p.1 a.toPos.toNat))) s else s
        let s := dropReplay (freeSlots s a.lane a.scratch) baton
        let s := modReq s baton fun r => { r with audit := none, auditFail := r.auditFail || !bad.isEmpty }
        let s := if bad.isEmpty then s
          else { s with btn := { s.btn with auditMismatch := satInc s.btn.auditMismatch } }
        let first := match bad with | p :: _ => [p.1.layer.setWidth 32, p.1.index.setWidth 32] | [] => [0, 0]
        .next (completeB s a.cmd 0x07 (if bad.isEmpty then .ok else .auditMismatch) 0
          ([lo32 ps.length, lo32 bad.length] ++ first))
    | _, _ => .next s
  | _, _ => .next s

end Sys2Proof.Machine
end

