-- ==== Sys2Proof/Machine/Resets.lean ====
section
/-! DEFINITION. Reset sources and what each reaches (13_start_reset_lifecycle.md R340 to R344; R88, R115, R145, R363, R370 to
R373, R402, R416, R418, R431). -/

namespace Sys2Proof.Machine

open Sys2Proof

/-! ### Device-wide resets (R340, R341) -/

/-- A trial or an unfinished fallback decides what runs after a reset other than POR; otherwise a GOOD slot runs on (R370,
R371). True where a trial fell back. -/
def runAfterReset (s : State) : State × Bool :=
  match runningSlot s with
  | none => (s, false)
  | some b =>
    if inTrial s b then
      let dest := fallbackTo s b
      let s := setSlotState s b .rejected
      ({ s with fwu := { s.fwu with
          running := dest, fellBack := true, healthy := false, fallbackCnt := satInc s.fwu.fallbackCnt } }, true)
    else if (fwuSlot s b).state = .good then (s, false)
    else
      let dest := fallbackTo s b
      ({ s with fwu := { s.fwu with running := dest } }, false)

/-- FWU at a reset other than POR: FWU_CMD clears, and a STAGE in progress ends with its slot EMPTY (R373). -/
def fwuReset (s : State) : State × Bool :=
  let s := match s.fwu.op with
    | .stage b _ => setFwuSlot s b FwSlot.empty
    | .none => s
    | .activate _ => s
    | .rom => s
  let x := runAfterReset s
  ({ x.1 with fwu := { x.1.fwu with op := .none, fallback := false, result := 0, reason := 0, rev := 0 } }, x.2)

/-- Start-up goes back to the main start; the standby rows are done, and the strap is sampled again (R346, R350). -/
def bootAgain (b : Boot) : Boot :=
  { b with
    strapDue := true, mainStart := false, fabricUp := false, coachUp := false, dieLinksUp := false, coreMarch := false
    stacksTrained := false, stackTest := false, imageChecked := false }

/-- The levels and timers of R427 return to 0. -/
def coolLevels (sta : Sta) : Sta :=
  { sta with
    tl := Vector.replicate 4 0, tUp := Vector.replicate 4 0, tChg := Vector.replicate 4 0, pl := 0, pUp := 0, pChg := 0
    power := [], coolSince := Vector.replicate 4 none, lowSince := none, hotAtTrip := [], polStopped := false }

/-- STA keeps its registers; the cause bits gather (R341, R345, R363). -/
def staAgain (sta : Sta) (fatal : Bool) (mark : Sta → Sta) : Sta :=
  mark { coolLevels sta with
    afterFatal := sta.afterFatal || fatal, blockHeld := 0, fatalPin := false, boot := bootAgain sta.boot }

/-- A lane after a device-wide reset other than POR: UNASSIGNED, but a RETIRED lane stays RETIRED with its cause (R115); rows
repaired since POR stay counted (R418). -/
def laneAgain (s : State) (n : LaneNo) : Lane :=
  let r := Lane.reset n
  let l := laneOf s n
  let r := { r with hbc := { r.hbc with repaired := l.hbc.repaired } }
  if l.ctl = .retired then { r with ctl := .retired, cause := l.cause } else r

/-- A main brown-out, RESET_N or a device software reset: every domain except the standby domain resets. What served ends
without completion (R422). -/
def deviceReset (s : State) (mark : Sta → Sta) : State :=
  let x := fwuReset s
  let low := s.sta.fatalPin
  let s := x.1
  let s := { State.reset with
    pending := s.pending, out := s.out, free := s.free
    clk := { s.clk with now := 0, ptpLock := false, ptpHold := none }
    glb := { Glb.reset with bolzilStep := s.glb.bolzilStep, poletteStep := s.glb.poletteStep }
    coach := { Coach.reset with romRev := s.coach.romRev }
    sel := s.sel.filter fun e => !hostAccessor e.1
    sta := staAgain s.sta s.glb.fatal mark
    fus := s.fus, fwu := s.fwu, lanes := Vector.ofFn (laneAgain s)
    spi := s.spi, uar := s.uar, i2c := s.i2c, jtg := s.jtg }
  let s := if x.2 then raiseEvt s 8 else s
  if low then drivePin s .fatalN false else s

/-- The main start: every main rail good and RESET_N high (R350, R422). -/
def mainStart (s : State) : State :=
  let b := s.sta.boot
  { s with sta := { s.sta with boot := { b with mainStart := b.mainStart || (b.railGood == 0xFF && b.resetN) } } }

/-- POWER_ON_RESET: everything but the fuses' contents, the silicon and mask revisions, and the levels on the pins. -/
def execPowerOnReset (s : State) : Res :=
  let f := s.fus
  let b := s.sta.boot
  let low := s.sta.fatalPin
  let s' := { State.reset with
    pending := s.pending, out := s.out, free := s.free
    glb := { Glb.reset with bolzilStep := s.glb.bolzilStep, poletteStep := s.glb.poletteStep }
    coach := { Coach.reset with romRev := s.coach.romRev }
    sta := { Sta.reset with boot := { Boot.reset with railGood := b.railGood, resetN := b.resetN, perstN := b.perstN } }
    fus := { Fus.reset with
      serial := f.serial, hbmCode := f.hbmCode, pinMap := f.pinMap, sramRepair := f.sramRepair, coreFailed := f.coreFailed
      intent := f.intent, commit := f.commit, planKey := f.planKey, fwKey := f.fwKey, family := f.family
      returnKey := f.returnKey } }
  .next (if low then drivePin s' .fatalN false else s')

/-- The lowest-numbered rail of a mask. -/
def lowestRail (rails : BitVec 8) : BitVec 4 :=
  match (List.range 8).find? fun r => rails.getLsbD r with
  | some r => BitVec.ofNat 4 r
  | none => 0xF

/-- MAIN_BROWNOUT of the rails of a mask (R421). -/
def execMainBrownout (rails : BitVec 8) (s : State) : Res :=
  if rails = 0 then .next s
  else .next (deviceReset s fun t => { t with
    brownout := true, rail := lowestRail rails, boot := { t.boot with railGood := t.boot.railGood &&& ~~~rails } })

/-- RESET_PIN. -/
def execResetPin (s : State) : Res :=
  .next (deviceReset s fun t => { t with pinCause := true, boot := { t.boot with resetN := false } })

/-- RESET_PIN_RELEASE. -/
def execResetPinRelease (s : State) : Res :=
  .next (mainStart { s with sta := { s.sta with boot := { s.sta.boot with resetN := true } } })

/-- RAIL_GOOD. -/
def execRailGood (r : Fin 8) (s : State) : Res :=
  .next (mainStart { s with sta := { s.sta with boot := { s.sta.boot with railGood := s.sta.boot.railGood ||| (1 <<< r.val) } } })

/-- Who may ask for a device software reset: the PF and those with its rights; after a fatal error the SPI target alone (R345). -/
def mayReset (s : State) : Accessor → Bool
  | .spi => true
  | .pf => !s.glb.fatal
  | .uart => !s.glb.fatal
  | .vf _ => false
  | .jtag => false

/-- STA_SW_RESET: UNLOCK in the same write. -/
def swReset (s : State) (a : Accessor) (v : Word) : State :=
  if bits v.toNat 31 16 = 0x5A5A && v.getLsbD 0 && mayReset s a then
    mainStart (deviceReset s fun t => { t with software := true })
  else s

/-- DEVICE_SOFTWARE_RESET: a write to STA_SW_RESET. -/
def execDeviceSoftwareReset (a : Accessor) (v : Word) (s : State) : Res := regCmd s a 0x0001000C fun s => swReset s a v

/-! ### Block resets (R343) -/

/-- A write to STA_BLOCK_RESET: each block named and not yet held is reset and held. -/
def blockWrite (s : State) (v : Word) : State :=
  (List.range 10).foldl (fun s k =>
    if v.getLsbD k && !s.sta.blockHeld.getLsbD k then
      let s := blockReset s k
      { s with sta := { s.sta with blockHeld := s.sta.blockHeld ||| (1 <<< k) } }
    else s) s

/-- BLOCK_SOFTWARE_RESET. -/
def execBlockSoftwareReset (a : Accessor) (v : Word) (s : State) : Res := regCmd s a 0x00010010 fun s => blockWrite s v

/-- BLOCK_RESET_RELEASE. -/
def execBlockResetRelease (block : Fin 10) (s : State) : Res :=
  if s.sta.blockHeld.getLsbD block.val then
    .next (pumpAll { s with sta := { s.sta with blockHeld := s.sta.blockHeld &&& ~~~((1 : BitVec 10) <<< block.val) } })
  else .next s

/-! ### Lane resets (R344) -/

/-- Nanoseconds of 64 cycles of the lane's clock. -/
def laneHold (s : State) (n : LaneNo) : Nat := ceilDiv 64000 (levelClock (dieLevel s (dieOf n)))

/-- The lane's steward, cores and HEAT page level start again (R88, R115, R145, R363, R416); its HBC and stack do not. -/
def laneStart (n : LaneNo) (l : Lane) : Lane :=
  let r := Lane.reset n
  { r with
    ctl := if l.ctl = .retired then .retired else .unassigned
    cause := l.cause, dataOpen := l.dataOpen, destructed := l.destructed, hbc := l.hbc
    kv := { r.kv with
      reserveFree := l.kv.reserveFree, sharedFree := l.kv.sharedFree, reserveSize := l.kv.reserveSize, clean := l.kv.clean
      reclaimCnt := l.kv.reclaimCnt } }

def setRefused (s : State) (n : LaneNo) (on : Bool) : State :=
  { s with sta := { s.sta with
    laneRefused := if on then s.sta.laneRefused ||| (1 <<< n.val) else s.sta.laneRefused &&& ~~~((1 : BitVec 12) <<< n.val) } }

def laneResetOk (s : State) (n : LaneNo) : Bool :=
  let c := (laneOf s n).ctl
  (c == .unassigned || c == .stopped || c == .retired) && !holdsShare s n

def laneResetOne (s : State) (n : LaneNo) : State :=
  if laneResetOk s n then
    let s := failLaneCmds (dropReplacement (returnSpares s n) n) n .discarded
    let until_ := s.clk.now + laneHold s n
    setRefused (modLane s n fun l => { laneStart n l with heldUntil := until_ }) n false
  else setRefused s n true

/-- A write to STA_LANE_RESET: REFUSED bits clear where 1 is written, then the lanes named, and not yet held, reset. -/
def laneResetWrite (s : State) (v : Word) : State :=
  let s := { s with sta := { s.sta with laneRefused := s.sta.laneRefused &&& ~~~(v.extractLsb' 16 12) } }
  laneNos.foldl (fun s n => if v.getLsbD n.val && !laneHeld s n then laneResetOne s n else s) s

/-- LANE_RESET. -/
def execLaneReset (a : Accessor) (v : Word) (s : State) : Res := regCmd s a 0x00010014 fun s => laneResetWrite s v

/-- TAP_RESET: the TAP and its data registers. -/
def execTapReset (s : State) : Res := .next { s with jtg := Jtg.reset }

end Sys2Proof.Machine
end

