-- ==== Sys2Proof/Machine/LifeCycle.lean ====
section
/-! DEFINITION. Fuses and the life cycle (13_start_reset_lifecycle.md R348, R358 to R362; 14_firmware_update.md R372). -/

namespace Sys2Proof.Machine

open Sys2Proof

/-! ### Life-cycle words (R359, R361) -/

/-- How a life-cycle word reads. -/
inductive LcWord where
  | clear | part | set
deriving DecidableEq, Repr

def onesOf (w : Word) : Nat := ((List.range 32).filter fun i => w.getLsbD i).length

def lcRead (w : Word) : LcWord := if 24 ≤ onesOf w then .set else if onesOf w ≤ 8 then .clear else .part

/-- State k of R358. -/
def lcOf : Nat → LcState
  | 0 => .blank
  | 1 => .provisioned
  | 2 => .field
  | 3 => .returned
  | 4 => .scrapped
  | _ => .invalid

/-- The number of a state; INVALID has none. -/
def lcIndex : LcState → Option Nat
  | .blank => some 0
  | .provisioned => some 1
  | .field => some 2
  | .returned => some 3
  | .scrapped => some 4
  | .invalid => none

/-- The highest k with COMMIT_1 to COMMIT_k set. -/
def lcHighest (f : Fus) : Nat := ((List.range 4).takeWhile fun i => lcRead (vgetD f.commit i 0) == .set).length

/-- A word above COMMIT_k+1 is set or partial. -/
def lcAbove (f : Fus) (k : Nat) : Bool :=
  (List.range 4).any fun j => decide (k < j) && (lcRead (vgetD f.intent j 0) != .clear || lcRead (vgetD f.commit j 0) != .clear)

/-- The decoding at power-up: state, and whether the next transition is pending. -/
def lcDecode (f : Fus) : LcState × Bool :=
  let k := lcHighest f
  if lcAbove f k then (.invalid, false)
  else if 4 ≤ k then (.scrapped, false)
  else match lcRead (vgetD f.intent k 0), lcRead (vgetD f.commit k 0) with
    | .clear, .clear => (lcOf k, false)
    | .part, .clear => (lcOf k, true)
    | .set, .clear => (lcOf k, true)
    | .set, .part => (lcOf k, true)
    | _, _ => (.invalid, false)

/-- A life-cycle word reads partial. -/
def lcAnyPartial (f : Fus) : Bool := f.intent.toList.any (fun w => lcRead w == .part) || f.commit.toList.any fun w => lcRead w == .part

/-- CRC_BAD: plan-key hash, firmware key hash, family key, return key hash. -/
def crcBits (f : Fus) : BitVec 4 :=
  BitVec.ofNat 4 (ofB (!keyOk f.planKey 48) + at_ (ofB (!keyOk f.fwKey 48)) 1 + at_ (ofB (!keyOk f.family 32)) 2
    + at_ (ofB (!keyOk f.returnKey 48)) 3)

/-- FUSE_LOAD_DONE: fuses are checked, the life-cycle state is decoded, and the pin map applies. -/
def execFuseLoadDone (s : State) : Res :=
  if !s.sta.boot.stbyReleased || s.sta.boot.fusesLoaded then .next s
  else
    let x := lcDecode s.fus
    .next { s with
      sta := { s.sta with boot := { s.sta.boot with fusesLoaded := true } }
      fus := { s.fus with
        lc := x.1, pending := x.2, pendingTo := if x.2 then BitVec.ofNat 3 (lcHighest s.fus + 1) else 0
        crcBad := crcBits s.fus, lcPartial := lcAnyPartial s.fus, pinActive := true } }

/-! ### Transitions (R360, R362) -/

/-- n bytes of FUS_KEY_DATA from a byte on, as fuse bits. -/
def keyBits (f : Fus) (off n : Nat) : BitVec 384 :=
  BitVec.ofNat 384 ((List.range (n / 4)).map fun i => (vgetD f.keyData (off / 4 + i) 0).toNat * 2 ^ (32 * i)).sum

/-- A key group burned from FUS_KEY_DATA, with its CRC. -/
def keyOf (f : Fus) (off n : Nat) : KeyGroup :=
  let v := keyBits f off n
  ⟨v, crc32c ((List.range n).map fun i => v.extractLsb' (8 * i) 8)⟩

/-- Fuses only go from 0 to 1. -/
def burn (old new : KeyGroup) : KeyGroup := ⟨old.value ||| new.value, old.crc ||| new.crc⟩

/-- No fused 1 would have to become 0. -/
def burnable (old new : KeyGroup) : Bool := old.value &&& ~~~new.value == 0 && old.crc &&& ~~~new.crc == 0

/-- Plan-key hash, firmware key hash, family key, return key hash of FUS_KEY_DATA words 0 to 43. -/
def newKeys (f : Fus) : KeyGroup × KeyGroup × KeyGroup × KeyGroup :=
  (keyOf f 0 48, keyOf f 48 48, keyOf f 96 32, keyOf f 128 48)

def keysBurnable (f : Fus) : Bool :=
  let k := newKeys f
  burnable f.planKey k.1 && burnable f.fwKey k.2.1 && burnable f.family k.2.2.1 && burnable f.returnKey k.2.2.2

/-- The serial of a return authorisation. -/
def authSerial (f : Fus) : BitVec 128 :=
  BitVec.ofNat 128 ((List.range 4).map fun i => (vgetD f.keyData i 0).toNat * 2 ^ (32 * i)).sum

/-- MAR_STATUS.STATE is INACTIVE or FENCED. -/
def marQuiet (s : State) : Bool := s.mar.state == .inactive || s.mar.state == .fenced

/-- Precondition of transition k + 1; `authOk`: public key and signature of the authorisation verify. -/
def lcAllowed (s : State) (k : Nat) (authOk : Bool) : Bool :=
  if k = 0 then keysBurnable s.fus
  else if k = 1 then true
  else if k = 2 then marQuiet s && keyOk s.fus.returnKey 48 && authSerial s.fus == s.fus.serial && authOk
  else marQuiet s

/-- A request: UNLOCK in the same write; the next state only; a write while a transition runs is ignored. -/
def lcRequest (s : State) (v : Word) (authOk : Bool) : State :=
  if bits v.toNat 31 16 ≠ 0x4C43 || s.fus.lcRun ≠ .idle then s
  else
    let refuse := { s with fus := { s.fus with lcResult := finishCode .refused } }
    match lcIndex s.fus.lc with
    | none => refuse
    | some k =>
      if h : k < 4 then
        if bits v.toNat 2 0 = k + 1 && lcAllowed s k authOk then { s with fus := { s.fus with lcRun := .intent ⟨k, h⟩ } }
        else refuse
      else refuse

/-- LC_TRANSITION_REQUEST: a write to FUS_LC_CMD. -/
def execLcTransitionRequest (a : Accessor) (v : Word) (authOk : Bool) (s : State) : Res :=
  regCmd s a 0x00020004 fun s => lcRequest s v authOk

/-- LC_INTENT_BURNED: INTENT as read back; the work begins once it reads set. -/
def execLcIntentBurned (readBack : Word) (s : State) : Res :=
  match s.fus.lcRun with
  | .intent k =>
    let w := s.fus.intent.get k ||| readBack
    .next { s with fus := { s.fus with intent := vset s.fus.intent k w, lcRun := if lcRead w = .set then .work k else .intent k } }
  | .idle => .next s
  | .work _ => .next s

/-- The erase of transition 3: all Bolzil and operand SRAM, and every stack; lanes that ran stop. -/
def eraseAll (s : State) : State :=
  let s := laneNos.foldl (fun s n => if runs (laneOf s n) then enterStopped s n else s) s
  let s := laneNos.foldl (fun s n =>
    let open_ := (laneOf s n).dataOpen
    modLane (loseShares (emptyStack s n) n) n fun l => { l with dataOpen := open_ }) s
  { s with mem := { s.mem with xz := [], ctl := [], sram := [] }, bib := { s.bib with copyA := [], copyB := [] } }

/-- The work of transition k + 1. -/
def lcWork (s : State) (k : Nat) : State :=
  if k = 0 then
    let n := newKeys s.fus
    { s with fus := { s.fus with
      planKey := burn s.fus.planKey n.1, fwKey := burn s.fus.fwKey n.2.1, family := burn s.fus.family n.2.2.1
      returnKey := burn s.fus.returnKey n.2.2.2 } }
  else if k = 1 then s
  else if k = 2 then eraseAll s
  else { s with fus := { s.fus with family := ⟨BitVec.allOnes 384, BitVec.allOnes 32⟩ } }

/-- LC_WORK_DONE: the work stands, COMMIT is burned, and the request completes with OK; the commit of transition 4 empties both
slots of the image store (R372). -/
def execLcWorkDone (s : State) : Res :=
  match s.fus.lcRun with
  | .work k =>
    let s := lcWork s k.val
    let s := { s with fus := { s.fus with
      commit := vset s.fus.commit k (BitVec.allOnes 32), lc := lcOf (k.val + 1), pending := false, pendingTo := 0
      keyData := Vector.replicate 52 0, lcResult := finishCode .ok, lcRun := .idle } }
    .next (if k.val = 3 then { s with fwu := { s.fwu with slotA := FwSlot.empty, slotB := FwSlot.empty } } else s)
  | .idle => .next s
  | .intent _ => .next s

end Sys2Proof.Machine
end

