-- ==== Sys2Proof/Machine/Startup.lean ====
section
/-! DEFINITION. Start-up, clock inputs, and temperatures (13_start_reset_lifecycle.md R346, R347, R350 to R352;
17_electrical_mechanical.md R424 to R429). -/

namespace Sys2Proof.Machine

open Sys2Proof

def modBoot (s : State) (f : Boot → Boot) : State := { s with sta := { s.sta with boot := f s.sta.boot } }

/-- Strap MODE FULL or FULL_ROM. -/
def modeFull (s : State) : Bool := s.sta.mode.getLsbD 0

/-- The main path of start-up is done. -/
def bootDone (s : State) : Bool :=
  let b := s.sta.boot
  b.coachUp && b.dieLinksUp && b.coreMarch && b.stacksTrained && b.imageChecked && (b.stackTest || !modeFull s)

/-- COACH_STATUS reaches awaiting plan once every row of R350 is done. -/
def reachAwaiting (s : State) : State :=
  if bootDone s && s.coach.phase = .booting then { s with coach := { s.coach with phase := .awaiting } } else s

/-- STANDBY_RELEASE. -/
def execStandbyRelease (s : State) : Res := .next (modBoot s fun b => { b with stbyReleased := true })

/-! ### The strap (R346, R347) -/

def insertCode (c : Nat) : List Nat → List Nat
  | [] => [c]
  | x :: xs => if c ≤ x then c :: x :: xs else x :: insertCode c xs

/-- The fifth of nine codes in order. -/
def medianCode (cs : Vector Byte 9) : Byte :=
  BitVec.ofNat 8 ((cs.toList.foldl (fun acc c => insertCode c.toNat acc) []).getD 4 0)

/-- STRAP_SAMPLED: after a reset that samples it, CHOICE is the median code over 16. -/
def execStrapSampled (codes : Vector Byte 9) (s : State) : Res :=
  if !s.sta.boot.fusesLoaded || !s.sta.boot.strapDue then .next s
  else
    let c := medianCode codes
    let choice := c.toNat / 16
    let all := codes.toList.map fun x => x.toNat / 16
    .next { s with sta := { s.sta with
      code := c, pos := BitVec.ofNat 2 (choice % 4), mode := BitVec.ofNat 2 (choice / 4)
      unstable := all.any fun x => x != all.headD 0
      boot := { s.sta.boot with strapDue := false, strapDone := true } } }

/-! ### Main path (R350, R352) -/

/-- SYSCLK is known to have failed. -/
def sysclkGone (s : State) : Bool := s.clk.sysFail && !s.clk.sysOk

/-- PLL_LOCK: Bolzil's fabric domain releases, and HIF may train. -/
def execPllLock (s : State) : Res :=
  if s.sta.boot.mainStart && s.sta.boot.strapDone && !s.sta.boot.fabricUp && !sysclkGone s then
    .next (startTraining (modBoot s fun b => { b with fabricUp := true }))
  else .next s

/-- A fatal device error at a start-up stage. -/
def failStage (s : State) (stage : BitVec 4) : State := fatalError { s with sta := { s.sta with failStage := stage } }

/-- BOLZIL_MARCH_DONE: Coach is released and ROM runs, or a failure past repair is fatal. -/
def execBolzilMarchDone (ok : Bool) (s : State) : Res :=
  if !s.sta.boot.fabricUp || s.sta.boot.coachUp then .next s
  else if ok then .next (modBoot s fun b => { b with coachUp := true })
  else .next (failStage s 4)

/-- DIE_LINKS_TRAINED. -/
def execDieLinksTrained (s : State) : Res :=
  .next (if s.sta.boot.coachUp then modBoot s fun b => { b with dieLinksUp := true } else s)

/-- CORE_MARCH_DONE: failed cores are recorded (R330). -/
def execCoreMarchDone (failed : List (Fin 4 × Nat)) (s : State) : Res :=
  if !s.sta.boot.dieLinksUp || s.sta.boot.coreMarch then .next s
  else
    let s := failed.foldl (fun s x => coreFails s x.1 x.2) s
    .next (reachAwaiting (modBoot s fun b => { b with coreMarch := true }))

/-- The stack of a lane that is not RETIRED opens, and that of one retired for a core or steward fault (R52). -/
def stackOpens (l : Lane) : Bool := l.ctl != .retired || l.cause = 0x01 || l.cause = 0x02

/-- A stack that trained, or that failed: `true` for rows past repair. -/
def trainStack (s : State) (failed : List (LaneNo × Bool)) (n : LaneNo) : State :=
  match failed.find? fun x => x.1 == n with
  | none => modLane s n fun l => { l with dataOpen := stackOpens l, hbc := { l.hbc with trained := true } }
  | some x =>
    retireLane (modLane s n fun l => { l with hbc := { l.hbc with trained := x.2 } }) n (if x.2 then 0x04 else 0x03) false

/-- STACK_TRAINING_DONE: stacks open, failed ones retire their lanes, and CAP has enumerated its ports (R389). -/
def execStackTrainingDone (failed : List (LaneNo × Bool)) (cap : Vector CapTrain 4) (s : State) : Res :=
  if !s.sta.boot.dieLinksUp || s.sta.boot.stacksTrained then .next s
  else
    let s := laneNos.foldl (fun s n => trainStack s failed n) s
    let s := { s with cap := { s.cap with ports := Vector.ofFn fun p => capTrained (cap.get p) } }
    .next (reachAwaiting (modBoot s fun b => { b with stacksTrained := true }))

/-- STARTUP_STACK_TEST_DONE: in modes FULL and FULL_ROM; a stack whose rows cannot all be repaired retires its lane. -/
def execStartupStackTestDone (failed : List LaneNo) (s : State) : Res :=
  if !modeFull s || !s.sta.boot.stacksTrained || s.sta.boot.stackTest then .next s
  else
    let s := failed.foldl (fun s n => retireLane s n 0x04 false) s
    .next (reachAwaiting (modBoot s fun b => { b with stackTest := true }))

/-- The slot that ran runs again where the strap mode and the life cycle let it, and its image passes (R366, R371, R372). -/
def bootRunning (s : State) : Running :=
  match runningSlot s with
  | none => .rom
  | some b =>
    match (fwuSlot s b).image with
    | some x => if modeTakesImage s && lcTakesImage s && imageReason s x (imageTotal x) = 0 then s.fwu.running else .rom
    | none => .rom

/-- BOOT_IMAGE_CHECKED. -/
def execBootImageChecked (bootMs : BitVec 16) (s : State) : Res :=
  if !s.sta.boot.coachUp || s.sta.boot.imageChecked then .next s
  else
    let s := { s with fwu := { s.fwu with running := bootRunning s } }
    let s := { s with
      fwu := { s.fwu with rev := runningRev s }
      coach := { s.coach with imageActive := s.fwu.running != .rom }
      sta := { s.sta with bootMs := bootMs } }
    .next (reachAwaiting (modBoot s fun b => { b with imageChecked := true }))

/-- STA_BOOT.STAGE. -/
def bootStage (s : State) : Nat :=
  let b := s.sta.boot
  if !b.stbyReleased then 0
  else if !b.fusesLoaded then 1
  else if !b.strapDone then 2
  else if !b.fabricUp then 3
  else if !b.coachUp then 4
  else if !b.dieLinksUp then 5
  else if !b.coreMarch then 6
  else if !b.stacksTrained then 7
  else if modeFull s && !b.stackTest then 8
  else if !b.imageChecked then (if modeFull s then 8 else 7)
  else 9

/-! ### Clock inputs (R424, R425) -/

/-- SYSCLK_FAIL: a fatal device error; before the PLLs have locked, at stage PLL. -/
def execSysclkFail (s : State) : Res :=
  let s := { s with clk := { s.clk with sysOk := false, sysFail := true } }
  .next (if s.sta.boot.fabricUp then fatalError s else if s.sta.boot.mainStart then failStage s 3 else s)

/-- REFCLK_FAIL: the PCIe link goes to Detect, and every CXL port goes down. -/
def execRefclkFail (s : State) : Res :=
  let s := { s with clk := { s.clk with refOk := false, refFail := true } }
  let s := if s.hif.linkUp then linkDetect s else { s with hif := { s.hif with training := false } }
  .next ((List.finRange 4).foldl capDown s)

/-- A relay link goes down. -/
def relayDown (s : State) (i : Fin 3) : State :=
  { s with rly := vmod s.rly i fun r => { r with state := 0, credits := Vector.replicate 4 0 } }

/-- ETHCLK_FAIL: every fabric port and relay link goes down, PTP time holds, and a device on PTP free-runs. -/
def execEthclkFail (s : State) : Res :=
  let s := { s with clk := { s.clk with ethOk := false, ethFail := true, ptpLock := false, ptpHold := some s.clk.now } }
  let up := (List.range 16).filter fun p => s.te.portUp.getLsbD p
  let s := { s with te := { s.te with portUp := 0 } }
  let s := up.foldl (fun s p => marLog s evPortDown 0xF s.mpl.devId 0xFF (lo32 p)) s
  let s := (List.finRange 3).foldl relayDown s
  .next (if s.lap.running && s.lap.source = 2 then setSource s 0 else s)

/-- CLOCK_RECOVERED. -/
def execClockRecovered (c : ClockIn) (s : State) : Res :=
  match c with
  | .sys => .next { s with clk := { s.clk with sysOk := true } }
  | .eth => .next { s with clk := { s.clk with ethOk := true, ptpHold := none } }
  | .ref => .next (startTraining { s with clk := { s.clk with refOk := true } })

/-! ### Temperature (R400, R426, R429) -/

def hotC : Int := 1520
def coolC : Int := 1472
def tripC : Int := 1680

/-- Every sensor with its STA_TRIP source. -/
def sensors (r : ThermalReading) : List (Nat × Int) :=
  (List.finRange 4).map (fun d => (d.val, r.die.get d)) ++ [(4, r.bolzil)]
    ++ (List.finRange 12).map fun k => (8 + k.val, r.stack.get k)

/-- Since when a die and its stacks have been at or below 92 °C. -/
def coolSinceOf (now : Nat) (sta : Sta) (d : Fin 4) : Option Nat :=
  if (dieTemps sta d).all fun t => decide (t ≤ coolC) then (match sta.coolSince.get d with | some t => some t | none => some now)
  else none

/-- The samples of the last 1 ms. -/
def powerWindow (old : List Nat) (p : Nat) : List Nat := (old ++ [p]).drop ((old.length + 1) - min 100 (old.length + 1))

/-- A main die, or Bolzil, at or above 95 °C, or a rail out of its window (R400). -/
def alertWanted (s : State) : Bool :=
  s.sta.dieTemp.toList.any (fun t => decide (hotC ≤ t)) || decide (hotC ≤ s.sta.bolzilTemp) || s.i2c.railOut

/-- ALERT_N goes low with the condition; it is released once it has been read and the condition has cleared. -/
def alertUpdate (s : State) : State :=
  if alertWanted s then
    (if s.i2c.alert then s else drivePin { s with i2c := { s.i2c with alert := true, alertRead := false } } .alertN true)
  else if s.i2c.alert && s.i2c.alertRead then
    drivePin { s with i2c := { s.i2c with alert := false, alertRead := false } } .alertN false
  else s

/-- A trip: STA_TRIP records the first source, a fatal device error rises, and the Polette clocks stop. -/
def trip (s : State) (x : Nat × Int) : State :=
  fatalError { s with sta := { s.sta with
    tripped := true, tripTemp := BitVec.ofInt 12 x.2, tripSource := BitVec.ofNat 5 x.1, polStopped := true } }

/-- THERMAL_SAMPLE: readings, the sums that R427 needs, the alert, and a trip on two samples in a row at 105 °C. -/
def execThermalSample (r : ThermalReading) (s : State) : Res :=
  let now := s.clk.now
  let high := (sensors r).filter fun x => decide (tripC ≤ x.2)
  let again := high.filter fun x => s.sta.hotAtTrip.contains x.1
  let sta := { s.sta with dieTemp := r.die, bolzilTemp := r.bolzil, stackTemp := r.stack }
  let sta := { sta with
    coolSince := Vector.ofFn fun d => coolSinceOf now sta d
    power := powerWindow sta.power r.power
    lowSince := if r.power < 3400 then (match sta.lowSince with | some t => some t | none => some now) else none
    hotAtTrip := high.map (·.1) }
  let s := alertUpdate { s with sta := sta }
  match again with
  | x :: _ => .next (if s.glb.fatal && s.sta.polStopped then s else trip s x)
  | [] => .next s

end Sys2Proof.Machine
end

