-- ==== Sys2Proof/Machine/RegRead.lean ====
section
/-! DEFINITION. What every register reads (16_register_map.md R403 to R418 and the register tables of the owning chapters). Each
function gives the value at an offset of its window; `none` marks an unmapped offset. -/

namespace Sys2Proof.Machine

open Sys2Proof

/-- Place of an offset in a family of registers: base, stride, number. -/
def famIdx (o base stride n : Nat) : Option Nat :=
  if base ≤ o && (o - base) % stride = 0 && decide ((o - base) / stride < n) then some ((o - base) / stride) else none

/-- A word of fields, each at its lowest bit. -/
def fields (fs : List (Nat × Nat)) : Word := lo32 (fs.map fun f => at_ f.2 f.1).sum

/-- One bit per lane from a bit on. -/
def laneBits (s : State) (lo : Nat) (p : Lane → Bool) : Nat := at_ (laneNos.map fun n => at_ (ofB (p (laneOf s n))) n.val).sum lo

/-! ### GLB and COACH -/

def coachCode : CoachPhase → Nat
  | .booting => 0
  | .awaiting => 1
  | .serving => 2
  | .restarting => 3
  | .halted => 4

/-- COACH_STATUS (R51). -/
def coachStatus (s : State) : Word :=
  fields [(24, s.coach.romRev.toNat), (16, ofB s.coach.imageActive), (8, s.coach.restarts.toNat), (0, coachCode s.coach.phase)]

/-- GLB_STATUS. -/
def glbStatus (s : State) : Word :=
  fields [(0, laneBits s 16 fun l => l.ctl == .retired), (0, laneBits s 4 fun l => l.ctl == .serving || l.ctl == .draining),
    (3, ofB (throttling s.sta)), (2, ofB s.glb.fatal), (1, ofB s.mpl.current.isSome), (0, ofB (coachRuns s))]

def readGlb (s : State) (a : Accessor) : Nat → Option Word
  | 0x00 => some (fields [(16, 0xA320), (12, 1), (8, s.glb.bolzilStep.toNat), (4, s.glb.poletteStep.toNat)])
  | 0x04 => some (fields [(0, laneBits s 16 fun l => l.dataOpen), (0, s.fus.hbmCode.toNat)])
  | 0x10 => some (glbStatus s)
  | 0x20 => some (s.glb.evt.setWidth 32)
  | 0x24 => some (s.glb.evtEn.setWidth 32)
  | 0x28 => some (s.glb.evtVector.setWidth 32)
  | 0x30 => some (lo32 (ptpTime s))
  | 0x34 => some (accSel s a).ptpHi
  | 0x40 => some (fields [(30, s.glb.errKind.toNat), (27, s.glb.errPath.toNat), (0, s.glb.errOffset.toNat)])
  | 0x44 => some s.glb.errCnt
  | 0x48 => some s.glb.scratch
  | 0x100 => some (coachStatus s)
  | _ => none

/-! ### STA, FUS, FWU, LAP, MPL -/

def hotStack (s : State) : Bool := s.sta.stackTemp.toList.any fun t => decide (hotC ≤ t)

/-- STA_LANE_RESET.LANE: the lanes that a reset still holds (R344). -/
def heldLanes (s : State) : Nat := (laneNos.map fun n => at_ (ofB (laneHeld s n)) n.val).sum

def readSta (s : State) : Nat → Option Word
  | 0x00 => some (fields [(8, s.sta.rail.toNat), (4, ofB s.sta.afterFatal), (3, ofB s.sta.software), (2, ofB s.sta.pinCause),
      (1, ofB s.sta.brownout), (0, ofB s.sta.por)])
  | 0x04 => some (fields [(16, ofB s.sta.unstable), (8, s.sta.code.toNat), (2, s.sta.mode.toNat), (0, s.sta.pos.toNat)])
  | 0x08 => some (fields [(16, s.sta.bootMs.toNat), (8, s.sta.failStage.toNat), (0, bootStage s)])
  | 0x0C => some 0
  | 0x10 => some (s.sta.blockHeld.setWidth 32)
  | 0x14 => some (fields [(16, s.sta.laneRefused.toNat), (0, heldLanes s)])
  | 0x20 => some (fields [(10, ofB s.clk.sysFail), (9, ofB s.clk.ethFail), (8, ofB s.clk.refFail), (2, ofB s.clk.sysOk),
      (1, ofB s.clk.ethOk), (0, ofB s.clk.refOk)])
  | 0x24 => some (fields ([(14, ofB (s.sta.pl != 0)), (13, ofB (hotStack s)),
      (12, ofB (s.sta.dieTemp.toList.any fun t => decide (hotC ≤ t)))] ++ (List.finRange 4).map fun d => (3 * d.val, dieLevel s d)))
  | 0x28 => some s.sta.throttleCnt
  | 0x2C => some (fields [(31, ofB s.sta.tripped), (12, s.sta.tripTemp.toNat), (0, s.sta.tripSource.toNat)])
  | _ => none

/-- FUS_LC.STATE (R358). -/
def lcCode : LcState → Nat
  | .blank => 0
  | .provisioned => 1
  | .field => 2
  | .returned => 3
  | .scrapped => 4
  | .invalid => 7

def readFus (s : State) (o : Nat) : Option Word :=
  match o with
  | 0x00 => some (fields [(7, ofB s.fus.pending), (4, s.fus.pendingTo.toNat), (0, lcCode s.fus.lc)])
  | 0x04 => some (fields [(15, ofB (s.fus.lcRun != .idle)), (4, s.fus.lcResult.toNat)])
  | 0x08 => some (fields [(4, s.fus.crcBad.toNat), (0, ofB s.fus.lcPartial)])
  | 0x0C => some s.fus.pinMap
  | _ =>
    match famIdx o 0x10 4 4 with
    | some w => some (s.fus.serial.extractLsb' (32 * w) 32)
    | none =>
      match famIdx o 0x100 4 16 with
      | some k => if k % 4 = 3 then none else some ((vgetD s.fus.coreFailed (k / 4) 0).extractLsb' (32 * (k % 4)) 32)
      | none => (famIdx o 0x200 4 52).map fun _ => 0

def slotCode : SlotState → Nat
  | .empty => 0
  | .staging => 1
  | .staged => 2
  | .trial => 3
  | .good => 4
  | .rejected => 5

def runCode : Running → Nat
  | .rom => 0
  | .a => 1
  | .b => 2

def readFwu (s : State) : Nat → Option Word
  | 0x00 => some s.fwu.addrLo
  | 0x04 => some s.fwu.addrHi
  | 0x08 => some (s.fwu.len.setWidth 32)
  | 0x0C => some (fields [(31, ofB (fwuBusy s)), (16, s.fwu.result.toNat), (8, s.fwu.reason.toNat)])
  | 0x10 => some (fields [(9, ofB s.fwu.fellBack), (8, ofB s.fwu.healthy), (6, runCode s.fwu.running),
      (3, slotCode s.fwu.slotB.state), (0, slotCode s.fwu.slotA.state)])
  | 0x14 => some (s.fwu.windowS.setWidth 32)
  | 0x18 => some s.fwu.rev
  | 0x1C => some s.fwu.fallbackCnt
  | _ => none

def readLap (s : State) (a : Accessor) : Nat → Option Word
  | 0x00 => some (lo32 s.lap.period)
  | 0x04 => some (lo32 s.lap.quiet)
  | 0x08 => some (s.lap.count.setWidth 32)
  | 0x0C => some (accSel s a).lapCountHi
  | 0x10 => some (fields [(16, s.lap.offset.toNat), (3, ofB s.lap.syncLost), (2, ofB s.lap.leader), (0, s.lap.source.toNat)])
  | 0x18 => some (s.lap.base.setWidth 32)
  | 0x1C => some (accSel s a).lapBaseHi
  | _ => none

/-- MPL_STATUS.STATE. -/
def mplCode (s : State) : Nat :=
  if s.mpl.staged.isSome then (if s.mpl.due then 3 else 2) else if s.mpl.load == .idle then 0 else 1

def readMpl (s : State) (a : Accessor) : Nat → Option Word
  | 0x00 => some (fields [(16, s.mpl.epoch.toNat), (11, ofB s.mpl.late), (10, ofB s.mpl.grace), (9, ofB s.mpl.current.isSome),
      (8, ofB s.mpl.devSet), (0, mplCode s)])
  | 0x04 => some (fields [(24, s.mpl.refuseLane.toNat), (8, s.mpl.refuseSection.toNat), (0, s.mpl.refuseReason.toNat)])
  | 0x08 => some (s.mpl.tagCur.setWidth 32)
  | 0x0C => some (accSel s a).tagCurHi
  | 0x10 => some (s.mpl.tagNext.setWidth 32)
  | 0x14 => some (accSel s a).tagNextHi
  | 0x18 => some (s.mpl.devId.setWidth 32)
  | 0x1C => some (s.mpl.laneClass.setWidth 32)
  | _ => none

/-! ### XZ, BTN, HEAT, JDG, STP, SRG -/

def readXz (s : State) (o : Nat) : Option Word :=
  match o with
  | 0x00 => some (lo32 s.xz.sharedFree)
  | 0x04 => some (lo32 s.xz.ctlFree)
  | 0x08 => some s.xz.lateDrop
  | 0x0C => some s.xz.hdrBad
  | _ => (famIdx o 0x100 4 12).map fun n => fields [(16, vgetD s.xz.held n 0), (0, vgetD s.xz.reserveFree n 0)]

def readBtn (s : State) : Nat → Option Word
  | 0x00 => some (lo32 s.btn.legs.length)
  | 0x04 => some (lo32 (min 65536 (s.reqs.filter fun r => resting r && r.lost.isNone && !s.btn.uncounted.contains r.id).length))
  | 0x08 => some s.btn.stallCnt
  | 0x0C => some s.btn.crcFail
  | 0x10 => some s.btn.ctlLost
  | 0x14 => some s.btn.auditMismatch
  | _ => none

def readHeat (s : State) : Nat → Option Word
  | 0x00 => some s.glb.heatSelCnt
  | _ => none

def readJdg (s : State) : Nat → Option Word
  | 0x00 => some s.jdg.nanCnt
  | 0x04 => some s.jdg.trackFull
  | 0x08 => some s.jdg.noCand
  | _ => none

def readStp (s : State) : Nat → Option Word
  | 0x00 => some (lo32 s.stp.free)
  | 0x04 => some s.stp.stopCnt
  | _ => none

def readSrg (s : State) (a : Accessor) (o : Nat) : Option Word :=
  let x := srgTenant s (accSel s a).srgTenant
  match o with
  | 0x00 => some s.srg.dropCnt
  | 0x04 => some s.srg.ringFull
  | 0x10 => some ((accSel s a).srgTenant.setWidth 32)
  | 0x14 => some x.ttft
  | 0x18 => some (x.tbt.setWidth 32)
  | 0x1C => some x.ttftViol
  | 0x20 => some x.tbtViol
  | _ =>
    match famIdx o 0x100 4 16 with
    | some b => some (vgetD s.srg.ttftHist b 0)
    | none => (famIdx o 0x140 4 16).map fun b => vgetD s.srg.tbtHist b 0

/-! ### TE and RLY -/

/-- TE_CFG.SCHEME. -/
def schemeCode (s : State) : Nat := match s.mpl.current with | some p => p.system.scheme.toNat | none => 0

/-- Index in the path tables that TE_PATH_SEL selects: 64 per table. -/
def selPath (s : State) (a : Accessor) : Nat := (accSel s a).tePath.toNat

/-- Word of a log entry. -/
def entryWord (t : Tbl (List Word)) (k : Nat) : Word := (tblGetD t (k / 8) []).getD (k % 8) 0

/-- The eight counters of TE from 0x20 on, in order. -/
def teCount (c : TeCnt) : Nat → Word
  | 0 => c.rxAbandon
  | 1 => c.retx
  | 2 => c.deadLoad
  | 3 => c.hold
  | 4 => c.pfResend
  | 5 => c.rateCut
  | 6 => c.reorderDrop
  | _ => c.nontrack

/-- Words of the false-start logs: port p from 0x1000 + 0x800p on, 64 entries of 8 words. -/
def readFsLog (s : State) (o : Nat) : Option Word :=
  (famIdx o 0x1000 4 (512 * 19)).map fun k => entryWord (vgetD s.te.fs (k / 512) FsPort.reset).log (k % 512)

def readTe (s : State) (a : Accessor) (o : Nat) : Option Word :=
  match o with
  | 0x00 => some (fields [(16, s.te.ethertype.toNat), (8, schemeCode s), (4, s.te.sysKgen.toNat)])
  | 0x04 => some (lo32 (outstanding s))
  | 0x08 => some (fields [(31, ofB s.te.deadFault), (0, s.te.deadDev.toNat)])
  | 0x0C => some (s.te.rto.setWidth 32)
  | 0x10 => some ((accSel s a).teTenant.setWidth 32)
  | 0x14 => some (fields [(4, ofB (tenantEnabled s (accSel s a).teTenant)),
      (0, (tblGetD s.te.kgen (accSel s a).teTenant.toNat 0).toNat)])
  | 0x18 => some ((accSel s a).teCtr.setWidth 32)
  | 0x1C => some (ctrOf s (accSel s a).teCtr.toNat)
  | 0x40 => some (s.te.delayMark.setWidth 32)
  | 0x44 => some (s.te.rateMin.setWidth 32)
  | 0x48 => some ((accSel s a).tePath.setWidth 32)
  | 0x4C => some (tblGetD s.te.paths (selPath s a) 0)
  | _ =>
    match famIdx o 0x20 4 8 with
    | some k => some (teCount s.te.cnt k)
    | none =>
      match famIdx o 0x100 4 19 with
      | some p => some (vgetD s.te.fs p FsPort.reset).cnt
      | none =>
        match famIdx o 0x180 4 19 with
        | some p =>
          let x := vgetD s.te.fs p FsPort.reset
          some (fields [(6, ofB x.wrapped), (0, x.next.toNat)])
        | none => readFsLog s o

/-- Link of an RLY offset, and the register's place in its 256 bytes. -/
def readRly (s : State) (o : Nat) : Option Word :=
  if h : o / 0x100 < 3 then
    let r := s.rly.get ⟨o / 0x100, h⟩
    match o % 0x100 with
    | 0x00 => some (fields [(12, r.peer.toNat), (8, r.state.toNat), (7, ofB r.spareUsed), (0, lanesOut r.out)])
    | 0x04 => some (fields [(16, r.errLimit.toNat), (0, r.bypass.toNat)])
    | 0x08 => some r.crcDrop
    | _ => none
  else none

/-! ### PAC -/

/-- Fields of PAC_SEL. -/
def pacSelPort (s : State) (a : Accessor) : Nat := bits (accSel s a).pac.toNat 4 0
def pacSelQueue (s : State) (a : Accessor) : Nat := bits (accSel s a).pac.toNat 12 8
def pacSelMeter (s : State) (a : Accessor) : Nat := bits (accSel s a).pac.toNat 20 16

def noQueue : PacQueue := ⟨0, 0, 0, 0⟩
def noMeter : PacMeter := ⟨0, 0, 0, 0⟩

/-- The plan's queue record that PAC_SEL selects; zeros before a plan. -/
def selQueue (s : State) (a : Accessor) : PacQueue :=
  match pacPort s (pacSelPort s a) with
  | some p => vgetD p.queues (pacSelQueue s a) noQueue
  | none => noQueue

def selMeter (s : State) (a : Accessor) : PacMeter :=
  match pacPort s (pacSelPort s a) with
  | some p => vgetD p.meters (pacSelMeter s a) noMeter
  | none => noMeter

def pacM (s : State) (port m : Nat) : PacM := vgetD (vgetD (vmap s.pac.ports fun p => p.meters) port (Vector.replicate 30 PacM.reset)) m PacM.reset

/-- PAC_PORT_CFG. -/
def pacPortCfg (s : State) (port : Nat) : Word :=
  match pacPort s port with
  | some p => fields [(16, p.legQ.toNat), (8, p.police.toNat), (0, p.overhead.toNat)]
  | none => fields [(0, overhead s port)]

/-- The registers that PAC_SEL addresses. -/
def readPacSel (s : State) (a : Accessor) (o : Nat) : Option Word :=
  let port := pacSelPort s a
  let m := pacM s port (pacSelMeter s a)
  match o with
  | 0x04 => some (pacPortCfg s port)
  | 0x08 => some (match pacPort s port with | some p => p.pcp.setWidth 32 | none => 0)
  | 0x0C => some (fields [(31, ofB ((pacPort s port).isSome && decide (pacSelQueue s a < 4))), (16, (selQueue s a).weight.toNat),
      (0, (selQueue s a).qlimitKib.toNat)])
  | 0x10 => some (selQueue s a).rate
  | 0x14 => some ((selQueue s a).burstKib.setWidth 32)
  | 0x18 => some (lo32 (queuedBytes s port (pacSelQueue s a)))
  | 0x20 => some (selMeter s a).cir
  | 0x24 => some (selMeter s a).pir
  | 0x28 => some ((selMeter s a).cbsKib.setWidth 32)
  | 0x2C => some ((selMeter s a).pbsKib.setWidth 32)
  | 0x30 => some (pacQueue s port (pacSelQueue s a)).txCnt
  | 0x34 => some m.green
  | 0x38 => some m.yellow
  | 0x3C => some m.red
  | 0x40 => some ((accSel s a).pacTenant.setWidth 32)
  | 0x44 => some (lo32 (tenantClass s (accSel s a).pacTenant))
  | 0x48 => some (vgetD (vmap s.pac.ports fun p => p.pfcTx) port 0)
  | _ => none

/-- PAC; ports 19 to 31 read every register after PAC_SEL as zero. -/
def readPac (s : State) (a : Accessor) (o : Nat) : Option Word :=
  if o = 0 then some ((accSel s a).pac.setWidth 32)
  else if 19 ≤ pacSelPort s a then (readPacSel s a o).map fun _ => 0
  else readPacSel s a o

/-! ### BIB, MAR -/

def engineCode : BibEngine → Nat
  | .idle => 0
  | .running _ => 1
  | .ready => 2

/-- Free entries of a partition in the copy in use; none where the plan has no such partition. -/
def bibFree (s : State) (part : Nat) : Nat :=
  match bibPart s part with
  | some p => partHi p - partLo p - (partEntries (bibFg s.bib) p).length
  | none => 0

def readBib (s : State) (a : Accessor) : Nat → Option Word
  | 0x00 => some (fields [(16, s.bib.gen.toNat), (8, s.bib.queue.length), (6, trayPos s), (4, engineCode s.bib.engine),
      (3, ofB s.bib.late), (1, ofB (cascUp s)), (0, ofB s.bib.fg)])
  | 0x04 => some ((accSel s a).bibPart.setWidth 32)
  | 0x08 => some (lo32 (bibFree s (accSel s a).bibPart.toNat))
  | 0x10 => some s.bib.cascTimeout
  | 0x14 => some s.bib.ringCrc
  | 0x18 => some s.bib.ringDrop
  | _ => none

def marCode : MarState → Nat
  | .inactive => 0
  | .live => 1
  | .fenced => 2
  | .declared => 3
  | .readmitPending => 4

/-- The ring entry that MAR_RING_SEL selects; 46 to 63 read as zero. -/
def ringEntry (s : State) (a : Accessor) : Word :=
  let k := bits (accSel s a).marRing.toNat 5 0
  if 46 ≤ k then 0 else tblGetD (if (accSel s a).marRing.getLsbD 6 then s.mar.ringStg else s.mar.ringCur) k 0

def failedCores (s : State) (d : Nat) : Nat :=
  ((List.range 74).filter fun k => (vgetD s.fus.coreFailed d 0).getLsbD k).length

def readMar (s : State) (a : Accessor) (o : Nat) : Option Word :=
  match o with
  | 0x00 => some (fields [(8, s.mar.echoed.toNat), (0, marCode s.mar.state)])
  | 0x04 => some ((accSel s a).marRing.setWidth 32)
  | 0x08 => some (ringEntry s a)
  | 0x10 => some (s.mar.arg0.setWidth 32)
  | 0x14 => some (fields [(16, s.mar.argLanes.toNat), (0, s.mar.argEpoch.toNat)])
  | 0x18 => some (fields [(16, ofB s.mar.busy), (8, s.mar.result.toNat)])
  | 0x1C => some (s.mar.stragLimit.setWidth 32)
  | 0x20 => some s.mar.hbMiss
  | 0x24 => some s.mar.lateHb
  | 0x28 => some s.mar.fenceRx
  | 0x2C => some s.mar.stray
  | 0x30 => some s.mar.prodLaps
  | 0x34 => some (fields [(31, ofB s.mar.fmEn), (0, s.mar.fmDev.toNat)])
  | 0x38 => some (s.mar.portFence.setWidth 32)
  | 0x3C => some (fields [(1, ofB s.mar.precopy), (0, ofB s.mar.swapActive)])
  | 0x40 => some (fields [(8, ofB s.mar.logWrapped), (0, s.mar.logNext.toNat)])
  | _ =>
    match famIdx o 0x80 4 4 with
    | some d => some (fields [(16, (vgetD s.mar.lastFailed d 0).toNat), (8, failedCores s d), (0, (vgetD s.mar.spares d []).length)])
    | none => (famIdx o 0x1000 4 2048).map fun k => entryWord s.mar.log k

/-! ### CAP, HIF, management ports -/

def readCap (s : State) (o : Nat) : Option Word :=
  if h : o / 0x100 < 4 then
    let p : Fin 4 := ⟨o / 0x100, h⟩
    let c := s.cap.ports.get p
    match o % 0x100 with
    | 0x00 => some (fields [(18, c.size), (8, c.state.toNat)])
    | 0x04 => some (lo32 (portRoom s p / capUnit))
    | 0x08 => some c.poison
    | 0x0C => some 0
    | _ => none
  else none

/-- HIF_CTX_CFG. -/
def ctxCfg (c : Ctx) : Word :=
  fields [(31, ofB c.enable), (16, c.vector.toNat), (8, c.cplLog2.toNat), (0, c.cmdLog2.toNat)]

/-- The context registers from HIF_CTX_SEL on, by place. -/
def readCtx (c : Ctx) : Nat → Option Word
  | 0x08 => some c.cmdLo
  | 0x0C => some c.cmdHi
  | 0x10 => some c.cplLo
  | 0x14 => some c.cplHi
  | 0x18 => some (ctxCfg c)
  | _ => none

def readHif (s : State) (a : Accessor) (o : Nat) : Option Word :=
  match o with
  | 0x00 => some (fields [(16, s.hif.speed.toNat), (8, s.hif.width.toNat), (1, ofB s.hif.flit), (0, ofB s.hif.linkUp)])
  | 0x04 => some ((accSel s a).hifCtx.setWidth 32)
  | 0x1C => some (lo32 (tenantFunc s (accSel s a).hifCtx))
  | 0x20 => some s.hif.dbBad
  | 0x24 => some s.hif.cplDrop
  | _ => readCtx (ctxOf s (accSel s a).hifCtx) o

/-- SPI_STATUS. -/
def spiStatus (s : State) : Word :=
  fields [(3, ofB s.spi.unreach), (2, ofB s.spi.badOp), (1, ofB s.spi.pend.isSome), (0, ofB s.spi.expect.isSome)]

def idcodeValue : Word := 0x1A320CB7

def readMgmt (s : State) : Nat → Option Word
  | 0x00 => some (spiStatus s)
  | 0x04 => some s.spi.discard
  | 0x08 => some s.spi.extra
  | 0x10 => some (fields [(24, s.uar.parity.toNat), (0, s.uar.div.toNat)])
  | 0x14 => some s.uar.frameErr
  | 0x18 => some s.uar.early
  | 0x1C => some s.uar.pktDrop
  | 0x20 => some (lo32 (ofB s.i2c.pec))
  | 0x30 => some idcodeValue
  | _ => none

/-! ### Lane windows (R404) -/

/-- LST_LANE_STATE.STATE (R52). -/
def ctlCode : LaneCtl → Nat
  | .unassigned => 0
  | .serving => 1
  | .draining => 2
  | .stopped => 3
  | .testing => 4
  | .retired => 5

/-- LST_LANE_ROLE (R18, R53). -/
def laneRole (l : Lane) : Word :=
  fields [(8, l.epoch.toNat), (4, ofB (l.ctl == .retired)), (3, ofB (l.ctl == .draining)),
    (0, if l.ctl = .retired then 0 else l.role.toNat)]

/-- LST_TABLE_STATUS.SWAP. -/
def swapCode (t : Tables) : Nat :=
  match t.repl with
  | none => 0
  | some r => if r.ready then 2 else 1

def readSteward (l : Lane) : Nat → Option Word
  | 0x10 => some (laneRole l)
  | 0x14 => some (fields [(7, ofB l.dataOpen), (0, ctlCode l.ctl)])
  | 0x20 => some (fields [(11, ofB l.tables.fg), (9, swapCode l.tables), (8, ofB l.tables.late), (0, l.tables.reason.toNat)])
  | 0x24 => some (fields [(16, min 0xFFFF l.st.joinQ.length), (0, l.st.batch.length)])
  | 0x30 => some l.st.soft
  | 0x34 => some l.st.missedLap
  | 0x38 => some l.st.preemptCnt
  | 0x3C => some (fields [(31, ofB l.st.lastHard), (21, l.st.lastSlot.toNat), (0, l.st.lastExcess.toNat)])
  | _ => none

/-- A closed stack is in self-refresh, except during a destructive test (R56). -/
def selfRefresh (l : Lane) : Bool := !l.dataOpen && !(l.mch.busy && destructMode l.mch.mode)

def readHbc (l : Lane) : Nat → Option Word
  | 0x000 => some (fields [(9, ofB (selfRefresh l)), (8, ofB l.hbc.trained), (0, l.hbc.repaired.toNat)])
  | 0x004 => some l.hbc.eccCe
  | 0x008 => some l.hbc.eccUe
  | 0x100 => some (lo32 l.kv.reserveFree.length)
  | 0x104 => some (lo32 l.kv.sharedFree.length)
  | 0x108 => some (l.kv.clean.setWidth 32)
  | 0x10C => some l.kv.reclaimCnt
  | _ => none

def readCore (l : Lane) (o : Nat) : Option Word :=
  match o with
  | 0x00 => some (l.arith.setWidth 32)
  | 0x04 => some l.stallCnt
  | _ => (famIdx o 0x100 4 24).map fun i =>
    let c := vgetD l.cores i ⟨false, 0⟩
    fields [(7, ofB c.spare), (0, c.core.toNat)]

def readKv (l : Lane) : Nat → Option Word
  | 0x00 => some (l.kv.slotSize.setWidth 32)
  | 0x04 => some l.kv.heldCnt
  | 0x08 => some l.kv.holdParkCnt
  | 0x0C => some l.kv.sealCnt
  | 0x10 => some l.kv.fetchCnt
  | 0x20 => some (fields [(16, l.kv.dirMax - (fgDir l.kv).length), (3, ofB l.kv.dirLate), (1, ofB l.kv.dirStart.isSome),
      (0, ofB l.kv.dirFg)])
  | 0x24 => some l.kv.heatNan
  | 0x28 => some (lo32 l.kv.runFree.length)
  | _ => none

/-- MCH_STATUS.PROGRESS: a free percentage while a test runs (the manual gives only its end points). -/
def mchProgress (s : State) (l : Lane) : Nat :=
  if l.mch.busy then (Config.freeWord s.free).toNat % 101 else l.mch.progress.toNat

def readMch (s : State) (l : Lane) : Nat → Option Word
  | 0x00 => some 0
  | 0x04 => some (fields [(24, l.mch.result.toNat), (16, mchProgress s l), (8, l.hbc.rows.length), (2, ofB l.mch.fail),
      (0, ofB l.mch.busy)])
  | 0x08 => some (fields [(30, l.mch.failUnit.toNat), (25, l.mch.failPos.toNat)])
  | 0x0C => some (l.mch.failWord.setWidth 32)
  | _ => none

/-- A register of a lane window by its part (R404). -/
def readLane (s : State) (l : Lane) (o : Nat) : Option Word :=
  if o < 0x40000 then readSteward l o
  else if o < 0x80000 then readHbc l (o - 0x40000)
  else if o < 0xC0000 then readCore l (o - 0x80000)
  else if o < 0xE0000 then readKv l (o - 0xC0000)
  else readMch s l (o - 0xE0000)

/-! ### BAR0 -/

/-- A register of a global window (R403). -/
def readGlobal (s : State) (a : Accessor) (w o : Nat) : Option Word :=
  match w with
  | 0x00 => readGlb s a o
  | 0x01 => readSta s o
  | 0x02 => readFus s o
  | 0x03 => readFwu s o
  | 0x04 => readLap s a o
  | 0x05 => readMpl s a o
  | 0x06 => readXz s o
  | 0x07 => readBtn s o
  | 0x08 => readHeat s o
  | 0x09 => readJdg s o
  | 0x0A => readStp s o
  | 0x0B => readSrg s a o
  | 0x0C => readTe s a o
  | 0x0D => readPac s a o
  | 0x0E => readBib s a o
  | 0x0F => readMar s a o
  | 0x10 => readCap s o
  | 0x11 => readRly s o
  | 0x12 => readHif s a o
  | 0x13 => readMgmt s o
  | _ => none

/-- The value of the register at a BAR0 offset of the physical function; `none` is unmapped. -/
def readReg (s : State) (a : Accessor) (off : Nat) : Option Word :=
  match laneWindow off with
  | some (n, o) => readLane s (laneOf s n) o
  | none => readGlobal s a (off / 0x10000) (off % 0x10000)

/-- A virtual function's BAR0 (R417): a tenant that it does not own reads as zero. -/
def readVf (s : State) (f : Fin 64) (off : Nat) : Option Word :=
  let a := Accessor.vf f
  match off with
  | 0x00 => some (lo32 (f.val + 1))
  | 0x04 => some ((accSel s a).hifCtx.setWidth 32)
  | _ =>
    (readCtx (ctxOf s (accSel s a).hifCtx) off).map fun v =>
      if tenantFunc s (accSel s a).hifCtx = f.val + 1 then v else 0

end Sys2Proof.Machine
end

