-- ==== Sys2Proof/Machine/RegWrite.lean ====
section
/-! DEFINITION. What a write does to every register and what a read does besides giving its value (16_register_map.md R405 to R411,
R415, R417). A write function answers `none` where a value lies outside an RW field's range (R407). -/

namespace Sys2Proof.Machine

open Sys2Proof

/-- Bits of a W1C field that stay after a write. -/
def w1c (old : Bool) (v : Word) (bit : Nat) : Bool := old && !v.getLsbD bit

def within (lo hi x : Nat) : Bool := decide (lo ≤ x) && decide (x ≤ hi)

/-- Take a new state where a check holds. -/
def inRange (ok : Bool) (s : State) : Option State := if ok then some s else none

/-! ### GLB (R415) -/

/-- A write to GLB_EVT_STATUS (W1C) or GLB_EVT_ENABLE: the interrupt rises where it leaves P nonzero. -/
def writeEvt (s : State) (enable : Bool) (v : Word) : State :=
  let s := { s with glb := if enable then { s.glb with evtEn := v.setWidth 13 } else { s.glb with evt := s.glb.evt &&& ~~~(v.setWidth 13) } }
  if s.glb.evt &&& s.glb.evtEn != 0 then sendEvt s else s

def writeGlb (s : State) (o : Nat) (v : Word) : Option State :=
  match o with
  | 0x20 => some (writeEvt s false v)
  | 0x24 => some (writeEvt s true v)
  | 0x28 => inRange (bits v.toNat 10 0 != 0) { s with glb := { s.glb with evtVector := v.setWidth 11 } }
  | 0x48 => some { s with glb := { s.glb with scratch := v } }
  | _ => some s

/-! ### STA, FUS, FWU, LAP, MPL -/

/-- STA_RESET_CAUSE (W1C). -/
def clearCause (t : Sta) (v : Word) : Sta :=
  { t with
    afterFatal := w1c t.afterFatal v 4, software := w1c t.software v 3, pinCause := w1c t.pinCause v 2
    brownout := w1c t.brownout v 1, por := w1c t.por v 0 }

def writeSta (s : State) (a : Accessor) (o : Nat) (v : Word) : State :=
  match o with
  | 0x00 => { s with sta := clearCause s.sta v }
  | 0x0C => swReset s a v
  | 0x10 => blockWrite s v
  | 0x14 => laneResetWrite s v
  | 0x20 => { s with clk := { s.clk with
      sysFail := w1c s.clk.sysFail v 10, ethFail := w1c s.clk.ethFail v 9, refFail := w1c s.clk.refFail v 8 } }
  | 0x2C => { s with sta := { s.sta with tripped := w1c s.sta.tripped v 31 } }
  | _ => s

def writeFus (s : State) (o : Nat) (v : Word) : State :=
  if o = 0x04 then lcRequest s v (Config.authValid s.fus.keyData.toList)
  else match famIdx o 0x200 4 52 with
    | some i => { s with fus := { s.fus with keyData := if v = 0 then s.fus.keyData else vmodN s.fus.keyData i fun _ => v } }
    | none => s

def writeFwu (s : State) (o : Nat) (v : Word) : State :=
  match o with
  | 0x00 => { s with fwu := { s.fwu with addrLo := v } }
  | 0x04 => { s with fwu := { s.fwu with addrHi := v } }
  | 0x08 => { s with fwu := { s.fwu with len := v.setWidth 24 } }
  | 0x0C => writeFwuCmd s v
  | 0x10 => { s with fwu := { s.fwu with fellBack := w1c s.fwu.fellBack v 9 } }
  | 0x14 => if within 10 3600 (bits v.toNat 11 0) then { s with fwu := { s.fwu with windowS := v.setWidth 12 } } else s
  | _ => s

def writeLap (s : State) (o : Nat) (v : Word) : State :=
  if o = 0x10 then { s with lap := { s.lap with syncLost := w1c s.lap.syncLost v 3 } } else s

def writeMpl (s : State) (o : Nat) (v : Word) : State :=
  if o = 0x00 then { s with mpl := { s.mpl with late := w1c s.mpl.late v 11 } } else s

/-! ### SRG, TE, RLY, PAC, BIB -/

def writeSrg (s : State) (a : Accessor) (o : Nat) (v : Word) : State :=
  let t := (accSel s a).srgTenant
  match o with
  | 0x10 => modSel s a fun x => { x with srgTenant := v.setWidth 12 }
  | 0x14 => setSrgTenant s t { srgTenant s t with ttft := v }
  | 0x18 => setSrgTenant s t { srgTenant s t with tbt := v.setWidth 24 }
  | _ => s

/-- VALID, RELAY, PORT and VLAN of a path entry; RSV bits read zero. -/
def pathWord (v : Word) : Word := v &&& 0xC00F0FFF

/-- A path entry's PORT is in range: a relay entry names link 0 to 2 (R240). -/
def pathOk (v : Word) : Bool := !v.getLsbD 30 || decide (bits v.toNat 19 16 ≤ 2)

/-- A new path entry takes effect for frames sent after it: frames that had no path may go (R239, R240). -/
def writePath (s : State) (a : Accessor) (v : Word) : State :=
  pumpAll { s with te := { s.te with paths := tblSet s.te.paths (selPath s a) (pathWord v) } }

def writeTe (s : State) (a : Accessor) (o : Nat) (v : Word) : Option State :=
  match o with
  | 0x00 => some { s with te := { s.te with ethertype := v.extractLsb' 16 16, sysKgen := v.extractLsb' 4 4 } }
  | 0x08 => some { s with te := { s.te with deadFault := w1c s.te.deadFault v 31 } }
  | 0x0C => inRange (within 8 4096 (bits v.toNat 12 0)) { s with te := { s.te with rto := v.setWidth 13 } }
  | 0x10 => some (modSel s a fun x => { x with teTenant := v.setWidth 12 })
  | 0x14 => some { s with te := { s.te with kgen := tblSet s.te.kgen (accSel s a).teTenant.toNat (v.setWidth 4) } }
  | 0x18 => some (modSel s a fun x => { x with teCtr := v.setWidth 12 })
  | 0x1C => some (setCtr s (accSel s a).teCtr.toNat v)
  | 0x40 => inRange (within 100 65535 (bits v.toNat 15 0)) { s with te := { s.te with delayMark := v.setWidth 16 } }
  | 0x44 => inRange (within 1000 800000 (bits v.toNat 23 0)) { s with te := { s.te with rateMin := v.setWidth 24 } }
  | 0x48 => some (modSel s a fun x => { x with tePath := v.setWidth 14 })
  | 0x4C => inRange (pathOk v) (writePath s a v)
  | _ => some s

/-- DEMOTE: lane BYPASS leaves use, the link is demoted to 15 lanes, and it retrains (R218). -/
def demote (s : State) (link : Fin 3) (lane : Nat) : State :=
  takeLanesOut { s with rly := vmod s.rly link fun r => { r with demoted := true } } link (1 <<< lane)

/-- A write to RLY_CTRL_i. -/
def writeRlyCtrl (s : State) (link : Fin 3) (v : Word) : Option State :=
  let s' := { s with rly := vmod s.rly link fun r => { r with errLimit := v.extractLsb' 16 16, bypass := v.extractLsb' 0 5 } }
  inRange (decide (bits v.toNat 4 0 ≤ 16)) (if v.getLsbD 5 then demote s' link (bits v.toNat 4 0) else s')

def writeRly (s : State) (o : Nat) (v : Word) : Option State :=
  if h : o / 0x100 < 3 then (if o % 0x100 = 0x04 then writeRlyCtrl s ⟨o / 0x100, h⟩ v else some s) else some s

def writePac (s : State) (a : Accessor) (o : Nat) (v : Word) : Option State :=
  match o with
  | 0x00 => inRange (decide (bits v.toNat 20 16 ≤ 29)) (modSel s a fun x => { x with pac := v.setWidth 21 &&& 0x1F1F1F })
  | 0x40 => some (if 19 ≤ pacSelPort s a then s else modSel s a fun x => { x with pacTenant := v.setWidth 12 })
  | _ => some s

def writeBib (s : State) (a : Accessor) (o : Nat) (v : Word) : State :=
  match o with
  | 0x00 => { s with bib := { s.bib with late := w1c s.bib.late v 3 } }
  | 0x04 => modSel s a fun x => { x with bibPart := v.setWidth 4 }
  | _ => s

/-! ### MAR (R316, R327, R337) -/

/-- MAR_CMD by OP; 0 has no effect (R407), other values complete with REFUSED. -/
def writeMarCmd (s : State) (v : Word) : State :=
  match bits v.toNat 3 0 with
  | 0 => s
  | 1 => marCmdFence s
  | 2 => marCmdReadmitNow s
  | 3 => marCmdSwapNow s
  | _ => marResult s .refused

/-- An entry of the staged ring; the current copy and entries 46 to 63 ignore writes. -/
def writeRing (s : State) (a : Accessor) (v : Word) : State :=
  let k := bits (accSel s a).marRing.toNat 5 0
  if (accSel s a).marRing.getLsbD 6 && decide (k < 46) then
    { s with mar := { s.mar with ringStg := tblSet s.mar.ringStg k (v &&& 0x800FFFFF) } }
  else s

def writePortFence (s : State) (v : Word) : State := pumpAll { s with mar := { s.mar with portFence := v.setWidth 16 } }

def writeMar (s : State) (a : Accessor) (o : Nat) (v : Word) : State :=
  match o with
  | 0x04 => modSel s a fun x => { x with marRing := v.setWidth 7 }
  | 0x08 => writeRing s a v
  | 0x10 => { s with mar := { s.mar with arg0 := v.setWidth 20 } }
  | 0x14 => { s with mar := { s.mar with argLanes := v.extractLsb' 16 12, argEpoch := v.setWidth 16 } }
  | 0x18 => writeMarCmd s v
  | 0x1C => { s with mar := { s.mar with stragLimit := v.setWidth 16 } }
  | 0x34 => { s with mar := { s.mar with fmEn := v.getLsbD 31, fmDev := v.setWidth 20 } }
  | 0x38 => writePortFence s v
  | _ => s

/-! ### CAP, HIF, management ports -/

def writeCap (s : State) (o : Nat) (v : Word) : State :=
  if h : o / 0x100 < 4 then (if o % 0x100 = 0x0C then retrainCap s ⟨o / 0x100, h⟩ v else s) else s

/-- The fields of HIF_CTX_CFG are in range; VECTOR by the function that owns the tenant (R385). -/
def cfgOk (s : State) (t : Tenant) (v : Word) : Bool :=
  within 6 16 (bits v.toNat 12 8) && within 6 16 (bits v.toNat 4 0)
  && (decide (tenantFunc s t ≠ 0) || decide (bits v.toNat 26 16 ≠ 0))

/-- Closing a context: completions that HIF holds cannot be written (R386). -/
def closeCtx (s : State) (t : Tenant) : State :=
  let c := ctxOf s t
  dropCpls (setCtx s t { c with enable := false, heldCpl := [], msiHold := false, msiLater := false }) c.heldCpl.length

/-- A context opens or changes: its rings start at index 0. -/
def openCtx (s : State) (t : Tenant) (v : Word) : State :=
  let c := ctxOf s t
  setCtx s t { c with
    enable := v.getLsbD 31, vector := v.extractLsb' 16 11, cplLog2 := v.extractLsb' 8 5, cmdLog2 := v.extractLsb' 0 5
    tail := 0, head := 0, bells := [], cplIdx := 0, cplHead := 0 }

/-- HIF_CTX_CFG: while ENABLE is 1 the other fields are not writable. -/
def writeCfg (s : State) (t : Tenant) (v : Word) : Option State :=
  if (ctxOf s t).enable then some (if v.getLsbD 31 then s else closeCtx s t)
  else inRange (cfgOk s t v) (openCtx s t v)

/-- The context registers that a VF also has, for the accessor's selected tenant. -/
def writeCtx (s : State) (a : Accessor) (o : Nat) (v : Word) : Option State :=
  let t := (accSel s a).hifCtx
  let c := ctxOf s t
  match o with
  | 0x08 => some (setCtx s t { c with cmdLo := v })
  | 0x0C => some (setCtx s t { c with cmdHi := v })
  | 0x10 => some (setCtx s t { c with cplLo := v })
  | 0x14 => some (setCtx s t { c with cplHi := v })
  | 0x18 => writeCfg s t v
  | _ => some s

def selCtx (s : State) (a : Accessor) (v : Word) : State := modSel s a fun x => { x with hifCtx := v.setWidth 12 }

def writeHif (s : State) (a : Accessor) (o : Nat) (v : Word) : Option State :=
  match o with
  | 0x04 => some (selCtx s a v)
  | 0x1C => inRange (decide (bits v.toNat 6 0 ≤ 64)) { s with hif := { s.hif with
      funcOf := tblSet s.hif.funcOf (accSel s a).hifCtx.toNat (bits v.toNat 6 0) } }
  | _ => writeCtx s a o v

def writeMgmt (s : State) (o : Nat) (v : Word) : State :=
  match o with
  | 0x00 => { s with spi := { s.spi with unreach := w1c s.spi.unreach v 3, badOp := w1c s.spi.badOp v 2 } }
  | 0x10 => { s with uar := { s.uar with parity := v.extractLsb' 24 2, div := v.setWidth 24 } }
  | 0x20 => { s with i2c := { s.i2c with pec := v.getLsbD 0 } }
  | _ => s

/-! ### Lane windows -/

def writeLane (s : State) (n : LaneNo) (o : Nat) (v : Word) : State :=
  match o with
  | 0x00020 => modLane s n fun l => { l with tables := { l.tables with late := w1c l.tables.late v 8 } }
  | 0x80000 => modLane s n fun l => { l with arith := l.arith &&& ~~~(v.setWidth 5) }
  | 0xC0020 => modLane s n fun l => { l with kv := { l.kv with dirLate := w1c l.kv.dirLate v 3 } }
  | 0xE0000 => writeMchTest s n (bits v.toNat 2 0)
  | 0xE0004 => modLane s n fun l => { l with mch := { l.mch with fail := w1c l.mch.fail v 2 } }
  | _ => s

/-! ### One write -/

def writeGlobal (s : State) (a : Accessor) (w o : Nat) (v : Word) : Option State :=
  match w with
  | 0x00 => writeGlb s o v
  | 0x01 => some (writeSta s a o v)
  | 0x02 => some (writeFus s o v)
  | 0x03 => some (writeFwu s o v)
  | 0x04 => some (writeLap s o v)
  | 0x05 => some (writeMpl s o v)
  | 0x0B => some (writeSrg s a o v)
  | 0x0C => writeTe s a o v
  | 0x0D => writePac s a o v
  | 0x0E => some (writeBib s a o v)
  | 0x0F => some (writeMar s a o v)
  | 0x10 => some (writeCap s o v)
  | 0x11 => writeRly s o v
  | 0x12 => writeHif s a o v
  | 0x13 => some (writeMgmt s o v)
  | _ => some s

/-- A whole word written to a mapped register of the physical function. -/
def writeReg (s : State) (a : Accessor) (off : Nat) (v : Word) : Option State :=
  match laneWindow off with
  | some (n, o) => some (writeLane s n o v)
  | none => writeGlobal s a (off / 0x10000) (off % 0x10000) v

/-- A whole word written to a register of a VF's BAR0; a tenant that the VF does not own ignores it (R417). -/
def writeVf (s : State) (f : Fin 64) (off : Nat) (v : Word) : Option State :=
  let a := Accessor.vf f
  if off = 0x04 then some (selCtx s a v)
  else if tenantFunc s (accSel s a).hifCtx = f.val + 1 then writeCtx s a off v else some s

/-- The register that an offset lies in: its value, whether its block is held in reset; `none` is unmapped (R405, R406, R417). -/
def regAt (s : State) (a : Accessor) (off : Nat) : Option (Word × Bool) :=
  match a with
  | .vf f => (readVf s f off).map fun v => (v, !s.sta.boot.fabricUp || !s.sta.boot.perstN)
  | _ => (readReg s a off).map fun v => (v, offHeld s off)

def writeAt (s : State) (a : Accessor) (off : Nat) (v : Word) : Option State :=
  match a with
  | .vf f => writeVf s f off v
  | _ => writeReg s a off v

/-- The accessor has a BAR0 that holds the offset: 64 KiB of a VF, 64 MiB of the physical function. -/
def inBar (s : State) (a : Accessor) (off : Nat) : Bool :=
  match a with
  | .vf _ => decide (off < 0x10000)
  | _ => reaches s a && decide (off < 0x4000000)

/-- A write at an offset (R405 to R407, R411): unmapped, held in reset, partial, out of range, or done. -/
def writeAccess (s : State) (a : Accessor) (off : Nat) (v : Word) (full : Bool) : State :=
  let r := 4 * (off / 4)
  if !inBar s a off then s
  else match regAt s a r with
    | none => recordAccess s a kindUnmapped r
    | some (_, true) => s
    | some (_, false) =>
      if !(full && off % 4 == 0) then recordAccess s a kindPartial r
      else match writeAt s a r v with
        | some t => t
        | none => recordAccess s a kindRange r

/-! ### One read (R405, R406, R409 to R411) -/

/-- The counters of XZ to RLY that a read clears, changed by f. -/
def rcSmall (s : State) (w o : Nat) (f : Word → Word) : State :=
  match w, o with
  | 0x06, 0x08 => { s with xz := { s.xz with lateDrop := f s.xz.lateDrop } }
  | 0x06, 0x0C => { s with xz := { s.xz with hdrBad := f s.xz.hdrBad } }
  | 0x07, 0x08 => { s with btn := { s.btn with stallCnt := f s.btn.stallCnt } }
  | 0x07, 0x0C => { s with btn := { s.btn with crcFail := f s.btn.crcFail } }
  | 0x07, 0x10 => { s with btn := { s.btn with ctlLost := f s.btn.ctlLost } }
  | 0x07, 0x14 => { s with btn := { s.btn with auditMismatch := f s.btn.auditMismatch } }
  | 0x09, 0x00 => { s with jdg := { s.jdg with nanCnt := f s.jdg.nanCnt } }
  | 0x09, 0x04 => { s with jdg := { s.jdg with trackFull := f s.jdg.trackFull } }
  | 0x09, 0x08 => { s with jdg := { s.jdg with noCand := f s.jdg.noCand } }
  | 0x0A, 0x04 => { s with stp := { s.stp with stopCnt := f s.stp.stopCnt } }
  | 0x0E, 0x10 => { s with bib := { s.bib with cascTimeout := f s.bib.cascTimeout } }
  | 0x0E, 0x14 => { s with bib := { s.bib with ringCrc := f s.bib.ringCrc } }
  | 0x0E, 0x18 => { s with bib := { s.bib with ringDrop := f s.bib.ringDrop } }
  | 0x0F, 0x20 => { s with mar := { s.mar with hbMiss := f s.mar.hbMiss } }
  | 0x0F, 0x24 => { s with mar := { s.mar with lateHb := f s.mar.lateHb } }
  | 0x0F, 0x28 => { s with mar := { s.mar with fenceRx := f s.mar.fenceRx } }
  | 0x0F, 0x2C => { s with mar := { s.mar with stray := f s.mar.stray } }
  | 0x0F, 0x30 => { s with mar := { s.mar with prodLaps := f s.mar.prodLaps } }
  | 0x12, 0x20 => { s with hif := { s.hif with dbBad := f s.hif.dbBad } }
  | 0x12, 0x24 => { s with hif := { s.hif with cplDrop := f s.hif.cplDrop } }
  | 0x13, 0x04 => { s with spi := { s.spi with discard := f s.spi.discard } }
  | 0x13, 0x08 => { s with spi := { s.spi with extra := f s.spi.extra } }
  | 0x13, 0x14 => { s with uar := { s.uar with frameErr := f s.uar.frameErr } }
  | 0x13, 0x18 => { s with uar := { s.uar with early := f s.uar.early } }
  | 0x13, 0x1C => { s with uar := { s.uar with pktDrop := f s.uar.pktDrop } }
  | _, _ => s

def rcGlb (s : State) (o : Nat) (f : Word → Word) : State :=
  match o with
  | 0x44 => { s with glb := { s.glb with errCnt := f s.glb.errCnt } }
  | 0x100 => { s with coach := { s.coach with restarts := (f (s.coach.restarts.setWidth 32)).setWidth 8 } }
  | _ => s

def rcSrg (s : State) (a : Accessor) (o : Nat) (f : Word → Word) : State :=
  let t := (accSel s a).srgTenant
  match o with
  | 0x00 => { s with srg := { s.srg with dropCnt := f s.srg.dropCnt } }
  | 0x04 => { s with srg := { s.srg with ringFull := f s.srg.ringFull } }
  | 0x1C => setSrgTenant s t { srgTenant s t with ttftViol := f (srgTenant s t).ttftViol }
  | 0x20 => setSrgTenant s t { srgTenant s t with tbtViol := f (srgTenant s t).tbtViol }
  | _ =>
    match famIdx o 0x100 4 16 with
    | some b => { s with srg := { s.srg with ttftHist := vmodN s.srg.ttftHist b f } }
    | none =>
      match famIdx o 0x140 4 16 with
      | some b => { s with srg := { s.srg with tbtHist := vmodN s.srg.tbtHist b f } }
      | none => s

def setTeCount (c : TeCnt) (k : Nat) (f : Word → Word) : TeCnt :=
  match k with
  | 0 => { c with rxAbandon := f c.rxAbandon }
  | 1 => { c with retx := f c.retx }
  | 2 => { c with deadLoad := f c.deadLoad }
  | 3 => { c with hold := f c.hold }
  | 4 => { c with pfResend := f c.pfResend }
  | 5 => { c with rateCut := f c.rateCut }
  | 6 => { c with reorderDrop := f c.reorderDrop }
  | _ => { c with nontrack := f c.nontrack }

def rcTe (s : State) (o : Nat) (f : Word → Word) : State :=
  match famIdx o 0x20 4 8 with
  | some k => { s with te := { s.te with cnt := setTeCount s.te.cnt k f } }
  | none =>
    match famIdx o 0x100 4 19 with
    | some p => { s with te := { s.te with fs := vmodN s.te.fs p fun x => { x with cnt := f x.cnt } } }
    | none => s

def modMeter (s : State) (a : Accessor) (g : PacM → PacM) : State :=
  modPacPort s (pacSelPort s a) fun p => { p with meters := vmodN p.meters (pacSelMeter s a) g }

def rcPac (s : State) (a : Accessor) (o : Nat) (f : Word → Word) : State :=
  let port := pacSelPort s a
  match o with
  | 0x30 => modPacQ s port (pacSelQueue s a) fun q => { q with txCnt := f q.txCnt }
  | 0x34 => modMeter s a fun m => { m with green := f m.green }
  | 0x38 => modMeter s a fun m => { m with yellow := f m.yellow }
  | 0x3C => modMeter s a fun m => { m with red := f m.red }
  | 0x48 => modPacPort s port fun p => { p with pfcTx := f p.pfcTx }
  | _ => s

def rcLane (s : State) (n : LaneNo) (o : Nat) (f : Word → Word) : State :=
  match o with
  | 0x00030 => modLane s n fun l => { l with st := { l.st with soft := f l.st.soft } }
  | 0x00034 => modLane s n fun l => { l with st := { l.st with missedLap := f l.st.missedLap } }
  | 0x00038 => modLane s n fun l => { l with st := { l.st with preemptCnt := f l.st.preemptCnt } }
  | 0x40004 => modLane s n fun l => { l with hbc := { l.hbc with eccCe := f l.hbc.eccCe } }
  | 0x40008 => modLane s n fun l => { l with hbc := { l.hbc with eccUe := f l.hbc.eccUe } }
  | 0x4010C => modLane s n fun l => { l with kv := { l.kv with reclaimCnt := f l.kv.reclaimCnt } }
  | 0x80004 => modLane s n fun l => { l with stallCnt := f l.stallCnt }
  | 0xC0004 => modLane s n fun l => { l with kv := { l.kv with heldCnt := f l.kv.heldCnt } }
  | 0xC0008 => modLane s n fun l => { l with kv := { l.kv with holdParkCnt := f l.kv.holdParkCnt } }
  | 0xC000C => modLane s n fun l => { l with kv := { l.kv with sealCnt := f l.kv.sealCnt } }
  | 0xC0010 => modLane s n fun l => { l with kv := { l.kv with fetchCnt := f l.kv.fetchCnt } }
  | 0xC0024 => modLane s n fun l => { l with kv := { l.kv with heatNan := f l.kv.heatNan } }
  | _ => s

/-- The RC field of a register changes by f; registers without one stay. -/
def rcMod (s : State) (a : Accessor) (off : Nat) (f : Word → Word) : State :=
  match laneWindow off with
  | some (n, o) => rcLane s n o f
  | none =>
    let o := off % 0x10000
    match off / 0x10000 with
    | 0x00 => rcGlb s o f
    | 0x01 => if o = 0x28 then { s with sta := { s.sta with throttleCnt := f s.sta.throttleCnt } } else s
    | 0x03 => if o = 0x1C then { s with fwu := { s.fwu with fallbackCnt := f s.fwu.fallbackCnt } } else s
    | 0x08 => if o = 0x00 then { s with glb := { s.glb with heatSelCnt := f s.glb.heatSelCnt } } else s
    | 0x0B => rcSrg s a o f
    | 0x0C => rcTe s o f
    | 0x0D => rcPac s a o f
    | 0x10 => if o % 0x100 = 0x08 then { s with cap := { s.cap with
        ports := vmodN s.cap.ports (o / 0x100) fun c => { c with poison := f c.poison } } } else s
    | 0x11 => if o % 0x100 = 0x08 then { s with rly := vmodN s.rly (o / 0x100) fun r => { r with crcDrop := f r.crcDrop } } else s
    | w => rcSmall s w o f

/-- The RC field of a value read: RESTARTS of COACH_STATUS, the whole word of a counter. -/
def rcField (off : Nat) (v : Word) : Word := if off = 0x100 then (v >>> 8) &&& 0xFF else v

/-- What an accessor has read leaves the field: events after it stay counted (R394, R410). -/
def takeRc (s : State) (a : Accessor) (off : Nat) (v : Word) : State :=
  rcMod s a off fun c => lo32 (c.toNat - (rcField off v).toNat)

/-- A read of _LO latches the _HI of its pair (R409). -/
def latchHi (s : State) (a : Accessor) (off : Nat) : State :=
  match off with
  | 0x00030 => modSel s a fun x => { x with ptpHi := hi32 (ptpTime s) }
  | 0x40008 => modSel s a fun x => { x with lapCountHi := (s.lap.count >>> 32).setWidth 32 }
  | 0x40018 => modSel s a fun x => { x with lapBaseHi := (s.lap.base >>> 32).setWidth 32 }
  | 0x50008 => modSel s a fun x => { x with tagCurHi := (s.mpl.tagCur >>> 32).setWidth 32 }
  | 0x50010 => modSel s a fun x => { x with tagNextHi := (s.mpl.tagNext >>> 32).setWidth 32 }
  | _ => s

/-- A read of MCH_STATUS of a lane under test takes a free percentage. -/
def usesFree (s : State) (off : Nat) : Bool :=
  match laneWindow off with
  | some (n, o) => decide (o = 0xE0004) && (laneOf s n).mch.busy
  | none => false

/-- Capture a register: its value, whether its block is held, and the state after what a read does besides clearing. -/
def capture (s : State) (a : Accessor) (off : Nat) : Word × Bool × State :=
  match regAt s a off with
  | none => (0, false, recordAccess s a kindUnmapped off)
  | some (_, true) => (0, true, s)
  | some (v, false) =>
    let s := latchHi s a off
    (v, false, if usesFree s off then { s with free := s.free + 1 } else s)

/-- A read of the register at an aligned offset, with its side effects. -/
def readOne (s : State) (a : Accessor) (off : Nat) : Word × State :=
  let r := capture s a off
  (r.1, if r.2.1 then r.2.2 else match a with | .vf _ => r.2.2 | _ => takeRc r.2.2 a off r.1)

/-- The low bytes of a word, of a number from 1 to 4. -/
def lowBytes (v : Word) (len : Nat) : Word := if 4 ≤ len then v else lo32 (v.toNat % 2 ^ (8 * len))

/-- A read of `len` bytes: one register where it holds them all, else both that it covers, the lower first (R405). -/
def readBytes (s : State) (a : Accessor) (off len : Nat) : Word × State :=
  let k := 8 * (off % 4)
  let x := readOne s a (4 * (off / 4))
  if off % 4 + len ≤ 4 then (lowBytes (x.1 >>> k) len, x.2)
  else
    let y := readOne x.2 a (4 * (off / 4) + 4)
    (lowBytes ((x.1 >>> k) ||| (y.1 <<< (32 - k))) len, y.2)

/-- A read: the requested bytes go to the accessor. -/
def readAccess (s : State) (a : Accessor) (off len : Nat) : State :=
  if !inBar s a off then s
  else
    let x := readBytes s a off len
    emit x.2 (.regValue a off x.1)

/-! ### Commands -/

/-- RLY_DEMOTE: a write to RLY_CTRL_i. -/
def execRlyDemote (a : Accessor) (link : Fin 3) (v : Word) (s : State) : Res :=
  .next (writeAccess s a (0x00110004 + 0x100 * link.val) v true)

/-- TE_CTR_WRITE: the counter that the accessor selected (R246). -/
def execTeCtrWrite (a : Accessor) (v : Word) (s : State) : Res := .next (writeAccess s a 0x000C001C v true)

/-- TE_PATH_ENTRY_WRITE (R240). -/
def execTePathEntryWrite (a : Accessor) (v : Word) (s : State) : Res := .next (writeAccess s a 0x000C004C v true)

/-- TE_KGEN_WRITE: TE_CFG for the system generation, TE_TENANT_KEY for the selected tenant's (R231). -/
def execTeKgenWrite (a : Accessor) (system : Bool) (v : Word) (s : State) : Res :=
  .next (writeAccess s a (if system then 0x000C0000 else 0x000C0014) v true)

def tuneOff : TuneReg → Nat
  | .rto => 0x000C000C
  | .ccCfg => 0x000C0040
  | .rateMin => 0x000C0044

/-- TE_TUNING_WRITE (R237). -/
def execTeTuningWrite (a : Accessor) (reg : TuneReg) (v : Word) (s : State) : Res := .next (writeAccess s a (tuneOff reg) v true)

/-- GLB_EVT_WRITE (R415). -/
def execGlbEvtWrite (a : Accessor) (enable : Bool) (v : Word) (s : State) : Res :=
  .next (writeAccess s a (if enable then 0x24 else 0x20) v true)

/-- RC_READ (R410). -/
def execRcRead (a : Accessor) (off len : Nat) (s : State) : Res := .next (readAccess s a off len)

/-- LO_READ_LATCH (R409). -/
def execLoReadLatch (a : Accessor) (off len : Nat) (s : State) : Res := .next (readAccess s a off len)

/-- UNMAPPED_READ (R406). -/
def execUnmappedRead (a : Accessor) (off len : Nat) (s : State) : Res := .next (readAccess s a off len)

/-- REGISTER_WRITE (R405 to R407). -/
def execRegisterWrite (a : Accessor) (off : Nat) (v : Word) (full : Bool) (s : State) : Res := .next (writeAccess s a off v full)

end Sys2Proof.Machine
end

