-- ==== Sys2Proof/Machine/Mgmt.lean ====
section
/-! DEFINITION. The management ports: the SPI target (R391 to R394), UART packets (R395 to R398), I2C telemetry (R399, R400) and the
TAP (R401). -/

namespace Sys2Proof.Machine

open Sys2Proof

/-- The management ports serve once the strap has been sampled (R350). -/
def mgmtServes (s : State) : Bool := s.sta.boot.strapDone

/-! ### SPI (R392 to R394) -/

/-- SPI_MISO carries the pending read value, else SPI_STATUS. -/
def spiOut (s : State) : State :=
  emit s (.spiMiso (match s.spi.pend with | some p => p.value | none => spiStatus s))

/-- The consuming commit: each RC field of the register read is reduced by the value captured. -/
def spiConsume (s : State) : State :=
  match s.spi.pend with
  | some p => takeRc { s with spi := { s.spi with pend := none } } .spi p.off p.value
  | none => s

def setUnreach (s : State) (held : Bool) : State := if held then { s with spi := { s.spi with unreach := true } } else s

/-- A register's domain is held in reset. -/
def heldAt (s : State) (a : Accessor) (off : Nat) : Bool :=
  match regAt s a off with
  | some (_, h) => h
  | none => false

/-- A committed read command captures the register. -/
def spiCapture (s : State) (off : Nat) : State :=
  let r := capture s .spi off
  let t := setUnreach r.2.2 r.2.1
  { t with spi := { t.spi with pend := some ⟨r.1, off⟩ } }

/-- A committed data word performs the write. -/
def spiStore (s : State) (off : Nat) (v : Word) : State :=
  writeAccess (setUnreach { s with spi := { s.spi with expect := none } } (heldAt s .spi off)) .spi off v true

/-- A committed command word. -/
def spiCommand (s : State) (w : Word) : State :=
  let off := 4 * bits w.toNat 23 0
  if bits w.toNat 29 24 ≠ 0 || bits w.toNat 31 30 = 3 then { s with spi := { s.spi with badOp := true } }
  else match bits w.toNat 31 30 with
    | 1 => { s with spi := { s.spi with expect := some off } }
    | 2 => spiCapture s off
    | _ => s

def spiDiscarded (s : State) : State := { s with spi := { s.spi with discard := satInc s.spi.discard } }

/-- A frame of a number of rising edges: discarded below 32, else committed (R392). -/
def spiFrame (s : State) (w : Word) (edges : Nat) : State :=
  if !mgmtServes s then s
  else
    let s := spiOut s
    if edges < 32 then spiDiscarded s
    else
      let s := if 32 < edges then { s with spi := { s.spi with extra := satInc s.spi.extra } } else s
      let s := spiConsume s
      match s.spi.expect with
      | some off => spiStore s off w
      | none => spiCommand s w

/-- SPI_READ. -/
def execSpiRead (w : Word) (edges : Nat) (s : State) : Res := .next (spiFrame s w edges)

/-- SPI_WRITE. -/
def execSpiWrite (w : Word) (edges : Nat) (s : State) : Res := .next (spiFrame s w edges)

/-- SPI_DATA_WORD. -/
def execSpiDataWord (w : Word) (edges : Nat) (s : State) : Res := .next (spiFrame s w edges)

/-- SPI_NOOP. -/
def execSpiNoop (w : Word) (edges : Nat) (s : State) : Res := .next (spiFrame s w edges)

/-- SPI_FRAME_DISCARD: a frame of fewer than 32 edges, whatever its bits. -/
def execSpiFrameDiscard (edges : Nat) (s : State) : Res := .next (if edges < 32 then spiFrame s 0 edges else s)

/-! ### UART (R396, R398) -/

/-- A response: status, four data bytes, CRC-8. -/
def uartReply (s : State) (status : Byte) (v : Word) : State :=
  let b := [status] ++ wordBytes v
  emit s (.uartTx (b ++ [crc8 b]))

/-- A response whose data bytes the manual does not give. -/
def uartOpen (s : State) (status : Byte) : State :=
  let x := takeFree s
  uartReply x.2 status x.1

/-- A whole request: CRC, OP, reach, then the access. -/
def uartRequest (s : State) (crcOk opOk write : Bool) (off : Nat) (v : Word) : State :=
  if !crcOk then uartOpen s 0x01
  else if !opOk then uartOpen s 0x02
  else if heldAt s .uart off then (if write then uartOpen s 0x03 else uartReply s 0x03 0)
  else if write then uartOpen (writeAccess s .uart off v true) 0x00
  else
    let x := readOne s .uart off
    uartReply x.2 0x00 x.1

/-- The ten bytes of a request (R398). -/
def uartPacket (s : State) (p : List Byte) : State :=
  let b := fun i => p.getD i 0
  let addr := (b 2).toNat + 256 * (b 3).toNat + 65536 * (b 4).toNat
  let v := lo32 (bytesLe ((p.drop 5).take 4))
  let crcOk := crc8 ((p.drop 1).take 8) == b 9
  uartRequest s crcOk (b 1 == 0x01 || b 1 == 0x02) (b 1 == 0x02) (4 * addr) v

/-- A byte that passed its checks; a request starts with 0x7E and ends with its tenth byte. -/
def uartTake (s : State) (b : Byte) : State :=
  let p := s.uar.part ++ [b]
  if s.uar.part.isEmpty && b != 0x7E then s
  else if p.length < 10 then { s with uar := { s.uar with part := p } }
  else uartPacket { s with uar := { s.uar with part := [] } } p

/-- UART_BYTE_RX: a framing or parity error drops the byte; an early start edge is counted. -/
def execUartByteRx (b : Byte) (stopOk parityOk early : Bool) (s : State) : Res :=
  .next (if !mgmtServes s then s
    else
      let s := if early then { s with uar := { s.uar with early := satInc s.uar.early } } else s
      if stopOk && (parityOk || s.uar.parity = 0 || s.uar.parity = 3) then uartTake s b
      else { s with uar := { s.uar with frameErr := satInc s.uar.frameErr } })

/-- UART_READ: a whole read request. -/
def execUartRead (addr : BitVec 24) (crcOk opOk : Bool) (s : State) : Res :=
  .next (if mgmtServes s then uartRequest s crcOk opOk false (4 * addr.toNat) 0 else s)

/-- UART_WRITE: a whole write request. -/
def execUartWrite (addr : BitVec 24) (v : Word) (crcOk opOk : Bool) (s : State) : Res :=
  .next (if mgmtServes s then uartRequest s crcOk opOk true (4 * addr.toNat) v else s)

/-- UART_PACKET_GAP. -/
def execUartPacketGap (s : State) : Res :=
  .next (if s.uar.part.isEmpty then s else { s with uar := { s.uar with part := [], pktDrop := satInc s.uar.pktDrop } })

/-! ### I2C (R399, R400) -/

/-- The 7-bit address of the target. -/
def i2cAddr (s : State) : Nat := 0x58 + s.sta.pos.toNat

/-- Packet error code over the bytes on the bus, where I2C_CFG.PEC asks for it. -/
def withPec (s : State) (lead data : List Byte) : List Byte := if s.i2c.pec then data ++ [crc8 (lead ++ data)] else data

/-- Address and command bytes of a read. -/
def readLead (s : State) (code : Byte) : List Byte :=
  [BitVec.ofNat 8 (2 * i2cAddr s), code, BitVec.ofNat 8 (2 * i2cAddr s + 1)]

/-- A command code of the table whose value is a word. -/
def wordCode (c : Nat) : Bool :=
  within 0x10 0x14 c || within 0x18 0x23 c || within 0x40 0x47 c || within 0x60 0x67 c || c == 0x7F

/-- The value that a code reads, as the last update left it. -/
def telemOf (s : State) (c : Nat) : BitVec 16 := tblGetD s.i2c.telem c 0

def i2cAnswer (s : State) (code : Byte) (data : List Byte) : State := emit s (.i2cData (withPec s (readLead s code) data))

def lowByte (v : BitVec 16) : Byte := v.setWidth 8
def highByte (v : BitVec 16) : Byte := v.extractLsb' 8 8

/-- I2C_READ_BYTE: the status byte, or the low byte of a word. -/
def execI2cReadByte (code : Byte) (s : State) : Res :=
  .next (if !mgmtServes s then s
    else if code = 0x00 then i2cAnswer s code [s.i2c.status]
    else if wordCode code.toNat then i2cAnswer s code [lowByte (telemOf s code.toNat)]
    else emit s .i2cNack)

/-- I2C_READ_WORD: low byte first; the status has one byte, so its second byte on the bus is open. -/
def execI2cReadWord (code : Byte) (s : State) : Res :=
  .next (if !mgmtServes s then s
    else if code = 0x00 then
      let x := takeFree s
      i2cAnswer x.2 code [s.i2c.status, x.1.setWidth 8]
    else if wordCode code.toNat then i2cAnswer s code [lowByte (telemOf s code.toNat), highByte (telemOf s code.toNat)]
    else emit s .i2cNack)

/-- ALERT_RESPONSE: answered with the own address while ALERT_N is low. -/
def execAlertResponse (s : State) : Res :=
  .next (if mgmtServes s && s.i2c.alert then
      let s := emit s (.i2cData (withPec s [0x19] [BitVec.ofNat 8 (2 * i2cAddr s)]))
      alertUpdate { s with i2c := { s.i2c with alertRead := true } }
    else s)

/-- I2C_SCL_TIMEOUT: the target releases the bus; every transfer of this model is one command, so none is held. -/
def execI2cSclTimeout (s : State) : Res := .next s

/-- Status byte of an update. -/
def statusByte (s : State) (railOut : Bool) : Byte :=
  BitVec.ofNat 8 (ofB (throttling s.sta) + 2 * ofB s.sta.fatalPin + 4 * ofB railOut)

/-- Values of an update by command code. -/
def telemList (s : State) (r : RailReading) : List (Nat × BitVec 16) :=
  ((List.finRange 4).map fun d => (0x10 + d.val, BitVec.ofInt 16 (s.sta.dieTemp.get d)))
    ++ [(0x14, BitVec.ofInt 16 s.sta.bolzilTemp)]
    ++ ((List.finRange 12).map fun k => (0x18 + k.val, BitVec.ofInt 16 (s.sta.stackTemp.get k)))
    ++ ((List.finRange 8).map fun k => (0x40 + k.val, r.mv.get k))
    ++ ((List.finRange 8).map fun k => (0x60 + k.val, r.da.get k))
    ++ [(0x7F, r.power)]

/-- TELEMETRY_UPDATE: the 1 ms update; the rails' windows take part in ALERT_N. -/
def execTelemetryUpdate (r : RailReading) (s : State) : Res :=
  .next (alertUpdate { s with i2c := { s.i2c with
    telem := telemList s r, status := statusByte s r.outOfWindow, railOut := r.outOfWindow } })

/-! ### TAP (R401) -/

/-- Select an instruction: what it shifts out first, and what it does to the boundary cells' drivers. -/
def tapSelect (s : State) (code : Byte) (v : Word) (driven hiZ : Bool) : State :=
  emit { s with jtg := { s.jtg with ir := code, driven, hiZ } } (.jtag code v)

/-- Instructions that connect the boundary register: it captures the pins, whose levels come from outside. -/
def tapBoundary (s : State) (code : Byte) (cells : BitVec 32) (driven : Bool) : State :=
  let x := takeFree s
  let t := x.2
  tapSelect { t with jtg := { t.jtg with cells } } code x.1 driven false

/-- EXTEST. -/
def execExtest (cells : BitVec 32) (s : State) : Res := .next (tapBoundary s 0x00 cells true)

/-- IDCODE. -/
def execIdcode (s : State) : Res := .next (tapSelect s 0x01 idcodeValue false false)

/-- SAMPLE/PRELOAD. -/
def execSamplePreload (cells : BitVec 32) (s : State) : Res := .next (tapBoundary s 0x02 cells false)

/-- CLAMP: the preloaded cells drive the pins. -/
def execClamp (s : State) : Res := .next (tapSelect s 0x03 0 true false)

/-- HIGHZ. -/
def execHighz (s : State) : Res := .next (tapSelect s 0x04 0 false true)

/-- DEBUG: BYPASS where the life cycle closes vendor debug (R358); what the debug register shifts out is the vendor's. -/
def execDebug (s : State) : Res :=
  .next (if debugOpen s then
      let x := takeFree s
      tapSelect x.2 0x10 x.1 false false
    else tapSelect s 0xFF 0 false false)

/-- The codes that select another instruction than BYPASS. -/
def tapCode (c : Byte) : Bool := decide (c.toNat ≤ 4) || c == 0x10

/-- BYPASS, by its own code or any code of no instruction. -/
def execBypass (code : Byte) (s : State) : Res := .next (if tapCode code then s else tapSelect s 0xFF 0 false false)

end Sys2Proof.Machine
end

