-- ==== Sys2Proof/Machine/Dispatch.lean ====
section
/-! DEFINITION. One arm per command of the table. -/

namespace Sys2Proof.Machine

open Sys2Proof

def exec (i : Instr) (s : State) : Host.Outcome State Fault Refusal :=
  match i with
  | .submit h blk => Sys2Proof.Machine.execSubmit h blk s
  | .pause h baton => Sys2Proof.Machine.execPause h baton s
  | .resume h baton ring ext => Sys2Proof.Machine.execResume h baton ring ext s
  | .cancel h baton => Sys2Proof.Machine.execCancel h baton s
  | .release h baton => Sys2Proof.Machine.execRelease h baton s
  | .extend h baton tokens => Sys2Proof.Machine.execExtend h baton tokens s
  | .audit h baton fromPos toPos repair => Sys2Proof.Machine.execAudit h baton fromPos toPos repair s
  | .regionAlloc h flags len => Sys2Proof.Machine.execRegionAlloc h flags len s
  | .regionFree h rkey => Sys2Proof.Machine.execRegionFree h rkey s
  | .sqOpen h arg => Sys2Proof.Machine.execSqOpen h arg s
  | .rqOpen h arg => Sys2Proof.Machine.execRqOpen h arg s
  | .sqClose h queue => Sys2Proof.Machine.execSqClose h queue s
  | .rqClose h queue => Sys2Proof.Machine.execRqClose h queue s
  | .bibUpdate h part records => Sys2Proof.Machine.execBibUpdate h part records s
  | .bibLookup h part key => Sys2Proof.Machine.execBibLookup h part key s
  | .planLoad h totalBytes => Sys2Proof.Machine.execPlanLoad h totalBytes s
  | .planWithdraw h => Sys2Proof.Machine.execPlanWithdraw h s
  | .laneDrain h lane => Sys2Proof.Machine.execLaneDrain h lane s
  | .laneServe h lane => Sys2Proof.Machine.execLaneServe h lane s
  | .laneTest h lane mode => Sys2Proof.Machine.execLaneTest h lane mode s
  | .weightPut h len digest data => Sys2Proof.Machine.execWeightPut h len digest data s
  | .stageVariant h lane model => Sys2Proof.Machine.execStageVariant h lane model s
  | .commandRingTail f tenant tail => Sys2Proof.Machine.execCommandRingTail f tenant tail s
  | .completionRingHead f tenant head => Sys2Proof.Machine.execCompletionRingHead f tenant head s
  | .descriptorRingTail f queue tail descs => Sys2Proof.Machine.execDescriptorRingTail f queue tail descs s
  | .trackCompletionRingHead f queue head => Sys2Proof.Machine.execTrackCompletionRingHead f queue head s
  | .bufferRingTail f queue tail bufs => Sys2Proof.Machine.execBufferRingTail f queue tail bufs s
  | .descriptorSplit queue => Sys2Proof.Machine.execDescriptorSplit queue s
  | .marCmdFenceAdmin a => Sys2Proof.Machine.execMarCmdFenceAdmin a s
  | .marCmdReadmit a => Sys2Proof.Machine.execMarCmdReadmit a s
  | .marCmdSwap a => Sys2Proof.Machine.execMarCmdSwap a s
  | .fwuStage a => Sys2Proof.Machine.execFwuStage a s
  | .activate a slotB => Sys2Proof.Machine.execActivate a slotB s
  | .confirm a => Sys2Proof.Machine.execConfirm a s
  | .rom a => Sys2Proof.Machine.execRom a s
  | .lcTransitionRequest a v authOk => Sys2Proof.Machine.execLcTransitionRequest a v authOk s
  | .deviceSoftwareReset a v => Sys2Proof.Machine.execDeviceSoftwareReset a v s
  | .blockSoftwareReset a v => Sys2Proof.Machine.execBlockSoftwareReset a v s
  | .laneReset a v => Sys2Proof.Machine.execLaneReset a v s
  | .mchTestStart a lane v => Sys2Proof.Machine.execMchTestStart a lane v s
  | .capRetrain a port v => Sys2Proof.Machine.execCapRetrain a port v s
  | .rlyDemote a link v => Sys2Proof.Machine.execRlyDemote a link v s
  | .portFenceWrite a v => Sys2Proof.Machine.execPortFenceWrite a v s
  | .teCtrWrite a v => Sys2Proof.Machine.execTeCtrWrite a v s
  | .tePathEntryWrite a v => Sys2Proof.Machine.execTePathEntryWrite a v s
  | .teKgenWrite a system v => Sys2Proof.Machine.execTeKgenWrite a system v s
  | .teTuningWrite a reg v => Sys2Proof.Machine.execTeTuningWrite a reg v s
  | .glbEvtWrite a enable v => Sys2Proof.Machine.execGlbEvtWrite a enable v s
  | .rcRead a off len => Sys2Proof.Machine.execRcRead a off len s
  | .loReadLatch a off len => Sys2Proof.Machine.execLoReadLatch a off len s
  | .unmappedRead a off len => Sys2Proof.Machine.execUnmappedRead a off len s
  | .registerWrite a off v full => Sys2Proof.Machine.execRegisterWrite a off v full s
  | .spiRead w edges => Sys2Proof.Machine.execSpiRead w edges s
  | .spiWrite w edges => Sys2Proof.Machine.execSpiWrite w edges s
  | .spiDataWord w edges => Sys2Proof.Machine.execSpiDataWord w edges s
  | .spiNoop w edges => Sys2Proof.Machine.execSpiNoop w edges s
  | .spiFrameDiscard edges => Sys2Proof.Machine.execSpiFrameDiscard edges s
  | .uartByteRx b stopOk parityOk early => Sys2Proof.Machine.execUartByteRx b stopOk parityOk early s
  | .uartRead addr crcOk opOk => Sys2Proof.Machine.execUartRead addr crcOk opOk s
  | .uartWrite addr v crcOk opOk => Sys2Proof.Machine.execUartWrite addr v crcOk opOk s
  | .uartPacketGap => Sys2Proof.Machine.execUartPacketGap s
  | .i2cReadByte code => Sys2Proof.Machine.execI2cReadByte code s
  | .i2cReadWord code => Sys2Proof.Machine.execI2cReadWord code s
  | .alertResponse => Sys2Proof.Machine.execAlertResponse s
  | .i2cSclTimeout => Sys2Proof.Machine.execI2cSclTimeout s
  | .telemetryUpdate r => Sys2Proof.Machine.execTelemetryUpdate r s
  | .extest cells => Sys2Proof.Machine.execExtest cells s
  | .idcode => Sys2Proof.Machine.execIdcode s
  | .samplePreload cells => Sys2Proof.Machine.execSamplePreload cells s
  | .clamp => Sys2Proof.Machine.execClamp s
  | .highz => Sys2Proof.Machine.execHighz s
  | .debug => Sys2Proof.Machine.execDebug s
  | .bypass code => Sys2Proof.Machine.execBypass code s
  | .tapReset => Sys2Proof.Machine.execTapReset s
  | .powerOnReset => Sys2Proof.Machine.execPowerOnReset s
  | .mainBrownout rails => Sys2Proof.Machine.execMainBrownout rails s
  | .resetPin => Sys2Proof.Machine.execResetPin s
  | .resetPinRelease => Sys2Proof.Machine.execResetPinRelease s
  | .railGood r => Sys2Proof.Machine.execRailGood r s
  | .pcieFundamentalReset => Sys2Proof.Machine.execPcieFundamentalReset s
  | .perstRelease => Sys2Proof.Machine.execPerstRelease s
  | .functionLevelReset f => Sys2Proof.Machine.execFunctionLevelReset f s
  | .pcieConfigRequest f => Sys2Proof.Machine.execPcieConfigRequest f s
  | .pcieLinkDownAfterFatal => Sys2Proof.Machine.execPcieLinkDownAfterFatal s
  | .standbyRelease => Sys2Proof.Machine.execStandbyRelease s
  | .fuseLoadDone => Sys2Proof.Machine.execFuseLoadDone s
  | .strapSampled codes => Sys2Proof.Machine.execStrapSampled codes s
  | .pllLock => Sys2Proof.Machine.execPllLock s
  | .bolzilMarchDone ok => Sys2Proof.Machine.execBolzilMarchDone ok s
  | .dieLinksTrained => Sys2Proof.Machine.execDieLinksTrained s
  | .coreMarchDone failed => Sys2Proof.Machine.execCoreMarchDone failed s
  | .stackTrainingDone failed cap => Sys2Proof.Machine.execStackTrainingDone failed cap s
  | .startupStackTestDone failed => Sys2Proof.Machine.execStartupStackTestDone failed s
  | .bootImageChecked bootMs => Sys2Proof.Machine.execBootImageChecked bootMs s
  | .sysclkFail => Sys2Proof.Machine.execSysclkFail s
  | .refclkFail => Sys2Proof.Machine.execRefclkFail s
  | .ethclkFail => Sys2Proof.Machine.execEthclkFail s
  | .clockRecovered c => Sys2Proof.Machine.execClockRecovered c s
  | .thermalSample r => Sys2Proof.Machine.execThermalSample r s
  | .coachWatchdog => Sys2Proof.Machine.execCoachWatchdog s
  | .coachRestartTimeout => Sys2Proof.Machine.execCoachRestartTimeout s
  | .coachServesAgain => Sys2Proof.Machine.execCoachServesAgain s
  | .lapBoundary => Sys2Proof.Machine.execLapBoundary s
  | .commitPoint => Sys2Proof.Machine.execCommitPoint s
  | .lapSyncEdge offset => Sys2Proof.Machine.execLapSyncEdge offset s
  | .syncLost => Sys2Proof.Machine.execSyncLost s
  | .syncRegained => Sys2Proof.Machine.execSyncRegained s
  | .slotStart lane slot work => Sys2Proof.Machine.execSlotStart lane slot work s
  | .slotComplete lane slot cycles source => Sys2Proof.Machine.execSlotComplete lane slot cycles source s
  | .stragglerReport dev => Sys2Proof.Machine.execStragglerReport dev s
  | .weightHalfFull lane => Sys2Proof.Machine.execWeightHalfFull lane s
  | .judgeReturn lane baton => Sys2Proof.Machine.execJudgeReturn lane baton s
  | .lapTableReady lane => Sys2Proof.Machine.execLapTableReady lane s
  | .lapTableLate lane => Sys2Proof.Machine.execLapTableLate lane s
  | .variantLanded lane digest => Sys2Proof.Machine.execVariantLanded lane digest s
  | .capCopyDone baton layer index => Sys2Proof.Machine.execCapCopyDone baton layer index s
  | .pageFetchDone baton layer index => Sys2Proof.Machine.execPageFetchDone baton layer index s
  | .heatDirLate lane => Sys2Proof.Machine.execHeatDirLate lane s
  | .batonResident baton => Sys2Proof.Machine.execBatonResident baton s
  | .holdLimitPark baton => Sys2Proof.Machine.execHoldLimitPark baton s
  | .handoffWaitExpired baton => Sys2Proof.Machine.execHandoffWaitExpired baton s
  | .coreFailure die core => Sys2Proof.Machine.execCoreFailure die core s
  | .coreStopTimeout lane position => Sys2Proof.Machine.execCoreStopTimeout lane position s
  | .hbmUncorrectable lane bank row => Sys2Proof.Machine.execHbmUncorrectable lane bank row s
  | .stewardFault lane => Sys2Proof.Machine.execStewardFault lane s
  | .hbcFault lane => Sys2Proof.Machine.execHbcFault lane s
  | .dieLinkFault die => Sys2Proof.Machine.execDieLinkFault die s
  | .mchTestDone lane found => Sys2Proof.Machine.execMchTestDone lane found s
  | .legRequest f r => Sys2Proof.Machine.execLegRequest f r s
  | .legControlPartRx x => Sys2Proof.Machine.execLegControlPartRx x s
  | .clearRx f => Sys2Proof.Machine.execClearRx f s
  | .legPageRx f => Sys2Proof.Machine.execLegPageRx f s
  | .xzPageWritten leg ordinal hdr => Sys2Proof.Machine.execXzPageWritten leg ordinal hdr s
  | .legCommitRx f => Sys2Proof.Machine.execLegCommitRx f s
  | .legAbortRx f => Sys2Proof.Machine.execLegAbortRx f s
  | .legIdleTimeout leg => Sys2Proof.Machine.execLegIdleTimeout leg s
  | .legSourceTimeout leg => Sys2Proof.Machine.execLegSourceTimeout leg s
  | .spillDone baton => Sys2Proof.Machine.execSpillDone baton s
  | .recallDone baton => Sys2Proof.Machine.execRecallDone baton s
  | .controlScrub baton => Sys2Proof.Machine.execControlScrub baton s
  | .auditDone baton => Sys2Proof.Machine.execAuditDone baton s
  | .write f => Sys2Proof.Machine.execWrite f s
  | .readReq f => Sys2Proof.Machine.execReadReq f s
  | .readResp f => Sys2Proof.Machine.execReadResp f s
  | .atomicAdd f => Sys2Proof.Machine.execAtomicAdd f s
  | .fetchAdd f => Sys2Proof.Machine.execFetchAdd f s
  | .cmpSwap f => Sys2Proof.Machine.execCmpSwap f s
  | .atomicResp f => Sys2Proof.Machine.execAtomicResp f s
  | .send f => Sys2Proof.Machine.execSend f s
  | .ack f => Sys2Proof.Machine.execAck f s
  | .nack f => Sys2Proof.Machine.execNack f s
  | .ringRx f => Sys2Proof.Machine.execRingRx f s
  | .heartbeat f m => Sys2Proof.Machine.execHeartbeat f m s
  | .echo f m => Sys2Proof.Machine.execEcho f m s
  | .suspect f m => Sys2Proof.Machine.execSuspect f m s
  | .fence f m => Sys2Proof.Machine.execFence f m s
  | .readmit f m => Sys2Proof.Machine.execReadmit f m s
  | .report f m entry => Sys2Proof.Machine.execReport f m entry s
  | .nontrackFrameRx port => Sys2Proof.Machine.execNontrackFrameRx port s
  | .ptpFrameRx port m => Sys2Proof.Machine.execPtpFrameRx port m s
  | .pfcFrameRx port priority pause => Sys2Proof.Machine.execPfcFrameRx port priority pause s
  | .pfcPauseEnd port priority => Sys2Proof.Machine.execPfcPauseEnd port priority s
  | .relayCreditReturn link cls units => Sys2Proof.Machine.execRelayCreditReturn link cls units s
  | .pacerChoose port => Sys2Proof.Machine.execPacerChoose port s
  | .retxTimeout chan psn => Sys2Proof.Machine.execRetxTimeout chan psn s
  | .ackTimer chan => Sys2Proof.Machine.execAckTimer chan s
  | .rateIncrease chan => Sys2Proof.Machine.execRateIncrease chan s
  | .pageFaultRetry queue psn => Sys2Proof.Machine.execPageFaultRetry queue psn s
  | .pagePresent tenant page => Sys2Proof.Machine.execPagePresent tenant page s
  | .rxNoBufferRetry queue message => Sys2Proof.Machine.execRxNoBufferRetry queue message s
  | .systemContextIdle peer => Sys2Proof.Machine.execSystemContextIdle peer s
  | .rlyLaneOut link lane => Sys2Proof.Machine.execRlyLaneOut link lane s
  | .rlyLinkTrained link peer tagCur tagNext failed => Sys2Proof.Machine.execRlyLinkTrained link peer tagCur tagNext failed s
  | .capLinkDown port => Sys2Proof.Machine.execCapLinkDown port s
  | .bibEngineDone => Sys2Proof.Machine.execBibEngineDone s
  | .bibBatchLate => Sys2Proof.Machine.execBibBatchLate s
  | .bibRingPacket p => Sys2Proof.Machine.execBibRingPacket p s
  | .bibCascadeTimeout tag => Sys2Proof.Machine.execBibCascadeTimeout tag s
  | .bibRingHoldDrop => Sys2Proof.Machine.execBibRingHoldDrop s
  | .planImageFetched img => Sys2Proof.Machine.execPlanImageFetched img s
  | .planChecked => Sys2Proof.Machine.execPlanChecked s
  | .planDeadlinePassed => Sys2Proof.Machine.execPlanDeadlinePassed s
  | .laneBuildDone lane digest => Sys2Proof.Machine.execLaneBuildDone lane digest s
  | .heartbeatSend round => Sys2Proof.Machine.execHeartbeatSend round s
  | .heartbeatDue round => Sys2Proof.Machine.execHeartbeatDue round s
  | .echoDue round => Sys2Proof.Machine.execEchoDue round s
  | .tallyClose round => Sys2Proof.Machine.execTallyClose round s
  | .fwuStageDone img => Sys2Proof.Machine.execFwuStageDone img s
  | .healthyTimer => Sys2Proof.Machine.execHealthyTimer s
  | .confirmWindowExpired => Sys2Proof.Machine.execConfirmWindowExpired s
  | .lcIntentBurned readBack => Sys2Proof.Machine.execLcIntentBurned readBack s
  | .lcWorkDone => Sys2Proof.Machine.execLcWorkDone s
  | .evtMsiHoldoff => Sys2Proof.Machine.execEvtMsiHoldoff s
  | .lapTableReplacement lane table swapLap deadlineLap => Sys2Proof.Machine.execLapTableReplacement lane table swapLap deadlineLap s
  | .portDown port => Sys2Proof.Machine.execPortDown port s
  | .portUp port => Sys2Proof.Machine.execPortUp port s
  | .relayLinkDown link => Sys2Proof.Machine.execRelayLinkDown link s
  | .capPortTrained port r => Sys2Proof.Machine.execCapPortTrained port r s
  | .pcieLinkUp width speed flit => Sys2Proof.Machine.execPcieLinkUp width speed flit s
  | .ptpLockLost => Sys2Proof.Machine.execPtpLockLost s
  | .blockResetRelease block => Sys2Proof.Machine.execBlockResetRelease block s
  | .contextMsiXHoldoff tenant => Sys2Proof.Machine.execContextMsiXHoldoff tenant s

end Sys2Proof.Machine
end

