-- ==== Sys2Proof/Machine/Tick.lean ====
section
/-! DEFINITION. What happens while no command waits. -/

namespace Sys2Proof.Machine

open Sys2Proof

/-- PTP time runs on by one nanosecond (GLB_PTP counts nanoseconds): Track forms the frames whose pacing has elapsed (R244) and
Bib's ring line sends what waits for it (R288). Every other thing that time brings about has a row of the table (log 3). -/
def tick (s : State) : State := pumpRing (pumpAll { s with clk := { s.clk with now := s.clk.now + 1 } })

end Sys2Proof.Machine
end

