-- ==== Sys2Proof/Safety.lean ====
section
/-! DEFINITION. What a safe run is, in the terms that statements use: no stop, a canonical memory, and what the machine keeps
at every step. -/

namespace Sys2Proof.Machine

open Sys2Proof

/-- The outcome is a next state with the given property: the command completed. -/
def Completes (r : Res) (post : State → Prop) : Prop := ∃ t, r = .next t ∧ post t

/-- A step that answers neither a fault nor a refusal. -/
def Runs (s : State) : Prop := ∃ t, step s = .next t

/-- Every memory of the block is in canonical form. -/
def MemsOk (s : State) : Prop :=
  (∀ n, Memory.wf (s.mem.stack.get n) = true) ∧ Memory.wf s.mem.xz = true ∧ Memory.wf s.mem.ctl = true ∧
  (∀ p, Memory.wf (s.mem.cap.get p) = true) ∧ Memory.wf s.mem.data = true ∧ Memory.wf s.mem.sram = true ∧ (∀ l, ∀ e ∈ (s.lanes.get l).sramSave, Memory.wf e.2 = true)

/-! ### Host commands that HIF serves (R380, R384, R326) -/

/-- HIF fetches the command, its record passes the checks of R380, and a fence does not answer in its place. -/
def HostServed (s : State) (h : HostHdr) (pfOnly : Bool) : Prop :=
  canFetch s h = true ∧ hostOk s h pfOnly = true ∧ (isFenced s = false ∨ pfOnly = true)

/-- The state after HIF has fetched a command of a context: its head index has advanced by 1. -/
def fetched (s : State) (h : HostHdr) : State :=
  setCtx s h.tenant { ctxOf s h.tenant with head := (ctxOf s h.tenant).head + 1 }

/-- A register command on the physical function's registers acts: its accessor reaches them and the register's block is out of
reset (R407, R411). -/
def RegActs (s : State) (a : Accessor) (off : Nat) : Prop :=
  (∀ n, a ≠ .vf n) ∧ reaches s a = true ∧ offHeld s off = false

/-! ### Frames that reach their effect (R211, R212, R217, R232 to R238, R324, R337) -/

/-- A fabric frame that MAC passes on and TE takes: sound, to this device's address, of a registered EtherType, not too long. -/
def MacTakes (s : State) (f : Frame) : Prop :=
  f.fcsOk = true ∧ f.mac = macOf s.mpl.devId 0 ∧ 1536 ≤ s.te.ethertype.toNat ∧ f.payload.length + 70 ≤ maxFrame s f.port.val

/-- TE takes the frame from MAC or the relay link to its checks. -/
def Arrives (s : State) (f : Frame) : Prop :=
  teHeld s = false ∧ portUsable s f.port.val = true ∧
  if isRelay f.port.val then linkCrcOk f = true else MacTakes s f

/-- The state in which TE checks a frame: a relay frame's credits have gone back (R217). -/
def taken (s : State) (f : Frame) : State := if isRelay f.port.val then freeLinkBuffer s f else s

/-- The frame passes the header checks of R232 as one of opcode `op`. -/
def HeadOk (s : State) (f : Frame) (op : Byte) : Prop := Arrives s f ∧ headCheck s (parseHdr s f) f op = none

/-- A request frame on an open receive channel context, of its source and tenant. -/
def OnChannel (s : State) (f : Frame) (op : Byte) (x : RxCtx) : Prop :=
  HeadOk s f op ∧ (parseHdr s f).dstCh ≠ sysCh ∧ getRx s (parseHdr s f).dstCh.toNat = some x ∧
  x.source = (parseHdr s f).src ∧ x.tenant = frameTenant f

/-- The PSN is new to a receive window and lies within it. -/
def FreshPsn (expected : Word) (got : List Word) (psn : Word) : Prop :=
  (psn - expected).toNat < 4096 ∧ got.contains psn = false

/-- A request that passes every check of R232 and may execute when it arrives: nothing waits before it, and it is in order or
its channel is relaxed. -/
def RunsRequest (s : State) (f : Frame) (op : Byte) (x : RxCtx) : Prop :=
  OnChannel s f op x ∧ FreshPsn x.expected x.got (parseHdr s f).psn ∧ accessCheck s (parseHdr s f) f = none ∧
  (meterFrame s f x.tenant).1 ≠ .red ∧ x.waiting = [] ∧
  ((x.got = [] ∧ (parseHdr s f).psn = x.expected) ∨
    ((parseHdr s f).flags.getLsbD 2 = false ∧ (parseHdr s f).flags.getLsbD 3 = false))

/-- A CONTROL or LEG frame with a new PSN on a system receive context. -/
def RunsSystem (s : State) (f : Frame) (op : Byte) (x : SysRx) : Prop :=
  HeadOk s f op ∧ (parseHdr s f).dstCh = sysCh ∧ tblGet s.te.sysRx (parseHdr s f).src.toNat = some x ∧
  FreshPsn x.expected x.got (parseHdr s f).psn ∧ (isRelay f.port.val = true ∨ f.kgen = s.te.sysKgen)

/-- The state in which an accepted frame of a system context has its effect: its number is taken. -/
def sysTaken (s : State) (f : Frame) (x : SysRx) : State :=
  let u := taken s f
  { u with te := { u.te with sysRx := tblSet u.te.sysRx (parseHdr s f).src.toNat (sysTake u f (parseHdr s f) x) } }

/-- What follows that effect: RING frames that may run do, and the context is acknowledged as R243 asks. -/
def sysEnd (s : State) (f : Frame) (x : SysRx) (t : State) : State :=
  sysAfter t (parseHdr s f) x (sysTake (taken s f) f (parseHdr s f) x)

/-- A response frame for an operation of an open send queue. -/
def RunsResponse (s : State) (f : Frame) (op : Byte) (q : Nat) (x : SendQ) (o : TxOp) : Prop :=
  HeadOk s f op ∧ chanOf s (parseHdr s f).src (parseHdr s f).dstCh = some q ∧ getSq s q = some x ∧ x.tenant = frameTenant f ∧
  tenantCheck s f = none ∧ requestOf x op f.aux = some o ∧
  (if op = opReadResp then f.addr.toNat else 0) + f.payload.length ≤ o.desc.len.toNat ∧ (meterFrame s f x.tenant).1 ≠ .red

/-- An ACK or NACK of a channel that this device uses. -/
def RunsAck (s : State) (f : Frame) (op : Byte) : Prop :=
  HeadOk s f op ∧ (isRelay f.port.val = true ∨ f.kgen = s.te.sysKgen) ∧
  (if (parseHdr s f).dstCh = sysCh then (tblGet s.te.sysTx (parseHdr s f).src.toNat).isSome = true
   else (chanOf s (parseHdr s f).src (parseHdr s f).dstCh).isSome = true)

/-- A MARSHAL message of a type, sound and in time to be taken. -/
def RunsMarshal (s : State) (f : Frame) (m : MarMsg) (mtype : Byte) : Prop :=
  HeadOk s f opMarshal ∧ marOk m mtype = true ∧ (isRelay f.port.val = true ∨ f.kgen = s.te.sysKgen) ∧ marHeld s = false

end Sys2Proof.Machine
end

