-- ==== Sys2Proof/Certificates/Slice0/Obligations.lean ====
section
/-! DEFINITION. The statements for the provers. Each docstring names the rules of the spec that it rests on. -/

open Sys2Proof Sys2Proof.Machine

/-! ### Host commands (R380 to R382, R24, R43, R219, R249, R281, R305 to R313, R326) -/

/-- R326 and R13: on a fenced device a fetched command completes with FENCED; elsewhere one whose record fails the checks of R380
completes with REFUSED; each under its own opcode, with none of its effect. R380: the commands that only the physical function
may issue complete with REFUSED for any other function, on a fenced device too. -/
def Obligations.HostCommandsTurnedAway : Prop :=
  (∀ (s : State) (h : HostHdr) (code : Finish), canFetch s h = true →
     ((isFenced s = true ∧ code = .fenced) ∨ (isFenced s = false ∧ hostOk s h false = false ∧ code = .refused)) →
     (∀ blk, exec (.submit h blk) s = .next (complete (fetched s h) h 0x01 code)) ∧
     (∀ b, exec (.pause h b) s = .next (complete (fetched s h) h 0x02 code)) ∧
     (∀ b r e, exec (.resume h b r e) s = .next (complete (fetched s h) h 0x03 code)) ∧
     (∀ b, exec (.cancel h b) s = .next (complete (fetched s h) h 0x04 code)) ∧
     (∀ b, exec (.release h b) s = .next (complete (fetched s h) h 0x05 code)) ∧
     (∀ b ts, exec (.extend h b ts) s = .next (complete (fetched s h) h 0x06 code)) ∧
     (∀ b f t r, exec (.audit h b f t r) s = .next (complete (fetched s h) h 0x07 code)) ∧
     (∀ f l, exec (.regionAlloc h f l) s = .next (complete (fetched s h) h 0x10 code)) ∧
     (∀ k, exec (.regionFree h k) s = .next (complete (fetched s h) h 0x11 code)) ∧
     (∀ a, exec (.sqOpen h a) s = .next (complete (fetched s h) h 0x12 code)) ∧
     (∀ a, exec (.rqOpen h a) s = .next (complete (fetched s h) h 0x13 code)) ∧
     (∀ q, exec (.sqClose h q) s = .next (complete (fetched s h) h 0x14 code)) ∧
     (∀ q, exec (.rqClose h q) s = .next (complete (fetched s h) h 0x14 code)) ∧
     (∀ p rs, exec (.bibUpdate h p rs) s = .next (complete (fetched s h) h 0x18 code)) ∧
     (∀ p k, exec (.bibLookup h p k) s = .next (complete (fetched s h) h 0x19 code))) ∧
  (∀ (s : State) (h : HostHdr), canFetch s h = true → h.func ≠ 0 →
     (∀ n, exec (.planLoad h n) s = .next (complete (fetched s h) h 0x20 .refused)) ∧
     exec (.planWithdraw h) s = .next (complete (fetched s h) h 0x21 .refused) ∧
     (∀ l, exec (.laneDrain h l) s = .next (complete (fetched s h) h 0x22 .refused)) ∧
     (∀ l, exec (.laneServe h l) s = .next (complete (fetched s h) h 0x22 .refused)) ∧
     (∀ l m, exec (.laneTest h l m) s = .next (complete (fetched s h) h 0x22 .refused)) ∧
     (∀ l d bs, exec (.weightPut h l d bs) s = .next (complete (fetched s h) h 0x23 .refused)) ∧
     (∀ l m, exec (.stageVariant h l m) s = .next (complete (fetched s h) h 0x24 .refused)))

/-- R383 and R384: a completion for an open context with room is written as one 64-byte entry at the ring's next place, PHASE
1 on the first pass, the index advances by 1 and the context's vector is signalled; nothing outside HIF, the outputs and the
holdoff changes. R384: while the completion ring is full a completion is held, and nothing is written or lost. -/
def Obligations.CompletionRing : Prop :=
  (∀ (s : State) (x : Cpl), s.coach.phase ≠ .restarting → (ctxOf s x.tenant).enable = true → hostUp s = true →
     (ctxOf s x.tenant).heldCpl = [] → cplRoom (ctxOf s x.tenant) = true → (ctxOf s x.tenant).msiHold = false →
     let c := ctxOf s x.tenant
     ∃ t, postCpl s x = t ∧
       t.out = s.out ++ [.hostWrite (tenantFunc s x.tenant) (cplAddr c) (cplWords x (ringPhase c.cplIdx c.cplLog2.toNat)),
         .msix (tenantFunc s x.tenant) c.vector.toNat] ∧
       ctxOf t x.tenant = { c with cplIdx := c.cplIdx + 1, msiHold := true, msiLater := false } ∧
       (∀ k, k ≠ x.tenant → ctxOf t k = ctxOf s k) ∧
       { t with out := s.out, hif := s.hif } = s ∧ t.hif.funcOf = s.hif.funcOf) ∧
  (∀ (s : State) (x : Cpl), s.coach.phase ≠ .restarting → (ctxOf s x.tenant).enable = true → hostUp s = true →
     cplRoom (ctxOf s x.tenant) = false →
     ctxOf (postCpl s x) x.tenant = { ctxOf s x.tenant with heldCpl := (ctxOf s x.tenant).heldCpl ++ [x] } ∧
     (postCpl s x).out = s.out ∧ (∀ k, k ≠ x.tenant → ctxOf (postCpl s x) k = ctxOf s k))

/-- R24: PAUSE, RESUME, CANCEL, RELEASE and EXTEND of a request that runs join its command queue with their time of arrival,
in order; nothing else changes until the request's next boundary. R24 and R380: a command for another tenant's baton completes
with REFUSED, and so does any but RESUME for one that is neither here nor on its way here. When it is applied, a cancel marks the
request, closes its ring and keeps its log and pages (R170), a release of a baton at rest frees it (R202), and an extend of a
request in GENERATION appends its tokens to the request and to the lane's pre-emption work (R110). -/
def Obligations.RequestCommands : Prop :=
  (∀ (s : State) (h : HostHdr) (b : BatonId) (r : Req), HostServed s h false → batonTenant b = h.tenant →
     findReq s b = some r → laneHalted s r = false →
     let queued := fun (c : ReqCmd) => modReq (fetched s h) b fun r => { r with cmds := r.cmds ++ [(c, s.clk.now)] }
     exec (.pause h b) s = .next (queued (.pause h)) ∧
     (∀ ring ext, exec (.resume h b ring ext) s = .next (queued (.resume h ring ext))) ∧
     exec (.cancel h b) s = .next (queued (.cancel h)) ∧
     exec (.release h b) s = .next (queued (.release h)) ∧
     (∀ ts, exec (.extend h b ts) s = .next (queued (.extend h ts)))) ∧
  (∀ (s : State) (h : HostHdr) (b : BatonId),
     (HostServed s h false → batonTenant b = h.tenant → findReq s b = none → (s.btn.pulls.any fun p => p.baton == b) = false →
       exec (.pause h b) s = .next (complete (fetched s h) h 0x02 .refused) ∧
       exec (.cancel h b) s = .next (complete (fetched s h) h 0x04 .refused) ∧
       exec (.release h b) s = .next (complete (fetched s h) h 0x05 .refused) ∧
       ∀ ts, exec (.extend h b ts) s = .next (complete (fetched s h) h 0x06 .refused)) ∧
     (HostServed s h false → batonTenant b ≠ h.tenant →
       exec (.pause h b) s = .next (complete (fetched s h) h 0x02 .refused) ∧
       (∀ ring ext, exec (.resume h b ring ext) s = .next (completeB (fetched s h) h 0x03 .refused 0 (batonWords b))) ∧
       exec (.cancel h b) s = .next (complete (fetched s h) h 0x04 .refused) ∧
       exec (.release h b) s = .next (complete (fetched s h) h 0x05 .refused) ∧
       ∀ ts, exec (.extend h b ts) s = .next (complete (fetched s h) h 0x06 .refused)) ∧
     (∀ r, findReq s b = some r →
       (r.endReason = 0 → r.cancelled = false → ∃ q, findReq (applyCancel s b r h) b = some q ∧ q.cancelled = true ∧
         q.strm.closed = true ∧ q.log = r.log ∧ q.pages = r.pages) ∧
       (resting r = true → r.lost = none → findReq (applyRelease s b r h) b = none) ∧
       (∀ ts t n, r.phase = .generation → r.endReason = 0 → r.parkNext = false → r.lost = none → tokensOk s r ts 0 = true →
         r.lane = some n → ∃ q, findReq (applyExtend s b r h ts t) b = some q ∧ q.extQ = r.extQ ++ ts ∧ q.log = r.log ∧
           (laneOf (applyExtend s b r h ts t) n).st.preemptQ = (laneOf s n).st.preemptQ ++ [(b, ts.length, t)])))

/-- R102 and R382: a SUBMIT whose block is in range and that the checks of R102 admit makes one request in PROMPT, with the
prompt, settings and ring of its block, in the prompt queue of the lane that the checks chose, takes its Steeple states, and
completes with OK and the baton ID. Nothing else changes: memory, the other requests, the other lanes and every queue of Track
stay as they were. -/
def Obligations.SubmitAdmits : Prop :=
  ∀ (s : State) (h : HostHdr) (blk : SubmitBlock) (m : ModelSec) (n : LaneNo) (slot : Nat), HostServed s h false →
    s.coach.phase = .serving → modelOf s blk.model.toNat = some m → blockOk blk m.vocab.toNat = true →
    chooseLane (fetched s h) h.tenant m blk.promptLen.toNat blk.maxNew.toNat (patStates blk.patterns) = some (n, slot) →
    let id := mkBaton s.mpl.devId h.tenant slot (tblGetD s.slotGen slot 0)
    ∃ t r, exec (.submit h blk) s = .next (completeB t h 0x01 .ok 0 (batonWords id)) ∧ t.reqs = s.reqs ++ [r] ∧
      r.id = id ∧ r.phase = .prompt ∧ r.lane = some n ∧ r.prompt = blk.tokens ∧ r.promptLen = blk.promptLen.toNat ∧
      r.model = m.number ∧ r.digest = m.digest ∧ r.samp.settings = blk.sampler ∧ r.samp.counter = blk.promptLen.toNat ∧
      r.samp.maxNew = blk.maxNew.toNat ∧ r.samp.patterns = blk.patterns ∧ r.strm.ring = blk.ring ∧ r.log = [] ∧ r.pages = [] ∧
      (t.lanes.get n).st.promptQ = (s.lanes.get n).st.promptQ ++ [(id, blk.promptLen.toNat)] ∧
      { t.lanes.get n with st := { (t.lanes.get n).st with promptQ := (s.lanes.get n).st.promptQ } } = s.lanes.get n ∧
      (∀ k, k ≠ n → t.lanes.get k = s.lanes.get k) ∧ t.stp.free = s.stp.free - patStates blk.patterns ∧
      { t with reqs := s.reqs, lanes := s.lanes, stp := { t.stp with free := s.stp.free } } = fetched s h

/-- R206: an audit that passes its checks takes the scratch slots of its replay in the lowest lane that can resume the baton and
runs on the request, whose log and phase stay; then the replay begins, or the leg that copies the parts below FROM opens. -/
def Obligations.AuditBegins : Prop :=
  ∀ (s : State) (h : HostHdr) (b : BatonId) (fromPos toPos : Word) (rep : Bool) (r : Req) (m : ModelSec) (n : LaneNo)
    (ns : List LaneNo), HostServed s h false →
    batonTenant b = h.tenant → findReq s b = some r → r.lost = none → modelOf s r.model = some m → resting r = true →
    r.audit = none → auditRange r fromPos.toNat toPos.toNat = true → btnOpen s = true →
    s.btn.legs.length + (if fromPos = 0 then 0 else 1) ≤ 4096 → resumeLanes s r = n :: ns →
    (r.pages.any fun e => belowFrom fromPos.toNat e && e.slots.isEmpty) = false →
    let need := scratchNeed m toPos.toNat (min (toPos.toNat - fromPos.toNat) (replayChunk (laneOf s n)))
    let x := takeSlots (fetched s h) n h.tenant need
    x.2.length = need →
    let u := modReq x.1 b fun r => { r with audit := some ⟨h, fromPos, toPos, rep, n, x.2⟩ }
    exec (.audit h b fromPos toPos rep) s = .next (openReplayLeg
      { u with btn := { u.btn with replays := u.btn.replays ++ [replayReq r n fromPos.toNat x.2] } } b) ∧
    (∃ q, findReq u b = some q ∧ q.audit = some ⟨h, fromPos, toPos, rep, n, x.2⟩ ∧ q.log = r.log ∧ q.phase = r.phase)

/-- R43 and R229: under the KEYED scheme a region takes the lowest free entry with every right, in the space that the flags
name, and completes with its index; freeing it frees its page slots and its capacity-tier bytes and erases the entry. Each leaves
every other entry and the data space as they were. Where no entry or no space is left, or the flags are not of the table, the
allocation completes with REFUSED, and so does the freeing of an entry of another tenant (logs 16, 66). -/
def Obligations.RegionCommands : Prop :=
  (∀ (s : State) (h : HostHdr), HostServed s h false → schemeKeyed s = true →
    (∀ (flags : Byte) (len : BitVec 64) (k : Nat) near far, allocOk flags = true → len ≠ 0 → freeRegion s = some k →
      placeRegion s h.tenant flags len.toNat = some (near, far) →
      ∃ t, exec (.regionAlloc h flags len) s = .next (completeB t h 0x10 .ok 0 [lo32 k]) ∧
        t.te = { s.te with
          regions := tblSet s.te.regions k ⟨h.tenant, s.te.dataTop, len.toNat, 0xF, nearPages s near, far.map fun p => (p, len.toNat)⟩
          dataTop := s.te.dataTop + len.toNat } ∧
        { t with te := s.te, lanes := s.lanes, cap := s.cap } = fetched s h ∧
        t.lanes = (takeNear s h.tenant near).lanes ∧ t.cap = (takeFar s far len.toNat).cap) ∧
    (∀ (rkey : BitVec 16) (r : Region), tblGet s.te.regions rkey.toNat = some r → r.tenant = h.tenant →
      exec (.regionFree h rkey) s = .next (complete { freeRegionSpace (fetched s h) r with
        te := { s.te with regions := tblErase s.te.regions rkey.toNat } } h 0x11 .ok) ∧
      (freeRegionSpace (fetched s h) r).mem = s.mem ∧ (freeRegionSpace (fetched s h) r).reqs = s.reqs ∧
      (∀ p n, r.far = some (p, n) → ((freeRegionSpace (fetched s h) r).cap.ports.get p).used = (s.cap.ports.get p).used - n)) ∧
    (∀ (rkey : BitVec 16) (r : Region), tblGet s.te.regions rkey.toNat = some r → r.tenant ≠ h.tenant →
      exec (.regionFree h rkey) s = .next (complete (fetched s h) h 0x11 .refused)) ∧
    (∀ (flags : Byte) (len : BitVec 64), allocOk flags = false ∨ freeRegion s = none ∨ placeRegion s h.tenant flags len.toNat = none →
      exec (.regionAlloc h flags len) s = .next (complete (fetched s h) h 0x10 .refused))) ∧
  (∀ (s : State) (h : HostHdr) (flags : Byte) (len : BitVec 64), HostServed s h false → schemeKeyed s = false →
    allocOk flags = true → len ≠ 0 → exec (.regionAlloc h flags len) s = .next (complete (fetched s h) h 0x10 .ok))

/-- R219 and R249: SQ_OPEN opens a send queue empty, at PSN 0 and at its full rate; RQ_OPEN opens a receive queue and its
context at PSN 0. Each completes with OK and leaves every other queue and context as it was. R219: a queue that its own tenant
closes ends its work with DISCARDED and is gone, and the command completes with OK; a receive queue goes with its context. -/
def Obligations.TrackQueues : Prop :=
  (∀ (s : State) (h : HostHdr), HostServed s h false →
     (∀ a, sqOpenOk s h a = true →
       ∃ x, exec (.sqOpen h a) s = .next (complete (putSq (fetched s h) a.queue.toNat x) h 0x12 .ok) ∧
         x.tenant = h.tenant ∧ x.target = a.target ∧ x.func = h.func ∧ x.pathTable = a.pathTable.toNat ∧
         x.relaxed = (a.mode == 1) ∧ x.rateMax = rateMaxOf a.rateMax ∧ x.law = RateLaw_open (rateMaxOf a.rateMax) s.clk.now ∧
         x.nextPsn = 0 ∧ x.message = 0 ∧ x.ops = [] ∧ x.posted = [] ∧ x.unacked = [] ∧ x.tail = 0 ∧ x.head = 0) ∧
     (∀ a, rqOpenOk s h a = true →
       ∃ c r, exec (.rqOpen h a) s = .next (complete { fetched s h with te := { s.te with
           rxs := tblSet s.te.rxs a.rxCtx.toNat c, rqs := tblSet s.te.rqs a.queue.toNat r } } h 0x13 .ok) ∧
         c.source = a.source ∧ c.tenant = h.tenant ∧ c.expected = 0 ∧ c.got = [] ∧ c.waiting = [] ∧
         c.queue = a.queue.toNat ∧ r.ctx = a.rxCtx.toNat ∧ r.bufs = [] ∧ r.msgs = [] ∧ r.nextMsg = 0 ∧ r.func = h.func)) ∧
  (∀ (s : State) (h : HostHdr), HostServed s h false →
     (∀ (q : BitVec 16) (x : SendQ), getSq s q.toNat = some x → x.tenant = h.tenant →
       let u := endAll (fetched s h) q.toNat .discarded
       exec (.sqClose h q) s = .next (complete { u with te := { u.te with sqs := tblErase u.te.sqs q.toNat } } h 0x14 .ok) ∧
         u.mem = s.mem ∧ u.te.rqs = s.te.rqs ∧ u.te.rxs = s.te.rxs ∧ u.reqs = s.reqs ∧ u.lanes = s.lanes) ∧
     (∀ (q : BitVec 16) (r : RecvQ) (x : RxCtx), tblGet s.te.rqs q.toNat = some r → getRx s r.ctx = some x →
       x.tenant = h.tenant →
       exec (.rqClose h q) s = .next (complete { fetched s h with te := { s.te with
         rqs := tblErase s.te.rqs q.toNat, rxs := tblErase s.te.rxs r.ctx } } h 0x14 .ok)) ∧
     (∀ (q : BitVec 16), (∀ x, getSq s q.toNat = some x → x.tenant ≠ h.tenant) →
       exec (.sqClose h q) s = .next (complete (fetched s h) h 0x14 .refused)))

/-- R281 and R276: a batch whose records are in range waits behind the earlier ones. R278: a lookup outside the cascade
answers at once with the lowest matching address of its partition, or a miss, and changes no entry. R281 to R285: a batch that
the engine has applied is ready in the background copy, compacted, and its first failing record refuses it whole under that
record's index; the copy that lookups read is not changed by either; a batch past its DEADLINE completes with REFUSED and raises
BIB_LATE. -/
def Obligations.BibCommandsAndEngine : Prop :=
  (∀ (s : State) (h : HostHdr) (p : BibPart), HostServed s h false → bibHeld s = false →
     (∀ (part : BitVec 4) (rs : List BibRecord), bibPart s part.toNat = some p → rs ≠ [] → rs.length ≤ 256 →
       (if p.priv then h.func = 0 else (h.func = 0 ∨ h.tenant = p.tenant)) → s.bib.queue.length < 16 →
       rs.all (recordOk part.toNat p) = true →
       exec (.bibUpdate h part rs) s =
         .next { fetched s h with bib := { s.bib with queue := s.bib.queue ++ [⟨h, part.toNat, rs⟩] } }) ∧
     (∀ (part : Byte) (key : BitVec 128), bibPart s part.toNat = some p → p.userBtn = false →
       (p.priv = true ∨ h.func = 0 ∨ h.tenant = p.tenant) → p.casc = false →
       exec (.bibLookup h part key) s = .next (match firstMatch (bibFg s.bib) p key with
         | some e => lookupCpl (fetched s h) h s.bib.gen .ok true (trayPos s) e.1 e.2.result
         | none => lookupCpl (fetched s h) h s.bib.gen .ok false 0 0 0))) ∧
  (∀ (s : State) (since : BitVec 48) (b : BibBatch) (bs : List BibBatch) (p : BibPart), s.bib.engine = .running since →
     s.bib.queue = b :: bs → bibPart s b.part = some p →
     (∀ t, applyRecords p 0 (bibBg s.bib) b.records = .ok t → ∃ u, exec .bibEngineDone s = .next u ∧ u.bib.engine = .ready ∧
       bibBg u.bib = compact p t ∧ bibFg u.bib = bibFg s.bib ∧ u.bib.queue = s.bib.queue ∧ { u with bib := s.bib } = s) ∧
     (∀ i, applyRecords p 0 (bibBg s.bib) b.records = .error i → exec .bibEngineDone s =
         .next (completeB { s with bib := { s.bib with engine := .idle, queue := bs } } b.h 0x18 .refused 0 [lo32 i])) ∧
     (bibDeadline s ≤ (s.lap.count - since).toNat → exec .bibBatchLate s =
         .next (raiseEvt (completeB { s with bib := { s.bib with engine := .idle, late := true, queue := bs } } b.h 0x18 .refused 0
           [0xFFFF]) 4)) ∧
     ((s.lap.count - since).toNat < bibDeadline s → exec .bibBatchLate s = .next s))

/-- R305, R307 and R313: a PLAN_LOAD with nothing loading, staged or in grace begins its fetch; a withdrawal clears the staged
plan, its tag and the lane classes, and completes the load with reason WITHDRAWN and itself with OK. R305 to R310: a fetched
image is checked; one that fails is recorded with the failing check's reason, section and lane, its load completes with REFUSED
and that reason, and nothing is staged; one that passes is STAGED with its tag, and its load completes with OK; past its DEADLINE
it is dropped with reason DEADLINE and PLAN_LATE, and its load completes with REFUSED. The plan in force is changed by none of
them. -/
def Obligations.PlanLoading : Prop :=
  (∀ (s : State) (h : HostHdr), HostServed s h true →
     (∀ n, mplHeld s = false → s.mpl.load = .idle → s.mpl.staged = none → s.mpl.grace = false → cxlWorks s = true →
       exec (.planLoad h n) s = .next { fetched s h with mpl := { s.mpl with load := .fetching h n } }) ∧
     (∀ p c, s.mpl.staged = some p → s.mpl.stagedCmd = some c →
       exec (.planWithdraw h) s = .next (complete (planCpl { fetched s h with mpl := { s.mpl with
         staged := none, stagedCmd := none, tagNext := 0, laneClass := 0xFFFFFF, due := false, firstLap := 0
         refuseReason := 0x16, refuseSection := 0xFF, refuseLane := 0xF } } c .refused true 0x16) h 0x21 .ok))) ∧
  (∀ (s : State) (h : HostHdr) (n : Word) (p : PlanImage),
     (s.mpl.load = .fetching h n → exec (.planImageFetched p) s = .next { s with mpl := { s.mpl with load := .fetched h n p } }) ∧
     (s.mpl.load = .fetched h n p → checkPlan s p n.toNat = none → ∃ c f, exec .planChecked s = .next (planCpl { s with
       mpl := { s.mpl with load := .idle, staged := some p, stagedCmd := some h, tagNext := planTag p, laneClass := c, due := false
                           firstLap := f } } h .ok false 0)) ∧
     (∀ x, s.mpl.load = .fetched h n p → checkPlan s p n.toNat = some x → ∃ t, exec .planChecked s =
         .next (planCpl t h .refused false x.reason) ∧ t.mpl = { s.mpl with
           load := .idle, refuseReason := x.reason, refuseSection := x.sect, refuseLane := x.lane } ∧
       { t with mpl := s.mpl, lanes := s.lanes } = s) ∧
     (∀ c, s.mpl.staged = some p → s.mpl.stagedCmd = some c → deadlineOver s p = true → exec .planDeadlinePassed s =
       .next (raiseEvt (planCpl { s with mpl := { s.mpl with
         staged := none, stagedCmd := none, tagNext := 0, laneClass := 0xFFFFFF, due := false, firstLap := 0, late := true
         refuseReason := 0x15, refuseSection := 0xFF, refuseLane := 0xF } } c .refused true 0x15) 5)) ∧
     (s.mpl.staged = some p → deadlineOver s p = false → exec .planDeadlinePassed s = .next s))

/-- R306: WEIGHT_PUT takes the image's bytes on the port with most room, stores them there and lists them under the digest, one
image a digest, and completes with OK. R109: STAGE_VARIANT of a variant whose weights lie in the store begins its copy in a running
lane. R306, R312 and R357: a lane's build takes role, cores, models and table of its section when the landed digests are the
plan's, and otherwise leaves the lane UNASSIGNED with the refusal recorded; other lanes, requests and the other stacks stay. -/
def Obligations.WeightsAndBuilds : Prop :=
  (∀ (s : State) (h : HostHdr), HostServed s h true →
     (∀ (len : BitVec 64) (d : Digest) (data : List (Nat × Byte)) (p : Fin 4), (∀ w ∈ s.cap.weights, w.1 ≠ d) →
       bestPort s len.toNat = some p →
       ∃ t, exec (.weightPut h len d data) s = .next (complete t h 0x23 .ok) ∧
         t.cap.weights = s.cap.weights ++ [(d, p, (s.cap.ports.get p).top, len.toNat)] ∧
         t.cap.ports.get p = { s.cap.ports.get p with
           used := (s.cap.ports.get p).used + len.toNat, top := (s.cap.ports.get p).top + len.toNat } ∧
         t.mem.cap.get p = (data.filter fun c => decide (c.1 < len.toNat)).foldl
           (fun m c => memWrite m ((s.cap.ports.get p).top + c.1) c.2) (s.mem.cap.get p) ∧
         (∀ k, k ≠ p → t.cap.ports.get k = s.cap.ports.get k ∧ t.mem.cap.get k = s.mem.cap.get k) ∧
         { t with cap := s.cap, mem := { t.mem with cap := s.mem.cap } } = fetched s h) ∧
     (∀ (lane m : Byte) (n : LaneNo) (x : ModelSec), laneArg lane = some n → variantModel s n m.toNat = some x →
       runs (laneOf s n) = true → (laneOf s n).stagingCmd = none → inStore s x.weightDigest = true →
       exec (.stageVariant h lane m) s = .next (modLane (fetched s h) n fun l =>
         { l with stagingCmd := some (h, m.toNat), variantReady := none, staged := 0 }))) ∧
  (∀ (s : State) (n : LaneNo) (p : PlanImage), (laneOf s n).build = .copying → s.mpl.current = some p →
     (∃ t, exec (.laneBuildDone n (buildDigests p (p.lanes.get n))) s = .next t ∧ (laneOf t n).role = (p.lanes.get n).role ∧
       (laneOf t n).build = .built ∧ (laneOf t n).ctl = (laneOf s n).ctl ∧ fgTable (laneOf t n) = (p.lanes.get n).table ∧
       (∀ i, (laneOf t n).cores.get i = ⟨false, ((p.lanes.get n).cores.get i).setWidth 7⟩) ∧
       (laneOf t n).models = builtModels (p.lanes.get n) ∧ (∀ k, k ≠ n → laneOf t k = laneOf s k) ∧
       (∀ k, k ≠ n → t.mem.stack.get k = s.mem.stack.get k) ∧ t.mem.data = s.mem.data ∧ t.reqs = s.reqs) ∧
     (∀ ds, ds ≠ buildDigests p (p.lanes.get n) → ∃ t, exec (.laneBuildDone n ds) s = .next t ∧ (laneOf t n).ctl = .unassigned ∧
       (laneOf t n).role = 0 ∧ (laneOf t n).build = .none ∧ t.mpl.refuseReason = 0x14 ∧
       t.mpl.refuseLane = BitVec.ofNat 4 n.val ∧ (∀ k, k ≠ n → laneOf t k = laneOf s k) ∧ t.mem = s.mem ∧ t.reqs = s.reqs))

/-- R381 and R50: a drain of a SERVING lane and a serve of a STOPPED one are kept with the time of the first that waits. R355 to
R357: a test of a STOPPED lane that meets R355, from the host or by a write to MCH_TEST (R407), puts it in TESTING at once with
the engine busy, and a destructive one empties the stack; a write that does not meet R355 leaves REFUSED as the result, and a
zero has no effect. At its end the result is LANE_RETIRED where a retirement cause arose, else OK with the lane STOPPED, and the
event rises. -/
def Obligations.LaneCommandsAndTests : Prop :=
  (∀ (s : State) (h : HostHdr) (lane : Byte) (n : LaneNo), HostServed s h true → laneArg lane = some n →
     ((laneOf s n).ctl = .serving → exec (.laneDrain h lane) s = .next (modLane (fetched s h) n fun l =>
       { l with drainReq := true, drainCmds := l.drainCmds ++ [h], drainAt := if l.drainReq then l.drainAt else s.clk.now })) ∧
     ((laneOf s n).ctl = .stopped → (laneOf s n).st.overrunStop = false → (laneOf s n).destructed = false →
       exec (.laneServe h lane) s = .next (modLane (fetched s h) n fun l =>
         { l with serveReq := true, serveCmds := l.serveCmds ++ [h], serveAt := if l.serveReq then l.serveAt else s.clk.now })) ∧
     ((laneOf s n).ctl = .stopped → (laneOf s n).st.overrunStop = true →
       exec (.laneServe h lane) s = .next (complete (fetched s h) h 0x22 .refused)) ∧
     (∀ mode : Byte, (laneOf s n).mch.busy = false → testOk s n mode.toNat = true →
       ∃ t, exec (.laneTest h lane mode) s = .next t ∧ (laneOf t n).ctl = .testing ∧ (laneOf t n).mch.busy = true ∧
         (laneOf t n).mch.mode = BitVec.ofNat 3 mode.toNat ∧ (laneOf t n).mch.cmd = some h ∧
         ((mode = 3 ∨ mode = 5) → t.mem.stack.get n = [] ∧ (laneOf t n).destructed = true))) ∧
  (∀ (s : State) (a : Accessor) (n : LaneNo) (v : Word), RegActs s a (0x010E0000 + n.val * 0x00100000) →
     let mode := bits v.toNat 2 0
     (mode = 0 → exec (.mchTestStart a n v) s = .next s) ∧
     (mode ≠ 0 → (laneOf s n).mch.busy = false → testOk s n mode = false →
       exec (.mchTestStart a n v) s = .next (modLane s n fun l => { l with mch := { l.mch with result := 0x03 } })) ∧
     ((laneOf s n).mch.busy = false → testOk s n mode = true →
       ∃ t, exec (.mchTestStart a n v) s = .next t ∧ (laneOf t n).ctl = .testing ∧ (laneOf t n).mch.busy = true ∧
         (laneOf t n).mch.cmd = none ∧ ((mode = 3 ∨ mode = 5) → t.mem.stack.get n = [] ∧ (laneOf t n).dataOpen = false)) ∧
     (∀ found, (laneOf s n).mch.busy = true → ∃ t, exec (.mchTestDone n found) s = .next t ∧
       (laneOf t n).mch.busy = false ∧ (laneOf t n).mch.cmd = none ∧ t.glb.evt.getLsbD 12 = true ∧
       (((laneOf t n).ctl = .retired ∧ (laneOf t n).mch.result = 0x0E) ∨
         ((laneOf t n).ctl = .stopped ∧ (laneOf t n).mch.result = 0x00))) ∧
     ((laneOf s n).mch.busy = true → (laneOf s n).ctl = .testing →
       ∃ t, exec (.mchTestDone n ⟨[], [], false⟩) s = .next t ∧ (laneOf t n).ctl = .stopped ∧ (laneOf t n).dataOpen = true))

/-! ### Registers (R231, R237, R240, R246, R316, R327, R405 to R411, R415) -/

/-- R405, R406, R407 and R411: a write to an offset of an accessor's BAR that is unmapped, or partial, or outside a field's
range, changes only the access error record and its counter; one to a register held in reset changes nothing; any other write
has the register's own effect. -/
def Obligations.RegisterWriteOutcomes : Prop :=
  ∀ (s : State) (a : Accessor) (off : Nat) (v : Word) (full : Bool), inBar s a off = true →
    let r := 4 * (off / 4)
    (regAt s a r = none → exec (.registerWrite a off v full) s = .next (recordAccess s a 1 r)) ∧
    (∀ w, regAt s a r = some (w, true) → exec (.registerWrite a off v full) s = .next s) ∧
    (∀ w, regAt s a r = some (w, false) → (full = false ∨ off % 4 ≠ 0) →
      exec (.registerWrite a off v full) s = .next (recordAccess s a 2 r)) ∧
    (∀ w, regAt s a off = some (w, false) → full = true → off % 4 = 0 → writeAt s a off v = none →
      exec (.registerWrite a off v full) s = .next (recordAccess s a 3 off)) ∧
    (∀ w t, regAt s a off = some (w, false) → full = true → off % 4 = 0 → writeAt s a off v = some t →
      exec (.registerWrite a off v full) s = .next t) ∧
    (∀ k o, { recordAccess s a k o with glb := s.glb } = s ∧ { (recordAccess s a k o).glb with
      errKind := s.glb.errKind, errPath := s.glb.errPath, errOffset := s.glb.errOffset, errCnt := s.glb.errCnt } = s.glb)

/-- R405 to R408: GLB_SCRATCH takes a whole word from any accessor of the physical function and nothing else changes; its read
gives that word back. R406 and R407: a read of one to four bytes of an unmapped word answers zero, records UNMAPPED with its word
offset, and counts it. R410: a read of a counter answers its count and leaves it at 0; the queue, the memory and every other counter of
Track stay. R409: a read of LAP_COUNT_LO answers the low word and latches the high one for the accessor alone; later laps do
not change what that accessor reads from LAP_COUNT_HI. -/
def Obligations.RegisterReads : Prop :=
  (∀ (s : State) (a : Accessor) (v : Word), RegActs s a 0x48 →
     exec (.registerWrite a 0x48 v true) s = .next { s with glb := { s.glb with scratch := v } } ∧
     readReg { s with glb := { s.glb with scratch := v } } a 0x48 = some v) ∧
  (∀ (s : State) (a : Accessor) (off len : Nat), inBar s a off = true → 1 ≤ len → off % 4 + len ≤ 4 → (∀ n, a ≠ .vf n) →
     regAt s a (4 * (off / 4)) = none →
     s.sta.boot.fabricUp = true →
     ∃ t, exec (.unmappedRead a off len) s = .next (emit t (.regValue a off 0)) ∧ t.glb.errKind = 1 ∧ t.glb.errPath = accPath a ∧
       t.glb.errOffset = BitVec.ofNat 24 (off / 4) ∧ t.glb.errCnt = satInc s.glb.errCnt ∧ t.mem = s.mem ∧ t.te = s.te ∧
       t.lanes = s.lanes ∧ t.reqs = s.reqs ∧ t.sta = s.sta) ∧
  (∀ (s : State) (a : Accessor), RegActs s a 0x000C0024 →
     exec (.rcRead a 0x000C0024 4) s =
       .next (emit { s with te := { s.te with cnt := { s.te.cnt with retx := 0 } } } (.regValue a 0x000C0024 s.te.cnt.retx))) ∧
  (∀ (s : State) (a : Accessor), RegActs s a 0x00040008 →
     ∃ t, exec (.loReadLatch a 0x00040008 4) s = .next (emit t (.regValue a 0x00040008 (s.lap.count.setWidth 32))) ∧
       { t with sel := s.sel } = s ∧
       ∀ c, readReg { t with lap := { t.lap with count := c } } a 0x0004000C = some ((s.lap.count >>> 32).setWidth 32))

/-- R231, R237, R240, R246 and R415: each of these writes sets its own field from the value written; a new path entry lets waiting frames
try again, and a RATE_MIN below its range is recorded as RANGE and changes nothing else. -/
def Obligations.TrackRegisterWrites : Prop :=
  ∀ (s : State) (a : Accessor) (v : Word), RegActs s a 0x000C0000 →
    exec (.teCtrWrite a v) s = .next (setCtr s (accSel s a).teCtr.toNat v) ∧
    (pathOk v = true → exec (.tePathEntryWrite a v) s = .next (pumpAll { s with te := { s.te with
      paths := tblSet s.te.paths (accSel s a).tePath.toNat (v &&& 0xC00F0FFF) } })) ∧
    exec (.teKgenWrite a true v) s =
      .next { s with te := { s.te with ethertype := v.extractLsb' 16 16, sysKgen := v.extractLsb' 4 4 } } ∧
    exec (.teKgenWrite a false v) s =
      .next { s with te := { s.te with kgen := tblSet s.te.kgen (accSel s a).teTenant.toNat (v.setWidth 4) } } ∧
    (8 ≤ (v.setWidth 13).toNat → (v.setWidth 13).toNat ≤ 4096 →
      exec (.teTuningWrite a .rto v) s = .next { s with te := { s.te with rto := v.setWidth 13 } }) ∧
    (100 ≤ (v.setWidth 16).toNat →
      exec (.teTuningWrite a .ccCfg v) s = .next { s with te := { s.te with delayMark := v.setWidth 16 } }) ∧
    (1000 ≤ (v.setWidth 24).toNat → (v.setWidth 24).toNat ≤ 800000 →
      exec (.teTuningWrite a .rateMin v) s = .next { s with te := { s.te with rateMin := v.setWidth 24 } }) ∧
    ((v.setWidth 24).toNat < 1000 → exec (.teTuningWrite a .rateMin v) s = .next (recordAccess s a 3 0x000C0044))

/-- R415: a write to GLB_EVT_STATUS clears the bits written 1, one to GLB_EVT_ENABLE replaces the mask; where no enabled
condition is left pending no message goes, and otherwise the event message goes or waits for its holdoff. R385 and R415: when
a holdoff of 2 microseconds ends, what arose within it is signalled now and starts another; with nothing new the holdoff just
ends. -/
def Obligations.EventInterrupts : Prop :=
  (∀ (s : State) (a : Accessor) (v : Word), RegActs s a 0x20 →
     let st := { s with glb := { s.glb with evt := s.glb.evt &&& ~~~(v.setWidth 13) } }
     let en := { s with glb := { s.glb with evtEn := v.setWidth 13 } }
     exec (.glbEvtWrite a false v) s = .next (if st.glb.evt &&& st.glb.evtEn = 0 then st else sendEvt st) ∧
     exec (.glbEvtWrite a true v) s = .next (if en.glb.evt &&& en.glb.evtEn = 0 then en else sendEvt en)) ∧
  (∀ s : State,
     (s.glb.evtHold = true → s.glb.evtLater = false →
       exec .evtMsiHoldoff s = .next { s with glb := { s.glb with evtHold := false, evtLater := false } }) ∧
     (s.glb.evtHold = true → s.glb.evtLater = true → s.glb.evt &&& s.glb.evtEn ≠ 0 → hostUp s = true →
       exec .evtMsiHoldoff s = .next { s with
         glb := { s.glb with evtHold := true, evtLater := false }, out := s.out ++ [.msix 0 s.glb.evtVector.toNat] }) ∧
     (∀ t, (ctxOf s t).msiHold = true → (ctxOf s t).msiLater = false →
       exec (.contextMsiXHoldoff t) s = .next (setCtx s t { ctxOf s t with msiHold := false })) ∧
     (∀ t, (ctxOf s t).msiHold = true → (ctxOf s t).msiLater = true → hostUp s = true →
       ∃ u, exec (.contextMsiXHoldoff t) s = .next u ∧ u.out = s.out ++ [.msix (tenantFunc s t) (ctxOf s t).vector.toNat] ∧
         ctxOf u t = { ctxOf s t with msiHold := true, msiLater := false } ∧ { u with out := s.out, hif := s.hif } = s))

/-- R326, R327, R335 and R337: MAR_CMD FENCE ADMIN takes up the fence that the arguments name and leaves OK as its result, READMIT
takes up the re-admission; a fenced device takes no FENCE ADMIN; a SWAP that nothing refuses becomes active for its lanes, device
and epoch with BUSY set; a port-fence write replaces the mask and lets waiting frames try again. R322, R254 and R328: a device
with no work toward the subject that takes up a new fence holds it and lists the subject as fenced, a DECLARED one as dead too. -/
def Obligations.MarshalCommandsAndFences : Prop :=
  (∀ (s : State) (a : Accessor), RegActs s a 0x000F0018 →
     (isFenced s = false →
       exec (.marCmdFenceAdmin a) s = .next (marResult (fenceIn s s.mar.arg0 s.mar.argEpoch false false (roundNow s)) .ok)) ∧
     exec (.marCmdReadmit a) s = .next (marResult (readmitIn s s.mar.arg0 s.mar.argEpoch (roundNow s)) .ok) ∧
     (isFenced s = true → exec (.marCmdFenceAdmin a) s = .next { s with mar := { s.mar with result := 0x04 } }) ∧
     (swapRefusal s = none → ∃ t, exec (.marCmdSwap a) s = .next t ∧ t.mar.busy = true ∧ t.mar.swapActive = true ∧
       t.mar.swapLanes = s.mar.argLanes ∧ t.mar.swapDev = s.mar.arg0 ∧ t.mar.swapEpoch = s.mar.argEpoch ∧ t.mar.result = 0 ∧
       t.mem = s.mem) ∧
     (∀ x, swapRefusal s = some x → exec (.marCmdSwap a) s = .next { s with mar := { s.mar with result := finishCode x } }) ∧
     (∀ v : Word, exec (.portFenceWrite a v) s =
       .next (pumpAll { s with mar := { s.mar with portFence := v.setWidth 16 } }))) ∧
  (∀ (s : State) (d : DevId) (e : BitVec 16) (declared : Bool) (r : BitVec 48), d ≠ s.mpl.devId →
     fenceIgnored s d e declared = false → s.te.sqs = [] → s.te.sysTx = [] → s.te.ctxWait = [] → s.btn.legs = [] →
     s.btn.pulls = [] → s.reqs = [] → s.bib.waits = [] → s.bib.lookQ = [] →
     let t := fenceIn s d e declared false r
     d ∈ t.te.fenced ∧ (⟨d, e, declared⟩ : FenceRec) ∈ t.mar.held ∧ (⟨d, e, declared⟩ : FenceRec) ∈ t.mar.seen ∧
       (declared = true → d ∈ t.te.dead) ∧ t.mem = s.mem ∧ t.reqs = s.reqs)

/-! ### Firmware update (R364 to R373) -/

/-- R366 to R368: STAGE begins in the slot that does not run; the image of FWU_LEN fetched bytes makes the slot STAGED with OK
when it passes every check, and otherwise the slot is EMPTY and the command completes with REFUSED and the failing check's
reason. R368 to R370: ACTIVATE and ROM of an allowed state wait for the service pause while a plan is current; CONFIRM makes
the running TRIAL slot GOOD once it is HEALTHY; a trial becomes HEALTHY when its timer fires; and a confirmation window that
expires rejects the slot, counts the fallback, raises its event and asks for a pause. -/
def Obligations.FirmwareUpdate : Prop :=
  (∀ (s : State) (a : Accessor) (img : FwImage), RegActs s a 0x0003000C →
     (fwuBlocked s = false → lcTakesImage s = true → (∀ b, (fwuSlot s b).state ≠ .trial ∧ (fwuSlot s b).state ≠ .staging) →
       exec (.fwuStage a) s = .next (let b := stageSlot s
         { setFwuSlot s b ⟨.staging, none⟩ with fwu := { (setFwuSlot s b ⟨.staging, none⟩).fwu with op := .stage b s.fwu.len } })) ∧
     (∀ b n, s.fwu.op = .stage b n → imageReason s img n.toNat = 0 →
       ∃ t, exec (.fwuStageDone img) s = .next t ∧ fwuSlot t b = ⟨.staged, some img⟩ ∧ fwuSlot t (!b) = fwuSlot s (!b) ∧
         t.fwu.op = .none ∧ t.fwu.result = 0 ∧ t.fwu.reason = 0 ∧ { t with fwu := s.fwu } = s) ∧
     (∀ b n, s.fwu.op = .stage b n → imageReason s img n.toNat ≠ 0 →
       ∃ t, exec (.fwuStageDone img) s = .next t ∧ fwuSlot t b = ⟨.empty, none⟩ ∧ fwuSlot t (!b) = fwuSlot s (!b) ∧
         t.fwu.op = .none ∧ t.fwu.result = 0x03 ∧ t.fwu.reason = imageReason s img n.toNat ∧ { t with fwu := s.fwu } = s)) ∧
  (∀ (s : State) (a : Accessor) (p : Plan), RegActs s a 0x0003000C → s.mpl.current = some p →
     (∀ b, fwuBlocked s = false → lcTakesImage s = true → slotRunnable s b = true → modeTakesImage s = true →
       pauseAllowed s = true → exec (.activate a b) s = .next { s with fwu := { s.fwu with op := .activate b } }) ∧
     (∀ b, fwuBlocked s = false → runningSlot s = some b → inTrial s false = false → inTrial s true = false →
       modeTakesImage s = true → pauseAllowed s = true →
       exec (.rom a) s = .next { s with fwu := { s.fwu with op := .rom } }) ∧
     (∀ b, fwuBlocked s = false → runningSlot s = some b → inTrial s b = true → s.fwu.healthy = true →
       ∃ t, exec (.confirm a) s = .next t ∧ (fwuSlot t b).state = .good ∧ (fwuSlot t b).image = (fwuSlot s b).image ∧
         fwuSlot t (!b) = fwuSlot s (!b) ∧ t.fwu.result = 0 ∧ { t with fwu := s.fwu } = s) ∧
     (onTrial s = true → coachRuns s = true → exec .healthyTimer s = .next { s with fwu := { s.fwu with healthy := true } }) ∧
     (∀ b, runningSlot s = some b → inTrial s b = true → coachRuns s = true →
       ∃ t, exec .confirmWindowExpired s = .next t ∧ (fwuSlot t b).state = .rejected ∧ t.fwu.fellBack = true ∧
         t.fwu.healthy = false ∧ t.fwu.fallback = true ∧ t.fwu.fallbackCnt = satInc s.fwu.fallbackCnt ∧
         t.fwu.running = s.fwu.running ∧ t.glb.evt = s.glb.evt ||| (1 <<< 8) ∧ t.mem = s.mem ∧ t.lanes = s.lanes))

/-- R51, R370 and R371: the watchdog stops Coach, counts the restart and rejects an image on trial; past 30 ms it is a fatal
device error; the end of a restart returns Coach to service, or to waiting for a plan, and completes a pause's command with
OK. -/
def Obligations.CoachRestarts : Prop :=
  ∀ s : State,
    (coachRuns s = true → ∃ t, exec .coachWatchdog s = .next t ∧ t.coach.phase = .restarting ∧ t.coach.pause = .watchdog ∧
      t.coach.imageActive = false ∧
      t.coach.restarts = (if s.coach.restarts = 0xFF then 0xFF else s.coach.restarts + 1) ∧ t.mem = s.mem ∧ t.lanes = s.lanes ∧
      (∀ b, runningSlot s = some b → inTrial s b = true → (fwuSlot t b).state = .rejected ∧ t.fwu.fellBack = true)) ∧
    (s.coach.phase = .restarting → s.coach.pause = .watchdog → exec .coachRestartTimeout s = .next (fatalError s)) ∧
    (s.coach.phase = .restarting → pauseDue s = false →
      ∃ t, exec .coachServesAgain s = .next t ∧ t.coach.phase = (if s.mpl.current.isSome then .serving else .awaiting) ∧
        t.coach.pause = .none ∧ t.coach.imageActive = (s.fwu.running != .rom) ∧ t.mem = s.mem ∧ t.lanes = s.lanes) ∧
    (∀ b, s.coach.phase = .restarting → s.coach.pause = .service → s.fwu.op = .activate b →
      ∃ t, exec .coachServesAgain s = .next t ∧ t.fwu.op = .none ∧ t.fwu.result = 0 ∧ t.fwu.reason = 0)

/-! ### Life cycle (R358 to R362) -/

/-- R360 to R362: a request with UNLOCK for the next state, its precondition met, starts the transition at INTENT; a wrong
UNLOCK changes nothing; the transition goes on once INTENT reads set; when its work is done COMMIT is burned, the state moves
by one, the key data clear and the request completes with OK. R348 and R358: fuses only go from 0 to 1. A transition never
clears a burned bit of a key group, and with the first transition every group holds the bits of the key data. -/
def Obligations.LifeCycle : Prop :=
  (∀ (s : State) (a : Accessor) (v : Word) (ok : Bool), RegActs s a 0x00020004 →
     ((v >>> 16) ≠ 0x4C43 → exec (.lcTransitionRequest a v ok) s = .next s) ∧
     (∀ k : Fin 4, (v >>> 16) = 0x4C43 → s.fus.lcRun = .idle → lcIndex s.fus.lc = some k.val → v.toNat % 8 = k.val + 1 →
       lcAllowed s k.val ok = true →
       exec (.lcTransitionRequest a v ok) s = .next { s with fus := { s.fus with lcRun := .intent k } }) ∧
     (∀ k : Fin 4, s.fus.lcRun = .intent k → lcRead (s.fus.intent.get k ||| v) = .set →
       ∃ t, exec (.lcIntentBurned v) s = .next t ∧ t.fus.lcRun = .work k ∧ t.fus.intent.get k = s.fus.intent.get k ||| v ∧
         (∀ j, j ≠ k → t.fus.intent.get j = s.fus.intent.get j) ∧ { t with fus := s.fus } = s) ∧
     (∀ k : Fin 4, s.fus.lcRun = .work k → k ≠ 2 →
       ∃ t, exec .lcWorkDone s = .next t ∧ t.fus.lc = lcOf (k.val + 1) ∧ t.fus.commit.get k = 0xFFFFFFFF ∧
         (∀ j, j ≠ k → t.fus.commit.get j = s.fus.commit.get j) ∧ t.fus.lcRun = .idle ∧ t.fus.lcResult = 0 ∧
         (∀ j, t.fus.keyData.get j = 0) ∧ t.mem = s.mem ∧ t.lanes = s.lanes ∧
         (k = 3 → t.fus.family.value = BitVec.allOnes 384 ∧ (∀ b, (fwuSlot t b).state = .empty)))) ∧
  (∀ (s : State) (k : Fin 4), s.fus.lcRun = .work k → k ≠ 2 →
     ∃ t, exec .lcWorkDone s = .next t ∧
       s.fus.planKey.value &&& ~~~t.fus.planKey.value = 0 ∧ s.fus.fwKey.value &&& ~~~t.fus.fwKey.value = 0 ∧
       s.fus.family.value &&& ~~~t.fus.family.value = 0 ∧ s.fus.returnKey.value &&& ~~~t.fus.returnKey.value = 0 ∧
       (k = 0 → keyBits s.fus 0 48 &&& ~~~t.fus.planKey.value = 0 ∧ keyBits s.fus 48 48 &&& ~~~t.fus.fwKey.value = 0))

/-! ### Resets (R340 to R344, R421, R422) -/

/-- R340 and R341: a power-on reset leaves everything at its reset value (the values that the spec does not give are those of logs
6 and 42) but the fuses, the silicon and mask revisions and the pins' levels, with POR in the reset cause; what was driven outwards
and what waits in the queue are not the device's state. R341, R421 and R422: a brown-out of main rails, RESET_N and a device
software reset reset every domain but the standby one: memory, requests and plans go, the standby domain's fuses and ports stay,
every lane is UNASSIGNED but a RETIRED one (R115), and each adds its own cause; a software reset without its UNLOCK does nothing.
R422: RESET_N high and the last good rail start the main domain. -/
def Obligations.Resets : Prop :=
  (∀ s : State, ∃ o, exec .powerOnReset s = .next { State.reset with
     pending := s.pending, out := o, free := s.free
     glb := { Glb.reset with bolzilStep := s.glb.bolzilStep, poletteStep := s.glb.poletteStep }
     coach := { Coach.reset with romRev := s.coach.romRev }
     sta := { Sta.reset with por := true, rail := 0xF, boot := { Boot.reset with
       railGood := s.sta.boot.railGood, resetN := s.sta.boot.resetN, perstN := s.sta.boot.perstN } }
     fus := { Fus.reset with
       serial := s.fus.serial, hbmCode := s.fus.hbmCode, pinMap := s.fus.pinMap, sramRepair := s.fus.sramRepair
       coreFailed := s.fus.coreFailed, intent := s.fus.intent, commit := s.fus.commit, planKey := s.fus.planKey
       fwKey := s.fus.fwKey, family := s.fus.family, returnKey := s.fus.returnKey } }) ∧
  (∀ (s : State) (c : Instr) (t : State),
     ((∃ rails : BitVec 8, c = .mainBrownout rails ∧ rails ≠ 0) ∨ c = .resetPin ∨
       (∃ (a : Accessor) (v : Word), c = .deviceSoftwareReset a v ∧ RegActs s a 0x0001000C ∧ mayReset s a = true ∧ (v >>> 16) = 0x5A5A ∧
         v.getLsbD 0 = true)) →
     exec c s = .next t →
       t.pending = s.pending ∧ t.mem = Mems.reset ∧ t.reqs = [] ∧ t.mpl = Mpl.reset ∧ t.te = Te.reset ∧ t.hif.linkUp = false ∧
       t.btn = Btn.reset ∧ t.mar = Mar.reset ∧ t.fus = s.fus ∧ t.spi = s.spi ∧ t.uar = s.uar ∧ t.i2c = s.i2c ∧ t.jtg = s.jtg ∧
       (∀ n, (t.lanes.get n).ctl = (if (s.lanes.get n).ctl = .retired then .retired else .unassigned) ∧ (t.lanes.get n).dataOpen = false ∧
         (t.lanes.get n).hbc.repaired = (s.lanes.get n).hbc.repaired) ∧
       t.coach.phase = .booting ∧ t.sta.boot.fabricUp = false ∧ t.glb.fatal = false ∧
       (s.sta.por = true → t.sta.por = true) ∧ (s.glb.fatal = true → t.sta.afterFatal = true)) ∧
  (∀ s : State,
     (∀ rails : BitVec 8, rails ≠ 0 → ∃ t, exec (.mainBrownout rails) s = .next t ∧ t.sta.brownout = true ∧
       t.sta.rail = lowestRail rails ∧ t.sta.boot.railGood = s.sta.boot.railGood &&& ~~~rails) ∧
     (∃ t, exec .resetPin s = .next t ∧ t.sta.pinCause = true ∧ t.sta.boot.resetN = false) ∧
     (∀ (a : Accessor) (v : Word), RegActs s a 0x0001000C → mayReset s a = true → (v >>> 16) = 0x5A5A → v.getLsbD 0 = true →
       ∃ t, exec (.deviceSoftwareReset a v) s = .next t ∧ t.sta.software = true) ∧
     (∀ (a : Accessor) (v : Word), RegActs s a 0x0001000C → (v >>> 16) ≠ 0x5A5A → exec (.deviceSoftwareReset a v) s = .next s) ∧
     (∃ t, exec .resetPinRelease s = .next t ∧ t.sta.boot.resetN = true ∧
       t.sta.boot.mainStart = (s.sta.boot.mainStart || s.sta.boot.railGood == 0xFF) ∧ { t with sta := s.sta } = s) ∧
     (∀ r : Fin 8, ∃ t, exec (.railGood r) s = .next t ∧ t.sta.boot.railGood = s.sta.boot.railGood ||| (1 <<< r.val) ∧
       { t with sta := s.sta } = s))

/-- R343 and R172: a write of one block's bit resets that block and holds it, a bit already held does nothing, and the release
ends the hold: shown for Judge, Steeple and the relay links. R344: a lane without shares that does not run resets: it is
UNASSIGNED, or stays RETIRED with its cause; its stack's contents and its page lists stay; it is held for
64 cycles of its clock (log 45), in which a second reset does nothing; a lane that serves refuses, and keeps everything. -/
def Obligations.PartialResets : Prop :=
  (∀ (s : State) (a : Accessor), RegActs s a 0x00010010 →
     (s.sta.blockHeld.getLsbD 0 = false → exec (.blockSoftwareReset a 1) s =
       .next { s with jdg := Jdg.reset, sta := { s.sta with blockHeld := s.sta.blockHeld ||| 1 } }) ∧
     (s.sta.blockHeld.getLsbD 1 = false → exec (.blockSoftwareReset a 2) s =
       .next { s with stp := Stp.reset, sta := { s.sta with blockHeld := s.sta.blockHeld ||| 2 } }) ∧
     (s.sta.blockHeld.getLsbD 5 = false → exec (.blockSoftwareReset a 0x20) s =
       .next { s with rly := Vector.replicate 3 Rly.reset, sta := { s.sta with blockHeld := s.sta.blockHeld ||| 0x20 } }) ∧
     (s.sta.blockHeld.getLsbD 5 = true → exec (.blockSoftwareReset a 0x20) s = .next s) ∧
     (∀ b : Fin 10, s.sta.blockHeld.getLsbD b.val = true → exec (.blockResetRelease b) s =
       .next (pumpAll { s with sta := { s.sta with blockHeld := s.sta.blockHeld &&& ~~~((1 : BitVec 10) <<< b.val) } }))) ∧
  (∀ (s : State) (a : Accessor) (n : LaneNo), RegActs s a 0x00010014 →
     (laneHeld s n = false → laneResetOk s n = true →
       ∃ t, exec (.laneReset a (1 <<< n.val)) s = .next t ∧
         (laneOf t n).ctl = (if (laneOf s n).ctl = .retired then .retired else .unassigned) ∧
         (laneOf t n).cause = (laneOf s n).cause ∧ (laneOf t n).kv.reserveFree = (laneOf s n).kv.reserveFree ∧
         (laneOf t n).kv.sharedFree = (laneOf s n).kv.sharedFree ∧ (laneOf t n).st.batch = [] ∧
         (laneOf t n).heldUntil = s.clk.now + laneHold s n ∧
         t.sta.laneRefused.getLsbD n.val = false ∧ t.mem = s.mem ∧ t.reqs = s.reqs ∧ (∀ k, k ≠ n → laneOf t k = laneOf s k)) ∧
     (laneHeld s n = true → exec (.laneReset a (1 <<< n.val)) s = .next s) ∧
     (laneHeld s n = false → (laneOf s n).ctl = .serving → ∃ t, exec (.laneReset a (1 <<< n.val)) s = .next t ∧ t.lanes = s.lanes ∧ t.mem = s.mem ∧
       t.reqs = s.reqs ∧ t.sta.laneRefused.getLsbD n.val = true))

/-! ### Start-up and clocks (R346, R347, R350 to R352, R423 to R425) -/

/-- R350 and R346: each milestone of the standby and main start sets its own bit; the fuse load decodes the life-cycle state, the
strap gives the median code, and the PLLs' lock lets the link train. R350 to R352: the march over the cores, the training of stacks and ports, the stack test and the image check each
set their milestone; Coach waits for a plan exactly when all of them are done. -/
def Obligations.StartUp : Prop :=
  (∀ s : State,
     exec .standbyRelease s = .next { s with sta := { s.sta with boot := { s.sta.boot with stbyReleased := true } } } ∧
     (s.sta.boot.stbyReleased = true → s.sta.boot.fusesLoaded = false →
       ∃ t, exec .fuseLoadDone s = .next t ∧ t.sta = { s.sta with boot := { s.sta.boot with fusesLoaded := true } } ∧
         t.fus.lc = (lcDecode s.fus).1 ∧ t.fus.pending = (lcDecode s.fus).2 ∧ t.fus.pinActive = true ∧
         t.fus.commit = s.fus.commit ∧ { t with sta := s.sta, fus := s.fus } = s) ∧
     (∀ codes : Vector Byte 9, s.sta.boot.fusesLoaded = true → s.sta.boot.strapDue = true →
       ∃ t, exec (.strapSampled codes) s = .next t ∧ t.sta.code = medianCode codes ∧
         t.sta.pos = BitVec.ofNat 2 ((medianCode codes).toNat / 16) ∧ t.sta.mode = BitVec.ofNat 2 ((medianCode codes).toNat / 64) ∧
         t.sta.boot.strapDone = true ∧ { t with sta := s.sta } = s) ∧
     (s.sta.boot.mainStart = true → s.sta.boot.strapDone = true → s.sta.boot.fabricUp = false → sysclkGone s = false →
       ∃ t, exec .pllLock s = .next t ∧ t.sta = { s.sta with boot := { s.sta.boot with fabricUp := true } } ∧
         { t with sta := s.sta, hif := s.hif } = s ∧ { t.hif with training := s.hif.training } = s.hif ∧
         t.hif.training = (s.sta.boot.perstN && !s.glb.fatal && !(s.clk.refFail && !s.clk.refOk) && !s.hif.linkUp)) ∧
     (s.sta.boot.fabricUp = true → s.sta.boot.coachUp = false →
       exec (.bolzilMarchDone true) s = .next { s with sta := { s.sta with boot := { s.sta.boot with coachUp := true } } } ∧
       exec (.bolzilMarchDone false) s = .next (fatalError { s with sta := { s.sta with failStage := 4 } })) ∧
     (s.sta.boot.coachUp = true →
       exec .dieLinksTrained s = .next { s with sta := { s.sta with boot := { s.sta.boot with dieLinksUp := true } } })) ∧
  (∀ s : State,
     (s.sta.boot.dieLinksUp = true → s.sta.boot.coreMarch = false →
       exec (.coreMarchDone []) s = .next (reachAwaiting { s with sta := { s.sta with boot := { s.sta.boot with coreMarch := true } } }) ∧
       ∀ failed, ∃ t, exec (.coreMarchDone failed) s = .next t ∧ t.sta.boot.coreMarch = true) ∧
     (s.sta.boot.dieLinksUp = true → s.sta.boot.stacksTrained = false → ∀ cap : Vector CapTrain 4,
       ∃ t, exec (.stackTrainingDone [] cap) s = .next t ∧ t.sta.boot.stacksTrained = true ∧
         (∀ n, (laneOf t n).dataOpen = stackOpens (laneOf s n) ∧ (laneOf t n).hbc.trained = true ∧ (laneOf t n).ctl = (laneOf s n).ctl) ∧
         (∀ p, t.cap.ports.get p = capTrained (cap.get p)) ∧ t.mem = s.mem ∧ t.reqs = s.reqs) ∧
     (s.sta.boot.dieLinksUp = true → s.sta.boot.stacksTrained = false → ∀ failed cap,
       ∃ t, exec (.stackTrainingDone failed cap) s = .next t ∧ t.sta.boot.stacksTrained = true ∧
         (∀ p, t.cap.ports.get p = capTrained (cap.get p))) ∧
     (modeFull s = true → s.sta.boot.stacksTrained = true → s.sta.boot.stackTest = false →
       exec (.startupStackTestDone []) s =
         .next (reachAwaiting { s with sta := { s.sta with boot := { s.sta.boot with stackTest := true } } }) ∧
       ∀ failed, ∃ t, exec (.startupStackTestDone failed) s = .next t ∧ t.sta.boot.stackTest = true) ∧
     (∀ ms, s.sta.boot.coachUp = true → s.sta.boot.imageChecked = false →
       ∃ t, exec (.bootImageChecked ms) s = .next t ∧ t.sta.bootMs = ms ∧ t.sta.boot.imageChecked = true ∧
         t.fwu.running = bootRunning s ∧ t.coach.imageActive = (bootRunning s != .rom) ∧ t.mem = s.mem ∧ t.lanes = s.lanes) ∧
     (s.coach.phase = .booting → ((reachAwaiting s).coach.phase = .awaiting ↔ bootDone s = true)))

/-- R423 to R425 and R95: SYSCLK's failure is fatal once the PLLs run; REFCLK's puts the link down; ETHCLK's downs every port,
loses PTP lock and free-runs a device on PTP; a clock that returns is noted; a lost PTP lock of a device on PTP is free-running at
once. R426, R429 and R400: a sample stores every reading; the same sensor at or above 105 degrees in two samples in a row trips:
STA_TRIP takes the first such sensor and its reading, the Polette clocks stop and a fatal device error rises. -/
def Obligations.ClocksAndTemperatures : Prop :=
  (∀ s : State,
     (s.sta.boot.fabricUp = true →
       exec .sysclkFail s = .next (fatalError { s with clk := { s.clk with sysOk := false, sysFail := true } })) ∧
     (∃ t, exec .refclkFail s = .next t ∧ t.clk.refOk = false ∧ t.clk.refFail = true ∧ t.hif.linkUp = false) ∧
     (∃ t, exec .ethclkFail s = .next t ∧ t.te.portUp = 0 ∧ t.clk.ethOk = false ∧ t.clk.ethFail = true ∧ t.clk.ptpLock = false ∧
       (∀ i, (t.rly.get i).state = 0) ∧
       (s.lap.running = true → s.lap.source = 2 → t.lap.source = 0) ∧ t.mem = s.mem ∧ t.lanes = s.lanes ∧ t.reqs = s.reqs) ∧
     exec (.clockRecovered .sys) s = .next { s with clk := { s.clk with sysOk := true } } ∧
     exec (.clockRecovered .eth) s = .next { s with clk := { s.clk with ethOk := true, ptpHold := none } } ∧
     (∃ t, exec (.clockRecovered .ref) s = .next t ∧ t.clk = { s.clk with refOk := true } ∧ t.mem = s.mem ∧ t.lanes = s.lanes) ∧
     (∃ t, exec .ptpLockLost s = .next t ∧ t.clk.ptpLock = false ∧ (s.lap.running = true → s.lap.source = 2 → t.lap.source = 0) ∧
       t.mem = s.mem ∧ t.lanes = s.lanes ∧ t.lap.count = s.lap.count)) ∧
  (∀ (s : State) (r : ThermalReading), ∃ t, exec (.thermalSample r) s = .next t ∧ t.sta.dieTemp = r.die ∧
     t.sta.bolzilTemp = r.bolzil ∧ t.sta.stackTemp = r.stack ∧ t.mem = s.mem ∧ t.reqs = s.reqs ∧
     ((∀ x ∈ sensors r, tripC ≤ x.2 → x.1 ∉ s.sta.hotAtTrip) → t.sta.tripped = s.sta.tripped ∧ t.glb = s.glb) ∧
     (∀ x xs, ((sensors r).filter fun x => decide (tripC ≤ x.2) && s.sta.hotAtTrip.contains x.1) = x :: xs → s.glb.fatal = false →
       t.sta.tripped = true ∧ t.sta.tripTemp = BitVec.ofInt 12 x.2 ∧ t.sta.tripSource = BitVec.ofNat 5 x.1 ∧
       t.sta.polStopped = true ∧ t.glb.fatal = true))

/-! ### Host link and functions (R374, R386, R402) -/

/-- R374, R386 and R402: PERST_N low resets HIF for every function and drops the host's select copies while lanes keep
serving; a link in training comes up with a legal width and rate, but after a fatal error, when a link goes to Detect (R387); a
function level reset closes the contexts, queues and select copies of that function. -/
def Obligations.HostLink : Prop :=
  ∀ s : State,
    (s.reqs = [] → s.te.sqs = [] → s.te.rqs = [] →
      exec .pcieFundamentalReset s = .next { s with
        hif := Hif.reset, sel := s.sel.filter (fun e => !hostAccessor e.1)
        sta := { s.sta with boot := { s.sta.boot with perstN := false } } }) ∧
    (∃ t, exec .pcieFundamentalReset s = .next t ∧ t.hif = Hif.reset ∧ t.sta.boot.perstN = false ∧
      (∀ e ∈ t.sel, hostAccessor e.1 = false)) ∧
    (∃ t, exec .perstRelease s = .next t ∧ t.sta.boot.perstN = true ∧ { t.hif with training := s.hif.training } = s.hif ∧
      { t with sta := s.sta, hif := s.hif } = s) ∧
    (∀ w sp fl, s.hif.training = true → s.glb.fatal = false → linkOk w sp fl = true → ∃ t, exec (.pcieLinkUp w sp fl) s = .next t ∧
      t.hif.linkUp = true ∧ t.hif.width = w ∧ t.hif.speed = sp ∧ t.hif.flit = fl ∧ t.hif.training = false ∧ t.mem = s.mem ∧
      t.reqs = s.reqs ∧ t.lanes = s.lanes) ∧
    (∀ w sp fl, s.glb.fatal = true → exec (.pcieLinkUp w sp fl) s = .next s) ∧
    (s.glb.fatal = true → s.hif.linkUp = true → exec .pcieLinkDownAfterFatal s =
      .next (emit { s with hif := { s.hif with linkUp := false, width := 0, speed := 0, flit := false, training := false } }
        .linkDetect)) ∧
    (∀ f, s.hif.linkUp = true → exec (.pcieConfigRequest f) s =
      .next (emit s (if s.sta.boot.imageChecked && s.coach.phase != .booting then .configServed f else .configRetry f))) ∧
    (∀ f : Func, ∃ t, exec (.functionLevelReset f) s = .next t ∧ (∀ e ∈ t.sel, isVf f.val e.1 = false) ∧
      (s.reqs = [] → (∀ e ∈ t.hif.ctxs, tblGetD s.hif.funcOf e.1 0 ≠ f.val) ∧ (∀ e ∈ t.te.sqs, e.2.func ≠ f) ∧
        (∀ e ∈ t.te.rqs, e.2.func ≠ f) ∧ t.mem = s.mem ∧ t.lanes = s.lanes ∧ t.mpl = s.mpl ∧ t.btn = s.btn))

/-! ### Management ports (R392 to R401) -/

/-- R392 to R394: a whole SPI frame shifts out the pending value or SPI_STATUS first; a read command captures its register, a
write command waits for its data word, the data word performs the write, a NOOP only consumes; a frame below 32 edges is
counted and changes nothing else. R396 and R398: a byte joins the request under way; a bad stop bit drops and counts it; a gap
discards a partial request; a good read request answers status 0 with the register's value, a good write performs the write,
and a wrong CRC answers status 1 without an access. -/
def Obligations.SerialPorts : Prop :=
  (∀ (s : State) (w : Word), s.sta.boot.strapDone = true → s.spi.pend = none →
     let out := emit s (.spiMiso (spiStatus s))
     (s.spi.expect = none → w.extractLsb' 30 2 = 2 → w.extractLsb' 24 6 = 0 →
       exec (.spiRead w 32) s = .next (spiCapture out (4 * (w.extractLsb' 0 24).toNat))) ∧
     (∀ off v, inBar s .spi off = true → regAt out .spi off = some (v, false) → usesFree out off = false →
       spiCapture out off = { latchHi out .spi off with spi := { s.spi with pend := some ⟨v, off⟩ } }) ∧
     (s.spi.expect = none → w.extractLsb' 30 2 = 1 → w.extractLsb' 24 6 = 0 →
       exec (.spiWrite w 32) s = .next { out with spi := { s.spi with expect := some (4 * (w.extractLsb' 0 24).toNat) } }) ∧
     (∀ off v, s.spi.expect = some off → regAt s .spi off = some (v, false) →
       exec (.spiDataWord w 32) s = .next (writeAccess { out with spi := { s.spi with expect := none } } .spi off w true)) ∧
     (s.spi.expect = none → w.extractLsb' 24 8 = 0 → exec (.spiNoop w 32) s = .next out) ∧
     (∀ k, k < 32 → exec (.spiFrameDiscard k) s =
       .next { out with spi := { s.spi with discard := satInc s.spi.discard } })) ∧
  (∀ s : State, s.sta.boot.strapDone = true →
     (∀ b e, s.uar.part ≠ [] → s.uar.part.length < 9 → exec (.uartByteRx b true true e) s =
       .next { s with uar := { s.uar with part := s.uar.part ++ [b], early := if e then satInc s.uar.early else s.uar.early } }) ∧
     (∀ b p, exec (.uartByteRx b false p false) s = .next { s with uar := { s.uar with frameErr := satInc s.uar.frameErr } }) ∧
     (s.uar.part ≠ [] → exec .uartPacketGap s =
       .next { s with uar := { s.uar with part := [], pktDrop := satInc s.uar.pktDrop } }) ∧
     (∀ (addr : BitVec 24) v, regAt s .uart (4 * addr.toNat) = some (v, false) →
       ∃ t, exec (.uartRead addr true true) s = .next (uartReply t 0x00 v) ∧ t = (readOne s .uart (4 * addr.toNat)).2) ∧
     (∀ (addr : BitVec 24) v old, regAt s .uart (4 * addr.toNat) = some (old, false) →
       exec (.uartWrite addr v true true) s = .next (uartOpen (writeAccess s .uart (4 * addr.toNat) v true) 0x00)) ∧
     (∀ (addr : BitVec 24) v ok, exec (.uartRead addr false ok) s = .next (uartOpen s 0x01) ∧
       exec (.uartWrite addr v false ok) s = .next (uartOpen s 0x01)))

/-- R399 and R400: the telemetry of the last update is read by command code, low byte first; an update takes the rails' and
the sensors' values, and an alert response names the device's own address while ALERT_N is low. R401 and R358: each TAP
instruction is selected with its drivers; a code of no instruction selects BYPASS; DEBUG is BYPASS where the life cycle closes
it; a TAP reset selects IDCODE. -/
def Obligations.TelemetryAndTap : Prop :=
  (∀ s : State, s.sta.boot.strapDone = true →
     exec (.i2cReadByte 0x00) s = .next (emit s (.i2cData (withPec s (readLead s 0x00) [s.i2c.status]))) ∧
     (∀ code : Byte, wordCode code.toNat = true → code ≠ 0 → exec (.i2cReadWord code) s =
       .next (emit s (.i2cData (withPec s (readLead s code)
         [(telemOf s code.toNat).setWidth 8, (telemOf s code.toNat).extractLsb' 8 8])))) ∧
     (∀ code : Byte, wordCode code.toNat = false → code ≠ 0 → exec (.i2cReadWord code) s = .next (emit s .i2cNack)) ∧
     (s.i2c.alert = true → alertWanted s = true → exec .alertResponse s = .next { s with
       out := s.out ++ [.i2cData (withPec s [0x19] [BitVec.ofNat 8 (2 * (0x58 + s.sta.pos.toNat))])]
       i2c := { s.i2c with alertRead := true } }) ∧
     exec .i2cSclTimeout s = .next s ∧
     (∀ r, ∃ t, exec (.telemetryUpdate r) s = .next t ∧ t.i2c.railOut = r.outOfWindow ∧
       telemOf t 0x7F = r.power ∧ (∀ k : Fin 8, telemOf t (0x40 + k.val) = r.mv.get k ∧ telemOf t (0x60 + k.val) = r.da.get k) ∧
       telemOf t 0x14 = BitVec.ofInt 16 s.sta.bolzilTemp ∧ (∀ k : Fin 12, telemOf t (0x18 + k.val) = BitVec.ofInt 16 (s.sta.stackTemp.get k)) ∧
       (∀ d : Fin 4, telemOf t (0x10 + d.val) = BitVec.ofInt 16 (s.sta.dieTemp.get d)) ∧ t.mem = s.mem ∧ t.sta = s.sta)) ∧
  (∀ s : State,
     exec .idcode s = .next (emit { s with jtg := { s.jtg with ir := 0x01, driven := false, hiZ := false } } (.jtag 0x01 0x1A320CB7)) ∧
     (∀ cells, ∃ v, exec (.extest cells) s = .next (emit { s with
       free := s.free + 1, jtg := { ir := 0x00, cells := cells, driven := true, hiZ := false } } (.jtag 0x00 v))) ∧
     (∀ cells, ∃ v, exec (.samplePreload cells) s = .next (emit { s with
       free := s.free + 1, jtg := { ir := 0x02, cells := cells, driven := false, hiZ := false } } (.jtag 0x02 v))) ∧
     exec .clamp s = .next (emit { s with jtg := { s.jtg with ir := 0x03, driven := true, hiZ := false } } (.jtag 0x03 0)) ∧
     exec .highz s = .next (emit { s with jtg := { s.jtg with ir := 0x04, driven := false, hiZ := true } } (.jtag 0x04 0)) ∧
     (debugOpen s = false → exec .debug s =
       .next (emit { s with jtg := { s.jtg with ir := 0xFF, driven := false, hiZ := false } } (.jtag 0xFF 0))) ∧
     (debugOpen s = true → ∃ v, exec .debug s = .next (emit { s with
       free := s.free + 1, jtg := { s.jtg with ir := 0x10, driven := false, hiZ := false } } (.jtag 0x10 v))) ∧
     (∀ code : Byte, 5 ≤ code.toNat → code ≠ 0x10 → exec (.bypass code) s =
       .next (emit { s with jtg := { s.jtg with ir := 0xFF, driven := false, hiZ := false } } (.jtag 0xFF 0))) ∧
     exec .tapReset s = .next { s with jtg := Jtg.reset })

/-! ### Doorbells and descriptors (R220 to R223, R253, R377 to R379, R384) -/

/-- R377 to R379, R384 and R249: a doorbell of the owning function within its ring moves its index: published commands keep
the time of their doorbell, freed completion places take held completions, new descriptors and buffers are posted in order; a
doorbell of a closed or foreign ring, or out of range, only counts. -/
def Obligations.Doorbells : Prop :=
  ∀ (s : State) (f : Func),
    (∀ (t : Tenant) (tail : Word), tenantFunc s t = f.val → (ctxOf s t).enable = true →
      (tail - (ctxOf s t).head).toNat ≤ 2 ^ (ctxOf s t).cmdLog2.toNat →
      ∃ u, exec (.commandRingTail f t tail) s = .next u ∧ (ctxOf u t).tail = tail ∧ (ctxOf u t).head = (ctxOf s t).head ∧
        (tail, s.clk.now) ∈ (ctxOf u t).bells ∧ (∀ k, k ≠ t → ctxOf u k = ctxOf s k) ∧ { u with hif := s.hif } = s) ∧
    (∀ (t : Tenant) (head : Word), tenantFunc s t = f.val → (ctxOf s t).enable = true →
      (head - (ctxOf s t).cplHead).toNat ≤ 2 ^ (ctxOf s t).cplLog2.toNat →
      exec (.completionRingHead f t head) s = .next (pumpCpl (setCtx s t { ctxOf s t with cplHead := head }) t)) ∧
    (∀ (q : BitVec 13) (x : SendQ) (tail : Word) (ds : List Descriptor), getSq s q.toNat = some x → tenantFunc s x.tenant = f.val →
      (tail - x.head).toNat ≤ 2 ^ x.descLog2 →
      exec (.descriptorRingTail f q tail ds) s =
        .next (putSq s q.toNat { x with tail := tail, posted := x.posted ++ ds.take (tail - x.tail).toNat })) ∧
    (∀ (q : BitVec 13) (x : SendQ) (head : Word), getSq s q.toNat = some x → tenantFunc s x.tenant = f.val →
      (head - x.cplHead).toNat ≤ 2 ^ x.cplLog2 →
      exec (.trackCompletionRingHead f q head) s = .next (pumpTrackCpl (putSq s q.toNat { x with cplHead := head }) q.toNat)) ∧
    (∀ (q : BitVec 12) (r : RecvQ) (x : RxCtx) (tail : Word) (bs : List RxBuffer), tblGet s.te.rqs q.toNat = some r →
      getRx s r.ctx = some x → tenantFunc s x.tenant = f.val → (tail - r.tail).toNat ≤ 2 ^ r.log2 →
      r.bufs.length + (tail - r.tail).toNat ≤ 2 ^ r.log2 →
      exec (.bufferRingTail f q tail bs) s = .next (drainCtx { s with te := { s.te with rqs := tblSet s.te.rqs q.toNat { r with
        tail := tail, bufs := r.bufs ++ (bs.take (tail - r.tail).toNat).filter bufferOk } } } r.ctx (x.waiting.length + 1))) ∧
    (∀ (t : Tenant) (i : Word), (tenantFunc s t ≠ f.val ∨ (ctxOf s t).enable = false) →
      exec (.commandRingTail f t i) s = .next (badBell s) ∧ exec (.completionRingHead f t i) s = .next (badBell s)) ∧
    (∀ (q : BitVec 13) (i : Word) (ds : List Descriptor), getSq s q.toNat = none →
      exec (.descriptorRingTail f q i ds) s = .next (badBell s) ∧ exec (.trackCompletionRingHead f q i) s = .next (badBell s))

/-- R220, R222, R223, R253, R254, R326 and R328: on a fenced device the descriptor at the head of a queue completes with FENCED; one to
a dead target with DEAD_TARGET, one to a fenced target with FENCED, one out of range with REFUSED; none of these forms a frame. A
descriptor in range becomes an operation at the end of its queue's operations once its WAIT is met and the limits leave room, and
waits until then. -/
def Obligations.DescriptorsAreTaken : Prop :=
  (∀ (s : State) (q : BitVec 13) (x : SendQ) (d : Descriptor) (ds : List Descriptor), getSq s q.toNat = some x →
    x.posted = d :: ds → teHeld s = false →
    (isFenced s = true → exec (.descriptorSplit q) s = .next (endDesc s q.toNat x d .fenced)) ∧
    (isFenced s = false → s.te.dead.contains x.target = true →
      exec (.descriptorSplit q) s = .next (endDesc (deadLoad s x d) q.toNat x d .deadTarget)) ∧
    (isFenced s = false → s.te.dead.contains x.target = false → s.te.fenced.contains x.target = true →
      exec (.descriptorSplit q) s = .next (endDesc s q.toNat x d .fenced)) ∧
    (isFenced s = false → s.te.dead.contains x.target = false → s.te.fenced.contains x.target = false →
      (descOk s x d = false → exec (.descriptorSplit q) s = .next (endDesc s q.toNat x d .refused)) ∧
      (descOk s x d = true → (waitMet s d = false ∨ limitsOk s x d = false ∨ tableValid s x.pathTable = false) →
        exec (.descriptorSplit q) s = .next s) ∧
      (descOk s x d = true → waitMet s d = true → limitsOk s x d = true → tableValid s x.pathTable = true →
        ∃ u, exec (.descriptorSplit q) s = .next (pumpSq u q.toNat 4096) ∧
          getSq u q.toNat = some { x with
            posted := ds, head := x.head + 1, ops := x.ops ++ [mkOp s x d]
            message := if d.op = opSend then x.message + 1 else x.message } ∧
          (∀ k, k ≠ q.toNat → getSq u k = getSq s k) ∧ { u with te := s.te } = s ∧ (pumpSq u q.toNat 4096).mem = s.mem))) ∧
  (∀ (s : State) (q : Nat) (x : SendQ) (d : Descriptor) (code : Finish),
    (endDesc s q x d code).pac = s.pac ∧ (endDesc s q x d code).mem = s.mem ∧ (deadLoad s x d).pac = s.pac)

/-! ### Capacity ports, relay links (R217, R218, R388 to R390) -/

/-- R388 to R390: RETRAIN of a port puts it in training, a port that was up after everything on it is gone; a training gives 16 lanes, 8
lanes, or a port that stays down, and at most 2 TiB are used; a link that goes down takes every byte and weight on the port
with it, and raises its event where the port was up. R217, R218 and R257: a training learns the peer, its tags and the failed lanes:
16 lanes with 16 left, 15 with 15 left or demoted, down with fewer; a lane out of use retrains the link, or downs it; a link down
holds no credit; credits come back up to their pool. -/
def Obligations.PortsAndLinks : Prop :=
  (∀ (s : State) (a : Accessor) (p : Fin 4) (v : Word),
     (RegActs s a (0x0010000C + 0x100 * p.val) → v.getLsbD 0 = true → (s.cap.ports.get p).state = 0 →
       exec (.capRetrain a p v) s = .next { s with cap := { s.cap with
         ports := vmod s.cap.ports p fun c => { c with state := 1 } } }) ∧
     (RegActs s a (0x0010000C + 0x100 * p.val) → v.getLsbD 0 = true → (s.cap.ports.get p).state ≠ 1 →
       ∃ t, exec (.capRetrain a p v) s = .next t ∧ (t.cap.ports.get p).state = 1 ∧
         ((s.cap.ports.get p).state ≠ 0 → t.mem.cap.get p = [] ∧ (t.cap.ports.get p).used = 0)) ∧
     (∀ r, (s.cap.ports.get p).state = 1 → ∃ t, exec (.capPortTrained p r) s = .next t ∧
       (t.cap.ports.get p).state = (if r.deviceOk && r.up16 then 2 else if r.deviceOk && r.up8 then 3 else 0) ∧
       (t.cap.ports.get p).size = (if r.deviceOk && (r.up16 || r.up8) then min 8192 r.sizeUnits else 0) ∧
       (t.cap.ports.get p).poison = (s.cap.ports.get p).poison ∧ (∀ k, k ≠ p → t.cap.ports.get k = s.cap.ports.get k) ∧
       t.mem = s.mem ∧ t.lanes = s.lanes ∧ t.reqs = s.reqs) ∧
     ((s.cap.ports.get p).state ≠ 0 → ∃ t, exec (.capLinkDown p) s = .next t ∧ (t.cap.ports.get p).state = 0 ∧
       (t.cap.ports.get p).used = 0 ∧ t.mem.cap.get p = [] ∧ (∀ w ∈ t.cap.weights, w.2.1 ≠ p) ∧
       (capUp (s.cap.ports.get p) = true → t.glb.evt.getLsbD 10 = true))) ∧
  (∀ (s : State) (i : Fin 3),
     (∀ (peer : DevId) (a b : BitVec 64) (failed : List (Fin 17)), s.clk.ethOk = true → s.sta.blockHeld.getLsbD 5 = false →
       ∃ u, exec (.rlyLinkTrained i peer a b failed) s = .next (pumpAll u) ∧ (u.rly.get i).peer = peer ∧
         (u.rly.get i).tagCur = a ∧ (u.rly.get i).tagNext = b ∧ (∀ k ∈ failed, (u.rly.get i).out.getLsbD k.val = true) ∧
         (u.rly.get i).state = linkState (u.rly.get i).out (s.rly.get i).demoted ∧
         ((u.rly.get i).state ≠ 0 → ∀ c : Fin 4, (u.rly.get i).credits.get c = creditPool c.val) ∧
         ((u.rly.get i).state = 0 → ∀ c : Fin 4, (u.rly.get i).credits.get c = 0) ∧
         (∀ k, k ≠ i → u.rly.get k = s.rly.get k) ∧ { u with rly := s.rly } = s) ∧
     (∀ (o : BitVec 17) (d : Bool), linkState o d =
       if 2 < lanesOut o then 0 else if lanesOut o = 2 ∨ d = true then 3 else 2) ∧
     (∀ lane : Fin 17, (s.rly.get i).out.getLsbD lane.val = false →
       ∃ t, exec (.rlyLaneOut i lane) s = .next t ∧ (t.rly.get i).out = (s.rly.get i).out ||| (1 <<< lane.val) ∧
         (t.rly.get i).state = (if lanesOut (t.rly.get i).out ≤ 2 then 1 else 0) ∧ (∀ c, (t.rly.get i).credits.get c = 0) ∧
         (∀ k, k ≠ i → t.rly.get k = s.rly.get k) ∧ t.mem = s.mem ∧ t.lanes = s.lanes) ∧
     (exec (.relayLinkDown i) s = .next { s with
       rly := vmod s.rly i fun r => { r with state := 0, credits := Vector.replicate 4 0 } }) ∧
     (∀ (cls : BitVec 2) (n : Nat), ∃ t, exec (.relayCreditReturn i cls n) s = .next t ∧
       (∀ c : Fin 4, (t.rly.get i).credits.get c =
         if c.val = cls.toNat then min (creditPool c.val) ((s.rly.get i).credits.get c + n) else (s.rly.get i).credits.get c) ∧
       (∀ k, k ≠ i → t.rly.get k = s.rly.get k) ∧ { t with rly := s.rly } = s) ∧
     (∀ (a : Accessor) (v : Word), RegActs s a (0x00110004 + 0x100 * i.val) → v.getLsbD 5 = true → bits v.toNat 4 0 ≤ 16 →
       ∃ t, exec (.rlyDemote a i v) s = .next t ∧ (t.rly.get i).demoted = true ∧
         (t.rly.get i).out = (s.rly.get i).out ||| (1 <<< bits v.toNat 4 0) ∧ (∀ c, (t.rly.get i).credits.get c = 0) ∧
         (t.rly.get i).state = (if lanesOut (t.rly.get i).out ≤ 2 then 1 else 0) ∧
         (∀ k, k ≠ i → t.rly.get k = s.rly.get k) ∧ t.mem = s.mem ∧ t.lanes = s.lanes))

/-! ### Laps (R90 to R114, R146 to R164, R334) -/

/-- R90 to R92: while laps run, a boundary advances LAP_COUNT by one and opens the lap, and a commit point begins the quiet
window at its time in the lap and advances nothing; neither acts while no plan runs laps, and a second commit point in a lap
does nothing. -/
def Obligations.LapAdvances : Prop :=
  ∀ s : State,
    (s.lap.running = true → ∃ t, exec .lapBoundary s = .next t ∧ t.lap.count = s.lap.count + 1 ∧ t.lap.inQuiet = false ∧
      t.lap.running = true) ∧
    (s.lap.running = true → s.lap.inQuiet = false → ∃ t, exec .commitPoint s = .next t ∧
      t.lap = { s.lap with inQuiet := true } ∧ t.clk.now = max s.clk.now (commitAt s)) ∧
    ((s.lap.running = false ∨ s.lap.inQuiet = true) → exec .commitPoint s = .next s) ∧
    (s.lap.running = false → (s.mpl.current.isSome = true ∨ s.mpl.staged = none) → exec .lapBoundary s = .next s) ∧
    (s.lap.running = true → s.lap.inQuiet = true → s.mpl.staged = none → s.mpl.grace = false →
      exec .lapBoundary s = .next (pumpAll (boundaryWork { s with
        clk := { s.clk with now := max s.clk.now (nextBoundary s) }
        lap := { s.lap with count := s.lap.count + 1, inQuiet := false, boundaryAt := nextBoundary s } })))

/-- R91, R151, R152 and R164: at the commit point a member's drawn token joins its log with ORIGIN 0b01 and its counters
advance by one, with every earlier position kept; without a candidate the request ends with nothing logged; while its ring has
no room the lap misses and the log stays; a member without a draw keeps its log and counters. -/
def Obligations.DrawsCommitOnce : Prop :=
  ∀ (s : State) (n : LaneNo) (b : BatonId) (r : Req), findReq s b = some r → r.take = 0 → r.missNow = 0 →
    (∀ tok, r.draw = some (some tok) → ringBlocked r.strm = false →
      ∃ r', findReq (commitMember s n b) b = some r' ∧ r'.log = r.log ++ [logWord tok 1] ∧ r'.done = r.log.length ∧
        r'.samp.counter = r.samp.counter + 1 ∧ r'.samp.drawn = r.samp.drawn + 1 ∧ r'.draw = none) ∧
    (r.draw = some none →
      ∃ r', findReq (commitMember s n b) b = some r' ∧ r'.log = r.log ∧ r'.endReason = reasonNoCandidate ∧ r'.parkNext = true ∧
        (commitMember s n b).jdg.noCand = satInc s.jdg.noCand) ∧
    (∀ tok, r.draw = some (some tok) → ringBlocked r.strm = true →
      ∃ r', findReq (commitMember s n b) b = some r' ∧ r'.log = r.log ∧ r'.samp.counter = r.samp.counter ∧
        (commitMember s n b).srg.ringFull = satInc s.srg.ringFull) ∧
    (r.draw = none → ∃ r', findReq (commitMember s n b) b = some r' ∧ r'.log = r.log ∧ r'.samp.counter = r.samp.counter)

/-- R100, R108, R111, R112 and R248: a slot whose predecessors, cores and streamed half are ready, none of lower index being ready,
starts, and its kernel runs; a streamed one that starts lets the next one's weights load into the other half. A running slot whose
work is done completes, takes one from the pending count of every slot that names it, and past its BUDGET counts a soft overrun. A full
half holds the slot that loads with its HBM_RD bytes. R146 and R150 to R153: while a slot with logits of the request runs and it takes a draw,
Judge's return is the draw of the sampling order from the logits, kept for the commit point; NaN logits are counted. -/
def Obligations.SlotsAndDraws : Prop :=
  (∀ (s : State) (n : LaneNo) (i : Nat) (x : Slot) (r : SlotRun), slotAt (laneOf s n) i = some (x, r) → lapOpen s (laneOf s n) = true →
     (∀ ws, slotReady (laneOf s n) i x r = true → firstReady (laneOf s n) i = true →
       ∃ u, exec (.slotStart n i ws) s = .next (settleLane (runSlot u n i x ws) n) ∧
       (laneOf u n).st.slots[i]? = some { r with phase := .running, startAt := s.clk.now } ∧
       (∀ j, j ≠ i → (laneOf u n).st.slots[j]? = (laneOf s n).st.slots[j]?) ∧
       (x.stream = true → ∀ t, fgTable (laneOf s n) = some t → (laneOf u n).st.win = {
         loading := streamFrom (laneOf s n) t (i + 1), next := (laneOf s n).st.win.next + 1
         halves := vset (laneOf s n).st.win.halves ((laneOf s n).st.win.next + 1) none }) ∧
       (∀ k, k ≠ n → laneOf u k = laneOf s k) ∧ u.mem = s.mem ∧ u.out = s.out) ∧
     (∀ ws, (slotReady (laneOf s n) i x r = false ∨ firstReady (laneOf s n) i = false) → exec (.slotStart n i ws) s = .next s) ∧
     (∀ cycles, r.phase = .running → slotDone s n i x r cycles = true →
       ∃ u, exec (.slotComplete n i cycles none) s = .next (slotEnd u n x) ∧
         (∀ src, exec (.slotComplete n i cycles (some src)) s = .next
           (if x.budget.toNat < cycles ∧ x.type = tExchange then lateSource (slotEnd u n x) src else slotEnd u n x)) ∧
         ((laneOf u n).st.slots[i]?).map (·.phase) = some .complete ∧
         (laneOf u n).st.soft = (if x.budget.toNat < cycles then satInc (laneOf s n).st.soft else (laneOf s n).st.soft) ∧
         (∀ t j y z, fgTable (laneOf s n) = some t → t.slots[j]? = some y → (laneOf s n).st.slots[j]? = some z → j ≠ i →
           (laneOf u n).st.slots[j]? = some
             (if y.deps.contains (BitVec.ofNat 10 i) then { z with pending := z.pending - 1 } else z)) ∧
         (∀ k, k ≠ n → laneOf u k = laneOf s k) ∧ u.mem = s.mem ∧ u.reqs = s.reqs) ∧
     (∀ cycles src, (r.phase ≠ .running ∨ slotDone s n i x r cycles = false) → exec (.slotComplete n i cycles src) s = .next s) ∧
     (∀ t j y, fgTable (laneOf s n) = some t → (laneOf s n).st.win.loading = some j → t.slots[j]? = some y →
       exec (.weightHalfFull n) s = .next (setLane s n { laneOf s n with st := { (laneOf s n).st with
         win := { (laneOf s n).st.win with
           loading := none, halves := vset (laneOf s n).st.win.halves (laneOf s n).st.win.next (some (j, y.hbmRd.toNat * 4096)) } } }))) ∧
  (∀ (s : State) (n : LaneNo) (b : BatonId) (xs : List F32) (r : Req), findReq s b = some r → r.logits = some xs →
     lapOpen s (laneOf s n) = true → r.lane = some n → sampling (laneOf s n) b = true → drawsNow (laneOf s n) r = true →
     r.draw = none → s.sta.blockHeld.getLsbD 0 = false →
     let d := sampleToken r.samp.settings (drawCounts (laneOf s n) r) r.samp.patterns r.samp.counter xs
     exec (.judgeReturn n b) s = .next { (modReq s b fun q => { q with draw := some d }) with
       jdg := { s.jdg with nanCnt := satAdd s.jdg.nanCnt (nanLogits xs) } })

/-- R93, R95, R112, R334 and R338: an edge on LAP_SYNC sets LST's OFFSET of a follower, and the boundary of one that follows
LAP_SYNC; three lost edges raise SYNC_LOST and go to PTP or free running, three good ones go back to LAP_SYNC; a straggler
past LIMIT is reported no more than once a second. -/
def Obligations.LapAlignment : Prop :=
  ∀ s : State,
    (∀ off : Int, s.lap.leader = false → s.lap.running = true → ∃ t, exec (.lapSyncEdge off) s = .next t ∧
      t.lap.offset = offsetField off ∧
      t.lap.boundaryAt = (if s.lap.source = 1 ∧ -2000 ≤ off ∧ off ≤ 2000 then (Int.ofNat s.lap.boundaryAt - off).toNat
        else s.lap.boundaryAt) ∧ t.lap.count = s.lap.count ∧ { t with lap := s.lap } = s) ∧
    (s.lap.leader = false → s.lap.running = true → s.lap.source = 1 →
      ∃ t, exec .syncLost s = .next t ∧ t.lap = { s.lap with syncLost := true, source := if s.clk.ptpLock then 2 else 0 } ∧
        t.glb.evt.getLsbD 7 = true ∧ t.mem = s.mem ∧ t.lanes = s.lanes) ∧
    (s.lap.leader = false → s.lap.running = true → s.lap.source ≠ 1 →
      exec .syncRegained s = .next { s with lap := { s.lap with source := 1 } }) ∧
    (∀ d : DevId, s.mar.stragLimit.toNat < lateCount s d → marHeld s = false →
      (∀ t, tblGet s.mar.reportedAt d.toNat = some t → t + 1000000000 ≤ s.clk.now) →
      exec (.stragglerReport d) s = .next (marLog { s with mar := { s.mar with
        reportedAt := tblSet s.mar.reportedAt d.toNat s.clk.now } } evStraggler 0xF d 0xFF (lo32 (lateCount s d)))) ∧
    (∀ d : DevId, (lateCount s d ≤ s.mar.stragLimit.toNat ∨
      ∃ t, tblGet s.mar.reportedAt d.toNat = some t ∧ s.clk.now < t + 1000000000) → exec (.stragglerReport d) s = .next s)

/-- R109, R113, R114 and R333: a replacement table is written to the background copy of a lane that may take it, or refused;
when written it is held to the fit test of the plan in force, and at its deadline without a swap it is refused with
TABLE_LATE; a variant whose bytes have all landed becomes ready under the right digest, and ends its command with REFUSED under
another. The table that runs is never changed by any of them. -/
def Obligations.TableReplacement : Prop :=
  ∀ (s : State) (n : LaneNo),
    (∀ t a d, mplHeld s = false → (laneOf s n).ctl ≠ .retired → (laneOf s n).ctl ≠ .unassigned → (laneOf s n).tables.repl = none →
      a.toNat ≤ d.toNat → exec (.lapTableReplacement n t a d) s = .next (setLane s n { laneOf s n with
        tables := { setBgTable (laneOf s n).tables (some t) with repl := some ⟨a, d, false⟩ } }) ∧
      (∀ u, exec (.lapTableReplacement n t a d) s = .next u → fgTable (laneOf u n) = fgTable (laneOf s n) ∧
        bgTable (laneOf u n) = some t)) ∧
    (∀ t a d, ((laneOf s n).ctl = .retired ∨ (laneOf s n).ctl = .unassigned ∨ (laneOf s n).tables.repl ≠ none) →
      exec (.lapTableReplacement n t a d) s = .next (emit s (.replacement n .refused))) ∧
    (∀ r t p, (laneOf s n).tables.repl = some r → r.ready = false → bgTable (laneOf s n) = some t → s.mpl.current = some p →
      ∃ u, exec (.lapTableReady n) s = .next u ∧ fgTable (laneOf u n) = fgTable (laneOf s n) ∧
        (laneOf u n).tables.repl = (if fitTest (fitEnv p n) t = 0 then some { r with ready := true } else none) ∧
        (fitTest (fitEnv p n) t ≠ 0 → (laneOf u n).tables.reason = fitTest (fitEnv p n) t) ∧ u.mem = s.mem ∧ u.reqs = s.reqs) ∧
    (∀ r, (laneOf s n).tables.repl = some r → r.deadlineLap.toNat ≤ s.lap.count.toNat →
      ∃ u, exec (.lapTableLate n) s = .next u ∧ (laneOf u n).tables.repl = none ∧ (laneOf u n).tables.late = true ∧
        fgTable (laneOf u n) = fgTable (laneOf s n) ∧ u.glb.evt.getLsbD 2 = true ∧ u.mem = s.mem ∧ u.reqs = s.reqs) ∧
    (∀ h i m d, (laneOf s n).stagingCmd = some (h, i) → (laneOf s n).variantReady = none → variantModel s n i = some m →
      (stagedAll s (laneOf s n) m = false → exec (.variantLanded n d) s = .next s) ∧
      (stagedAll s (laneOf s n) m = true → m.weightDigest = d →
        exec (.variantLanded n d) s = .next (modLane s n fun l => { l with variantReady := some i })) ∧
      (stagedAll s (laneOf s n) m = true → m.weightDigest ≠ d → exec (.variantLanded n d) s =
        .next (complete (modLane s n fun l => { l with stagingCmd := none }) h 0x24 .refused)))

/-! ### Pages and holding (R139 to R144, R199, R441) -/

/-- R139, R140, R141, R144, R199 and R441: a copied page has its bytes on the port and COPY set; a fetched page lies in its
slots, SEALED; a late rebuild of a heat directory is abandoned with the copy in use unchanged; a baton whose directory entry
and pages are in place becomes resident and joins the queue; one held HOLD_LIMIT laps is to park with HELD_NO_PAGE; one that waited
HANDOFF_WAIT laps begins to park. -/
def Obligations.PageEvents : Prop :=
  ∀ (s : State) (b : BatonId) (r : Req) (n : LaneNo), findReq s b = some r → r.lane = some n →
    (∀ (layer : BitVec 10) (index : BitVec 16) e p a u, findPage r kPage layer.toNat index.toNat = some e → e.state = pSealed →
      e.copy = false → kvFlag (laneOf s n) 2 = true → tierPlace s r (packed (entImage s r e).length) = some (p, a, u) →
      ∃ t r', exec (.capCopyDone b layer index) s = .next t ∧
        t.mem = { s.mem with cap := vmod s.mem.cap p fun m => memStore m a (entImage s r e) } ∧
        findReq t b = some r' ∧ r'.capPort = some p ∧ (findPage r' kPage layer.toNat index.toNat).map (·.copy) = some true ∧
        (findPage r' kPage layer.toNat index.toNat).map (·.tierAddr) = some a ∧ t.lanes = s.lanes ∧ r'.log = r.log) ∧
    (∀ (layer : BitVec 10) (index : BitVec 16) e p m g, findPage r kPage layer.toNat index.toNat = some e → e.state = pFar →
      e.slots ≠ [] → r.capPort = some p → modelOf s r.model = some m → capUp (s.cap.ports.get p) = true →
      headFetch s p = some g → isFetch b layer.toNat index.toNat g = true → (laneOf s n).ctl ≠ .retired →
      ∃ t r', exec (.pageFetchDone b layer index) s = .next t ∧
        t.mem.stack.get n = storeImage (s.mem.stack.get n) (laneOf s n) e.slots 0 (memBytes (s.mem.cap.get p) e.tierAddr
          (itemBytes m (slotBytes (laneOf s n)) kPage pSealed 0)) ∧
        (∀ k, k ≠ n → t.mem.stack.get k = s.mem.stack.get k) ∧ t.mem.cap = s.mem.cap ∧ t.mem.data = s.mem.data ∧
        findReq t b = some r' ∧ (findPage r' kPage layer.toNat index.toNat).map (·.state) = some pSealed ∧ r'.log = r.log ∧
        (laneOf t n).kv.fetchCnt = satInc (laneOf s n).kv.fetchCnt) ∧
    (∀ start, (laneOf s n).kv.dirStart = some start → 4 ≤ dirAge s start →
      (dirReady s (laneOf s n).kv start = false ∨ 4 < dirAge s start) →
      ∃ t, exec (.heatDirLate n) s = .next t ∧ (laneOf t n).kv.dirStart = none ∧ (laneOf t n).kv.dirLate = true ∧
        fgDir (laneOf t n).kv = fgDir (laneOf s n).kv ∧ t.glb.evt.getLsbD 3 = true ∧ t.reqs = s.reqs ∧ t.mem = s.mem) ∧
    (arrived s r n = true → residentOk s r n = true → ∃ t r', exec (.batonResident b) s = .next t ∧ findReq t b = some r' ∧
      r'.resident = true ∧ r'.residentAt = s.clk.now ∧
      (laneOf t n).st.joinQ = insertJoin (s.lap.count, b) (laneOf s n).st.joinQ ∧ t.mem = s.mem) ∧
    (holdLimit s ≤ r.held → r.parkNext = false → r.lost = none → (r.phase = .generation ∨ r.phase = .prompt) →
      ∃ t r', exec (.holdLimitPark b) s = .next t ∧ findReq t b = some r' ∧ r'.parkNext = true ∧ r'.parkWhy = .heldNoPage ∧
        r'.held = 0 ∧ r'.log = r.log ∧ (laneOf t n).kv.holdParkCnt = satInc (laneOf s n).kv.holdParkCnt ∧ t.mem = s.mem) ∧
    (r.phase = .handoff → inLeg s b = false → handoffLimit s ≤ r.handoffWait → r.parkNext = false →
      exec (.handoffWaitExpired b) s = .next (parkRequest s b))

/-! ### Failures (R328 to R333) -/

/-- R34 to R36 and R330: a core found failed is recorded in its fuse and in MAR_DIE_SPARE; one already recorded, or past core
73, changes nothing; a core that does not stop at the commit point is the core at that position of the lane's map. R331 and
R332: an uncorrectable error counts, loses a lap under way, and lists its row; a failed steward retires its lane, whose stack stays
open where it is trained, a failed controller retires it with the stack closed, a failed die link retires each lane of the die so; a
second cause does not replace the first. -/
def Obligations.CoreAndLaneFailures : Prop :=
  (∀ (s : State) (d : Fin 4) (core : Nat),
     ((74 ≤ core ∨ (s.fus.coreFailed.get d).getLsbD core = true) → exec (.coreFailure d core) s = .next s) ∧
     (core < 74 → (s.fus.coreFailed.get d).getLsbD core = false → ∃ t, exec (.coreFailure d core) s = .next t ∧
       (t.fus.coreFailed.get d).getLsbD core = true ∧
       (∀ k, (s.fus.coreFailed.get d).getLsbD k = true → (t.fus.coreFailed.get d).getLsbD k = true) ∧
       (∀ k, k ≠ d → t.fus.coreFailed.get k = s.fus.coreFailed.get k) ∧
       t.mar.lastFailed.get d = BitVec.ofNat 8 core) ∧
     (∀ (n : LaneNo) (i : Fin 24), exec (.coreStopTimeout n i) s =
       exec (.coreFailure (dieOf n) ((laneOf s n).cores.get i).core.toNat) s)) ∧
  (∀ (s : State) (n : LaneNo),
     (∀ bank row, (laneOf s n).hbc.rows.length < 64 →
       (∀ r ∈ (laneOf s n).hbc.rows, ¬(r.bank = bank ∧ r.row = row)) → ∃ t, exec (.hbmUncorrectable n bank row) s = .next t ∧
       (laneOf t n).hbc.eccUe = satInc (laneOf s n).hbc.eccUe ∧
       (laneOf t n).hbc.rows = (laneOf s n).hbc.rows ++ [⟨bank, row, s.lap.count⟩] ∧
       ((laneOf s n).st.slots ≠ [] → (laneOf t n).st.lapLost = true) ∧ t.mem = s.mem ∧ t.reqs = s.reqs) ∧
     ((laneOf s n).ctl ≠ .retired → ∃ t, exec (.stewardFault n) s = .next t ∧ (laneOf t n).ctl = .retired ∧
       (laneOf t n).cause = 0x02 ∧ (laneOf t n).dataOpen = (laneOf s n).hbc.trained ∧ t.glb.evt.getLsbD 0 = true) ∧
     ((laneOf s n).ctl = .retired → exec (.stewardFault n) s = .next s) ∧
     ((laneOf s n).ctl ≠ .retired → ∃ t, exec (.hbcFault n) s = .next t ∧ (laneOf t n).ctl = .retired ∧
       (laneOf t n).cause = 0x03 ∧ (laneOf t n).dataOpen = false ∧ t.glb.evt.getLsbD 0 = true) ∧
     ((laneOf s n).ctl = .retired → ∃ t, exec (.hbcFault n) s = .next t ∧ (laneOf t n).ctl = .retired ∧
       (laneOf t n).cause = (laneOf s n).cause ∧ (laneOf t n).dataOpen = false) ∧
     (∃ t, exec (.dieLinkFault (dieOf n)) s = .next t ∧ ∀ k, dieOf k = dieOf n → (laneOf t k).ctl = .retired ∧
       (laneOf t k).dataOpen = false))

/-! ### Legs (R180 to R203, R206 to R208) -/

/-- R180, R195 and R199: a request to open a leg from another device that no lane takes is answered with LEG_ABORT, REFUSED; the one
that its lane takes has an entry OPENED at the target, with a place for every item and with control clearance, and its batons take
their places in the heat directory where they need one; a request of this device opens a local leg. R183, R197 and R198: inside the
device a sound control part is taken off the leg's list; one that fails its CRC is counted and requested again, and the third failure
of a part aborts the leg; a part for no leg is counted as late; one from another device joins its part. -/
def Obligations.LegOpening : Prop :=
  (∀ (s : State) (f : Frame) (r : LegReq) (x : SysRx), RunsSystem s f opLegCtl x → r.ask = .opens →
     let u := sysTaken s f x
     let q := { r with src := (parseHdr s f).src }
     exec (.legRequest (some f) r) s = .next (sysEnd s f x (inboundOpen u q)) ∧
     (q.type ≠ legResume → (inboundModel u q.dstLane q.digest = none ∨ inboundSound u q q.dstLane = false) →
       inboundOpen u q = refuseAsk u q.src q.entry (q.batons.headD 0) .refused) ∧
     (∀ m v i, q.type ≠ legResume → inboundModel u q.dstLane q.digest = some m → inboundSound u q q.dstLane = true →
       itemsOk m q.items = true →
       let dirs := if (laneOf u q.dstLane).role == roleGen && m.retrieve != 0 then q.batons.length else 0
       acceptLeg u ⟨q.type, false, q.src, some q.entry, q.srcLane, q.dstLane, q.batons, q.lead, q.items, q.states, none,
         inboundTier q, dirs⟩ m = (v, some i) →
       ∃ g, v.btn.legs.find? (fun y => y.index == i) = some g ∧ g.state = .opened ∧ g.atTarget = true ∧ g.localLeg = false ∧
         g.type = q.type ∧ g.peer = q.src ∧ g.peerId = some q.entry ∧ g.batons = q.batons ∧
         g.partsLeft = legParts q.type q.lead q.batons.length ∧ g.pages.map (·.item) = q.items ∧
         inboundOpen u q = if dirs = 0 then v else q.batons.foldl (fun s b => dirChange s q.dstLane true b) v)) ∧
  (∀ (s : State) (r : LegReq) (b : BatonId), r.ask = .opens → r.batons = [b] →
     exec (.legRequest none r) s = .next (openLocal s r.type b r.dstLane).1) ∧
  (∀ (s : State) (l : LegId) (p : CtlKind) (bs : List Byte),
     (findLeg s l = none → exec (.legControlPartRx (.here l p bs)) s = .next (lateDrop s)) ∧
     (∀ g b r, findLeg s l = some g → g.atTarget = true → g.localLeg = true → (g.state = .opened ∨ g.state = .clearing) →
       g.ctlBlocks ≠ 0 → g.partsLeft.contains (partNum 0 p) = true → g.batons.head? = some b → findReq s b = some r →
       (crc32c bs = crc32c (ctlBytes s r p) → exec (.legControlPartRx (.here l p bs)) s =
         .next (partsDone (modLeg s g.index fun g => { g with
           partsLeft := g.partsLeft.filter (· != partNum 0 p), partBytes := g.partBytes ++ [(partNum 0 p, partBody g (partNum 0 p) bs)]
           partRx := g.partRx.filter fun x => x.part != partNum 0 p }) g.index)) ∧
       (crc32c bs ≠ crc32c (ctlBytes s r p) → 2 ≤ failsOf g (partNum 0 p) → exec (.legControlPartRx (.here l p bs)) s =
         .next (abortLeg { s with btn := { s.btn with crcFail := satInc s.btn.crcFail } } g .discarded true)) ∧
       (crc32c bs ≠ crc32c (ctlBytes s r p) → failsOf g (partNum 0 p) < 2 → ∃ t, exec (.legControlPartRx (.here l p bs)) s = .next t ∧
         t.btn.crcFail = satInc s.btn.crcFail ∧ t.btn.legs.length = s.btn.legs.length ∧ t.mem = s.mem ∧ t.reqs = s.reqs))) ∧
  (∀ (s : State) (f : Frame) (x : SysRx), RunsSystem s f opLegCtl x →
     let u := sysTaken s f x
     let pn := (f.addr.extractLsb' 32 32).toNat
     (findLeg u (f.aux.setWidth 28) = none →
       exec (.legControlPartRx (.track f)) s = .next (sysEnd s f x (lateDrop u))) ∧
     (∀ g, findLeg u (f.aux.setWidth 28) = some g → g.atTarget = true → g.localLeg = false → g.peer = (parseHdr s f).src →
       (g.state = .opened ∨ g.state = .clearing) → g.ctlBlocks ≠ 0 → g.partsLeft.contains pn = true →
       exec (.legControlPartRx (.track f)) s = .next (sysEnd s f x
         (takeChunk u g pn (f.addr.extractLsb' 0 32).toNat ((parseHdr s f).flags.getLsbD 1) f.payload))))

/-- R187 to R193 and R197: a source takes a CLEAR that names its leg; a data clearance lets it send the pages that it covers, in order,
and after the last, with no part left, it is RELEASING. A page frame's bytes land at their offset in the exchange zone and nowhere
else, and one for no leg is counted as late; a sound whole page is written into its space and counts as written; one whose header
fails is counted and its leg aborts. -/
def Obligations.LegPages : Prop :=
  (∀ (s : State) (f : Frame) (x : SysRx) (g : Leg), RunsSystem s f opLegCtl x →
     let u := sysTaken s f x
     findSource u f = some g → msgKind f = some msgClear → (g.state = .sending ∨ g.state = .releasing) →
     exec (.clearRx f) s = .next (sysEnd s f x (takeClear u f g)) ∧
     (u.btn.legs.find? (fun y => y.index == g.index) = some g → msgWord f 0 = 1 → g.state = .sending →
       let k := min (msgWord f 1).toNat (g.pages.length - g.sent)
       ∃ y, (takeClear u f g).btn.legs.find? (fun y => y.index == g.index) = some y ∧ y.sent = g.sent + k ∧
         y.peerId = some (f.aux.setWidth 28) ∧ (takeClear u f g).mem = s.mem ∧ (takeClear u f g).reqs = s.reqs ∧
         (g.sent + k = g.pages.length → g.partsLeft = [] → swapHeld u g = false → y.state = .releasing))) ∧
  (∀ (s : State) (f : Frame) (x : SysRx), RunsSystem s f opLegPage x →
     let u := sysTaken s f x
     let k := (f.addr.extractLsb' 32 32).toNat
     let off := (f.addr.extractLsb' 0 32).toNat
     (findLeg u (f.aux.setWidth 28) = none → exec (.legPageRx f) s = .next (sysEnd s f x (lateDrop u))) ∧
     (∀ g p, findLeg u (f.aux.setWidth 28) = some g → g.atTarget = true → g.localLeg = false → g.peer = (parseHdr s f).src →
       g.state = .clearing → g.pages[k]? = some p → p.cleared = true → p.written = false →
       off + f.payload.length ≤ 32 + p.item.bytes →
       ∃ t, exec (.legPageRx f) s = .next t ∧ t.mem = { s.mem with xz := memStore s.mem.xz (xzKey g.index k off) f.payload } ∧
         t.reqs = s.reqs ∧ t.lanes = s.lanes)) ∧
  (∀ (s : State) (l : LegId) (g : Leg) (k : Nat) (p : LegPage) (h : PageHdr), findLeg s l = some g → g.pages[k]? = some p →
     pageArrived s g k p h = true →
     (hdrSound l k p.item h = true → exec (.xzPageWritten l k h) s = .next (pageDone (writeImage s g k p) g k)) ∧
     (hdrSound l k p.item h = false → ∃ t, exec (.xzPageWritten l k h) s = .next (abortLeg t g .falseStart true) ∧
       t.xz.hdrBad = satInc s.xz.hdrBad ∧ t.mem = s.mem ∧ t.reqs = s.reqs ∧ t.btn = s.btn ∧ t.lanes = s.lanes))

/-- R184 and R196: LEG_COMMIT at a RELEASING source removes its batons from this device and is void elsewhere; LEG_ABORT ends the leg
that it names, at its source or its target, with its code; a target whose clearance is not filled in time ends STALLED and counts it; a
SENDING source ends STALLED, and a RELEASING one never by a timer. An abort changes no byte of any memory but the leg's own in the
exchange zone. -/
def Obligations.LegEnds : Prop :=
  (∀ (s : State) (f : Frame) (x : SysRx), RunsSystem s f opLegCtl x →
     let u := sysTaken s f x
     (∀ g, findSource u f = some g → msgKind f = some msgCommit → g.state = .releasing → ∃ t, exec (.legCommitRx f) s = .next t ∧
       t = sysEnd s f x (swapEnd (g.batons.foldl (leaveDevice g.peer) (dropLeg u g.index))) ∧
       (∀ b ∈ g.batons, findReq t b = none) ∧ t.mem = s.mem) ∧
     (∀ g, findSource u f = some g → g.state ≠ .releasing → exec (.legCommitRx f) s = .next (sysEnd s f x u)) ∧
     (findSource u f = none → exec (.legCommitRx f) s = .next (sysEnd s f x (lateDrop u))) ∧
     (∀ g, findSource u f = some g → msgKind f = some msgAbort → exec (.legAbortRx f) s =
       .next (sysEnd s f x (abortLeg u g (finishOfByte ((msgWord f 0).setWidth 8)) false))) ∧
     (∀ g, findSource u f = none → findTarget u f = some g → msgKind f = some msgAbort → exec (.legAbortRx f) s =
       .next (sysEnd s f x (abortLeg u g (finishOfByte ((msgWord f 0).setWidth 8)) false)))) ∧
  (∀ (s : State) (l : LegId) (g : Leg), findLeg s l = some g →
     (g.atTarget = true → g.state = .clearing →
       (g.pages.any fun p => p.cleared && decide (p.arrived < 32 + p.item.bytes)) = true →
       exec (.legIdleTimeout l) s = .next
         (abortLeg { s with btn := { s.btn with stallCnt := satInc s.btn.stallCnt } } g .stalled true)) ∧
     (g.atTarget = false → g.state = .sending → exec (.legSourceTimeout l) s = .next (abortLeg s g .stalled true)) ∧
     (g.atTarget = false → g.state = .releasing → exec (.legSourceTimeout l) s = .next s) ∧
     (∀ code tell, { (abortLeg s g code tell).mem with xz := s.mem.xz } = s.mem ∧
       ∀ a, (a < xzKey g.index 0 0 ∨ xzKey (g.index + 1) 0 0 ≤ a) →
         memRead (abortLeg s g code tell).mem.xz a = memRead s.mem.xz a))

/-- R201 to R203, R207 and R208: a SPILL that ends leaves its baton at rest with its pages in the tier; a RECALL that ends opens the
RESUME, or the resume is refused and the baton stays at rest, and an audit's RECALL is followed by the leg of its replay; a scrub
rewrites what some copy can restore, counts a baton whose control part no copy holds as lost, and no request in motion is scrubbed. An
audit whose replay has not reached TO goes on; one that has compares the replay's images with the stored ones, reports AUDIT_MISMATCH
with the first page that differs exactly where some differ, and changes no memory unless it repairs. -/
def Obligations.BatonsAtRest : Prop :=
  ∀ (s : State) (b : BatonId) (r : Req), findReq s b = some r →
    (∀ g t m, legOf s legSpill b = some g → g.tier = some t → modelOf s r.model = some m → r.pulledBy = none →
      ∃ u r', exec (.spillDone b) s = .next u ∧ findReq u b = some r' ∧ r'.phase = (if r.endReason = 0 then .parked else .ended) ∧
        r'.capPort = some t.1 ∧ r'.copies = restCopies s r ∧ (∀ e ∈ r'.pages, e.copy = true ∨ e.state = pFar) ∧ r'.log = r.log ∧
        (∀ k, k ≠ t.1 → u.mem.cap.get k = s.mem.cap.get k) ∧ u.mem.stack = s.mem.stack ∧ u.mem.data = s.mem.data) ∧
    (∀ g, legOf s legSpill b = some g → exec (.spillDone b) s = .next (serveWaiting (spillCommit s b g) b)) ∧
    (∀ g q u, legOf s legRecall b = some g → g.replay = false → findReq (recallLand s g b) b = some q → q.pulledBy = none →
      (tryResumeLanes (recallLand s g b) b (resumeLanes (recallLand s g b) q) = (u, true) → exec (.recallDone b) s = .next u) ∧
      (tryResumeLanes (recallLand s g b) b (resumeLanes (recallLand s g b) q) = (u, false) →
        exec (.recallDone b) s = .next (resumeFails u b .refused))) ∧
    (∀ g, legOf s legRecall b = some g → g.replay = true → exec (.recallDone b) s = .next (openReplayLeg (dropLeg s g.index) b)) ∧
    ((r.phase = .parked ∨ r.phase = .ended) → ∃ u r', exec (.controlScrub b) s = .next u ∧ findReq u b = some r' ∧
      (copiesHold r.copies = true → (∀ c ∈ r'.copies, goodCopy c = true) ∧ r'.lost = r.lost) ∧
      (copiesHold r.copies = false → r.lost = none → r'.lost = some .control ∧ u.btn.ctlLost = satInc s.btn.ctlLost) ∧
      u.mem = s.mem ∧ u.lanes = s.lanes) ∧
    (r.phase ≠ .parked → r.phase ≠ .ended → exec (.controlScrub b) s = .next s) ∧
    (∀ a q m, r.audit = some a → s.btn.replays.find? (fun q => q.id == b) = some q → modelOf s r.model = some m →
      (q.done < a.toPos.toNat → exec (.auditDone b) s = .next s) ∧
      (a.toPos.toNat ≤ q.done →
        let ps := comparedPages m r q a
        let bad := ps.filter fun p =>
          scratchImage s a.lane p.1 (comparedBytes m p.1 a.toPos.toNat) != storedImage s r p.2 (comparedBytes m p.1 a.toPos.toNat)
        ∃ u r', exec (.auditDone b) s = .next (completeB u a.cmd 0x07 (if bad.isEmpty then .ok else .auditMismatch) 0
            ([lo32 ps.length, lo32 bad.length] ++
              match bad with | p :: _ => [p.1.layer.setWidth 32, p.1.index.setWidth 32] | [] => [0, 0])) ∧
          findReq u b = some r' ∧ r'.audit = none ∧ r'.auditFail = (r.auditFail || !bad.isEmpty) ∧ r'.pages = r.pages ∧
          r'.log = r.log ∧ u.btn.auditMismatch = (if bad.isEmpty then s.btn.auditMismatch else satInc s.btn.auditMismatch) ∧
          (∀ q ∈ u.btn.replays, q.id ≠ b) ∧ ((a.repair = false ∨ bad = []) → u.mem = s.mem)))

/-! ### Track frames (R225 to R257) -/

/-- R215, R227 and R234: a WRITE that passes the checks stores its payload at its target address, byte for byte; every other
byte of every memory, every request, lane and plan stays, and of a region's entry at most the last use of its pages and their copies
change; the channel takes its PSN. -/
def Obligations.WriteStoresItsPayload : Prop :=
  ∀ (s : State) (f : Frame) (x : RxCtx), RunsRequest s f opWrite x →
    ∃ t, exec (.write f) s = .next t ∧
      (∀ i (h : i < f.payload.length), memRead t.mem.data (targetAddr s f + i) = f.payload[i]) ∧
      (∀ a, (∀ i, i < f.payload.length → a ≠ targetAddr s f + i) → memRead t.mem.data a = memRead s.mem.data a) ∧
      t.mem = { s.mem with data := memStore s.mem.data (targetAddr s f) f.payload } ∧
      (getRx t (parseHdr s f).dstCh.toNat).map (·.expected) = some (takePsn x.expected x.got (parseHdr s f).psn).1 ∧
      t.reqs = s.reqs ∧ t.lanes = s.lanes ∧ t.mpl = s.mpl ∧ t.te.sqs = s.te.sqs ∧ t.te.rqs = s.te.rqs ∧
      t.te.regions = s.te.regions.map (fun g => (g.1, touchRegion s (targetAddr s f) f.payload.length g.2)) ∧
      t.out = (taken s f).out

/-- R227 and R228: an atomic replaces the 8 bytes at its target by the new value and leaves every other byte; FETCH_ADD and
CMP_SWAP also record the old value under their PSN; a READ_REQ changes no memory, and sends the bytes it names. -/
def Obligations.ReadsAndAtomics : Prop :=
  ∀ (s : State) (f : Frame) (x : RxCtx),
    let n := (parseHdr s f).dstCh.toNat
    let old := memU64 s.mem.data (targetAddr s f)
    let swapped := if old = operand f.payload 0 then operand f.payload 8 else old
    (RunsRequest s f opAtomicAdd x → ∃ t, exec (.atomicAdd f) s = .next t ∧
      t.mem = { s.mem with data := memStore s.mem.data (targetAddr s f) (u64Bytes (old + operand f.payload 0)) } ∧
      (getRx t n).map (·.atoms) = some x.atoms ∧ t.reqs = s.reqs ∧ t.lanes = s.lanes ∧ t.te.sqs = s.te.sqs ∧ t.out = (taken s f).out) ∧
    (RunsRequest s f opFetchAdd x → ∃ t, exec (.fetchAdd f) s = .next t ∧
      t.mem = { s.mem with data := memStore s.mem.data (targetAddr s f) (u64Bytes (old + operand f.payload 0)) } ∧
      (getRx t n).map (·.atoms) = some ((x.atoms ++ [((parseHdr s f).psn, old)]).drop (x.atoms.length + 1 - 256)) ∧
      t.reqs = s.reqs ∧ t.lanes = s.lanes ∧ t.te.sqs = s.te.sqs ∧ t.out = (taken s f).out) ∧
    (RunsRequest s f opCmpSwap x → ∃ t, exec (.cmpSwap f) s = .next t ∧
      t.mem = { s.mem with data := memStore s.mem.data (targetAddr s f) (u64Bytes swapped) } ∧
      (getRx t n).map (·.atoms) = some ((x.atoms ++ [((parseHdr s f).psn, old)]).drop (x.atoms.length + 1 - 256)) ∧
      t.reqs = s.reqs ∧ t.lanes = s.lanes ∧ t.te.sqs = s.te.sqs ∧ t.out = (taken s f).out) ∧
    (RunsRequest s f opReadReq x → (parseHdr s f).flags.getLsbD 3 = false → ∃ t u, exec (.readReq f) s = .next t ∧
      u.mem = s.mem ∧ (t = sendRead u n (parseHdr s f) (targetAddr s f) f.aux.toNat ∨
        t = ackCtx (sendRead u n (parseHdr s f) (targetAddr s f) f.aux.toNat) n) ∧ t.mem = s.mem ∧ t.reqs = s.reqs ∧
      t.lanes = s.lanes ∧ t.out = (taken s f).out) ∧
    (RunsRequest s f opReadReq x → ∃ t, exec (.readReq f) s = .next t ∧ t.mem = s.mem ∧
      (getRx t n).map (·.expected) = some (takePsn x.expected x.got (parseHdr s f).psn).1)

/-- R249 to R252: a SEND frame whose message may claim buffers puts its bytes there and nowhere else; where the ring runs dry
the message is abandoned, the ring emptied and the count raised, with no byte stored. -/
def Obligations.SendsFillBuffers : Prop :=
  ∀ (s : State) (f : Frame) (x : RxCtx) (r : RecvQ), RunsRequest s f opSend x → tblGet s.te.rqs x.queue = some r →
    f.aux = r.nextMsg → tblGet r.dropped f.aux.toNat = none →
    let off := (f.addr.extractLsb' 0 32).toNat
    let msg := getMsg r f.aux
    (∀ bufs ring, claim (off + f.payload.length) msg.bufs r.bufs = some (bufs, ring) →
      ∃ t, exec (.send f) s = .next t ∧ t.mem = (placeMsg s x.tenant bufs
          (msg.written ++ List.replicate (bufs.length - msg.written.length) 0) off f.payload).1.mem ∧
        (tblGet t.te.rqs x.queue).map (·.bufs) = some ring ∧ t.reqs = s.reqs ∧ t.lanes = s.lanes ∧ t.te.sqs = s.te.sqs) ∧
    (claim (off + f.payload.length) msg.bufs r.bufs = none →
      ∃ t, exec (.send f) s = .next t ∧ t.mem = s.mem ∧ (tblGet t.te.rqs x.queue).map (·.bufs) = some [] ∧
        t.te.cnt.rxAbandon = satInc s.te.cnt.rxAbandon ∧ t.reqs = s.reqs ∧ t.lanes = s.lanes ∧ t.te.sqs = s.te.sqs)

/-- R228, R232, R234, R255 and R256: a request of any kind that fails a check is a false start or a NACK with its code and nothing of
it executes; a WRITE or ATOMIC_ADD or SEND whose PSN was taken before is only acknowledged again; a PSN past the window fails a
check. -/
def Obligations.BadRequestsDoNothing : Prop :=
  (∀ (s : State) (f : Frame), Arrives s f →
    ∀ p ∈ [(opWrite, Instr.write f), (opReadReq, Instr.readReq f), (opAtomicAdd, Instr.atomicAdd f), (opFetchAdd, Instr.fetchAdd f),
        (opCmpSwap, Instr.cmpSwap f), (opSend, Instr.send f)],
      let h := parseHdr s f
      (∀ code, headCheck s h f p.1 = some code → exec p.2 s = .next (checkFail (taken s f) f h code)) ∧
      (∀ x, OnChannel s f p.1 x → p.1 ∈ [opWrite, opAtomicAdd, opSend] →
        (2147483648 ≤ (h.psn - x.expected).toNat ∨ x.got.contains h.psn = true) →
        exec p.2 s = .next (ackCtx (taken s f) h.dstCh.toNat)) ∧
      (∀ x, OnChannel s f p.1 x → x.got.contains h.psn = false → 4096 ≤ (h.psn - x.expected).toNat →
        (h.psn - x.expected).toNat < 2147483648 → exec p.2 s = .next (checkFail (taken s f) f h 0x04)) ∧
      (∀ x code, OnChannel s f p.1 x → FreshPsn x.expected x.got h.psn → accessCheck s h f = some code →
        exec p.2 s = .next (checkFail (taken s f) f h code))) ∧
  (∀ (s : State) (f : Frame) (h : Hdr) (code : Byte), (checkFail s f h code).mem = s.mem ∧ (checkFail s f h code).reqs = s.reqs ∧
    (checkFail s f h code).lanes = s.lanes ∧ (checkFail s f h code).te.rxs = s.te.rxs ∧ (checkFail s f h code).te.rqs = s.te.rqs)

/-- R228, R243, R244 and R256: a response puts its bytes at LOCAL and counts toward its operation; an acknowledgement retires the
frames that it names; a NACK ends its operation with the sender's outcome, a page fault marks the operation and sets the frame's
retry, a dry ring makes its message go again up to seven times; one that says that this device is fenced fences it. -/
def Obligations.ResponsesAndAcknowledgements : Prop :=
  (∀ (s : State) (f : Frame) (q : Nat) (x : SendQ) (o : TxOp),
    (RunsResponse s f opReadResp q x o →
      let u := (meterFrame (taken s f) f x.tenant).2
      exec (.readResp f) s = .next (placeResponse u q x o f) ∧ u.mem = s.mem ∧ u.te.sqs = s.te.sqs ∧
      (∀ a, localAddr s x.tenant o.desc.localKey (o.desc.localOff + BitVec.ofNat 48
        (if o.desc.op = opReadReq then f.addr.toNat else 0)) f.payload.length = some a →
        (placeResponse u q x o f).mem = { s.mem with data := memStore s.mem.data a f.payload })) ∧
    (RunsResponse s f opAtomicResp q x o →
      let u := (meterFrame (taken s f) f x.tenant).2
      exec (.atomicResp f) s = .next (placeResponse u q x o f) ∧ u.mem = s.mem ∧ u.te.sqs = s.te.sqs ∧
      (∀ a, localAddr s x.tenant o.desc.localKey o.desc.localOff f.payload.length = some a → o.desc.op ≠ opReadReq →
        (placeResponse u q x o f).mem = { s.mem with data := memStore s.mem.data a f.payload }))) ∧
  (∀ (s : State) (f : Frame),
    (∀ q, RunsAck s f opAck → (parseHdr s f).dstCh ≠ sysCh → chanOf s (parseHdr s f).src (parseHdr s f).dstCh = some q →
      exec (.ack f) s = .next (ackQueue (taken s f) q f)) ∧
    (RunsAck s f opAck → (parseHdr s f).dstCh = sysCh → exec (.ack f) s = .next (ackPeer (taken s f) (parseHdr s f).src f)) ∧
    (∀ q, RunsAck s f opNack → (parseHdr s f).dstCh ≠ sysCh → chanOf s (parseHdr s f).src (parseHdr s f).dstCh = some q →
      f.payload.headD 0 ≠ 0x0C →
      exec (.nack f) s = .next (nackQueue (taken s f) q f.aux (f.payload.headD 0) (operand f.payload 4).toNat)) ∧
    (∀ y, RunsAck s f opNack → (parseHdr s f).dstCh = sysCh → tblGet s.te.sysTx (parseHdr s f).src.toNat = some y →
      (∀ g ∈ y.unacked, g.psn ≠ f.aux) → f.payload.headD 0 = 0x0C → isFenced s = false → ∃ v : Word, exec (.nack f) s =
        .next (fenceSelf { taken s f with free := s.free + 1 } s.mpl.epoch (v.getLsbD 0)))) ∧
  (∀ (s : State) (q : Nat) (x : SendQ) (o : TxOp) (psn : Word) (us : Nat), getSq s q = some x →
    x.ops.find? (fun o => opHas o psn) = some o →
    (∀ code fin, nackFinish code = some fin → nackQueue s q psn code us = pumpAll (endOp (putSq s q { x with
        ops := x.ops.map fun y => if y = o then { o with lastNack := code } else y }) q { o with lastNack := code } fin)) ∧
    (nackQueue s q psn 0x0A us = putSq s q { x with
      ops := x.ops.map fun y => if y = o then { o with lastNack := 0x0A, faulted := true } else y
      unacked := x.unacked.map fun g => if g.psn = psn then faultFrame s.clk.now us g else g }) ∧
    (o.retries < 7 → nackQueue s q psn 0x0B us = putSq s q { x with
      ops := x.ops.map fun y => if y = o then reformMsg o 0x0B (s.clk.now + 1000 * us) else y
      unacked := x.unacked.filter fun g => !opHas o g.psn }) ∧
    (7 ≤ o.retries → nackQueue s q psn 0x0B us = pumpAll (endOp (putSq s q { x with
        ops := x.ops.map fun y => if y = o then { o with lastNack := 0x0B } else y }) q { o with lastNack := 0x0B } .refused)))

/-- R230, R236, R238, R243, R244 and R251: each timer of a channel does its own work once its time has come, and nothing before: a
timeout re-sends a frame and counts it, a page fault's retry re-sends and counts, a dry ring's retry lets its message form again, an
acknowledgement that is owed goes out after 8 microseconds, the rate takes one increase step no sooner than 20 microseconds after the
last, a page that a frame wanted comes from the tenant's allowance, a context idle for half a second closes. -/
def Obligations.ChannelTimers : Prop :=
  ∀ (s : State) (q : BitVec 13),
    (∀ x psn, getSq s q.toNat = some x → s.te.dead.contains x.target = false →
      (x.unacked.any (timerOut s.clk.now psn) = true →
        exec (.retxTimeout (.num q) psn) s = .next (sendAgain s q.toNat psn false)) ∧
      (x.unacked.any (timerOut s.clk.now psn) = false → exec (.retxTimeout (.num q) psn) s = .next s) ∧
      (x.unacked.any (faultOut s.clk.now psn) = true → exec (.pageFaultRetry q psn) s = .next (sendAgain s q.toNat psn true)) ∧
      (x.unacked.any (faultOut s.clk.now psn) = false → exec (.pageFaultRetry q psn) s = .next s) ∧
      (∀ u, resendSq s q.toNat psn = some u →
        sendAgain s q.toNat psn false = { u with te := { u.te with cnt := { u.te.cnt with retx := satInc u.te.cnt.retx } } } ∧
        sendAgain s q.toNat psn true = { u with te := { u.te with cnt := { u.te.cnt with pfResend := satInc u.te.cnt.pfResend } } } ∧
        u.mem = s.mem ∧ u.te.cnt = s.te.cnt ∧ (getSq u q.toNat).map (·.ops) = some x.ops)) ∧
    (∀ d psn x, s.te.dead.contains d = false → tblGet s.te.sysTx (BitVec.toNat (w := 20) d) = some x →
      (x.unacked.any (timerOut s.clk.now psn) = true →
        exec (.retxTimeout (.sys d) psn) s = .next (sendAgainSys s d psn) ∧
        (∀ u, resendSys s d psn = some u →
          sendAgainSys s d psn = { u with te := { u.te with cnt := { u.te.cnt with retx := satInc u.te.cnt.retx } } })) ∧
      (x.unacked.any (timerOut s.clk.now psn) = false → exec (.retxTimeout (.sys d) psn) s = .next s)) ∧
    (∀ x m, getSq s q.toNat = some x → exec (.rxNoBufferRetry q m) s = .next (pumpSq (putSq s q.toNat { x with
      ops := x.ops.map fun o => if o.desc.op = opSend && o.message = m && o.waitRetry && decide (o.retryAt ≤ s.clk.now) then
        { o with waitRetry := false } else o }) q.toNat 4096)) ∧
    (∀ (t : Tenant) page,
      (pageWanted s t page = true → exec (.pagePresent t page) s = .next { s with te := { s.te with
        present := s.te.present ++ [(t, page)], wanted := s.te.wanted.filter (· ≠ (t, page)) } }) ∧
      (pageWanted s t page = false → exec (.pagePresent t page) s = .next s)) ∧
    (∀ x, getRx s q.toNat = some x →
      (ackDue s.clk.now x.owed = true → exec (.ackTimer (.num q)) s = .next (ackCtx s q.toNat) ∧
        (getRx (ackCtx s q.toNat) q.toNat).map (·.owed) = some none) ∧
      (ackDue s.clk.now x.owed = false → exec (.ackTimer (.num q)) s = .next s)) ∧
    (∀ d x, tblGet s.te.sysRx (BitVec.toNat (w := 20) d) = some x → ackDue s.clk.now x.owed = true →
      exec (.ackTimer (.sys d)) s = .next (ackSys s d)) ∧
    (∀ x, getSq s q.toNat = some x → exec (.rateIncrease (.num q)) s = .next (if x.law.lastInc + 20000 ≤ s.clk.now then
      putSq s q.toNat { x with law := rateStep x.law x.rateMax s.clk.now } else s)) ∧
    (∀ d x, tblGet s.te.sysTx (BitVec.toNat (w := 20) d) = some x → exec (.rateIncrease (.sys d)) s = .next (if x.law.lastInc + 20000 ≤ s.clk.now then
      putSysTx s d { x with law := rateStep x.law rateDefault s.clk.now } else s)) ∧
    (∀ d x, tblGet s.te.sysTx (BitVec.toNat (w := 20) d) = some x →
      (x.unacked = [] → x.ctlWait = [] → x.legWait = [] → x.lastUse + 500000000 ≤ s.clk.now →
        exec (.systemContextIdle d) s = .next (closeSysTx s d) ∧
        (s.te.ctxWait = [] → closeSysTx s d = { s with te := { s.te with
          sysTx := tblErase s.te.sysTx d.toNat, sysPsn := tblSet s.te.sysPsn d.toNat x.nextPsn } })) ∧
      (s.clk.now < x.lastUse + 500000000 → exec (.systemContextIdle d) s = .next s))

/-- R162, R163, R211, R212, R239, R264 to R267 and R337: ports and the host's rings: a frame that is no Track frame is counted; a PTP
Sync or delay response of the device's domain sets the time, and a Sync and a delay request are answered; a pause stops the two
strict queues of its priority until it ends; a port's state follows its link; the chosen queue's head leaves stamped with the time;
the ring entries of the next frame of another device reach host memory, and those of a later one wait. -/
def Obligations.PortEvents : Prop :=
  ∀ (s : State) (p : Fin 16),
    (teHeld s = false → fabricUsable s p.val = true → exec (.nontrackFrameRx p) s =
      .next { s with te := { s.te with cnt := { s.te.cnt with nontrack := satInc s.te.cnt.nontrack } } }) ∧
    (∀ m : PtpMsg, fabricUsable s p.val = true → m.domain = Config.ptpDomain →
      (m.kind = .sync → exec (.ptpFrameRx p m) s = .next (emit (setPtp s m.time) (.ptp p.val .delayReq m.time))) ∧
      (m.kind = .delayResp → exec (.ptpFrameRx p m) s = .next (setPtp s m.time)) ∧
      (m.kind = .delayReq → exec (.ptpFrameRx p m) s = .next (emit s (.ptp p.val .delayResp m.time)))) ∧
    (∀ m : PtpMsg, (fabricUsable s p.val = false ∨ m.domain ≠ Config.ptpDomain) → exec (.ptpFrameRx p m) s = .next s) ∧
    (∀ time, (setPtp s time).clk.now = time ∧ (setPtp s time).clk.ptpLock = true ∧ (setPtp s time).clk.ptpHold = none ∧
      (setPtp s time).lap.count = s.lap.count ∧ { setPtp s time with clk := s.clk, lap := s.lap } = s) ∧
    (∀ prio k, fabricUsable s p.val = true → (pacPort s p.val).isSome = true → ∃ t, exec (.pfcFrameRx p prio k) s = .next t ∧
      (∀ q ∈ pfcQueues s p.val prio, (pacQueue t p.val q).paused = decide (0 < k)) ∧
      (∀ q, q ∉ pfcQueues s p.val prio → pacQueue t p.val q = pacQueue s p.val q) ∧ { t with pac := s.pac } = s) ∧
    (∀ prio, (pacPort s p.val).isSome = true → ∃ t, exec (.pfcPauseEnd p prio) s = .next t ∧
      (∀ q ∈ pfcQueues s p.val prio, (pacQueue t p.val q).paused = false) ∧ { t with pac := s.pac } = s) ∧
    (∃ t, exec (.portDown p) s = .next t ∧ t.te.portUp = s.te.portUp &&& ~~~((1 : BitVec 16) <<< p.val) ∧ t.mem = s.mem ∧
      t.reqs = s.reqs ∧ t.lanes = s.lanes) ∧
    (s.clk.ethOk = true → exec (.portUp p) s =
      .next (pumpAll { s with te := { s.te with portUp := s.te.portUp ||| (1 <<< p.val) } })) ∧
    (s.clk.ethOk = false → exec (.portUp p) s = .next s) ∧
    (∀ k : Fin 19, pacHeld s = false → portUsable s k.val = true → (s.pac.ports.get k).busyUntil ≤ s.clk.now →
      let u := chooseQueue (holdHeads (fillPort s k.val) k.val) k.val
      u.1.mem = s.mem ∧ u.1.out = s.out ∧
      (u.2 = none → exec (.pacerChoose k) s = .next u.1) ∧
      (∀ q f rest, u.2 = some q → (pacQueue u.1 k.val q).frames = f :: rest → ∃ t, exec (.pacerChoose k) s = .next t ∧
        t = startFrame u.1 k.val q ∧ t.mem = s.mem ∧
        t.out = s.out ++ [.frame k.val (framePcp u.1 k.val f.cls) (lo32 s.clk.now) f
          (wireBytes s k.val (framePcp u.1 k.val f.cls) (lo32 s.clk.now) f)])) ∧
    (∀ (f : Frame) x, RunsSystem s f opRing x → hostUp s = true → x.waiting = [] → x.got = [] →
      ((parseHdr s f).psn = x.expected → ∃ t, exec (.ringRx f) s = .next t ∧ t.mem = s.mem ∧
        t.reqs = s.reqs ∧ t.lanes = s.lanes ∧ t.out = (taken s f).out ++
          (ringItems f.payload.length f.payload).map (fun y => Out.hostWrite y.2.1 y.1 y.2.2.2.2) ++
          (match (ringItems f.payload.length f.payload).find? (fun y => y.2.2.1) with
            | some y => [Out.msix y.2.1 y.2.2.2.1]
            | none => [])) ∧
      ((parseHdr s f).psn ≠ x.expected → ∃ t, exec (.ringRx f) s = .next t ∧ t.mem = s.mem ∧ t.out = (taken s f).out ∧
        (tblGet t.te.sysRx (parseHdr s f).src.toNat).map (·.waiting) = some [f]))

/-! ### Bib's engine and ring (R281 to R290) -/

/-- R286 to R290: a packet with a bad CRC is dropped and counted by a member; an own packet ends its lookup; any other is
improved by this member's lower match and forwarded, and a device outside the cascade forwards it as it came; a lookup whose packet
is not back in 4 microseconds from its sending completes with DISCARDED and its tag rests; the passing packet held longest past 2
microseconds is dropped and counted. -/
def Obligations.BibRing : Prop :=
  ∀ s : State,
    (∀ p, bibHeld s = false → s.sta.boot.fabricUp = true → isMember s = true → packetCrc p ≠ p.crc →
      exec (.bibRingPacket p) s = .next { s with bib := { s.bib with ringCrc := satInc s.bib.ringCrc } }) ∧
    (∀ p w, bibHeld s = false → s.sta.boot.fabricUp = true → isMember s = true → packetCrc p = p.crc →
      p.tag.toNat / 64 = trayPos s →
      s.bib.waits.find? (fun w => w.tag == p.tag.toNat) = some w → exec (.bibRingPacket p) s = .next (pumpLookups 64 (answerReq
        { s with bib := { s.bib with waits := s.bib.waits.filter fun x => x.tag != w.tag } } w.req w.gen
        (.ok, if p.hit then some (p.pos.toNat, p.addr.toNat, p.result) else none)))) ∧
    (∀ p, bibHeld s = false → s.sta.boot.fabricUp = true → isMember s = true → packetCrc p = p.crc →
      p.tag.toNat / 64 ≠ trayPos s →
      exec (.bibRingPacket p) s = .next (forwardPacket s (searchPacket s p)) ∧
      (∀ part e, bibPart s p.part.toNat = some part → firstMatch (bibFg s.bib) part p.key = some e →
        (p.hit = false ∨ trayPos s < p.pos.toNat) → (searchPacket s p).hit = true ∧ (searchPacket s p).pos = s.sta.pos ∧
          (searchPacket s p).addr = BitVec.ofNat 16 e.1 ∧ (searchPacket s p).result = e.2.result ∧
          packetCrc (searchPacket s p) = (searchPacket s p).crc)) ∧
    (∀ p, bibHeld s = false → s.sta.boot.fabricUp = true → isMember s = false →
      exec (.bibRingPacket p) s = .next (forwardPacket s p)) ∧
    (∀ (tag : Byte) w t, s.bib.waits.find? (fun w => w.tag == tag.toNat) = some w → w.sentAt = some t →
      (t + 4000 ≤ s.clk.now → ∃ u, exec (.bibCascadeTimeout tag) s =
          .next (pumpLookups 64 (answerReq u w.req w.gen (.discarded, none))) ∧
        (∀ x ∈ u.bib.waits, x.tag ≠ w.tag) ∧ (w.tag, s.clk.now + 16000) ∈ u.bib.resting ∧
        u.bib.cascTimeout = satInc s.bib.cascTimeout ∧ { u with bib := s.bib } = s) ∧
      (s.clk.now < t + 4000 → exec (.bibCascadeTimeout tag) s = .next s)) ∧
    (∀ p ps, s.bib.hold = p :: ps →
      (p.2 + 2000 < s.clk.now →
        exec .bibRingHoldDrop s = .next { s with bib := { s.bib with hold := ps, ringDrop := satInc s.bib.ringDrop } }) ∧
      (s.clk.now ≤ p.2 + 2000 → exec .bibRingHoldDrop s = .next s))

/-! ### Plans (R305 to R315) -/

/-- R93, R94, R312 and R315: at its boundary a plan becomes the one in force: its tag is current and the replaced plan's is accepted
for one more lap, its period, quiet window and epoch hold, laps run and the lap counter is the boundary's, and PLAN_SWITCH rises; no
byte of a page stack changes. -/
def Obligations.PlanSwitches : Prop :=
  ∀ (s : State) (p : PlanImage) (m : Nat),
    let t := planSwitch s p m
    t.mpl.current = some p ∧ t.mpl.staged = none ∧ t.mpl.stagedCmd = none ∧ t.mpl.tagCur = planTag p ∧
    t.mpl.tagNext = (if s.mpl.current.isSome then s.mpl.tagCur else 0) ∧ t.mpl.grace = s.mpl.current.isSome ∧
    t.mpl.epoch = p.system.epoch ∧ t.mpl.devId = (if s.mpl.current.isSome then s.mpl.devId else p.targetDev) ∧
    t.lap.running = true ∧ t.lap.count = BitVec.ofNat 48 m ∧ t.lap.period = p.system.periodUs.toNat ∧
    t.lap.quiet = p.system.quietUs.toNat ∧ t.lap.inQuiet = false ∧ t.glb.evt.getLsbD 6 = true ∧ t.mem.stack = s.mem.stack

/-! ### Marshal's messages and rounds (R317 to R327, R338) -/

/-- R317 to R322, R324, R327 and R338: a heartbeat of a watched device in time is kept and echoed, a late one only counted;
one of a device that is not watched counts once as stray; an echo and a suspicion in time are kept once; a FENCE and a READMIT of a
source that is not fenced are taken up; a REPORT changes nothing where it arrives. -/
def Obligations.MarshalMessages : Prop :=
  ∀ (s : State) (f : Frame) (m : MarMsg),
    let u := taken s f
    (∀ k, RunsMarshal s f m mtHeartbeat → watchedPlace s m.sender = some k → expectsHb s m.sender m.round = true →
      s.mar.state ≠ .inactive → s.mar.rounds.got.contains (m.sender, m.round) = false →
      s.mar.rounds.late.contains (m.sender, m.round) = false →
      (s.clk.now ≤ roundStart s m.round + 1246000 → ∃ t v, exec (.heartbeat f m) s = .next (marSend t m.sender v []) ∧
        v.mtype = mtEcho ∧ v.subject = m.sender ∧ v.round = m.round ∧
        (m.sender, m.round) ∈ t.mar.rounds.got ∧ t.mar.lateHb = s.mar.lateHb ∧ t.mem = s.mem ∧ t.reqs = s.reqs) ∧
      (roundStart s m.round + 1246000 < s.clk.now → ∃ t, exec (.heartbeat f m) s = .next t ∧
        t.mar.rounds.got = s.mar.rounds.got ∧ t.mar.lateHb = satInc s.mar.lateHb ∧ { t with mar := s.mar } = u)) ∧
    (RunsMarshal s f m mtHeartbeat → watchedPlace s m.sender = none →
      (s.mar.rounds.strays.contains m = false → ∃ t, exec (.heartbeat f m) s = .next t ∧ t.mar.stray = satInc s.mar.stray ∧
        m ∈ t.mar.rounds.strays ∧ { t with mar := s.mar } = u) ∧
      (s.mar.rounds.strays.contains m = true → exec (.heartbeat f m) s = .next u)) ∧
    (∀ k, RunsMarshal s f m mtEcho → watcherPlace s m.sender = some k → m.subject = s.mpl.devId →
      s.clk.now ≤ roundStart s m.round + 1496000 →
      (s.mar.rounds.echoes.contains (k, m.round) = false →
        exec (.echo f m) s = .next (modRounds u fun x => { x with echoes := x.echoes ++ [(k, m.round)] })) ∧
      (s.mar.rounds.echoes.contains (k, m.round) = true → exec (.echo f m) s = .next u)) ∧
    (RunsMarshal s f m mtSuspect → (coWatchers s m.subject).contains m.sender = true →
      s.clk.now < roundStart s m.round + 1996000 →
      (s.mar.rounds.suspects.contains (m.subject, m.round, m.sender) = false →
        exec (.suspect f m) s = .next (modRounds u fun x => { x with suspects := x.suspects ++ [(m.subject, m.round, m.sender)] })) ∧
      (s.mar.rounds.suspects.contains (m.subject, m.round, m.sender) = true → exec (.suspect f m) s = .next u)) ∧
    (RunsMarshal s f m mtSuspect → (coWatchers s m.subject).contains m.sender = false →
      s.mar.rounds.strays.contains m = false →
      ∃ t, exec (.suspect f m) s = .next t ∧ t.mar.stray = satInc s.mar.stray ∧ m ∈ t.mar.rounds.strays ∧
        { t with mar := s.mar } = u) ∧
    (RunsMarshal s f m mtFence → s.te.fenced.contains (parseHdr s f).src = false → m.kind.toNat ≤ 1 →
      exec (.fence f m) s = .next (fenceIn u m.subject m.epoch (m.kind == 0) true m.round)) ∧
    (RunsMarshal s f m mtReadmit → s.te.fenced.contains (parseHdr s f).src = false →
      exec (.readmit f m) s = .next (readmitIn u m.subject m.epoch m.round)) ∧
    (∀ e, RunsMarshal s f m mtReport → exec (.report f m e) s = .next u)

/-- R318 to R321: 996 microseconds into a round a LIVE device sends its heartbeat, once a round; at the due time each watched device
whose expected heartbeat has not come is suspected; at the echo deadline ECHOED shows who echoed, and two lonely rounds with three
watchers left fence the device itself; a first majority is noted when the tally closes, and a second in a row declares the subject
dead. None of them acts before its time in the round. -/
def Obligations.MarshalRounds : Prop :=
  ∀ (s : State) (r : BitVec 48), marHeld s = false →
    ((s.mar.state = .live ∨ s.mar.state = .fenced) → s.mar.rounds.liveAt.toNat ≤ r.toNat → s.mar.rounds.sent.contains r = false →
      roundDue s r 996 = true →
      ∃ t, exec (.heartbeatSend r) s = .next t ∧ r ∈ t.mar.rounds.sent ∧ t = marSendAll (modRounds s fun x =>
        { x with sent := x.sent ++ [r] }) (watchers s) (mkMsg s mtHeartbeat 0 s.mpl.devId s.mpl.epoch r)) ∧
    (((s.mar.state ≠ .live ∧ s.mar.state ≠ .fenced) ∨ s.mar.rounds.sent.contains r = true ∨ roundDue s r 996 = false) →
      exec (.heartbeatSend r) s = .next s) ∧
    (s.mar.state = .live → roundDue s r 1246 = true → ∃ t, exec (.heartbeatDue r) s = .next t ∧
      (∀ d ∈ watched s, expectsHb s d r = true →
        (d, r) ∉ s.mar.rounds.got → (d, r, s.mpl.devId) ∈ t.mar.rounds.suspects) ∧ t.mem = s.mem ∧ t.reqs = s.reqs ∧
      t.lanes = s.lanes) ∧
    ((s.mar.state ≠ .live ∨ roundDue s r 1246 = false) → exec (.heartbeatDue r) s = .next s) ∧
    ((s.mar.state ≠ .live ∨ roundDue s r 1996 = false) → exec (.tallyClose r) s = .next s) ∧
    (roundDue s r 1496 = false → exec (.echoDue r) s = .next s) ∧
    (s.mar.state ≠ .live → roundDue s r 1496 = true →
      exec (.echoDue r) s = .next { s with mar := { s.mar with echoed := echoMask s r } }) ∧
    (s.mar.state = .live → roundDue s r 1496 = true → 3 ≤ freeWatchers s → (r = 0 ∨ lonely s (r - 1) = false ∨ lonely s r = false) →
      exec (.echoDue r) s = .next { s with mar := { s.mar with echoed := echoMask s r } }) ∧
    (s.mar.state = .live → roundDue s r 1496 = true → 3 ≤ freeWatchers s → 0 < r.toNat → lonely s (r - 1) = true → lonely s r = true →
      ∃ u, exec (.echoDue r) s = .next (marLog (fenceSelf u s.mpl.epoch true) evSelfFenced 0xF s.mpl.devId 0xFF (r.setWidth 32)) ∧
        u = { s with mar := { s.mar with
          echoed := echoMask s r, seen := s.mar.seen ++ [⟨s.mpl.devId, s.mpl.epoch, true⟩] } }) ∧
    (s.mar.state = .live → roundDue s r 1996 = true → (∀ d ∈ watched s, 0 < r.toNat → hasMajority s d (r - 1) = false) →
      ∃ t, exec (.tallyClose r) s = .next t ∧ (∀ d ∈ watched s, expectsHb s d r = true → 3 ≤ suspectCount s d r →
        (d, r) ∈ t.mar.rounds.majority) ∧ t.mar.held = s.mar.held ∧ { t with mar := s.mar } = s) ∧
    (∀ d, s.mar.state = .live → roundDue s r 1996 = true → watched s = [d] → expectsHb s d r = true → 3 ≤ suspectCount s d r →
      hasMajority s d r = false → 0 < r.toNat → hasMajority s d (r - 1) = true → ∃ u, exec (.tallyClose r) s =
        .next (trimRounds (fenceIn u d (tblGetD s.mar.rounds.epochs d.toNat s.mpl.epoch) true false r) r) ∧
      u = modRounds s fun x => { x with majority := x.majority ++ [(d, r)] })

/-! ### The machine as a whole -/

/-- A step takes the command at the front of the queue and answers what it answers on the state with the queue's rest; on an
empty queue PTP time runs on by one nanosecond (the model's choice, log 3). -/
def Obligations.StepRunsFrontCommand : Prop :=
  (∀ (c : Instr) (s : State), step { s with pending := c :: s.pending } = exec c s) ∧
  (∀ s : State, s.pending = [] → ∃ t, step s = .next t ∧ t.clk.now = s.clk.now + 1 ∧ t.mem = s.mem ∧ t.pending = [])

/-- R380, R406 and R407: no command and no event of the block ends in a fault or a refusal: from every state, one that no run
reaches included, a step answers a next state. -/
def Obligations.EveryStepRuns : Prop := ∀ s : State, Runs s

/-- The model's choice (log 5): reset leaves every memory of the block in canonical form. -/
def Obligations.ResetMemoryIsCanonical : Prop := MemsOk State.reset

/-- The model's choice (log 5), from R37, R121, R189, R229 and R388: a step keeps every memory of the block (page stacks, exchange
zone, control buffer, capacity tier, data space, operand SRAM and its saved images) in canonical form, whatever command is at the
front of the queue. -/
def Obligations.StepKeepsMemories : Prop := ∀ s t : State, MemsOk s → step s = .next t → MemsOk t

/-- R24, R110 and R158: no command shortens what waits behind it: a step removes the command at the front of the queue and
leaves the rest as it was. -/
def Obligations.StepKeepsTheQueue : Prop :=  ∀ (s t : State), step s = .next t → t.pending = s.pending.tail

/-! ### Single rules -/

/-- R13: of two finish codes that apply at the same moment, a completion reports the one that stands first in the order. -/
def Obligations.FinishCodeOrder : Prop :=
  let order : List Finish := [.fenced, .deadTarget, .laneRetired, .discarded, .planMismatch, .keyDenied, .falseStart, .stalled,
    .lapOverrun, .refused, .auditMismatch, .abandoned, .cancelledDropped, .heldNoPage, .pageFaultResent, .ok]
  ∀ (i j : Fin 16), i ≤ j →
    finishOf (order.get (i.cast rfl)) (order.get (j.cast rfl)) = order.get (i.cast rfl) ∧
    finishOf (order.get (j.cast rfl)) (order.get (i.cast rfl)) = order.get (i.cast rfl)

/-- R11: when a baton of this device goes whose generation is its slot's own, and its slot can be reused, the generation that the
slot's next baton takes is one more, and 0xFFFF wraps to 0x0000; a baton of an earlier use of the slot does not set it back. -/
def Obligations.GenerationAdvances : Prop :=
  ∀ (s : State) (b : BatonId) (r : Req) (code : Finish), findReq s b = some r → batonHome b = s.mpl.devId →
    findReq (freeReq s b code) b = none ∧
    (tblGetD s.slotGen (batonSlot b) 0 = batonGen b →
      tblGetD (freeReq s b code).slotGen (batonSlot b) 0 = batonGen b + 1 ∧
      (batonGen b = 0xFFFF → tblGetD (freeReq s b code).slotGen (batonSlot b) 0 = 0) ∧
      ∀ t, batonGen (mkBaton s.mpl.devId t (batonSlot b) (tblGetD (freeReq s b code).slotGen (batonSlot b) 0)) = batonGen b + 1) ∧
    (tblGetD s.slotGen (batonSlot b) 0 ≠ batonGen b → (freeReq s b code).slotGen = s.slotGen)

/-- R274: a valid entry matches a key exactly when key and KEY agree in every bit that CARE has; an entry with CARE all zero
matches every key. -/
def Obligations.EntriesMatch : Prop :=
  ∀ (k : BitVec 128) (e : BibEntry),
    (bibMatches k e = true ↔ (k ^^^ e.key) &&& e.care = 0) ∧
    (bibMatches k e = true ↔ ∀ i : Nat, i < 128 → e.care.getLsbD i = true → k.getLsbD i = e.key.getLsbD i) ∧
    (e.care = 0 → bibMatches k e = true)

/-- R313: a withdrawal before the switch drops the staged plan and clears its tag, the load's switch completion carries
REFUSED with reason WITHDRAWN and the withdrawal completes with OK; with no plan staged, while a load is loading too, it changes
nothing and completes with REFUSED. -/
def Obligations.PlanWithdrawal : Prop :=
  ∀ (s : State) (h : HostHdr), HostServed s h true →
    (∀ p c, s.mpl.staged = some p → s.mpl.stagedCmd = some c → ∃ u, exec (.planWithdraw h) s =
        .next (complete (planCpl u c .refused true 0x16) h 0x21 .ok) ∧
      u.mpl.staged = none ∧ u.mpl.tagNext = 0 ∧ u.mpl.current = s.mpl.current ∧ { u with mpl := (fetched s h).mpl } = fetched s h) ∧
    (s.mpl.staged = none → exec (.planWithdraw h) s = .next (complete (fetched s h) h 0x21 .refused))
end

