-- ==== Sys2Proof/Laws/Tables.lean ====
section
/-! SUPPORT. Tables and vectors: what is read after a write, and what a write leaves. -/

namespace Sys2Proof.Machine

open Sys2Proof

@[simp] theorem tblGet_nil {α : Type} (i : Nat) : tblGet ([] : Tbl α) i = none := rfl

theorem tblGet_tblSet_self {α : Type} (t : Tbl α) (i : Nat) (x : α) : tblGet (tblSet t i x) i = some x := by
  induction t with
  | nil => simp [tblSet, tblGet]
  | cons e t ih =>
    obtain ⟨k, y⟩ := e
    simp only [tblSet]
    split
    · simp [tblGet]
    · split
      · simp [tblGet]
      · rename_i h1 h2
        have : ¬ k = i := fun h => h2 h.symm
        simp [tblGet, this, ih]

theorem tblGet_tblSet_ne {α : Type} (t : Tbl α) (i j : Nat) (x : α) (h : j ≠ i) : tblGet (tblSet t i x) j = tblGet t j := by
  induction t with
  | nil => simp [tblSet, tblGet, h.symm]
  | cons e t ih =>
    obtain ⟨k, y⟩ := e
    simp only [tblSet]
    split
    · simp [tblGet, h.symm]
    · split
      · rename_i h1 h2
        subst h2
        simp [tblGet, h.symm]
      · simp [tblGet, ih]

@[simp] theorem tblGetD_tblSet_self {α : Type} (t : Tbl α) (i : Nat) (x d : α) : tblGetD (tblSet t i x) i d = x := by
  simp [tblGetD, tblGet_tblSet_self]

theorem tblGetD_tblSet_ne {α : Type} (t : Tbl α) (i j : Nat) (x d : α) (h : j ≠ i) :
    tblGetD (tblSet t i x) j d = tblGetD t j d := by
  simp [tblGetD, tblGet_tblSet_ne t i j x h]

theorem tblGet_tblErase_self {α : Type} (t : Tbl α) (i : Nat) : tblGet (tblErase t i) i = none := by
  induction t with
  | nil => rfl
  | cons e t ih =>
    obtain ⟨k, y⟩ := e
    by_cases h : k = i
    · simpa [tblErase, h] using ih
    · simpa [tblErase, h, tblGet] using ih

theorem tblGet_tblErase_ne {α : Type} (t : Tbl α) (i j : Nat) (h : j ≠ i) : tblGet (tblErase t i) j = tblGet t j := by
  induction t with
  | nil => rfl
  | cons e t ih =>
    obtain ⟨k, y⟩ := e
    by_cases hk : k = i
    · subst hk
      simpa [tblErase, tblGet, h.symm] using ih
    · by_cases hj : k = j
      · subst hj
        simp [tblErase, h, tblGet]
      · simpa [tblErase, hk, tblGet, hj] using ih

theorem get_eq_getElem {α : Type} {n : Nat} (v : Vector α n) (i : Fin n) : v.get i = v[i.val] := rfl

@[simp] theorem vset_get_self {α : Type} {n : Nat} (v : Vector α n) (i : Fin n) (x : α) : (vset v i x).get i = x := by
  rw [get_eq_getElem]
  exact Vector.getElem_set_self i.isLt

theorem vset_get_ne {α : Type} {n : Nat} (v : Vector α n) (i j : Fin n) (x : α) (h : j ≠ i) : (vset v i x).get j = v.get j := by
  rw [get_eq_getElem, get_eq_getElem]
  exact Vector.getElem_set_ne i.isLt j.isLt (fun e => h (Fin.ext e.symm))

@[simp] theorem vmod_get_self {α : Type} {n : Nat} (v : Vector α n) (i : Fin n) (f : α → α) :
    (vmod v i f).get i = f (v.get i) := by simp [vmod]

theorem vmod_get_ne {α : Type} {n : Nat} (v : Vector α n) (i j : Fin n) (f : α → α) (h : j ≠ i) :
    (vmod v i f).get j = v.get j := by simp [vmod, vset_get_ne _ _ _ _ h]

@[simp] theorem ofFn_get {α : Type} {n : Nat} (f : Fin n → α) (i : Fin n) : (Vector.ofFn f).get i = f i := by
  rw [get_eq_getElem]
  simp

@[simp] theorem vmap_get {α β : Type} {n : Nat} (v : Vector α n) (f : α → β) (i : Fin n) : (vmap v f).get i = f (v.get i) := by
  simp [vmap]

end Sys2Proof.Machine
end

