-- ==== Sys2Proof/Laws/State.lean ====
section
/-! SUPPORT. The parts of the state after each named update: one lemma a field, true by rfl. -/

namespace Sys2Proof.Machine

open Sys2Proof

variable (s : State)

@[simp] theorem emit_pending (o : Out) : (emit s o).pending = s.pending := rfl
@[simp] theorem emit_free (o : Out) : (emit s o).free = s.free := rfl
@[simp] theorem emit_clk (o : Out) : (emit s o).clk = s.clk := rfl
@[simp] theorem emit_lap (o : Out) : (emit s o).lap = s.lap := rfl
@[simp] theorem emit_glb (o : Out) : (emit s o).glb = s.glb := rfl
@[simp] theorem emit_coach (o : Out) : (emit s o).coach = s.coach := rfl
@[simp] theorem emit_sel (o : Out) : (emit s o).sel = s.sel := rfl
@[simp] theorem emit_sta (o : Out) : (emit s o).sta = s.sta := rfl
@[simp] theorem emit_fus (o : Out) : (emit s o).fus = s.fus := rfl
@[simp] theorem emit_fwu (o : Out) : (emit s o).fwu = s.fwu := rfl
@[simp] theorem emit_mpl (o : Out) : (emit s o).mpl = s.mpl := rfl
@[simp] theorem emit_lanes (o : Out) : (emit s o).lanes = s.lanes := rfl
@[simp] theorem emit_reqs (o : Out) : (emit s o).reqs = s.reqs := rfl
@[simp] theorem emit_slotGen (o : Out) : (emit s o).slotGen = s.slotGen := rfl
@[simp] theorem emit_jdg (o : Out) : (emit s o).jdg = s.jdg := rfl
@[simp] theorem emit_stp (o : Out) : (emit s o).stp = s.stp := rfl
@[simp] theorem emit_srg (o : Out) : (emit s o).srg = s.srg := rfl
@[simp] theorem emit_xz (o : Out) : (emit s o).xz = s.xz := rfl
@[simp] theorem emit_btn (o : Out) : (emit s o).btn = s.btn := rfl
@[simp] theorem emit_te (o : Out) : (emit s o).te = s.te := rfl
@[simp] theorem emit_rly (o : Out) : (emit s o).rly = s.rly := rfl
@[simp] theorem emit_pac (o : Out) : (emit s o).pac = s.pac := rfl
@[simp] theorem emit_bib (o : Out) : (emit s o).bib = s.bib := rfl
@[simp] theorem emit_mar (o : Out) : (emit s o).mar = s.mar := rfl
@[simp] theorem emit_hif (o : Out) : (emit s o).hif = s.hif := rfl
@[simp] theorem emit_cap (o : Out) : (emit s o).cap = s.cap := rfl
@[simp] theorem emit_spi (o : Out) : (emit s o).spi = s.spi := rfl
@[simp] theorem emit_uar (o : Out) : (emit s o).uar = s.uar := rfl
@[simp] theorem emit_i2c (o : Out) : (emit s o).i2c = s.i2c := rfl
@[simp] theorem emit_jtg (o : Out) : (emit s o).jtg = s.jtg := rfl
@[simp] theorem emit_mem (o : Out) : (emit s o).mem = s.mem := rfl

@[simp] theorem emitAll_pending (os : List Out) : (emitAll s os).pending = s.pending := rfl
@[simp] theorem emitAll_free (os : List Out) : (emitAll s os).free = s.free := rfl
@[simp] theorem emitAll_clk (os : List Out) : (emitAll s os).clk = s.clk := rfl
@[simp] theorem emitAll_lap (os : List Out) : (emitAll s os).lap = s.lap := rfl
@[simp] theorem emitAll_glb (os : List Out) : (emitAll s os).glb = s.glb := rfl
@[simp] theorem emitAll_coach (os : List Out) : (emitAll s os).coach = s.coach := rfl
@[simp] theorem emitAll_sel (os : List Out) : (emitAll s os).sel = s.sel := rfl
@[simp] theorem emitAll_sta (os : List Out) : (emitAll s os).sta = s.sta := rfl
@[simp] theorem emitAll_fus (os : List Out) : (emitAll s os).fus = s.fus := rfl
@[simp] theorem emitAll_fwu (os : List Out) : (emitAll s os).fwu = s.fwu := rfl
@[simp] theorem emitAll_mpl (os : List Out) : (emitAll s os).mpl = s.mpl := rfl
@[simp] theorem emitAll_lanes (os : List Out) : (emitAll s os).lanes = s.lanes := rfl
@[simp] theorem emitAll_reqs (os : List Out) : (emitAll s os).reqs = s.reqs := rfl
@[simp] theorem emitAll_slotGen (os : List Out) : (emitAll s os).slotGen = s.slotGen := rfl
@[simp] theorem emitAll_jdg (os : List Out) : (emitAll s os).jdg = s.jdg := rfl
@[simp] theorem emitAll_stp (os : List Out) : (emitAll s os).stp = s.stp := rfl
@[simp] theorem emitAll_srg (os : List Out) : (emitAll s os).srg = s.srg := rfl
@[simp] theorem emitAll_xz (os : List Out) : (emitAll s os).xz = s.xz := rfl
@[simp] theorem emitAll_btn (os : List Out) : (emitAll s os).btn = s.btn := rfl
@[simp] theorem emitAll_te (os : List Out) : (emitAll s os).te = s.te := rfl
@[simp] theorem emitAll_rly (os : List Out) : (emitAll s os).rly = s.rly := rfl
@[simp] theorem emitAll_pac (os : List Out) : (emitAll s os).pac = s.pac := rfl
@[simp] theorem emitAll_bib (os : List Out) : (emitAll s os).bib = s.bib := rfl
@[simp] theorem emitAll_mar (os : List Out) : (emitAll s os).mar = s.mar := rfl
@[simp] theorem emitAll_hif (os : List Out) : (emitAll s os).hif = s.hif := rfl
@[simp] theorem emitAll_cap (os : List Out) : (emitAll s os).cap = s.cap := rfl
@[simp] theorem emitAll_spi (os : List Out) : (emitAll s os).spi = s.spi := rfl
@[simp] theorem emitAll_uar (os : List Out) : (emitAll s os).uar = s.uar := rfl
@[simp] theorem emitAll_i2c (os : List Out) : (emitAll s os).i2c = s.i2c := rfl
@[simp] theorem emitAll_jtg (os : List Out) : (emitAll s os).jtg = s.jtg := rfl
@[simp] theorem emitAll_mem (os : List Out) : (emitAll s os).mem = s.mem := rfl

@[simp] theorem setLane_pending (n : LaneNo) (l : Lane) : (setLane s n l).pending = s.pending := rfl
@[simp] theorem setLane_out (n : LaneNo) (l : Lane) : (setLane s n l).out = s.out := rfl
@[simp] theorem setLane_free (n : LaneNo) (l : Lane) : (setLane s n l).free = s.free := rfl
@[simp] theorem setLane_clk (n : LaneNo) (l : Lane) : (setLane s n l).clk = s.clk := rfl
@[simp] theorem setLane_lap (n : LaneNo) (l : Lane) : (setLane s n l).lap = s.lap := rfl
@[simp] theorem setLane_glb (n : LaneNo) (l : Lane) : (setLane s n l).glb = s.glb := rfl
@[simp] theorem setLane_coach (n : LaneNo) (l : Lane) : (setLane s n l).coach = s.coach := rfl
@[simp] theorem setLane_sel (n : LaneNo) (l : Lane) : (setLane s n l).sel = s.sel := rfl
@[simp] theorem setLane_sta (n : LaneNo) (l : Lane) : (setLane s n l).sta = s.sta := rfl
@[simp] theorem setLane_fus (n : LaneNo) (l : Lane) : (setLane s n l).fus = s.fus := rfl
@[simp] theorem setLane_fwu (n : LaneNo) (l : Lane) : (setLane s n l).fwu = s.fwu := rfl
@[simp] theorem setLane_mpl (n : LaneNo) (l : Lane) : (setLane s n l).mpl = s.mpl := rfl
@[simp] theorem setLane_reqs (n : LaneNo) (l : Lane) : (setLane s n l).reqs = s.reqs := rfl
@[simp] theorem setLane_slotGen (n : LaneNo) (l : Lane) : (setLane s n l).slotGen = s.slotGen := rfl
@[simp] theorem setLane_jdg (n : LaneNo) (l : Lane) : (setLane s n l).jdg = s.jdg := rfl
@[simp] theorem setLane_stp (n : LaneNo) (l : Lane) : (setLane s n l).stp = s.stp := rfl
@[simp] theorem setLane_srg (n : LaneNo) (l : Lane) : (setLane s n l).srg = s.srg := rfl
@[simp] theorem setLane_xz (n : LaneNo) (l : Lane) : (setLane s n l).xz = s.xz := rfl
@[simp] theorem setLane_btn (n : LaneNo) (l : Lane) : (setLane s n l).btn = s.btn := rfl
@[simp] theorem setLane_te (n : LaneNo) (l : Lane) : (setLane s n l).te = s.te := rfl
@[simp] theorem setLane_rly (n : LaneNo) (l : Lane) : (setLane s n l).rly = s.rly := rfl
@[simp] theorem setLane_pac (n : LaneNo) (l : Lane) : (setLane s n l).pac = s.pac := rfl
@[simp] theorem setLane_bib (n : LaneNo) (l : Lane) : (setLane s n l).bib = s.bib := rfl
@[simp] theorem setLane_mar (n : LaneNo) (l : Lane) : (setLane s n l).mar = s.mar := rfl
@[simp] theorem setLane_hif (n : LaneNo) (l : Lane) : (setLane s n l).hif = s.hif := rfl
@[simp] theorem setLane_cap (n : LaneNo) (l : Lane) : (setLane s n l).cap = s.cap := rfl
@[simp] theorem setLane_spi (n : LaneNo) (l : Lane) : (setLane s n l).spi = s.spi := rfl
@[simp] theorem setLane_uar (n : LaneNo) (l : Lane) : (setLane s n l).uar = s.uar := rfl
@[simp] theorem setLane_i2c (n : LaneNo) (l : Lane) : (setLane s n l).i2c = s.i2c := rfl
@[simp] theorem setLane_jtg (n : LaneNo) (l : Lane) : (setLane s n l).jtg = s.jtg := rfl
@[simp] theorem setLane_mem (n : LaneNo) (l : Lane) : (setLane s n l).mem = s.mem := rfl

@[simp] theorem modLane_pending (n : LaneNo) (f : Lane → Lane) : (modLane s n f).pending = s.pending := rfl
@[simp] theorem modLane_out (n : LaneNo) (f : Lane → Lane) : (modLane s n f).out = s.out := rfl
@[simp] theorem modLane_free (n : LaneNo) (f : Lane → Lane) : (modLane s n f).free = s.free := rfl
@[simp] theorem modLane_clk (n : LaneNo) (f : Lane → Lane) : (modLane s n f).clk = s.clk := rfl
@[simp] theorem modLane_lap (n : LaneNo) (f : Lane → Lane) : (modLane s n f).lap = s.lap := rfl
@[simp] theorem modLane_glb (n : LaneNo) (f : Lane → Lane) : (modLane s n f).glb = s.glb := rfl
@[simp] theorem modLane_coach (n : LaneNo) (f : Lane → Lane) : (modLane s n f).coach = s.coach := rfl
@[simp] theorem modLane_sel (n : LaneNo) (f : Lane → Lane) : (modLane s n f).sel = s.sel := rfl
@[simp] theorem modLane_sta (n : LaneNo) (f : Lane → Lane) : (modLane s n f).sta = s.sta := rfl
@[simp] theorem modLane_fus (n : LaneNo) (f : Lane → Lane) : (modLane s n f).fus = s.fus := rfl
@[simp] theorem modLane_fwu (n : LaneNo) (f : Lane → Lane) : (modLane s n f).fwu = s.fwu := rfl
@[simp] theorem modLane_mpl (n : LaneNo) (f : Lane → Lane) : (modLane s n f).mpl = s.mpl := rfl
@[simp] theorem modLane_reqs (n : LaneNo) (f : Lane → Lane) : (modLane s n f).reqs = s.reqs := rfl
@[simp] theorem modLane_slotGen (n : LaneNo) (f : Lane → Lane) : (modLane s n f).slotGen = s.slotGen := rfl
@[simp] theorem modLane_jdg (n : LaneNo) (f : Lane → Lane) : (modLane s n f).jdg = s.jdg := rfl
@[simp] theorem modLane_stp (n : LaneNo) (f : Lane → Lane) : (modLane s n f).stp = s.stp := rfl
@[simp] theorem modLane_srg (n : LaneNo) (f : Lane → Lane) : (modLane s n f).srg = s.srg := rfl
@[simp] theorem modLane_xz (n : LaneNo) (f : Lane → Lane) : (modLane s n f).xz = s.xz := rfl
@[simp] theorem modLane_btn (n : LaneNo) (f : Lane → Lane) : (modLane s n f).btn = s.btn := rfl
@[simp] theorem modLane_te (n : LaneNo) (f : Lane → Lane) : (modLane s n f).te = s.te := rfl
@[simp] theorem modLane_rly (n : LaneNo) (f : Lane → Lane) : (modLane s n f).rly = s.rly := rfl
@[simp] theorem modLane_pac (n : LaneNo) (f : Lane → Lane) : (modLane s n f).pac = s.pac := rfl
@[simp] theorem modLane_bib (n : LaneNo) (f : Lane → Lane) : (modLane s n f).bib = s.bib := rfl
@[simp] theorem modLane_mar (n : LaneNo) (f : Lane → Lane) : (modLane s n f).mar = s.mar := rfl
@[simp] theorem modLane_hif (n : LaneNo) (f : Lane → Lane) : (modLane s n f).hif = s.hif := rfl
@[simp] theorem modLane_cap (n : LaneNo) (f : Lane → Lane) : (modLane s n f).cap = s.cap := rfl
@[simp] theorem modLane_spi (n : LaneNo) (f : Lane → Lane) : (modLane s n f).spi = s.spi := rfl
@[simp] theorem modLane_uar (n : LaneNo) (f : Lane → Lane) : (modLane s n f).uar = s.uar := rfl
@[simp] theorem modLane_i2c (n : LaneNo) (f : Lane → Lane) : (modLane s n f).i2c = s.i2c := rfl
@[simp] theorem modLane_jtg (n : LaneNo) (f : Lane → Lane) : (modLane s n f).jtg = s.jtg := rfl
@[simp] theorem modLane_mem (n : LaneNo) (f : Lane → Lane) : (modLane s n f).mem = s.mem := rfl

@[simp] theorem modReq_pending (b : BatonId) (f : Req → Req) : (modReq s b f).pending = s.pending := rfl
@[simp] theorem modReq_out (b : BatonId) (f : Req → Req) : (modReq s b f).out = s.out := rfl
@[simp] theorem modReq_free (b : BatonId) (f : Req → Req) : (modReq s b f).free = s.free := rfl
@[simp] theorem modReq_clk (b : BatonId) (f : Req → Req) : (modReq s b f).clk = s.clk := rfl
@[simp] theorem modReq_lap (b : BatonId) (f : Req → Req) : (modReq s b f).lap = s.lap := rfl
@[simp] theorem modReq_glb (b : BatonId) (f : Req → Req) : (modReq s b f).glb = s.glb := rfl
@[simp] theorem modReq_coach (b : BatonId) (f : Req → Req) : (modReq s b f).coach = s.coach := rfl
@[simp] theorem modReq_sel (b : BatonId) (f : Req → Req) : (modReq s b f).sel = s.sel := rfl
@[simp] theorem modReq_sta (b : BatonId) (f : Req → Req) : (modReq s b f).sta = s.sta := rfl
@[simp] theorem modReq_fus (b : BatonId) (f : Req → Req) : (modReq s b f).fus = s.fus := rfl
@[simp] theorem modReq_fwu (b : BatonId) (f : Req → Req) : (modReq s b f).fwu = s.fwu := rfl
@[simp] theorem modReq_mpl (b : BatonId) (f : Req → Req) : (modReq s b f).mpl = s.mpl := rfl
@[simp] theorem modReq_lanes (b : BatonId) (f : Req → Req) : (modReq s b f).lanes = s.lanes := rfl
@[simp] theorem modReq_slotGen (b : BatonId) (f : Req → Req) : (modReq s b f).slotGen = s.slotGen := rfl
@[simp] theorem modReq_jdg (b : BatonId) (f : Req → Req) : (modReq s b f).jdg = s.jdg := rfl
@[simp] theorem modReq_stp (b : BatonId) (f : Req → Req) : (modReq s b f).stp = s.stp := rfl
@[simp] theorem modReq_srg (b : BatonId) (f : Req → Req) : (modReq s b f).srg = s.srg := rfl
@[simp] theorem modReq_xz (b : BatonId) (f : Req → Req) : (modReq s b f).xz = s.xz := rfl
@[simp] theorem modReq_btn (b : BatonId) (f : Req → Req) : (modReq s b f).btn = s.btn := rfl
@[simp] theorem modReq_te (b : BatonId) (f : Req → Req) : (modReq s b f).te = s.te := rfl
@[simp] theorem modReq_rly (b : BatonId) (f : Req → Req) : (modReq s b f).rly = s.rly := rfl
@[simp] theorem modReq_pac (b : BatonId) (f : Req → Req) : (modReq s b f).pac = s.pac := rfl
@[simp] theorem modReq_bib (b : BatonId) (f : Req → Req) : (modReq s b f).bib = s.bib := rfl
@[simp] theorem modReq_mar (b : BatonId) (f : Req → Req) : (modReq s b f).mar = s.mar := rfl
@[simp] theorem modReq_hif (b : BatonId) (f : Req → Req) : (modReq s b f).hif = s.hif := rfl
@[simp] theorem modReq_cap (b : BatonId) (f : Req → Req) : (modReq s b f).cap = s.cap := rfl
@[simp] theorem modReq_spi (b : BatonId) (f : Req → Req) : (modReq s b f).spi = s.spi := rfl
@[simp] theorem modReq_uar (b : BatonId) (f : Req → Req) : (modReq s b f).uar = s.uar := rfl
@[simp] theorem modReq_i2c (b : BatonId) (f : Req → Req) : (modReq s b f).i2c = s.i2c := rfl
@[simp] theorem modReq_jtg (b : BatonId) (f : Req → Req) : (modReq s b f).jtg = s.jtg := rfl
@[simp] theorem modReq_mem (b : BatonId) (f : Req → Req) : (modReq s b f).mem = s.mem := rfl

@[simp] theorem dropReq_pending (b : BatonId) : (dropReq s b).pending = s.pending := rfl
@[simp] theorem dropReq_out (b : BatonId) : (dropReq s b).out = s.out := rfl
@[simp] theorem dropReq_free (b : BatonId) : (dropReq s b).free = s.free := rfl
@[simp] theorem dropReq_clk (b : BatonId) : (dropReq s b).clk = s.clk := rfl
@[simp] theorem dropReq_lap (b : BatonId) : (dropReq s b).lap = s.lap := rfl
@[simp] theorem dropReq_glb (b : BatonId) : (dropReq s b).glb = s.glb := rfl
@[simp] theorem dropReq_coach (b : BatonId) : (dropReq s b).coach = s.coach := rfl
@[simp] theorem dropReq_sel (b : BatonId) : (dropReq s b).sel = s.sel := rfl
@[simp] theorem dropReq_sta (b : BatonId) : (dropReq s b).sta = s.sta := rfl
@[simp] theorem dropReq_fus (b : BatonId) : (dropReq s b).fus = s.fus := rfl
@[simp] theorem dropReq_fwu (b : BatonId) : (dropReq s b).fwu = s.fwu := rfl
@[simp] theorem dropReq_mpl (b : BatonId) : (dropReq s b).mpl = s.mpl := rfl
@[simp] theorem dropReq_lanes (b : BatonId) : (dropReq s b).lanes = s.lanes := rfl
@[simp] theorem dropReq_slotGen (b : BatonId) : (dropReq s b).slotGen = s.slotGen := rfl
@[simp] theorem dropReq_jdg (b : BatonId) : (dropReq s b).jdg = s.jdg := rfl
@[simp] theorem dropReq_stp (b : BatonId) : (dropReq s b).stp = s.stp := rfl
@[simp] theorem dropReq_srg (b : BatonId) : (dropReq s b).srg = s.srg := rfl
@[simp] theorem dropReq_xz (b : BatonId) : (dropReq s b).xz = s.xz := rfl
@[simp] theorem dropReq_btn (b : BatonId) : (dropReq s b).btn = s.btn := rfl
@[simp] theorem dropReq_te (b : BatonId) : (dropReq s b).te = s.te := rfl
@[simp] theorem dropReq_rly (b : BatonId) : (dropReq s b).rly = s.rly := rfl
@[simp] theorem dropReq_pac (b : BatonId) : (dropReq s b).pac = s.pac := rfl
@[simp] theorem dropReq_bib (b : BatonId) : (dropReq s b).bib = s.bib := rfl
@[simp] theorem dropReq_mar (b : BatonId) : (dropReq s b).mar = s.mar := rfl
@[simp] theorem dropReq_hif (b : BatonId) : (dropReq s b).hif = s.hif := rfl
@[simp] theorem dropReq_cap (b : BatonId) : (dropReq s b).cap = s.cap := rfl
@[simp] theorem dropReq_spi (b : BatonId) : (dropReq s b).spi = s.spi := rfl
@[simp] theorem dropReq_uar (b : BatonId) : (dropReq s b).uar = s.uar := rfl
@[simp] theorem dropReq_i2c (b : BatonId) : (dropReq s b).i2c = s.i2c := rfl
@[simp] theorem dropReq_jtg (b : BatonId) : (dropReq s b).jtg = s.jtg := rfl
@[simp] theorem dropReq_mem (b : BatonId) : (dropReq s b).mem = s.mem := rfl

@[simp] theorem setCtx_pending (t : Tenant) (c : Ctx) : (setCtx s t c).pending = s.pending := rfl
@[simp] theorem setCtx_out (t : Tenant) (c : Ctx) : (setCtx s t c).out = s.out := rfl
@[simp] theorem setCtx_free (t : Tenant) (c : Ctx) : (setCtx s t c).free = s.free := rfl
@[simp] theorem setCtx_clk (t : Tenant) (c : Ctx) : (setCtx s t c).clk = s.clk := rfl
@[simp] theorem setCtx_lap (t : Tenant) (c : Ctx) : (setCtx s t c).lap = s.lap := rfl
@[simp] theorem setCtx_glb (t : Tenant) (c : Ctx) : (setCtx s t c).glb = s.glb := rfl
@[simp] theorem setCtx_coach (t : Tenant) (c : Ctx) : (setCtx s t c).coach = s.coach := rfl
@[simp] theorem setCtx_sel (t : Tenant) (c : Ctx) : (setCtx s t c).sel = s.sel := rfl
@[simp] theorem setCtx_sta (t : Tenant) (c : Ctx) : (setCtx s t c).sta = s.sta := rfl
@[simp] theorem setCtx_fus (t : Tenant) (c : Ctx) : (setCtx s t c).fus = s.fus := rfl
@[simp] theorem setCtx_fwu (t : Tenant) (c : Ctx) : (setCtx s t c).fwu = s.fwu := rfl
@[simp] theorem setCtx_mpl (t : Tenant) (c : Ctx) : (setCtx s t c).mpl = s.mpl := rfl
@[simp] theorem setCtx_lanes (t : Tenant) (c : Ctx) : (setCtx s t c).lanes = s.lanes := rfl
@[simp] theorem setCtx_reqs (t : Tenant) (c : Ctx) : (setCtx s t c).reqs = s.reqs := rfl
@[simp] theorem setCtx_slotGen (t : Tenant) (c : Ctx) : (setCtx s t c).slotGen = s.slotGen := rfl
@[simp] theorem setCtx_jdg (t : Tenant) (c : Ctx) : (setCtx s t c).jdg = s.jdg := rfl
@[simp] theorem setCtx_stp (t : Tenant) (c : Ctx) : (setCtx s t c).stp = s.stp := rfl
@[simp] theorem setCtx_srg (t : Tenant) (c : Ctx) : (setCtx s t c).srg = s.srg := rfl
@[simp] theorem setCtx_xz (t : Tenant) (c : Ctx) : (setCtx s t c).xz = s.xz := rfl
@[simp] theorem setCtx_btn (t : Tenant) (c : Ctx) : (setCtx s t c).btn = s.btn := rfl
@[simp] theorem setCtx_te (t : Tenant) (c : Ctx) : (setCtx s t c).te = s.te := rfl
@[simp] theorem setCtx_rly (t : Tenant) (c : Ctx) : (setCtx s t c).rly = s.rly := rfl
@[simp] theorem setCtx_pac (t : Tenant) (c : Ctx) : (setCtx s t c).pac = s.pac := rfl
@[simp] theorem setCtx_bib (t : Tenant) (c : Ctx) : (setCtx s t c).bib = s.bib := rfl
@[simp] theorem setCtx_mar (t : Tenant) (c : Ctx) : (setCtx s t c).mar = s.mar := rfl
@[simp] theorem setCtx_cap (t : Tenant) (c : Ctx) : (setCtx s t c).cap = s.cap := rfl
@[simp] theorem setCtx_spi (t : Tenant) (c : Ctx) : (setCtx s t c).spi = s.spi := rfl
@[simp] theorem setCtx_uar (t : Tenant) (c : Ctx) : (setCtx s t c).uar = s.uar := rfl
@[simp] theorem setCtx_i2c (t : Tenant) (c : Ctx) : (setCtx s t c).i2c = s.i2c := rfl
@[simp] theorem setCtx_jtg (t : Tenant) (c : Ctx) : (setCtx s t c).jtg = s.jtg := rfl
@[simp] theorem setCtx_mem (t : Tenant) (c : Ctx) : (setCtx s t c).mem = s.mem := rfl

@[simp] theorem putSq_pending (q : Nat) (x : SendQ) : (putSq s q x).pending = s.pending := rfl
@[simp] theorem putSq_out (q : Nat) (x : SendQ) : (putSq s q x).out = s.out := rfl
@[simp] theorem putSq_free (q : Nat) (x : SendQ) : (putSq s q x).free = s.free := rfl
@[simp] theorem putSq_clk (q : Nat) (x : SendQ) : (putSq s q x).clk = s.clk := rfl
@[simp] theorem putSq_lap (q : Nat) (x : SendQ) : (putSq s q x).lap = s.lap := rfl
@[simp] theorem putSq_glb (q : Nat) (x : SendQ) : (putSq s q x).glb = s.glb := rfl
@[simp] theorem putSq_coach (q : Nat) (x : SendQ) : (putSq s q x).coach = s.coach := rfl
@[simp] theorem putSq_sel (q : Nat) (x : SendQ) : (putSq s q x).sel = s.sel := rfl
@[simp] theorem putSq_sta (q : Nat) (x : SendQ) : (putSq s q x).sta = s.sta := rfl
@[simp] theorem putSq_fus (q : Nat) (x : SendQ) : (putSq s q x).fus = s.fus := rfl
@[simp] theorem putSq_fwu (q : Nat) (x : SendQ) : (putSq s q x).fwu = s.fwu := rfl
@[simp] theorem putSq_mpl (q : Nat) (x : SendQ) : (putSq s q x).mpl = s.mpl := rfl
@[simp] theorem putSq_lanes (q : Nat) (x : SendQ) : (putSq s q x).lanes = s.lanes := rfl
@[simp] theorem putSq_reqs (q : Nat) (x : SendQ) : (putSq s q x).reqs = s.reqs := rfl
@[simp] theorem putSq_slotGen (q : Nat) (x : SendQ) : (putSq s q x).slotGen = s.slotGen := rfl
@[simp] theorem putSq_jdg (q : Nat) (x : SendQ) : (putSq s q x).jdg = s.jdg := rfl
@[simp] theorem putSq_stp (q : Nat) (x : SendQ) : (putSq s q x).stp = s.stp := rfl
@[simp] theorem putSq_srg (q : Nat) (x : SendQ) : (putSq s q x).srg = s.srg := rfl
@[simp] theorem putSq_xz (q : Nat) (x : SendQ) : (putSq s q x).xz = s.xz := rfl
@[simp] theorem putSq_btn (q : Nat) (x : SendQ) : (putSq s q x).btn = s.btn := rfl
@[simp] theorem putSq_rly (q : Nat) (x : SendQ) : (putSq s q x).rly = s.rly := rfl
@[simp] theorem putSq_pac (q : Nat) (x : SendQ) : (putSq s q x).pac = s.pac := rfl
@[simp] theorem putSq_bib (q : Nat) (x : SendQ) : (putSq s q x).bib = s.bib := rfl
@[simp] theorem putSq_mar (q : Nat) (x : SendQ) : (putSq s q x).mar = s.mar := rfl
@[simp] theorem putSq_hif (q : Nat) (x : SendQ) : (putSq s q x).hif = s.hif := rfl
@[simp] theorem putSq_cap (q : Nat) (x : SendQ) : (putSq s q x).cap = s.cap := rfl
@[simp] theorem putSq_spi (q : Nat) (x : SendQ) : (putSq s q x).spi = s.spi := rfl
@[simp] theorem putSq_uar (q : Nat) (x : SendQ) : (putSq s q x).uar = s.uar := rfl
@[simp] theorem putSq_i2c (q : Nat) (x : SendQ) : (putSq s q x).i2c = s.i2c := rfl
@[simp] theorem putSq_jtg (q : Nat) (x : SendQ) : (putSq s q x).jtg = s.jtg := rfl
@[simp] theorem putSq_mem (q : Nat) (x : SendQ) : (putSq s q x).mem = s.mem := rfl

@[simp] theorem putRx_pending (n : Nat) (x : RxCtx) : (putRx s n x).pending = s.pending := rfl
@[simp] theorem putRx_out (n : Nat) (x : RxCtx) : (putRx s n x).out = s.out := rfl
@[simp] theorem putRx_free (n : Nat) (x : RxCtx) : (putRx s n x).free = s.free := rfl
@[simp] theorem putRx_clk (n : Nat) (x : RxCtx) : (putRx s n x).clk = s.clk := rfl
@[simp] theorem putRx_lap (n : Nat) (x : RxCtx) : (putRx s n x).lap = s.lap := rfl
@[simp] theorem putRx_glb (n : Nat) (x : RxCtx) : (putRx s n x).glb = s.glb := rfl
@[simp] theorem putRx_coach (n : Nat) (x : RxCtx) : (putRx s n x).coach = s.coach := rfl
@[simp] theorem putRx_sel (n : Nat) (x : RxCtx) : (putRx s n x).sel = s.sel := rfl
@[simp] theorem putRx_sta (n : Nat) (x : RxCtx) : (putRx s n x).sta = s.sta := rfl
@[simp] theorem putRx_fus (n : Nat) (x : RxCtx) : (putRx s n x).fus = s.fus := rfl
@[simp] theorem putRx_fwu (n : Nat) (x : RxCtx) : (putRx s n x).fwu = s.fwu := rfl
@[simp] theorem putRx_mpl (n : Nat) (x : RxCtx) : (putRx s n x).mpl = s.mpl := rfl
@[simp] theorem putRx_lanes (n : Nat) (x : RxCtx) : (putRx s n x).lanes = s.lanes := rfl
@[simp] theorem putRx_reqs (n : Nat) (x : RxCtx) : (putRx s n x).reqs = s.reqs := rfl
@[simp] theorem putRx_slotGen (n : Nat) (x : RxCtx) : (putRx s n x).slotGen = s.slotGen := rfl
@[simp] theorem putRx_jdg (n : Nat) (x : RxCtx) : (putRx s n x).jdg = s.jdg := rfl
@[simp] theorem putRx_stp (n : Nat) (x : RxCtx) : (putRx s n x).stp = s.stp := rfl
@[simp] theorem putRx_srg (n : Nat) (x : RxCtx) : (putRx s n x).srg = s.srg := rfl
@[simp] theorem putRx_xz (n : Nat) (x : RxCtx) : (putRx s n x).xz = s.xz := rfl
@[simp] theorem putRx_btn (n : Nat) (x : RxCtx) : (putRx s n x).btn = s.btn := rfl
@[simp] theorem putRx_rly (n : Nat) (x : RxCtx) : (putRx s n x).rly = s.rly := rfl
@[simp] theorem putRx_pac (n : Nat) (x : RxCtx) : (putRx s n x).pac = s.pac := rfl
@[simp] theorem putRx_bib (n : Nat) (x : RxCtx) : (putRx s n x).bib = s.bib := rfl
@[simp] theorem putRx_mar (n : Nat) (x : RxCtx) : (putRx s n x).mar = s.mar := rfl
@[simp] theorem putRx_hif (n : Nat) (x : RxCtx) : (putRx s n x).hif = s.hif := rfl
@[simp] theorem putRx_cap (n : Nat) (x : RxCtx) : (putRx s n x).cap = s.cap := rfl
@[simp] theorem putRx_spi (n : Nat) (x : RxCtx) : (putRx s n x).spi = s.spi := rfl
@[simp] theorem putRx_uar (n : Nat) (x : RxCtx) : (putRx s n x).uar = s.uar := rfl
@[simp] theorem putRx_i2c (n : Nat) (x : RxCtx) : (putRx s n x).i2c = s.i2c := rfl
@[simp] theorem putRx_jtg (n : Nat) (x : RxCtx) : (putRx s n x).jtg = s.jtg := rfl
@[simp] theorem putRx_mem (n : Nat) (x : RxCtx) : (putRx s n x).mem = s.mem := rfl

@[simp] theorem putSysTx_pending (d : DevId) (x : SysTx) : (putSysTx s d x).pending = s.pending := rfl
@[simp] theorem putSysTx_out (d : DevId) (x : SysTx) : (putSysTx s d x).out = s.out := rfl
@[simp] theorem putSysTx_free (d : DevId) (x : SysTx) : (putSysTx s d x).free = s.free := rfl
@[simp] theorem putSysTx_clk (d : DevId) (x : SysTx) : (putSysTx s d x).clk = s.clk := rfl
@[simp] theorem putSysTx_lap (d : DevId) (x : SysTx) : (putSysTx s d x).lap = s.lap := rfl
@[simp] theorem putSysTx_glb (d : DevId) (x : SysTx) : (putSysTx s d x).glb = s.glb := rfl
@[simp] theorem putSysTx_coach (d : DevId) (x : SysTx) : (putSysTx s d x).coach = s.coach := rfl
@[simp] theorem putSysTx_sel (d : DevId) (x : SysTx) : (putSysTx s d x).sel = s.sel := rfl
@[simp] theorem putSysTx_sta (d : DevId) (x : SysTx) : (putSysTx s d x).sta = s.sta := rfl
@[simp] theorem putSysTx_fus (d : DevId) (x : SysTx) : (putSysTx s d x).fus = s.fus := rfl
@[simp] theorem putSysTx_fwu (d : DevId) (x : SysTx) : (putSysTx s d x).fwu = s.fwu := rfl
@[simp] theorem putSysTx_mpl (d : DevId) (x : SysTx) : (putSysTx s d x).mpl = s.mpl := rfl
@[simp] theorem putSysTx_lanes (d : DevId) (x : SysTx) : (putSysTx s d x).lanes = s.lanes := rfl
@[simp] theorem putSysTx_reqs (d : DevId) (x : SysTx) : (putSysTx s d x).reqs = s.reqs := rfl
@[simp] theorem putSysTx_slotGen (d : DevId) (x : SysTx) : (putSysTx s d x).slotGen = s.slotGen := rfl
@[simp] theorem putSysTx_jdg (d : DevId) (x : SysTx) : (putSysTx s d x).jdg = s.jdg := rfl
@[simp] theorem putSysTx_stp (d : DevId) (x : SysTx) : (putSysTx s d x).stp = s.stp := rfl
@[simp] theorem putSysTx_srg (d : DevId) (x : SysTx) : (putSysTx s d x).srg = s.srg := rfl
@[simp] theorem putSysTx_xz (d : DevId) (x : SysTx) : (putSysTx s d x).xz = s.xz := rfl
@[simp] theorem putSysTx_btn (d : DevId) (x : SysTx) : (putSysTx s d x).btn = s.btn := rfl
@[simp] theorem putSysTx_rly (d : DevId) (x : SysTx) : (putSysTx s d x).rly = s.rly := rfl
@[simp] theorem putSysTx_pac (d : DevId) (x : SysTx) : (putSysTx s d x).pac = s.pac := rfl
@[simp] theorem putSysTx_bib (d : DevId) (x : SysTx) : (putSysTx s d x).bib = s.bib := rfl
@[simp] theorem putSysTx_mar (d : DevId) (x : SysTx) : (putSysTx s d x).mar = s.mar := rfl
@[simp] theorem putSysTx_hif (d : DevId) (x : SysTx) : (putSysTx s d x).hif = s.hif := rfl
@[simp] theorem putSysTx_cap (d : DevId) (x : SysTx) : (putSysTx s d x).cap = s.cap := rfl
@[simp] theorem putSysTx_spi (d : DevId) (x : SysTx) : (putSysTx s d x).spi = s.spi := rfl
@[simp] theorem putSysTx_uar (d : DevId) (x : SysTx) : (putSysTx s d x).uar = s.uar := rfl
@[simp] theorem putSysTx_i2c (d : DevId) (x : SysTx) : (putSysTx s d x).i2c = s.i2c := rfl
@[simp] theorem putSysTx_jtg (d : DevId) (x : SysTx) : (putSysTx s d x).jtg = s.jtg := rfl
@[simp] theorem putSysTx_mem (d : DevId) (x : SysTx) : (putSysTx s d x).mem = s.mem := rfl

@[simp] theorem setCtr_pending (c : Nat) (v : Word) : (setCtr s c v).pending = s.pending := rfl
@[simp] theorem setCtr_out (c : Nat) (v : Word) : (setCtr s c v).out = s.out := rfl
@[simp] theorem setCtr_free (c : Nat) (v : Word) : (setCtr s c v).free = s.free := rfl
@[simp] theorem setCtr_clk (c : Nat) (v : Word) : (setCtr s c v).clk = s.clk := rfl
@[simp] theorem setCtr_lap (c : Nat) (v : Word) : (setCtr s c v).lap = s.lap := rfl
@[simp] theorem setCtr_glb (c : Nat) (v : Word) : (setCtr s c v).glb = s.glb := rfl
@[simp] theorem setCtr_coach (c : Nat) (v : Word) : (setCtr s c v).coach = s.coach := rfl
@[simp] theorem setCtr_sel (c : Nat) (v : Word) : (setCtr s c v).sel = s.sel := rfl
@[simp] theorem setCtr_sta (c : Nat) (v : Word) : (setCtr s c v).sta = s.sta := rfl
@[simp] theorem setCtr_fus (c : Nat) (v : Word) : (setCtr s c v).fus = s.fus := rfl
@[simp] theorem setCtr_fwu (c : Nat) (v : Word) : (setCtr s c v).fwu = s.fwu := rfl
@[simp] theorem setCtr_mpl (c : Nat) (v : Word) : (setCtr s c v).mpl = s.mpl := rfl
@[simp] theorem setCtr_lanes (c : Nat) (v : Word) : (setCtr s c v).lanes = s.lanes := rfl
@[simp] theorem setCtr_reqs (c : Nat) (v : Word) : (setCtr s c v).reqs = s.reqs := rfl
@[simp] theorem setCtr_slotGen (c : Nat) (v : Word) : (setCtr s c v).slotGen = s.slotGen := rfl
@[simp] theorem setCtr_jdg (c : Nat) (v : Word) : (setCtr s c v).jdg = s.jdg := rfl
@[simp] theorem setCtr_stp (c : Nat) (v : Word) : (setCtr s c v).stp = s.stp := rfl
@[simp] theorem setCtr_srg (c : Nat) (v : Word) : (setCtr s c v).srg = s.srg := rfl
@[simp] theorem setCtr_xz (c : Nat) (v : Word) : (setCtr s c v).xz = s.xz := rfl
@[simp] theorem setCtr_btn (c : Nat) (v : Word) : (setCtr s c v).btn = s.btn := rfl
@[simp] theorem setCtr_rly (c : Nat) (v : Word) : (setCtr s c v).rly = s.rly := rfl
@[simp] theorem setCtr_pac (c : Nat) (v : Word) : (setCtr s c v).pac = s.pac := rfl
@[simp] theorem setCtr_bib (c : Nat) (v : Word) : (setCtr s c v).bib = s.bib := rfl
@[simp] theorem setCtr_mar (c : Nat) (v : Word) : (setCtr s c v).mar = s.mar := rfl
@[simp] theorem setCtr_hif (c : Nat) (v : Word) : (setCtr s c v).hif = s.hif := rfl
@[simp] theorem setCtr_cap (c : Nat) (v : Word) : (setCtr s c v).cap = s.cap := rfl
@[simp] theorem setCtr_spi (c : Nat) (v : Word) : (setCtr s c v).spi = s.spi := rfl
@[simp] theorem setCtr_uar (c : Nat) (v : Word) : (setCtr s c v).uar = s.uar := rfl
@[simp] theorem setCtr_i2c (c : Nat) (v : Word) : (setCtr s c v).i2c = s.i2c := rfl
@[simp] theorem setCtr_jtg (c : Nat) (v : Word) : (setCtr s c v).jtg = s.jtg := rfl
@[simp] theorem setCtr_mem (c : Nat) (v : Word) : (setCtr s c v).mem = s.mem := rfl

@[simp] theorem placeData_pending (a : Nat) (bs : List Byte) : (placeData s a bs).pending = s.pending := rfl
@[simp] theorem placeData_out (a : Nat) (bs : List Byte) : (placeData s a bs).out = s.out := rfl
@[simp] theorem placeData_free (a : Nat) (bs : List Byte) : (placeData s a bs).free = s.free := rfl
@[simp] theorem placeData_clk (a : Nat) (bs : List Byte) : (placeData s a bs).clk = s.clk := rfl
@[simp] theorem placeData_lap (a : Nat) (bs : List Byte) : (placeData s a bs).lap = s.lap := rfl
@[simp] theorem placeData_glb (a : Nat) (bs : List Byte) : (placeData s a bs).glb = s.glb := rfl
@[simp] theorem placeData_coach (a : Nat) (bs : List Byte) : (placeData s a bs).coach = s.coach := rfl
@[simp] theorem placeData_sel (a : Nat) (bs : List Byte) : (placeData s a bs).sel = s.sel := rfl
@[simp] theorem placeData_sta (a : Nat) (bs : List Byte) : (placeData s a bs).sta = s.sta := rfl
@[simp] theorem placeData_fus (a : Nat) (bs : List Byte) : (placeData s a bs).fus = s.fus := rfl
@[simp] theorem placeData_fwu (a : Nat) (bs : List Byte) : (placeData s a bs).fwu = s.fwu := rfl
@[simp] theorem placeData_mpl (a : Nat) (bs : List Byte) : (placeData s a bs).mpl = s.mpl := rfl
@[simp] theorem placeData_lanes (a : Nat) (bs : List Byte) : (placeData s a bs).lanes = s.lanes := rfl
@[simp] theorem placeData_reqs (a : Nat) (bs : List Byte) : (placeData s a bs).reqs = s.reqs := rfl
@[simp] theorem placeData_slotGen (a : Nat) (bs : List Byte) : (placeData s a bs).slotGen = s.slotGen := rfl
@[simp] theorem placeData_jdg (a : Nat) (bs : List Byte) : (placeData s a bs).jdg = s.jdg := rfl
@[simp] theorem placeData_stp (a : Nat) (bs : List Byte) : (placeData s a bs).stp = s.stp := rfl
@[simp] theorem placeData_srg (a : Nat) (bs : List Byte) : (placeData s a bs).srg = s.srg := rfl
@[simp] theorem placeData_xz (a : Nat) (bs : List Byte) : (placeData s a bs).xz = s.xz := rfl
@[simp] theorem placeData_btn (a : Nat) (bs : List Byte) : (placeData s a bs).btn = s.btn := rfl
@[simp] theorem placeData_te (a : Nat) (bs : List Byte) : (placeData s a bs).te =
    { s.te with regions := s.te.regions.map fun g => (g.1, touchRegion s a bs.length g.2) } := rfl
@[simp] theorem placeData_mem (a : Nat) (bs : List Byte) : (placeData s a bs).mem =
    { s.mem with data := memStore s.mem.data a bs } := rfl
@[simp] theorem placeData_rly (a : Nat) (bs : List Byte) : (placeData s a bs).rly = s.rly := rfl
@[simp] theorem placeData_pac (a : Nat) (bs : List Byte) : (placeData s a bs).pac = s.pac := rfl
@[simp] theorem placeData_bib (a : Nat) (bs : List Byte) : (placeData s a bs).bib = s.bib := rfl
@[simp] theorem placeData_mar (a : Nat) (bs : List Byte) : (placeData s a bs).mar = s.mar := rfl
@[simp] theorem placeData_hif (a : Nat) (bs : List Byte) : (placeData s a bs).hif = s.hif := rfl
@[simp] theorem placeData_cap (a : Nat) (bs : List Byte) : (placeData s a bs).cap = s.cap := rfl
@[simp] theorem placeData_spi (a : Nat) (bs : List Byte) : (placeData s a bs).spi = s.spi := rfl
@[simp] theorem placeData_uar (a : Nat) (bs : List Byte) : (placeData s a bs).uar = s.uar := rfl
@[simp] theorem placeData_i2c (a : Nat) (bs : List Byte) : (placeData s a bs).i2c = s.i2c := rfl
@[simp] theorem placeData_jtg (a : Nat) (bs : List Byte) : (placeData s a bs).jtg = s.jtg := rfl

@[simp] theorem modSel_pending (a : Accessor) (f : Sel → Sel) : (modSel s a f).pending = s.pending := rfl
@[simp] theorem modSel_out (a : Accessor) (f : Sel → Sel) : (modSel s a f).out = s.out := rfl
@[simp] theorem modSel_free (a : Accessor) (f : Sel → Sel) : (modSel s a f).free = s.free := rfl
@[simp] theorem modSel_clk (a : Accessor) (f : Sel → Sel) : (modSel s a f).clk = s.clk := rfl
@[simp] theorem modSel_lap (a : Accessor) (f : Sel → Sel) : (modSel s a f).lap = s.lap := rfl
@[simp] theorem modSel_glb (a : Accessor) (f : Sel → Sel) : (modSel s a f).glb = s.glb := rfl
@[simp] theorem modSel_coach (a : Accessor) (f : Sel → Sel) : (modSel s a f).coach = s.coach := rfl
@[simp] theorem modSel_sta (a : Accessor) (f : Sel → Sel) : (modSel s a f).sta = s.sta := rfl
@[simp] theorem modSel_fus (a : Accessor) (f : Sel → Sel) : (modSel s a f).fus = s.fus := rfl
@[simp] theorem modSel_fwu (a : Accessor) (f : Sel → Sel) : (modSel s a f).fwu = s.fwu := rfl
@[simp] theorem modSel_mpl (a : Accessor) (f : Sel → Sel) : (modSel s a f).mpl = s.mpl := rfl
@[simp] theorem modSel_lanes (a : Accessor) (f : Sel → Sel) : (modSel s a f).lanes = s.lanes := rfl
@[simp] theorem modSel_reqs (a : Accessor) (f : Sel → Sel) : (modSel s a f).reqs = s.reqs := rfl
@[simp] theorem modSel_slotGen (a : Accessor) (f : Sel → Sel) : (modSel s a f).slotGen = s.slotGen := rfl
@[simp] theorem modSel_jdg (a : Accessor) (f : Sel → Sel) : (modSel s a f).jdg = s.jdg := rfl
@[simp] theorem modSel_stp (a : Accessor) (f : Sel → Sel) : (modSel s a f).stp = s.stp := rfl
@[simp] theorem modSel_srg (a : Accessor) (f : Sel → Sel) : (modSel s a f).srg = s.srg := rfl
@[simp] theorem modSel_xz (a : Accessor) (f : Sel → Sel) : (modSel s a f).xz = s.xz := rfl
@[simp] theorem modSel_btn (a : Accessor) (f : Sel → Sel) : (modSel s a f).btn = s.btn := rfl
@[simp] theorem modSel_te (a : Accessor) (f : Sel → Sel) : (modSel s a f).te = s.te := rfl
@[simp] theorem modSel_rly (a : Accessor) (f : Sel → Sel) : (modSel s a f).rly = s.rly := rfl
@[simp] theorem modSel_pac (a : Accessor) (f : Sel → Sel) : (modSel s a f).pac = s.pac := rfl
@[simp] theorem modSel_bib (a : Accessor) (f : Sel → Sel) : (modSel s a f).bib = s.bib := rfl
@[simp] theorem modSel_mar (a : Accessor) (f : Sel → Sel) : (modSel s a f).mar = s.mar := rfl
@[simp] theorem modSel_hif (a : Accessor) (f : Sel → Sel) : (modSel s a f).hif = s.hif := rfl
@[simp] theorem modSel_cap (a : Accessor) (f : Sel → Sel) : (modSel s a f).cap = s.cap := rfl
@[simp] theorem modSel_spi (a : Accessor) (f : Sel → Sel) : (modSel s a f).spi = s.spi := rfl
@[simp] theorem modSel_uar (a : Accessor) (f : Sel → Sel) : (modSel s a f).uar = s.uar := rfl
@[simp] theorem modSel_i2c (a : Accessor) (f : Sel → Sel) : (modSel s a f).i2c = s.i2c := rfl
@[simp] theorem modSel_jtg (a : Accessor) (f : Sel → Sel) : (modSel s a f).jtg = s.jtg := rfl
@[simp] theorem modSel_mem (a : Accessor) (f : Sel → Sel) : (modSel s a f).mem = s.mem := rfl

@[simp] theorem modPacPort_pending (p : Nat) (f : PacP → PacP) : (modPacPort s p f).pending = s.pending := rfl
@[simp] theorem modPacPort_out (p : Nat) (f : PacP → PacP) : (modPacPort s p f).out = s.out := rfl
@[simp] theorem modPacPort_free (p : Nat) (f : PacP → PacP) : (modPacPort s p f).free = s.free := rfl
@[simp] theorem modPacPort_clk (p : Nat) (f : PacP → PacP) : (modPacPort s p f).clk = s.clk := rfl
@[simp] theorem modPacPort_lap (p : Nat) (f : PacP → PacP) : (modPacPort s p f).lap = s.lap := rfl
@[simp] theorem modPacPort_glb (p : Nat) (f : PacP → PacP) : (modPacPort s p f).glb = s.glb := rfl
@[simp] theorem modPacPort_coach (p : Nat) (f : PacP → PacP) : (modPacPort s p f).coach = s.coach := rfl
@[simp] theorem modPacPort_sel (p : Nat) (f : PacP → PacP) : (modPacPort s p f).sel = s.sel := rfl
@[simp] theorem modPacPort_sta (p : Nat) (f : PacP → PacP) : (modPacPort s p f).sta = s.sta := rfl
@[simp] theorem modPacPort_fus (p : Nat) (f : PacP → PacP) : (modPacPort s p f).fus = s.fus := rfl
@[simp] theorem modPacPort_fwu (p : Nat) (f : PacP → PacP) : (modPacPort s p f).fwu = s.fwu := rfl
@[simp] theorem modPacPort_mpl (p : Nat) (f : PacP → PacP) : (modPacPort s p f).mpl = s.mpl := rfl
@[simp] theorem modPacPort_lanes (p : Nat) (f : PacP → PacP) : (modPacPort s p f).lanes = s.lanes := rfl
@[simp] theorem modPacPort_reqs (p : Nat) (f : PacP → PacP) : (modPacPort s p f).reqs = s.reqs := rfl
@[simp] theorem modPacPort_slotGen (p : Nat) (f : PacP → PacP) : (modPacPort s p f).slotGen = s.slotGen := rfl
@[simp] theorem modPacPort_jdg (p : Nat) (f : PacP → PacP) : (modPacPort s p f).jdg = s.jdg := rfl
@[simp] theorem modPacPort_stp (p : Nat) (f : PacP → PacP) : (modPacPort s p f).stp = s.stp := rfl
@[simp] theorem modPacPort_srg (p : Nat) (f : PacP → PacP) : (modPacPort s p f).srg = s.srg := rfl
@[simp] theorem modPacPort_xz (p : Nat) (f : PacP → PacP) : (modPacPort s p f).xz = s.xz := rfl
@[simp] theorem modPacPort_btn (p : Nat) (f : PacP → PacP) : (modPacPort s p f).btn = s.btn := rfl
@[simp] theorem modPacPort_te (p : Nat) (f : PacP → PacP) : (modPacPort s p f).te = s.te := rfl
@[simp] theorem modPacPort_rly (p : Nat) (f : PacP → PacP) : (modPacPort s p f).rly = s.rly := rfl
@[simp] theorem modPacPort_bib (p : Nat) (f : PacP → PacP) : (modPacPort s p f).bib = s.bib := rfl
@[simp] theorem modPacPort_mar (p : Nat) (f : PacP → PacP) : (modPacPort s p f).mar = s.mar := rfl
@[simp] theorem modPacPort_hif (p : Nat) (f : PacP → PacP) : (modPacPort s p f).hif = s.hif := rfl
@[simp] theorem modPacPort_cap (p : Nat) (f : PacP → PacP) : (modPacPort s p f).cap = s.cap := rfl
@[simp] theorem modPacPort_spi (p : Nat) (f : PacP → PacP) : (modPacPort s p f).spi = s.spi := rfl
@[simp] theorem modPacPort_uar (p : Nat) (f : PacP → PacP) : (modPacPort s p f).uar = s.uar := rfl
@[simp] theorem modPacPort_i2c (p : Nat) (f : PacP → PacP) : (modPacPort s p f).i2c = s.i2c := rfl
@[simp] theorem modPacPort_jtg (p : Nat) (f : PacP → PacP) : (modPacPort s p f).jtg = s.jtg := rfl
@[simp] theorem modPacPort_mem (p : Nat) (f : PacP → PacP) : (modPacPort s p f).mem = s.mem := rfl

@[simp] theorem modPacQ_pending (p q : Nat) (f : PacQ → PacQ) : (modPacQ s p q f).pending = s.pending := rfl
@[simp] theorem modPacQ_out (p q : Nat) (f : PacQ → PacQ) : (modPacQ s p q f).out = s.out := rfl
@[simp] theorem modPacQ_free (p q : Nat) (f : PacQ → PacQ) : (modPacQ s p q f).free = s.free := rfl
@[simp] theorem modPacQ_clk (p q : Nat) (f : PacQ → PacQ) : (modPacQ s p q f).clk = s.clk := rfl
@[simp] theorem modPacQ_lap (p q : Nat) (f : PacQ → PacQ) : (modPacQ s p q f).lap = s.lap := rfl
@[simp] theorem modPacQ_glb (p q : Nat) (f : PacQ → PacQ) : (modPacQ s p q f).glb = s.glb := rfl
@[simp] theorem modPacQ_coach (p q : Nat) (f : PacQ → PacQ) : (modPacQ s p q f).coach = s.coach := rfl
@[simp] theorem modPacQ_sel (p q : Nat) (f : PacQ → PacQ) : (modPacQ s p q f).sel = s.sel := rfl
@[simp] theorem modPacQ_sta (p q : Nat) (f : PacQ → PacQ) : (modPacQ s p q f).sta = s.sta := rfl
@[simp] theorem modPacQ_fus (p q : Nat) (f : PacQ → PacQ) : (modPacQ s p q f).fus = s.fus := rfl
@[simp] theorem modPacQ_fwu (p q : Nat) (f : PacQ → PacQ) : (modPacQ s p q f).fwu = s.fwu := rfl
@[simp] theorem modPacQ_mpl (p q : Nat) (f : PacQ → PacQ) : (modPacQ s p q f).mpl = s.mpl := rfl
@[simp] theorem modPacQ_lanes (p q : Nat) (f : PacQ → PacQ) : (modPacQ s p q f).lanes = s.lanes := rfl
@[simp] theorem modPacQ_reqs (p q : Nat) (f : PacQ → PacQ) : (modPacQ s p q f).reqs = s.reqs := rfl
@[simp] theorem modPacQ_slotGen (p q : Nat) (f : PacQ → PacQ) : (modPacQ s p q f).slotGen = s.slotGen := rfl
@[simp] theorem modPacQ_jdg (p q : Nat) (f : PacQ → PacQ) : (modPacQ s p q f).jdg = s.jdg := rfl
@[simp] theorem modPacQ_stp (p q : Nat) (f : PacQ → PacQ) : (modPacQ s p q f).stp = s.stp := rfl
@[simp] theorem modPacQ_srg (p q : Nat) (f : PacQ → PacQ) : (modPacQ s p q f).srg = s.srg := rfl
@[simp] theorem modPacQ_xz (p q : Nat) (f : PacQ → PacQ) : (modPacQ s p q f).xz = s.xz := rfl
@[simp] theorem modPacQ_btn (p q : Nat) (f : PacQ → PacQ) : (modPacQ s p q f).btn = s.btn := rfl
@[simp] theorem modPacQ_te (p q : Nat) (f : PacQ → PacQ) : (modPacQ s p q f).te = s.te := rfl
@[simp] theorem modPacQ_rly (p q : Nat) (f : PacQ → PacQ) : (modPacQ s p q f).rly = s.rly := rfl
@[simp] theorem modPacQ_bib (p q : Nat) (f : PacQ → PacQ) : (modPacQ s p q f).bib = s.bib := rfl
@[simp] theorem modPacQ_mar (p q : Nat) (f : PacQ → PacQ) : (modPacQ s p q f).mar = s.mar := rfl
@[simp] theorem modPacQ_hif (p q : Nat) (f : PacQ → PacQ) : (modPacQ s p q f).hif = s.hif := rfl
@[simp] theorem modPacQ_cap (p q : Nat) (f : PacQ → PacQ) : (modPacQ s p q f).cap = s.cap := rfl
@[simp] theorem modPacQ_spi (p q : Nat) (f : PacQ → PacQ) : (modPacQ s p q f).spi = s.spi := rfl
@[simp] theorem modPacQ_uar (p q : Nat) (f : PacQ → PacQ) : (modPacQ s p q f).uar = s.uar := rfl
@[simp] theorem modPacQ_i2c (p q : Nat) (f : PacQ → PacQ) : (modPacQ s p q f).i2c = s.i2c := rfl
@[simp] theorem modPacQ_jtg (p q : Nat) (f : PacQ → PacQ) : (modPacQ s p q f).jtg = s.jtg := rfl
@[simp] theorem modPacQ_mem (p q : Nat) (f : PacQ → PacQ) : (modPacQ s p q f).mem = s.mem := rfl

@[simp] theorem stpTake_pending (n : Nat) : (stpTake s n).pending = s.pending := rfl
@[simp] theorem stpTake_out (n : Nat) : (stpTake s n).out = s.out := rfl
@[simp] theorem stpTake_free (n : Nat) : (stpTake s n).free = s.free := rfl
@[simp] theorem stpTake_clk (n : Nat) : (stpTake s n).clk = s.clk := rfl
@[simp] theorem stpTake_lap (n : Nat) : (stpTake s n).lap = s.lap := rfl
@[simp] theorem stpTake_glb (n : Nat) : (stpTake s n).glb = s.glb := rfl
@[simp] theorem stpTake_coach (n : Nat) : (stpTake s n).coach = s.coach := rfl
@[simp] theorem stpTake_sel (n : Nat) : (stpTake s n).sel = s.sel := rfl
@[simp] theorem stpTake_sta (n : Nat) : (stpTake s n).sta = s.sta := rfl
@[simp] theorem stpTake_fus (n : Nat) : (stpTake s n).fus = s.fus := rfl
@[simp] theorem stpTake_fwu (n : Nat) : (stpTake s n).fwu = s.fwu := rfl
@[simp] theorem stpTake_mpl (n : Nat) : (stpTake s n).mpl = s.mpl := rfl
@[simp] theorem stpTake_lanes (n : Nat) : (stpTake s n).lanes = s.lanes := rfl
@[simp] theorem stpTake_reqs (n : Nat) : (stpTake s n).reqs = s.reqs := rfl
@[simp] theorem stpTake_slotGen (n : Nat) : (stpTake s n).slotGen = s.slotGen := rfl
@[simp] theorem stpTake_jdg (n : Nat) : (stpTake s n).jdg = s.jdg := rfl
@[simp] theorem stpTake_srg (n : Nat) : (stpTake s n).srg = s.srg := rfl
@[simp] theorem stpTake_xz (n : Nat) : (stpTake s n).xz = s.xz := rfl
@[simp] theorem stpTake_btn (n : Nat) : (stpTake s n).btn = s.btn := rfl
@[simp] theorem stpTake_te (n : Nat) : (stpTake s n).te = s.te := rfl
@[simp] theorem stpTake_rly (n : Nat) : (stpTake s n).rly = s.rly := rfl
@[simp] theorem stpTake_pac (n : Nat) : (stpTake s n).pac = s.pac := rfl
@[simp] theorem stpTake_bib (n : Nat) : (stpTake s n).bib = s.bib := rfl
@[simp] theorem stpTake_mar (n : Nat) : (stpTake s n).mar = s.mar := rfl
@[simp] theorem stpTake_hif (n : Nat) : (stpTake s n).hif = s.hif := rfl
@[simp] theorem stpTake_cap (n : Nat) : (stpTake s n).cap = s.cap := rfl
@[simp] theorem stpTake_spi (n : Nat) : (stpTake s n).spi = s.spi := rfl
@[simp] theorem stpTake_uar (n : Nat) : (stpTake s n).uar = s.uar := rfl
@[simp] theorem stpTake_i2c (n : Nat) : (stpTake s n).i2c = s.i2c := rfl
@[simp] theorem stpTake_jtg (n : Nat) : (stpTake s n).jtg = s.jtg := rfl
@[simp] theorem stpTake_mem (n : Nat) : (stpTake s n).mem = s.mem := rfl

@[simp] theorem stpGive_pending (n : Nat) : (stpGive s n).pending = s.pending := rfl
@[simp] theorem stpGive_out (n : Nat) : (stpGive s n).out = s.out := rfl
@[simp] theorem stpGive_free (n : Nat) : (stpGive s n).free = s.free := rfl
@[simp] theorem stpGive_clk (n : Nat) : (stpGive s n).clk = s.clk := rfl
@[simp] theorem stpGive_lap (n : Nat) : (stpGive s n).lap = s.lap := rfl
@[simp] theorem stpGive_glb (n : Nat) : (stpGive s n).glb = s.glb := rfl
@[simp] theorem stpGive_coach (n : Nat) : (stpGive s n).coach = s.coach := rfl
@[simp] theorem stpGive_sel (n : Nat) : (stpGive s n).sel = s.sel := rfl
@[simp] theorem stpGive_sta (n : Nat) : (stpGive s n).sta = s.sta := rfl
@[simp] theorem stpGive_fus (n : Nat) : (stpGive s n).fus = s.fus := rfl
@[simp] theorem stpGive_fwu (n : Nat) : (stpGive s n).fwu = s.fwu := rfl
@[simp] theorem stpGive_mpl (n : Nat) : (stpGive s n).mpl = s.mpl := rfl
@[simp] theorem stpGive_lanes (n : Nat) : (stpGive s n).lanes = s.lanes := rfl
@[simp] theorem stpGive_reqs (n : Nat) : (stpGive s n).reqs = s.reqs := rfl
@[simp] theorem stpGive_slotGen (n : Nat) : (stpGive s n).slotGen = s.slotGen := rfl
@[simp] theorem stpGive_jdg (n : Nat) : (stpGive s n).jdg = s.jdg := rfl
@[simp] theorem stpGive_srg (n : Nat) : (stpGive s n).srg = s.srg := rfl
@[simp] theorem stpGive_xz (n : Nat) : (stpGive s n).xz = s.xz := rfl
@[simp] theorem stpGive_btn (n : Nat) : (stpGive s n).btn = s.btn := rfl
@[simp] theorem stpGive_te (n : Nat) : (stpGive s n).te = s.te := rfl
@[simp] theorem stpGive_rly (n : Nat) : (stpGive s n).rly = s.rly := rfl
@[simp] theorem stpGive_pac (n : Nat) : (stpGive s n).pac = s.pac := rfl
@[simp] theorem stpGive_bib (n : Nat) : (stpGive s n).bib = s.bib := rfl
@[simp] theorem stpGive_mar (n : Nat) : (stpGive s n).mar = s.mar := rfl
@[simp] theorem stpGive_hif (n : Nat) : (stpGive s n).hif = s.hif := rfl
@[simp] theorem stpGive_cap (n : Nat) : (stpGive s n).cap = s.cap := rfl
@[simp] theorem stpGive_spi (n : Nat) : (stpGive s n).spi = s.spi := rfl
@[simp] theorem stpGive_uar (n : Nat) : (stpGive s n).uar = s.uar := rfl
@[simp] theorem stpGive_i2c (n : Nat) : (stpGive s n).i2c = s.i2c := rfl
@[simp] theorem stpGive_jtg (n : Nat) : (stpGive s n).jtg = s.jtg := rfl
@[simp] theorem stpGive_mem (n : Nat) : (stpGive s n).mem = s.mem := rfl

@[simp] theorem setStack_pending (n : LaneNo) (m : Mem) : (setStack s n m).pending = s.pending := rfl
@[simp] theorem setStack_out (n : LaneNo) (m : Mem) : (setStack s n m).out = s.out := rfl
@[simp] theorem setStack_free (n : LaneNo) (m : Mem) : (setStack s n m).free = s.free := rfl
@[simp] theorem setStack_clk (n : LaneNo) (m : Mem) : (setStack s n m).clk = s.clk := rfl
@[simp] theorem setStack_lap (n : LaneNo) (m : Mem) : (setStack s n m).lap = s.lap := rfl
@[simp] theorem setStack_glb (n : LaneNo) (m : Mem) : (setStack s n m).glb = s.glb := rfl
@[simp] theorem setStack_coach (n : LaneNo) (m : Mem) : (setStack s n m).coach = s.coach := rfl
@[simp] theorem setStack_sel (n : LaneNo) (m : Mem) : (setStack s n m).sel = s.sel := rfl
@[simp] theorem setStack_sta (n : LaneNo) (m : Mem) : (setStack s n m).sta = s.sta := rfl
@[simp] theorem setStack_fus (n : LaneNo) (m : Mem) : (setStack s n m).fus = s.fus := rfl
@[simp] theorem setStack_fwu (n : LaneNo) (m : Mem) : (setStack s n m).fwu = s.fwu := rfl
@[simp] theorem setStack_mpl (n : LaneNo) (m : Mem) : (setStack s n m).mpl = s.mpl := rfl
@[simp] theorem setStack_lanes (n : LaneNo) (m : Mem) : (setStack s n m).lanes = s.lanes := rfl
@[simp] theorem setStack_reqs (n : LaneNo) (m : Mem) : (setStack s n m).reqs = s.reqs := rfl
@[simp] theorem setStack_slotGen (n : LaneNo) (m : Mem) : (setStack s n m).slotGen = s.slotGen := rfl
@[simp] theorem setStack_jdg (n : LaneNo) (m : Mem) : (setStack s n m).jdg = s.jdg := rfl
@[simp] theorem setStack_stp (n : LaneNo) (m : Mem) : (setStack s n m).stp = s.stp := rfl
@[simp] theorem setStack_srg (n : LaneNo) (m : Mem) : (setStack s n m).srg = s.srg := rfl
@[simp] theorem setStack_xz (n : LaneNo) (m : Mem) : (setStack s n m).xz = s.xz := rfl
@[simp] theorem setStack_btn (n : LaneNo) (m : Mem) : (setStack s n m).btn = s.btn := rfl
@[simp] theorem setStack_te (n : LaneNo) (m : Mem) : (setStack s n m).te = s.te := rfl
@[simp] theorem setStack_rly (n : LaneNo) (m : Mem) : (setStack s n m).rly = s.rly := rfl
@[simp] theorem setStack_pac (n : LaneNo) (m : Mem) : (setStack s n m).pac = s.pac := rfl
@[simp] theorem setStack_bib (n : LaneNo) (m : Mem) : (setStack s n m).bib = s.bib := rfl
@[simp] theorem setStack_mar (n : LaneNo) (m : Mem) : (setStack s n m).mar = s.mar := rfl
@[simp] theorem setStack_hif (n : LaneNo) (m : Mem) : (setStack s n m).hif = s.hif := rfl
@[simp] theorem setStack_cap (n : LaneNo) (m : Mem) : (setStack s n m).cap = s.cap := rfl
@[simp] theorem setStack_spi (n : LaneNo) (m : Mem) : (setStack s n m).spi = s.spi := rfl
@[simp] theorem setStack_uar (n : LaneNo) (m : Mem) : (setStack s n m).uar = s.uar := rfl
@[simp] theorem setStack_i2c (n : LaneNo) (m : Mem) : (setStack s n m).i2c = s.i2c := rfl
@[simp] theorem setStack_jtg (n : LaneNo) (m : Mem) : (setStack s n m).jtg = s.jtg := rfl

@[simp] theorem modLeg_pending (i : Nat) (f : Leg → Leg) : (modLeg s i f).pending = s.pending := rfl
@[simp] theorem modLeg_out (i : Nat) (f : Leg → Leg) : (modLeg s i f).out = s.out := rfl
@[simp] theorem modLeg_free (i : Nat) (f : Leg → Leg) : (modLeg s i f).free = s.free := rfl
@[simp] theorem modLeg_clk (i : Nat) (f : Leg → Leg) : (modLeg s i f).clk = s.clk := rfl
@[simp] theorem modLeg_lap (i : Nat) (f : Leg → Leg) : (modLeg s i f).lap = s.lap := rfl
@[simp] theorem modLeg_glb (i : Nat) (f : Leg → Leg) : (modLeg s i f).glb = s.glb := rfl
@[simp] theorem modLeg_coach (i : Nat) (f : Leg → Leg) : (modLeg s i f).coach = s.coach := rfl
@[simp] theorem modLeg_sel (i : Nat) (f : Leg → Leg) : (modLeg s i f).sel = s.sel := rfl
@[simp] theorem modLeg_sta (i : Nat) (f : Leg → Leg) : (modLeg s i f).sta = s.sta := rfl
@[simp] theorem modLeg_fus (i : Nat) (f : Leg → Leg) : (modLeg s i f).fus = s.fus := rfl
@[simp] theorem modLeg_fwu (i : Nat) (f : Leg → Leg) : (modLeg s i f).fwu = s.fwu := rfl
@[simp] theorem modLeg_mpl (i : Nat) (f : Leg → Leg) : (modLeg s i f).mpl = s.mpl := rfl
@[simp] theorem modLeg_lanes (i : Nat) (f : Leg → Leg) : (modLeg s i f).lanes = s.lanes := rfl
@[simp] theorem modLeg_reqs (i : Nat) (f : Leg → Leg) : (modLeg s i f).reqs = s.reqs := rfl
@[simp] theorem modLeg_slotGen (i : Nat) (f : Leg → Leg) : (modLeg s i f).slotGen = s.slotGen := rfl
@[simp] theorem modLeg_jdg (i : Nat) (f : Leg → Leg) : (modLeg s i f).jdg = s.jdg := rfl
@[simp] theorem modLeg_stp (i : Nat) (f : Leg → Leg) : (modLeg s i f).stp = s.stp := rfl
@[simp] theorem modLeg_srg (i : Nat) (f : Leg → Leg) : (modLeg s i f).srg = s.srg := rfl
@[simp] theorem modLeg_xz (i : Nat) (f : Leg → Leg) : (modLeg s i f).xz = s.xz := rfl
@[simp] theorem modLeg_te (i : Nat) (f : Leg → Leg) : (modLeg s i f).te = s.te := rfl
@[simp] theorem modLeg_rly (i : Nat) (f : Leg → Leg) : (modLeg s i f).rly = s.rly := rfl
@[simp] theorem modLeg_pac (i : Nat) (f : Leg → Leg) : (modLeg s i f).pac = s.pac := rfl
@[simp] theorem modLeg_bib (i : Nat) (f : Leg → Leg) : (modLeg s i f).bib = s.bib := rfl
@[simp] theorem modLeg_mar (i : Nat) (f : Leg → Leg) : (modLeg s i f).mar = s.mar := rfl
@[simp] theorem modLeg_hif (i : Nat) (f : Leg → Leg) : (modLeg s i f).hif = s.hif := rfl
@[simp] theorem modLeg_cap (i : Nat) (f : Leg → Leg) : (modLeg s i f).cap = s.cap := rfl
@[simp] theorem modLeg_spi (i : Nat) (f : Leg → Leg) : (modLeg s i f).spi = s.spi := rfl
@[simp] theorem modLeg_uar (i : Nat) (f : Leg → Leg) : (modLeg s i f).uar = s.uar := rfl
@[simp] theorem modLeg_i2c (i : Nat) (f : Leg → Leg) : (modLeg s i f).i2c = s.i2c := rfl
@[simp] theorem modLeg_jtg (i : Nat) (f : Leg → Leg) : (modLeg s i f).jtg = s.jtg := rfl
@[simp] theorem modLeg_mem (i : Nat) (f : Leg → Leg) : (modLeg s i f).mem = s.mem := rfl

@[simp] theorem dropLeg_pending (i : Nat) : (dropLeg s i).pending = s.pending := rfl
@[simp] theorem dropLeg_out (i : Nat) : (dropLeg s i).out = s.out := rfl
@[simp] theorem dropLeg_free (i : Nat) : (dropLeg s i).free = s.free := rfl
@[simp] theorem dropLeg_clk (i : Nat) : (dropLeg s i).clk = s.clk := rfl
@[simp] theorem dropLeg_lap (i : Nat) : (dropLeg s i).lap = s.lap := rfl
@[simp] theorem dropLeg_glb (i : Nat) : (dropLeg s i).glb = s.glb := rfl
@[simp] theorem dropLeg_coach (i : Nat) : (dropLeg s i).coach = s.coach := rfl
@[simp] theorem dropLeg_sel (i : Nat) : (dropLeg s i).sel = s.sel := rfl
@[simp] theorem dropLeg_sta (i : Nat) : (dropLeg s i).sta = s.sta := rfl
@[simp] theorem dropLeg_fus (i : Nat) : (dropLeg s i).fus = s.fus := rfl
@[simp] theorem dropLeg_fwu (i : Nat) : (dropLeg s i).fwu = s.fwu := rfl
@[simp] theorem dropLeg_mpl (i : Nat) : (dropLeg s i).mpl = s.mpl := rfl
@[simp] theorem dropLeg_lanes (i : Nat) : (dropLeg s i).lanes = s.lanes := rfl
@[simp] theorem dropLeg_reqs (i : Nat) : (dropLeg s i).reqs = s.reqs := rfl
@[simp] theorem dropLeg_slotGen (i : Nat) : (dropLeg s i).slotGen = s.slotGen := rfl
@[simp] theorem dropLeg_jdg (i : Nat) : (dropLeg s i).jdg = s.jdg := rfl
@[simp] theorem dropLeg_stp (i : Nat) : (dropLeg s i).stp = s.stp := rfl
@[simp] theorem dropLeg_srg (i : Nat) : (dropLeg s i).srg = s.srg := rfl
@[simp] theorem dropLeg_xz (i : Nat) : (dropLeg s i).xz = s.xz := rfl
@[simp] theorem dropLeg_te (i : Nat) : (dropLeg s i).te = s.te := rfl
@[simp] theorem dropLeg_rly (i : Nat) : (dropLeg s i).rly = s.rly := rfl
@[simp] theorem dropLeg_pac (i : Nat) : (dropLeg s i).pac = s.pac := rfl
@[simp] theorem dropLeg_bib (i : Nat) : (dropLeg s i).bib = s.bib := rfl
@[simp] theorem dropLeg_mar (i : Nat) : (dropLeg s i).mar = s.mar := rfl
@[simp] theorem dropLeg_hif (i : Nat) : (dropLeg s i).hif = s.hif := rfl
@[simp] theorem dropLeg_cap (i : Nat) : (dropLeg s i).cap = s.cap := rfl
@[simp] theorem dropLeg_spi (i : Nat) : (dropLeg s i).spi = s.spi := rfl
@[simp] theorem dropLeg_uar (i : Nat) : (dropLeg s i).uar = s.uar := rfl
@[simp] theorem dropLeg_i2c (i : Nat) : (dropLeg s i).i2c = s.i2c := rfl
@[simp] theorem dropLeg_jtg (i : Nat) : (dropLeg s i).jtg = s.jtg := rfl
@[simp] theorem dropLeg_mem (i : Nat) : (dropLeg s i).mem = s.mem := rfl

@[simp] theorem modBoot_pending (f : Boot → Boot) : (modBoot s f).pending = s.pending := rfl
@[simp] theorem modBoot_out (f : Boot → Boot) : (modBoot s f).out = s.out := rfl
@[simp] theorem modBoot_free (f : Boot → Boot) : (modBoot s f).free = s.free := rfl
@[simp] theorem modBoot_clk (f : Boot → Boot) : (modBoot s f).clk = s.clk := rfl
@[simp] theorem modBoot_lap (f : Boot → Boot) : (modBoot s f).lap = s.lap := rfl
@[simp] theorem modBoot_glb (f : Boot → Boot) : (modBoot s f).glb = s.glb := rfl
@[simp] theorem modBoot_coach (f : Boot → Boot) : (modBoot s f).coach = s.coach := rfl
@[simp] theorem modBoot_sel (f : Boot → Boot) : (modBoot s f).sel = s.sel := rfl
@[simp] theorem modBoot_fus (f : Boot → Boot) : (modBoot s f).fus = s.fus := rfl
@[simp] theorem modBoot_fwu (f : Boot → Boot) : (modBoot s f).fwu = s.fwu := rfl
@[simp] theorem modBoot_mpl (f : Boot → Boot) : (modBoot s f).mpl = s.mpl := rfl
@[simp] theorem modBoot_lanes (f : Boot → Boot) : (modBoot s f).lanes = s.lanes := rfl
@[simp] theorem modBoot_reqs (f : Boot → Boot) : (modBoot s f).reqs = s.reqs := rfl
@[simp] theorem modBoot_slotGen (f : Boot → Boot) : (modBoot s f).slotGen = s.slotGen := rfl
@[simp] theorem modBoot_jdg (f : Boot → Boot) : (modBoot s f).jdg = s.jdg := rfl
@[simp] theorem modBoot_stp (f : Boot → Boot) : (modBoot s f).stp = s.stp := rfl
@[simp] theorem modBoot_srg (f : Boot → Boot) : (modBoot s f).srg = s.srg := rfl
@[simp] theorem modBoot_xz (f : Boot → Boot) : (modBoot s f).xz = s.xz := rfl
@[simp] theorem modBoot_btn (f : Boot → Boot) : (modBoot s f).btn = s.btn := rfl
@[simp] theorem modBoot_te (f : Boot → Boot) : (modBoot s f).te = s.te := rfl
@[simp] theorem modBoot_rly (f : Boot → Boot) : (modBoot s f).rly = s.rly := rfl
@[simp] theorem modBoot_pac (f : Boot → Boot) : (modBoot s f).pac = s.pac := rfl
@[simp] theorem modBoot_bib (f : Boot → Boot) : (modBoot s f).bib = s.bib := rfl
@[simp] theorem modBoot_mar (f : Boot → Boot) : (modBoot s f).mar = s.mar := rfl
@[simp] theorem modBoot_hif (f : Boot → Boot) : (modBoot s f).hif = s.hif := rfl
@[simp] theorem modBoot_cap (f : Boot → Boot) : (modBoot s f).cap = s.cap := rfl
@[simp] theorem modBoot_spi (f : Boot → Boot) : (modBoot s f).spi = s.spi := rfl
@[simp] theorem modBoot_uar (f : Boot → Boot) : (modBoot s f).uar = s.uar := rfl
@[simp] theorem modBoot_i2c (f : Boot → Boot) : (modBoot s f).i2c = s.i2c := rfl
@[simp] theorem modBoot_jtg (f : Boot → Boot) : (modBoot s f).jtg = s.jtg := rfl
@[simp] theorem modBoot_mem (f : Boot → Boot) : (modBoot s f).mem = s.mem := rfl

@[simp] theorem modRounds_pending (f : Rounds → Rounds) : (modRounds s f).pending = s.pending := rfl
@[simp] theorem modRounds_out (f : Rounds → Rounds) : (modRounds s f).out = s.out := rfl
@[simp] theorem modRounds_free (f : Rounds → Rounds) : (modRounds s f).free = s.free := rfl
@[simp] theorem modRounds_clk (f : Rounds → Rounds) : (modRounds s f).clk = s.clk := rfl
@[simp] theorem modRounds_lap (f : Rounds → Rounds) : (modRounds s f).lap = s.lap := rfl
@[simp] theorem modRounds_glb (f : Rounds → Rounds) : (modRounds s f).glb = s.glb := rfl
@[simp] theorem modRounds_coach (f : Rounds → Rounds) : (modRounds s f).coach = s.coach := rfl
@[simp] theorem modRounds_sel (f : Rounds → Rounds) : (modRounds s f).sel = s.sel := rfl
@[simp] theorem modRounds_sta (f : Rounds → Rounds) : (modRounds s f).sta = s.sta := rfl
@[simp] theorem modRounds_fus (f : Rounds → Rounds) : (modRounds s f).fus = s.fus := rfl
@[simp] theorem modRounds_fwu (f : Rounds → Rounds) : (modRounds s f).fwu = s.fwu := rfl
@[simp] theorem modRounds_mpl (f : Rounds → Rounds) : (modRounds s f).mpl = s.mpl := rfl
@[simp] theorem modRounds_lanes (f : Rounds → Rounds) : (modRounds s f).lanes = s.lanes := rfl
@[simp] theorem modRounds_reqs (f : Rounds → Rounds) : (modRounds s f).reqs = s.reqs := rfl
@[simp] theorem modRounds_slotGen (f : Rounds → Rounds) : (modRounds s f).slotGen = s.slotGen := rfl
@[simp] theorem modRounds_jdg (f : Rounds → Rounds) : (modRounds s f).jdg = s.jdg := rfl
@[simp] theorem modRounds_stp (f : Rounds → Rounds) : (modRounds s f).stp = s.stp := rfl
@[simp] theorem modRounds_srg (f : Rounds → Rounds) : (modRounds s f).srg = s.srg := rfl
@[simp] theorem modRounds_xz (f : Rounds → Rounds) : (modRounds s f).xz = s.xz := rfl
@[simp] theorem modRounds_btn (f : Rounds → Rounds) : (modRounds s f).btn = s.btn := rfl
@[simp] theorem modRounds_te (f : Rounds → Rounds) : (modRounds s f).te = s.te := rfl
@[simp] theorem modRounds_rly (f : Rounds → Rounds) : (modRounds s f).rly = s.rly := rfl
@[simp] theorem modRounds_pac (f : Rounds → Rounds) : (modRounds s f).pac = s.pac := rfl
@[simp] theorem modRounds_bib (f : Rounds → Rounds) : (modRounds s f).bib = s.bib := rfl
@[simp] theorem modRounds_hif (f : Rounds → Rounds) : (modRounds s f).hif = s.hif := rfl
@[simp] theorem modRounds_cap (f : Rounds → Rounds) : (modRounds s f).cap = s.cap := rfl
@[simp] theorem modRounds_spi (f : Rounds → Rounds) : (modRounds s f).spi = s.spi := rfl
@[simp] theorem modRounds_uar (f : Rounds → Rounds) : (modRounds s f).uar = s.uar := rfl
@[simp] theorem modRounds_i2c (f : Rounds → Rounds) : (modRounds s f).i2c = s.i2c := rfl
@[simp] theorem modRounds_jtg (f : Rounds → Rounds) : (modRounds s f).jtg = s.jtg := rfl
@[simp] theorem modRounds_mem (f : Rounds → Rounds) : (modRounds s f).mem = s.mem := rfl

@[simp] theorem takeFree_pending : (takeFree s).2.pending = s.pending := rfl
@[simp] theorem takeFree_out : (takeFree s).2.out = s.out := rfl
@[simp] theorem takeFree_clk : (takeFree s).2.clk = s.clk := rfl
@[simp] theorem takeFree_lap : (takeFree s).2.lap = s.lap := rfl
@[simp] theorem takeFree_glb : (takeFree s).2.glb = s.glb := rfl
@[simp] theorem takeFree_coach : (takeFree s).2.coach = s.coach := rfl
@[simp] theorem takeFree_sel : (takeFree s).2.sel = s.sel := rfl
@[simp] theorem takeFree_sta : (takeFree s).2.sta = s.sta := rfl
@[simp] theorem takeFree_fus : (takeFree s).2.fus = s.fus := rfl
@[simp] theorem takeFree_fwu : (takeFree s).2.fwu = s.fwu := rfl
@[simp] theorem takeFree_mpl : (takeFree s).2.mpl = s.mpl := rfl
@[simp] theorem takeFree_lanes : (takeFree s).2.lanes = s.lanes := rfl
@[simp] theorem takeFree_reqs : (takeFree s).2.reqs = s.reqs := rfl
@[simp] theorem takeFree_slotGen : (takeFree s).2.slotGen = s.slotGen := rfl
@[simp] theorem takeFree_jdg : (takeFree s).2.jdg = s.jdg := rfl
@[simp] theorem takeFree_stp : (takeFree s).2.stp = s.stp := rfl
@[simp] theorem takeFree_srg : (takeFree s).2.srg = s.srg := rfl
@[simp] theorem takeFree_xz : (takeFree s).2.xz = s.xz := rfl
@[simp] theorem takeFree_btn : (takeFree s).2.btn = s.btn := rfl
@[simp] theorem takeFree_te : (takeFree s).2.te = s.te := rfl
@[simp] theorem takeFree_rly : (takeFree s).2.rly = s.rly := rfl
@[simp] theorem takeFree_pac : (takeFree s).2.pac = s.pac := rfl
@[simp] theorem takeFree_bib : (takeFree s).2.bib = s.bib := rfl
@[simp] theorem takeFree_mar : (takeFree s).2.mar = s.mar := rfl
@[simp] theorem takeFree_hif : (takeFree s).2.hif = s.hif := rfl
@[simp] theorem takeFree_cap : (takeFree s).2.cap = s.cap := rfl
@[simp] theorem takeFree_spi : (takeFree s).2.spi = s.spi := rfl
@[simp] theorem takeFree_uar : (takeFree s).2.uar = s.uar := rfl
@[simp] theorem takeFree_i2c : (takeFree s).2.i2c = s.i2c := rfl
@[simp] theorem takeFree_jtg : (takeFree s).2.jtg = s.jtg := rfl
@[simp] theorem takeFree_mem : (takeFree s).2.mem = s.mem := rfl

@[simp] theorem modReplay_pending (b : BatonId) (f : Req → Req) : (modReplay s b f).pending = s.pending := rfl
@[simp] theorem modReplay_out (b : BatonId) (f : Req → Req) : (modReplay s b f).out = s.out := rfl
@[simp] theorem modReplay_free (b : BatonId) (f : Req → Req) : (modReplay s b f).free = s.free := rfl
@[simp] theorem modReplay_clk (b : BatonId) (f : Req → Req) : (modReplay s b f).clk = s.clk := rfl
@[simp] theorem modReplay_lap (b : BatonId) (f : Req → Req) : (modReplay s b f).lap = s.lap := rfl
@[simp] theorem modReplay_glb (b : BatonId) (f : Req → Req) : (modReplay s b f).glb = s.glb := rfl
@[simp] theorem modReplay_coach (b : BatonId) (f : Req → Req) : (modReplay s b f).coach = s.coach := rfl
@[simp] theorem modReplay_sel (b : BatonId) (f : Req → Req) : (modReplay s b f).sel = s.sel := rfl
@[simp] theorem modReplay_sta (b : BatonId) (f : Req → Req) : (modReplay s b f).sta = s.sta := rfl
@[simp] theorem modReplay_fus (b : BatonId) (f : Req → Req) : (modReplay s b f).fus = s.fus := rfl
@[simp] theorem modReplay_fwu (b : BatonId) (f : Req → Req) : (modReplay s b f).fwu = s.fwu := rfl
@[simp] theorem modReplay_mpl (b : BatonId) (f : Req → Req) : (modReplay s b f).mpl = s.mpl := rfl
@[simp] theorem modReplay_lanes (b : BatonId) (f : Req → Req) : (modReplay s b f).lanes = s.lanes := rfl
@[simp] theorem modReplay_reqs (b : BatonId) (f : Req → Req) : (modReplay s b f).reqs = s.reqs := rfl
@[simp] theorem modReplay_slotGen (b : BatonId) (f : Req → Req) : (modReplay s b f).slotGen = s.slotGen := rfl
@[simp] theorem modReplay_jdg (b : BatonId) (f : Req → Req) : (modReplay s b f).jdg = s.jdg := rfl
@[simp] theorem modReplay_stp (b : BatonId) (f : Req → Req) : (modReplay s b f).stp = s.stp := rfl
@[simp] theorem modReplay_srg (b : BatonId) (f : Req → Req) : (modReplay s b f).srg = s.srg := rfl
@[simp] theorem modReplay_xz (b : BatonId) (f : Req → Req) : (modReplay s b f).xz = s.xz := rfl
@[simp] theorem modReplay_te (b : BatonId) (f : Req → Req) : (modReplay s b f).te = s.te := rfl
@[simp] theorem modReplay_rly (b : BatonId) (f : Req → Req) : (modReplay s b f).rly = s.rly := rfl
@[simp] theorem modReplay_pac (b : BatonId) (f : Req → Req) : (modReplay s b f).pac = s.pac := rfl
@[simp] theorem modReplay_bib (b : BatonId) (f : Req → Req) : (modReplay s b f).bib = s.bib := rfl
@[simp] theorem modReplay_mar (b : BatonId) (f : Req → Req) : (modReplay s b f).mar = s.mar := rfl
@[simp] theorem modReplay_hif (b : BatonId) (f : Req → Req) : (modReplay s b f).hif = s.hif := rfl
@[simp] theorem modReplay_cap (b : BatonId) (f : Req → Req) : (modReplay s b f).cap = s.cap := rfl
@[simp] theorem modReplay_spi (b : BatonId) (f : Req → Req) : (modReplay s b f).spi = s.spi := rfl
@[simp] theorem modReplay_uar (b : BatonId) (f : Req → Req) : (modReplay s b f).uar = s.uar := rfl
@[simp] theorem modReplay_i2c (b : BatonId) (f : Req → Req) : (modReplay s b f).i2c = s.i2c := rfl
@[simp] theorem modReplay_jtg (b : BatonId) (f : Req → Req) : (modReplay s b f).jtg = s.jtg := rfl
@[simp] theorem modReplay_mem (b : BatonId) (f : Req → Req) : (modReplay s b f).mem = s.mem := rfl

@[simp] theorem dropReplay_pending (b : BatonId) : (dropReplay s b).pending = s.pending := rfl
@[simp] theorem dropReplay_out (b : BatonId) : (dropReplay s b).out = s.out := rfl
@[simp] theorem dropReplay_free (b : BatonId) : (dropReplay s b).free = s.free := rfl
@[simp] theorem dropReplay_clk (b : BatonId) : (dropReplay s b).clk = s.clk := rfl
@[simp] theorem dropReplay_lap (b : BatonId) : (dropReplay s b).lap = s.lap := rfl
@[simp] theorem dropReplay_glb (b : BatonId) : (dropReplay s b).glb = s.glb := rfl
@[simp] theorem dropReplay_coach (b : BatonId) : (dropReplay s b).coach = s.coach := rfl
@[simp] theorem dropReplay_sel (b : BatonId) : (dropReplay s b).sel = s.sel := rfl
@[simp] theorem dropReplay_sta (b : BatonId) : (dropReplay s b).sta = s.sta := rfl
@[simp] theorem dropReplay_fus (b : BatonId) : (dropReplay s b).fus = s.fus := rfl
@[simp] theorem dropReplay_fwu (b : BatonId) : (dropReplay s b).fwu = s.fwu := rfl
@[simp] theorem dropReplay_mpl (b : BatonId) : (dropReplay s b).mpl = s.mpl := rfl
@[simp] theorem dropReplay_lanes (b : BatonId) : (dropReplay s b).lanes = s.lanes := rfl
@[simp] theorem dropReplay_reqs (b : BatonId) : (dropReplay s b).reqs = s.reqs := rfl
@[simp] theorem dropReplay_slotGen (b : BatonId) : (dropReplay s b).slotGen = s.slotGen := rfl
@[simp] theorem dropReplay_jdg (b : BatonId) : (dropReplay s b).jdg = s.jdg := rfl
@[simp] theorem dropReplay_stp (b : BatonId) : (dropReplay s b).stp = s.stp := rfl
@[simp] theorem dropReplay_srg (b : BatonId) : (dropReplay s b).srg = s.srg := rfl
@[simp] theorem dropReplay_xz (b : BatonId) : (dropReplay s b).xz = s.xz := rfl
@[simp] theorem dropReplay_te (b : BatonId) : (dropReplay s b).te = s.te := rfl
@[simp] theorem dropReplay_rly (b : BatonId) : (dropReplay s b).rly = s.rly := rfl
@[simp] theorem dropReplay_pac (b : BatonId) : (dropReplay s b).pac = s.pac := rfl
@[simp] theorem dropReplay_bib (b : BatonId) : (dropReplay s b).bib = s.bib := rfl
@[simp] theorem dropReplay_mar (b : BatonId) : (dropReplay s b).mar = s.mar := rfl
@[simp] theorem dropReplay_hif (b : BatonId) : (dropReplay s b).hif = s.hif := rfl
@[simp] theorem dropReplay_cap (b : BatonId) : (dropReplay s b).cap = s.cap := rfl
@[simp] theorem dropReplay_spi (b : BatonId) : (dropReplay s b).spi = s.spi := rfl
@[simp] theorem dropReplay_uar (b : BatonId) : (dropReplay s b).uar = s.uar := rfl
@[simp] theorem dropReplay_i2c (b : BatonId) : (dropReplay s b).i2c = s.i2c := rfl
@[simp] theorem dropReplay_jtg (b : BatonId) : (dropReplay s b).jtg = s.jtg := rfl
@[simp] theorem dropReplay_mem (b : BatonId) : (dropReplay s b).mem = s.mem := rfl

@[simp] theorem queuePull_pending (b : BatonId) (c : ReqCmd) : (queuePull s b c).pending = s.pending := rfl
@[simp] theorem queuePull_out (b : BatonId) (c : ReqCmd) : (queuePull s b c).out = s.out := rfl
@[simp] theorem queuePull_free (b : BatonId) (c : ReqCmd) : (queuePull s b c).free = s.free := rfl
@[simp] theorem queuePull_clk (b : BatonId) (c : ReqCmd) : (queuePull s b c).clk = s.clk := rfl
@[simp] theorem queuePull_lap (b : BatonId) (c : ReqCmd) : (queuePull s b c).lap = s.lap := rfl
@[simp] theorem queuePull_glb (b : BatonId) (c : ReqCmd) : (queuePull s b c).glb = s.glb := rfl
@[simp] theorem queuePull_coach (b : BatonId) (c : ReqCmd) : (queuePull s b c).coach = s.coach := rfl
@[simp] theorem queuePull_sel (b : BatonId) (c : ReqCmd) : (queuePull s b c).sel = s.sel := rfl
@[simp] theorem queuePull_sta (b : BatonId) (c : ReqCmd) : (queuePull s b c).sta = s.sta := rfl
@[simp] theorem queuePull_fus (b : BatonId) (c : ReqCmd) : (queuePull s b c).fus = s.fus := rfl
@[simp] theorem queuePull_fwu (b : BatonId) (c : ReqCmd) : (queuePull s b c).fwu = s.fwu := rfl
@[simp] theorem queuePull_mpl (b : BatonId) (c : ReqCmd) : (queuePull s b c).mpl = s.mpl := rfl
@[simp] theorem queuePull_lanes (b : BatonId) (c : ReqCmd) : (queuePull s b c).lanes = s.lanes := rfl
@[simp] theorem queuePull_reqs (b : BatonId) (c : ReqCmd) : (queuePull s b c).reqs = s.reqs := rfl
@[simp] theorem queuePull_slotGen (b : BatonId) (c : ReqCmd) : (queuePull s b c).slotGen = s.slotGen := rfl
@[simp] theorem queuePull_jdg (b : BatonId) (c : ReqCmd) : (queuePull s b c).jdg = s.jdg := rfl
@[simp] theorem queuePull_stp (b : BatonId) (c : ReqCmd) : (queuePull s b c).stp = s.stp := rfl
@[simp] theorem queuePull_srg (b : BatonId) (c : ReqCmd) : (queuePull s b c).srg = s.srg := rfl
@[simp] theorem queuePull_xz (b : BatonId) (c : ReqCmd) : (queuePull s b c).xz = s.xz := rfl
@[simp] theorem queuePull_te (b : BatonId) (c : ReqCmd) : (queuePull s b c).te = s.te := rfl
@[simp] theorem queuePull_rly (b : BatonId) (c : ReqCmd) : (queuePull s b c).rly = s.rly := rfl
@[simp] theorem queuePull_pac (b : BatonId) (c : ReqCmd) : (queuePull s b c).pac = s.pac := rfl
@[simp] theorem queuePull_bib (b : BatonId) (c : ReqCmd) : (queuePull s b c).bib = s.bib := rfl
@[simp] theorem queuePull_mar (b : BatonId) (c : ReqCmd) : (queuePull s b c).mar = s.mar := rfl
@[simp] theorem queuePull_hif (b : BatonId) (c : ReqCmd) : (queuePull s b c).hif = s.hif := rfl
@[simp] theorem queuePull_cap (b : BatonId) (c : ReqCmd) : (queuePull s b c).cap = s.cap := rfl
@[simp] theorem queuePull_spi (b : BatonId) (c : ReqCmd) : (queuePull s b c).spi = s.spi := rfl
@[simp] theorem queuePull_uar (b : BatonId) (c : ReqCmd) : (queuePull s b c).uar = s.uar := rfl
@[simp] theorem queuePull_i2c (b : BatonId) (c : ReqCmd) : (queuePull s b c).i2c = s.i2c := rfl
@[simp] theorem queuePull_jtg (b : BatonId) (c : ReqCmd) : (queuePull s b c).jtg = s.jtg := rfl
@[simp] theorem queuePull_mem (b : BatonId) (c : ReqCmd) : (queuePull s b c).mem = s.mem := rfl

@[simp] theorem modPull_pending (b : BatonId) (f : Pull → Pull) : (modPull s b f).pending = s.pending := rfl
@[simp] theorem modPull_out (b : BatonId) (f : Pull → Pull) : (modPull s b f).out = s.out := rfl
@[simp] theorem modPull_free (b : BatonId) (f : Pull → Pull) : (modPull s b f).free = s.free := rfl
@[simp] theorem modPull_clk (b : BatonId) (f : Pull → Pull) : (modPull s b f).clk = s.clk := rfl
@[simp] theorem modPull_lap (b : BatonId) (f : Pull → Pull) : (modPull s b f).lap = s.lap := rfl
@[simp] theorem modPull_glb (b : BatonId) (f : Pull → Pull) : (modPull s b f).glb = s.glb := rfl
@[simp] theorem modPull_coach (b : BatonId) (f : Pull → Pull) : (modPull s b f).coach = s.coach := rfl
@[simp] theorem modPull_sel (b : BatonId) (f : Pull → Pull) : (modPull s b f).sel = s.sel := rfl
@[simp] theorem modPull_sta (b : BatonId) (f : Pull → Pull) : (modPull s b f).sta = s.sta := rfl
@[simp] theorem modPull_fus (b : BatonId) (f : Pull → Pull) : (modPull s b f).fus = s.fus := rfl
@[simp] theorem modPull_fwu (b : BatonId) (f : Pull → Pull) : (modPull s b f).fwu = s.fwu := rfl
@[simp] theorem modPull_mpl (b : BatonId) (f : Pull → Pull) : (modPull s b f).mpl = s.mpl := rfl
@[simp] theorem modPull_lanes (b : BatonId) (f : Pull → Pull) : (modPull s b f).lanes = s.lanes := rfl
@[simp] theorem modPull_reqs (b : BatonId) (f : Pull → Pull) : (modPull s b f).reqs = s.reqs := rfl
@[simp] theorem modPull_slotGen (b : BatonId) (f : Pull → Pull) : (modPull s b f).slotGen = s.slotGen := rfl
@[simp] theorem modPull_jdg (b : BatonId) (f : Pull → Pull) : (modPull s b f).jdg = s.jdg := rfl
@[simp] theorem modPull_stp (b : BatonId) (f : Pull → Pull) : (modPull s b f).stp = s.stp := rfl
@[simp] theorem modPull_srg (b : BatonId) (f : Pull → Pull) : (modPull s b f).srg = s.srg := rfl
@[simp] theorem modPull_xz (b : BatonId) (f : Pull → Pull) : (modPull s b f).xz = s.xz := rfl
@[simp] theorem modPull_te (b : BatonId) (f : Pull → Pull) : (modPull s b f).te = s.te := rfl
@[simp] theorem modPull_rly (b : BatonId) (f : Pull → Pull) : (modPull s b f).rly = s.rly := rfl
@[simp] theorem modPull_pac (b : BatonId) (f : Pull → Pull) : (modPull s b f).pac = s.pac := rfl
@[simp] theorem modPull_bib (b : BatonId) (f : Pull → Pull) : (modPull s b f).bib = s.bib := rfl
@[simp] theorem modPull_mar (b : BatonId) (f : Pull → Pull) : (modPull s b f).mar = s.mar := rfl
@[simp] theorem modPull_hif (b : BatonId) (f : Pull → Pull) : (modPull s b f).hif = s.hif := rfl
@[simp] theorem modPull_cap (b : BatonId) (f : Pull → Pull) : (modPull s b f).cap = s.cap := rfl
@[simp] theorem modPull_spi (b : BatonId) (f : Pull → Pull) : (modPull s b f).spi = s.spi := rfl
@[simp] theorem modPull_uar (b : BatonId) (f : Pull → Pull) : (modPull s b f).uar = s.uar := rfl
@[simp] theorem modPull_i2c (b : BatonId) (f : Pull → Pull) : (modPull s b f).i2c = s.i2c := rfl
@[simp] theorem modPull_jtg (b : BatonId) (f : Pull → Pull) : (modPull s b f).jtg = s.jtg := rfl
@[simp] theorem modPull_mem (b : BatonId) (f : Pull → Pull) : (modPull s b f).mem = s.mem := rfl

@[simp] theorem sramWrite_pending (n : LaneNo) (pos a : Nat) (bs : List Byte) : (sramWrite s n pos a bs).pending = s.pending := rfl
@[simp] theorem sramWrite_out (n : LaneNo) (pos a : Nat) (bs : List Byte) : (sramWrite s n pos a bs).out = s.out := rfl
@[simp] theorem sramWrite_free (n : LaneNo) (pos a : Nat) (bs : List Byte) : (sramWrite s n pos a bs).free = s.free := rfl
@[simp] theorem sramWrite_clk (n : LaneNo) (pos a : Nat) (bs : List Byte) : (sramWrite s n pos a bs).clk = s.clk := rfl
@[simp] theorem sramWrite_lap (n : LaneNo) (pos a : Nat) (bs : List Byte) : (sramWrite s n pos a bs).lap = s.lap := rfl
@[simp] theorem sramWrite_glb (n : LaneNo) (pos a : Nat) (bs : List Byte) : (sramWrite s n pos a bs).glb = s.glb := rfl
@[simp] theorem sramWrite_coach (n : LaneNo) (pos a : Nat) (bs : List Byte) : (sramWrite s n pos a bs).coach = s.coach := rfl
@[simp] theorem sramWrite_sel (n : LaneNo) (pos a : Nat) (bs : List Byte) : (sramWrite s n pos a bs).sel = s.sel := rfl
@[simp] theorem sramWrite_sta (n : LaneNo) (pos a : Nat) (bs : List Byte) : (sramWrite s n pos a bs).sta = s.sta := rfl
@[simp] theorem sramWrite_fus (n : LaneNo) (pos a : Nat) (bs : List Byte) : (sramWrite s n pos a bs).fus = s.fus := rfl
@[simp] theorem sramWrite_fwu (n : LaneNo) (pos a : Nat) (bs : List Byte) : (sramWrite s n pos a bs).fwu = s.fwu := rfl
@[simp] theorem sramWrite_mpl (n : LaneNo) (pos a : Nat) (bs : List Byte) : (sramWrite s n pos a bs).mpl = s.mpl := rfl
@[simp] theorem sramWrite_lanes (n : LaneNo) (pos a : Nat) (bs : List Byte) : (sramWrite s n pos a bs).lanes = s.lanes := rfl
@[simp] theorem sramWrite_reqs (n : LaneNo) (pos a : Nat) (bs : List Byte) : (sramWrite s n pos a bs).reqs = s.reqs := rfl
@[simp] theorem sramWrite_slotGen (n : LaneNo) (pos a : Nat) (bs : List Byte) : (sramWrite s n pos a bs).slotGen = s.slotGen := rfl
@[simp] theorem sramWrite_jdg (n : LaneNo) (pos a : Nat) (bs : List Byte) : (sramWrite s n pos a bs).jdg = s.jdg := rfl
@[simp] theorem sramWrite_stp (n : LaneNo) (pos a : Nat) (bs : List Byte) : (sramWrite s n pos a bs).stp = s.stp := rfl
@[simp] theorem sramWrite_srg (n : LaneNo) (pos a : Nat) (bs : List Byte) : (sramWrite s n pos a bs).srg = s.srg := rfl
@[simp] theorem sramWrite_xz (n : LaneNo) (pos a : Nat) (bs : List Byte) : (sramWrite s n pos a bs).xz = s.xz := rfl
@[simp] theorem sramWrite_btn (n : LaneNo) (pos a : Nat) (bs : List Byte) : (sramWrite s n pos a bs).btn = s.btn := rfl
@[simp] theorem sramWrite_te (n : LaneNo) (pos a : Nat) (bs : List Byte) : (sramWrite s n pos a bs).te = s.te := rfl
@[simp] theorem sramWrite_rly (n : LaneNo) (pos a : Nat) (bs : List Byte) : (sramWrite s n pos a bs).rly = s.rly := rfl
@[simp] theorem sramWrite_pac (n : LaneNo) (pos a : Nat) (bs : List Byte) : (sramWrite s n pos a bs).pac = s.pac := rfl
@[simp] theorem sramWrite_bib (n : LaneNo) (pos a : Nat) (bs : List Byte) : (sramWrite s n pos a bs).bib = s.bib := rfl
@[simp] theorem sramWrite_mar (n : LaneNo) (pos a : Nat) (bs : List Byte) : (sramWrite s n pos a bs).mar = s.mar := rfl
@[simp] theorem sramWrite_hif (n : LaneNo) (pos a : Nat) (bs : List Byte) : (sramWrite s n pos a bs).hif = s.hif := rfl
@[simp] theorem sramWrite_cap (n : LaneNo) (pos a : Nat) (bs : List Byte) : (sramWrite s n pos a bs).cap = s.cap := rfl
@[simp] theorem sramWrite_spi (n : LaneNo) (pos a : Nat) (bs : List Byte) : (sramWrite s n pos a bs).spi = s.spi := rfl
@[simp] theorem sramWrite_uar (n : LaneNo) (pos a : Nat) (bs : List Byte) : (sramWrite s n pos a bs).uar = s.uar := rfl
@[simp] theorem sramWrite_i2c (n : LaneNo) (pos a : Nat) (bs : List Byte) : (sramWrite s n pos a bs).i2c = s.i2c := rfl
@[simp] theorem sramWrite_jtg (n : LaneNo) (pos a : Nat) (bs : List Byte) : (sramWrite s n pos a bs).jtg = s.jtg := rfl

@[simp] theorem setLaneSram_pending (n : LaneNo) (img : Mem) : (setLaneSram s n img).pending = s.pending := rfl
@[simp] theorem setLaneSram_out (n : LaneNo) (img : Mem) : (setLaneSram s n img).out = s.out := rfl
@[simp] theorem setLaneSram_free (n : LaneNo) (img : Mem) : (setLaneSram s n img).free = s.free := rfl
@[simp] theorem setLaneSram_clk (n : LaneNo) (img : Mem) : (setLaneSram s n img).clk = s.clk := rfl
@[simp] theorem setLaneSram_lap (n : LaneNo) (img : Mem) : (setLaneSram s n img).lap = s.lap := rfl
@[simp] theorem setLaneSram_glb (n : LaneNo) (img : Mem) : (setLaneSram s n img).glb = s.glb := rfl
@[simp] theorem setLaneSram_coach (n : LaneNo) (img : Mem) : (setLaneSram s n img).coach = s.coach := rfl
@[simp] theorem setLaneSram_sel (n : LaneNo) (img : Mem) : (setLaneSram s n img).sel = s.sel := rfl
@[simp] theorem setLaneSram_sta (n : LaneNo) (img : Mem) : (setLaneSram s n img).sta = s.sta := rfl
@[simp] theorem setLaneSram_fus (n : LaneNo) (img : Mem) : (setLaneSram s n img).fus = s.fus := rfl
@[simp] theorem setLaneSram_fwu (n : LaneNo) (img : Mem) : (setLaneSram s n img).fwu = s.fwu := rfl
@[simp] theorem setLaneSram_mpl (n : LaneNo) (img : Mem) : (setLaneSram s n img).mpl = s.mpl := rfl
@[simp] theorem setLaneSram_lanes (n : LaneNo) (img : Mem) : (setLaneSram s n img).lanes = s.lanes := rfl
@[simp] theorem setLaneSram_reqs (n : LaneNo) (img : Mem) : (setLaneSram s n img).reqs = s.reqs := rfl
@[simp] theorem setLaneSram_slotGen (n : LaneNo) (img : Mem) : (setLaneSram s n img).slotGen = s.slotGen := rfl
@[simp] theorem setLaneSram_jdg (n : LaneNo) (img : Mem) : (setLaneSram s n img).jdg = s.jdg := rfl
@[simp] theorem setLaneSram_stp (n : LaneNo) (img : Mem) : (setLaneSram s n img).stp = s.stp := rfl
@[simp] theorem setLaneSram_srg (n : LaneNo) (img : Mem) : (setLaneSram s n img).srg = s.srg := rfl
@[simp] theorem setLaneSram_xz (n : LaneNo) (img : Mem) : (setLaneSram s n img).xz = s.xz := rfl
@[simp] theorem setLaneSram_btn (n : LaneNo) (img : Mem) : (setLaneSram s n img).btn = s.btn := rfl
@[simp] theorem setLaneSram_te (n : LaneNo) (img : Mem) : (setLaneSram s n img).te = s.te := rfl
@[simp] theorem setLaneSram_rly (n : LaneNo) (img : Mem) : (setLaneSram s n img).rly = s.rly := rfl
@[simp] theorem setLaneSram_pac (n : LaneNo) (img : Mem) : (setLaneSram s n img).pac = s.pac := rfl
@[simp] theorem setLaneSram_bib (n : LaneNo) (img : Mem) : (setLaneSram s n img).bib = s.bib := rfl
@[simp] theorem setLaneSram_mar (n : LaneNo) (img : Mem) : (setLaneSram s n img).mar = s.mar := rfl
@[simp] theorem setLaneSram_hif (n : LaneNo) (img : Mem) : (setLaneSram s n img).hif = s.hif := rfl
@[simp] theorem setLaneSram_cap (n : LaneNo) (img : Mem) : (setLaneSram s n img).cap = s.cap := rfl
@[simp] theorem setLaneSram_spi (n : LaneNo) (img : Mem) : (setLaneSram s n img).spi = s.spi := rfl
@[simp] theorem setLaneSram_uar (n : LaneNo) (img : Mem) : (setLaneSram s n img).uar = s.uar := rfl
@[simp] theorem setLaneSram_i2c (n : LaneNo) (img : Mem) : (setLaneSram s n img).i2c = s.i2c := rfl
@[simp] theorem setLaneSram_jtg (n : LaneNo) (img : Mem) : (setLaneSram s n img).jtg = s.jtg := rfl

@[simp] theorem sramWrite_stack (n : LaneNo) (pos a : Nat) (bs : List Byte) : (sramWrite s n pos a bs).mem.stack = s.mem.stack := rfl
@[simp] theorem setLaneSram_stack (n : LaneNo) (img : Mem) : (setLaneSram s n img).mem.stack = s.mem.stack := rfl
@[simp] theorem modReplay_legs (b : BatonId) (f : Req → Req) : (modReplay s b f).btn.legs = s.btn.legs := rfl
@[simp] theorem modPull_legs (b : BatonId) (f : Pull → Pull) : (modPull s b f).btn.legs = s.btn.legs := rfl
@[simp] theorem setStack_sram (n : LaneNo) (m : Mem) : (setStack s n m).mem.sram = s.mem.sram := rfl
@[simp] theorem ptpTime_emit (o : Out) : ptpTime (emit s o) = ptpTime s := rfl

@[simp] theorem takeFree_free : (takeFree s).2.free = s.free + 1 := rfl
@[simp] theorem emit_out (o : Out) : (emit s o).out = s.out ++ [o] := rfl
@[simp] theorem emitAll_out (os : List Out) : (emitAll s os).out = s.out ++ os := rfl
@[simp] theorem laneOf_setLane_self (n : LaneNo) (l : Lane) : laneOf (setLane s n l) n = l := by simp [laneOf, setLane]
@[simp] theorem laneOf_modLane_self (n : LaneNo) (f : Lane → Lane) : laneOf (modLane s n f) n = f (laneOf s n) := by
  simp [modLane]
theorem laneOf_setLane_ne (n k : LaneNo) (l : Lane) (h : k ≠ n) : laneOf (setLane s n l) k = laneOf s k := by
  simp [laneOf, setLane, vset_get_ne _ _ _ _ h]
theorem laneOf_modLane_ne (n k : LaneNo) (f : Lane → Lane) (h : k ≠ n) : laneOf (modLane s n f) k = laneOf s k := by
  simp [modLane, laneOf_setLane_ne s n k _ h]
@[simp] theorem modReq_reqs (b : BatonId) (f : Req → Req) :
    (modReq s b f).reqs = s.reqs.map fun r => if r.id = b then f r else r := rfl
@[simp] theorem dropReq_reqs (b : BatonId) : (dropReq s b).reqs = s.reqs.filter fun r => r.id != b := rfl
@[simp] theorem setCtx_funcOf (t : Tenant) (c : Ctx) : (setCtx s t c).hif.funcOf = s.hif.funcOf := rfl
@[simp] theorem getSq_putSq_self (q : Nat) (x : SendQ) : getSq (putSq s q x) q = some x := by
  simp [getSq, putSq, tblGet_tblSet_self]
theorem getSq_putSq_ne (q k : Nat) (x : SendQ) (h : k ≠ q) : getSq (putSq s q x) k = getSq s k := by
  simp [getSq, putSq, tblGet_tblSet_ne _ _ _ _ h]
@[simp] theorem getRx_putRx_self (n : Nat) (x : RxCtx) : getRx (putRx s n x) n = some x := by
  simp [getRx, putRx, tblGet_tblSet_self]
theorem getRx_putRx_ne (n k : Nat) (x : RxCtx) (h : k ≠ n) : getRx (putRx s n x) k = getRx s k := by
  simp [getRx, putRx, tblGet_tblSet_ne _ _ _ _ h]
@[simp] theorem ctrOf_setCtr_self (c : Nat) (v : Word) : ctrOf (setCtr s c v) c = v := by simp [ctrOf, setCtr]
theorem ctrOf_setCtr_ne (c k : Nat) (v : Word) (h : k ≠ c) : ctrOf (setCtr s c v) k = ctrOf s k := by
  simp [ctrOf, setCtr, tblGetD_tblSet_ne _ _ _ _ _ h]

end Sys2Proof.Machine
end

