-- ==== Sys2Proof/Laws/Host.lean ====
section
/-! SUPPORT. Host commands and completions: what the shared operations of HIF do, and what they leave. -/

namespace Sys2Proof.Machine

open Sys2Proof

@[simp] theorem ctxOf_setCtx_self (s : State) (t : Tenant) (c : Ctx) : ctxOf (setCtx s t c) t = c := by
  simp [ctxOf, setCtx]

theorem ctxOf_setCtx_ne (s : State) (t k : Tenant) (c : Ctx) (h : k ≠ t) : ctxOf (setCtx s t c) k = ctxOf s k := by
  have : k.toNat ≠ t.toNat := fun e => h (BitVec.eq_of_toNat_eq e)
  simp [ctxOf, setCtx, tblGetD_tblSet_ne _ _ _ _ _ this]

/-- A served host command runs its own effect on the state after the fetch. -/
theorem hostCmd_served {s : State} {h : HostHdr} {op : Byte} {pf : Bool} {serve : State → State} (hs : HostServed s h pf) :
    hostCmd s h op pf serve = serve (fetched s h) := by
  obtain ⟨h1, h2, h3⟩ := hs
  have e2 : hostOk (fetched s h) h pf = true := h2
  have e3 : (isFenced (fetched s h) && !pf) = false := by
    rcases h3 with h3 | h3
    · have : isFenced (fetched s h) = false := h3
      simp [this]
    · simp [h3]
  unfold hostCmd
  rw [if_pos h1]
  change (if (isFenced (fetched s h) && !pf) = true then _ else if (!hostOk (fetched s h) h pf) = true then _ else serve (fetched s h)) = _
  rw [e3, e2]
  rfl

/-- A command whose record fails the checks completes with REFUSED, where no fence answers before it. -/
theorem hostCmd_refused {s : State} {h : HostHdr} {op : Byte} {pf : Bool} {serve : State → State} (hf : canFetch s h = true)
    (hk : hostOk s h pf = false) (hx : isFenced s = false ∨ pf = true) :
    hostCmd s h op pf serve = complete (fetched s h) h op .refused := by
  have e2 : hostOk (fetched s h) h pf = false := hk
  have e3 : (isFenced (fetched s h) && !pf) = false := by
    rcases hx with hx | hx
    · have : isFenced (fetched s h) = false := hx
      simp [this]
    · simp [hx]
  unfold hostCmd
  rw [if_pos hf]
  change (if (isFenced (fetched s h) && !pf) = true then _ else if (!hostOk (fetched s h) h pf) = true then
    complete (fetched s h) h op .refused else _) = _
  rw [e3, e2]
  rfl

/-- A command that is not the physical function's own completes with FENCED on a fenced device. -/
theorem hostCmd_fenced {s : State} {h : HostHdr} {op : Byte} {serve : State → State} (hf : canFetch s h = true)
    (hx : isFenced s = true) : hostCmd s h op false serve = complete (fetched s h) h op .fenced := by
  have e3 : isFenced (fetched s h) = true := hx
  unfold hostCmd
  rw [if_pos hf]
  change (if (isFenced (fetched s h) && !false) = true then complete (fetched s h) h op .fenced else _) = _
  rw [e3]
  rfl

/-- A command that HIF does not fetch changes nothing. -/
theorem hostCmd_unfetched {s : State} {h : HostHdr} {op : Byte} {pf : Bool} {serve : State → State} (hf : canFetch s h = false) :
    hostCmd s h op pf serve = s := by
  unfold hostCmd
  rw [hf]
  rfl

theorem emit_eq (s : State) (o : Out) : emit s o = { s with out := s.out ++ [o] } := rfl

/-- An MSI-X message adds at most an output. -/
theorem msix_frame (s : State) (f v : Nat) : ∃ o, msix s f v = { s with out := o } := by
  unfold msix
  split
  · exact ⟨_, rfl⟩
  · exact ⟨s.out, rfl⟩

/-- A signal changes outputs and a context's holdoff. -/
theorem signalCtx_frame (s : State) (t : Tenant) : ∃ o c, signalCtx s t = { s with out := o, hif := { s.hif with ctxs := c } } := by
  unfold signalCtx
  dsimp only
  split
  · exact ⟨s.out, _, rfl⟩
  · obtain ⟨o, ho⟩ := msix_frame (setCtx s t { ctxOf s t with msiHold := true, msiLater := false }) (tenantFunc s t)
      (ctxOf s t).vector.toNat
    rw [ho]
    exact ⟨o, _, rfl⟩

/-- Pumping a completion ring changes outputs and contexts. -/
theorem pumpCpl_frame (s : State) (t : Tenant) : ∃ o c, pumpCpl s t = { s with out := o, hif := { s.hif with ctxs := c } } := by
  unfold pumpCpl
  dsimp only
  split
  · exact ⟨_, _, rfl⟩
  · obtain ⟨o, c, h⟩ := signalCtx_frame (emitAll (setCtx s t (flushHeld (tenantFunc s t) (ctxOf s t) (ctxOf s t).heldCpl).2)
      (flushHeld (tenantFunc s t) (ctxOf s t) (ctxOf s t).heldCpl).1) t
    rw [h]
    exact ⟨o, c, rfl⟩

/-- Everything that posting a completion can do: outputs, contexts and the drop counter of HIF, and what waits for Coach. -/
theorem postCpl_frame (s : State) (x : Cpl) : ∃ o c d l,
    postCpl s x = { s with out := o, hif := { s.hif with ctxs := c, cplDrop := d }, coach := { s.coach with late := l } } := by
  unfold postCpl
  split
  · exact ⟨s.out, s.hif.ctxs, s.hif.cplDrop, _, rfl⟩
  · unfold deliverCpl
    dsimp only
    split
    · obtain ⟨o, c, h⟩ := pumpCpl_frame (setCtx s x.tenant { ctxOf s x.tenant with heldCpl := (ctxOf s x.tenant).heldCpl ++ [x] })
        x.tenant
      rw [h]
      exact ⟨o, c, s.hif.cplDrop, s.coach.late, rfl⟩
    · exact ⟨s.out, s.hif.ctxs, _, s.coach.late, rfl⟩

/-- The same of a host command's completion, with or without a body. -/
theorem complete_frame (s : State) (h : HostHdr) (op : Byte) (c : Finish) : ∃ o x d l,
    complete s h op c = { s with out := o, hif := { s.hif with ctxs := x, cplDrop := d }, coach := { s.coach with late := l } } :=
  postCpl_frame s _

theorem completeB_frame (s : State) (h : HostHdr) (op : Byte) (c : Finish) (r : Byte) (b : List Word) : ∃ o x d l,
    completeB s h op c r b = { s with out := o, hif := { s.hif with ctxs := x, cplDrop := d }, coach := { s.coach with late := l } } :=
  postCpl_frame s _

/-- Sending the event message changes the outputs and GLB. -/
theorem sendEvt_frame (s : State) : ∃ o g, sendEvt s = { s with out := o, glb := g } := by
  unfold sendEvt
  split
  · exact ⟨s.out, _, rfl⟩
  · dsimp only
    obtain ⟨o, h⟩ := msix_frame { s with glb := { s.glb with evtHold := true, evtLater := false } } 0 s.glb.evtVector.toNat
    exact ⟨o, _, h⟩

/-- An event changes the outputs and GLB. -/
theorem raiseEvt_frame (s : State) (b : Nat) : ∃ o g, raiseEvt s b = { s with out := o, glb := g } := by
  unfold raiseEvt
  dsimp only
  split
  · obtain ⟨o, g, h⟩ := sendEvt_frame { s with glb := { s.glb with evt := s.glb.evt ||| (1 <<< b) } }
    rw [h]
    exact ⟨o, g, rfl⟩
  · exact ⟨s.out, _, rfl⟩

/-- The event's bit is set. -/
theorem raiseEvt_evt (s : State) (b : Nat) : (raiseEvt s b).glb.evt = s.glb.evt ||| (1 <<< b) := by
  have key : ∀ s : State, (sendEvt s).glb.evt = s.glb.evt := by
    intro s
    unfold sendEvt
    split
    · rfl
    · dsimp only
      unfold msix
      split <;> rfl
  unfold raiseEvt
  dsimp only
  split
  · rw [key]
  · rfl

/-! ### The parts that these operations leave -/

@[simp] theorem msix_pending (s : State) (f v : Nat) : (msix s f v).pending = s.pending := by obtain ⟨_, e⟩ := msix_frame s f v; rw [e]
@[simp] theorem msix_free (s : State) (f v : Nat) : (msix s f v).free = s.free := by obtain ⟨_, e⟩ := msix_frame s f v; rw [e]
@[simp] theorem msix_clk (s : State) (f v : Nat) : (msix s f v).clk = s.clk := by obtain ⟨_, e⟩ := msix_frame s f v; rw [e]
@[simp] theorem msix_lap (s : State) (f v : Nat) : (msix s f v).lap = s.lap := by obtain ⟨_, e⟩ := msix_frame s f v; rw [e]
@[simp] theorem msix_glb (s : State) (f v : Nat) : (msix s f v).glb = s.glb := by obtain ⟨_, e⟩ := msix_frame s f v; rw [e]
@[simp] theorem msix_coach (s : State) (f v : Nat) : (msix s f v).coach = s.coach := by obtain ⟨_, e⟩ := msix_frame s f v; rw [e]
@[simp] theorem msix_sel (s : State) (f v : Nat) : (msix s f v).sel = s.sel := by obtain ⟨_, e⟩ := msix_frame s f v; rw [e]
@[simp] theorem msix_sta (s : State) (f v : Nat) : (msix s f v).sta = s.sta := by obtain ⟨_, e⟩ := msix_frame s f v; rw [e]
@[simp] theorem msix_fus (s : State) (f v : Nat) : (msix s f v).fus = s.fus := by obtain ⟨_, e⟩ := msix_frame s f v; rw [e]
@[simp] theorem msix_fwu (s : State) (f v : Nat) : (msix s f v).fwu = s.fwu := by obtain ⟨_, e⟩ := msix_frame s f v; rw [e]
@[simp] theorem msix_mpl (s : State) (f v : Nat) : (msix s f v).mpl = s.mpl := by obtain ⟨_, e⟩ := msix_frame s f v; rw [e]
@[simp] theorem msix_lanes (s : State) (f v : Nat) : (msix s f v).lanes = s.lanes := by obtain ⟨_, e⟩ := msix_frame s f v; rw [e]
@[simp] theorem msix_reqs (s : State) (f v : Nat) : (msix s f v).reqs = s.reqs := by obtain ⟨_, e⟩ := msix_frame s f v; rw [e]
@[simp] theorem msix_slotGen (s : State) (f v : Nat) : (msix s f v).slotGen = s.slotGen := by obtain ⟨_, e⟩ := msix_frame s f v; rw [e]
@[simp] theorem msix_jdg (s : State) (f v : Nat) : (msix s f v).jdg = s.jdg := by obtain ⟨_, e⟩ := msix_frame s f v; rw [e]
@[simp] theorem msix_stp (s : State) (f v : Nat) : (msix s f v).stp = s.stp := by obtain ⟨_, e⟩ := msix_frame s f v; rw [e]
@[simp] theorem msix_srg (s : State) (f v : Nat) : (msix s f v).srg = s.srg := by obtain ⟨_, e⟩ := msix_frame s f v; rw [e]
@[simp] theorem msix_xz (s : State) (f v : Nat) : (msix s f v).xz = s.xz := by obtain ⟨_, e⟩ := msix_frame s f v; rw [e]
@[simp] theorem msix_btn (s : State) (f v : Nat) : (msix s f v).btn = s.btn := by obtain ⟨_, e⟩ := msix_frame s f v; rw [e]
@[simp] theorem msix_te (s : State) (f v : Nat) : (msix s f v).te = s.te := by obtain ⟨_, e⟩ := msix_frame s f v; rw [e]
@[simp] theorem msix_rly (s : State) (f v : Nat) : (msix s f v).rly = s.rly := by obtain ⟨_, e⟩ := msix_frame s f v; rw [e]
@[simp] theorem msix_pac (s : State) (f v : Nat) : (msix s f v).pac = s.pac := by obtain ⟨_, e⟩ := msix_frame s f v; rw [e]
@[simp] theorem msix_bib (s : State) (f v : Nat) : (msix s f v).bib = s.bib := by obtain ⟨_, e⟩ := msix_frame s f v; rw [e]
@[simp] theorem msix_mar (s : State) (f v : Nat) : (msix s f v).mar = s.mar := by obtain ⟨_, e⟩ := msix_frame s f v; rw [e]
@[simp] theorem msix_hif (s : State) (f v : Nat) : (msix s f v).hif = s.hif := by obtain ⟨_, e⟩ := msix_frame s f v; rw [e]
@[simp] theorem msix_cap (s : State) (f v : Nat) : (msix s f v).cap = s.cap := by obtain ⟨_, e⟩ := msix_frame s f v; rw [e]
@[simp] theorem msix_spi (s : State) (f v : Nat) : (msix s f v).spi = s.spi := by obtain ⟨_, e⟩ := msix_frame s f v; rw [e]
@[simp] theorem msix_uar (s : State) (f v : Nat) : (msix s f v).uar = s.uar := by obtain ⟨_, e⟩ := msix_frame s f v; rw [e]
@[simp] theorem msix_i2c (s : State) (f v : Nat) : (msix s f v).i2c = s.i2c := by obtain ⟨_, e⟩ := msix_frame s f v; rw [e]
@[simp] theorem msix_jtg (s : State) (f v : Nat) : (msix s f v).jtg = s.jtg := by obtain ⟨_, e⟩ := msix_frame s f v; rw [e]
@[simp] theorem msix_mem (s : State) (f v : Nat) : (msix s f v).mem = s.mem := by obtain ⟨_, e⟩ := msix_frame s f v; rw [e]

@[simp] theorem sendEvt_pending (s : State) : (sendEvt s).pending = s.pending := by obtain ⟨_, _, e⟩ := sendEvt_frame s; rw [e]
@[simp] theorem sendEvt_free (s : State) : (sendEvt s).free = s.free := by obtain ⟨_, _, e⟩ := sendEvt_frame s; rw [e]
@[simp] theorem sendEvt_clk (s : State) : (sendEvt s).clk = s.clk := by obtain ⟨_, _, e⟩ := sendEvt_frame s; rw [e]
@[simp] theorem sendEvt_lap (s : State) : (sendEvt s).lap = s.lap := by obtain ⟨_, _, e⟩ := sendEvt_frame s; rw [e]
@[simp] theorem sendEvt_coach (s : State) : (sendEvt s).coach = s.coach := by obtain ⟨_, _, e⟩ := sendEvt_frame s; rw [e]
@[simp] theorem sendEvt_sel (s : State) : (sendEvt s).sel = s.sel := by obtain ⟨_, _, e⟩ := sendEvt_frame s; rw [e]
@[simp] theorem sendEvt_sta (s : State) : (sendEvt s).sta = s.sta := by obtain ⟨_, _, e⟩ := sendEvt_frame s; rw [e]
@[simp] theorem sendEvt_fus (s : State) : (sendEvt s).fus = s.fus := by obtain ⟨_, _, e⟩ := sendEvt_frame s; rw [e]
@[simp] theorem sendEvt_fwu (s : State) : (sendEvt s).fwu = s.fwu := by obtain ⟨_, _, e⟩ := sendEvt_frame s; rw [e]
@[simp] theorem sendEvt_mpl (s : State) : (sendEvt s).mpl = s.mpl := by obtain ⟨_, _, e⟩ := sendEvt_frame s; rw [e]
@[simp] theorem sendEvt_lanes (s : State) : (sendEvt s).lanes = s.lanes := by obtain ⟨_, _, e⟩ := sendEvt_frame s; rw [e]
@[simp] theorem sendEvt_reqs (s : State) : (sendEvt s).reqs = s.reqs := by obtain ⟨_, _, e⟩ := sendEvt_frame s; rw [e]
@[simp] theorem sendEvt_slotGen (s : State) : (sendEvt s).slotGen = s.slotGen := by obtain ⟨_, _, e⟩ := sendEvt_frame s; rw [e]
@[simp] theorem sendEvt_jdg (s : State) : (sendEvt s).jdg = s.jdg := by obtain ⟨_, _, e⟩ := sendEvt_frame s; rw [e]
@[simp] theorem sendEvt_stp (s : State) : (sendEvt s).stp = s.stp := by obtain ⟨_, _, e⟩ := sendEvt_frame s; rw [e]
@[simp] theorem sendEvt_srg (s : State) : (sendEvt s).srg = s.srg := by obtain ⟨_, _, e⟩ := sendEvt_frame s; rw [e]
@[simp] theorem sendEvt_xz (s : State) : (sendEvt s).xz = s.xz := by obtain ⟨_, _, e⟩ := sendEvt_frame s; rw [e]
@[simp] theorem sendEvt_btn (s : State) : (sendEvt s).btn = s.btn := by obtain ⟨_, _, e⟩ := sendEvt_frame s; rw [e]
@[simp] theorem sendEvt_te (s : State) : (sendEvt s).te = s.te := by obtain ⟨_, _, e⟩ := sendEvt_frame s; rw [e]
@[simp] theorem sendEvt_rly (s : State) : (sendEvt s).rly = s.rly := by obtain ⟨_, _, e⟩ := sendEvt_frame s; rw [e]
@[simp] theorem sendEvt_pac (s : State) : (sendEvt s).pac = s.pac := by obtain ⟨_, _, e⟩ := sendEvt_frame s; rw [e]
@[simp] theorem sendEvt_bib (s : State) : (sendEvt s).bib = s.bib := by obtain ⟨_, _, e⟩ := sendEvt_frame s; rw [e]
@[simp] theorem sendEvt_mar (s : State) : (sendEvt s).mar = s.mar := by obtain ⟨_, _, e⟩ := sendEvt_frame s; rw [e]
@[simp] theorem sendEvt_hif (s : State) : (sendEvt s).hif = s.hif := by obtain ⟨_, _, e⟩ := sendEvt_frame s; rw [e]
@[simp] theorem sendEvt_cap (s : State) : (sendEvt s).cap = s.cap := by obtain ⟨_, _, e⟩ := sendEvt_frame s; rw [e]
@[simp] theorem sendEvt_spi (s : State) : (sendEvt s).spi = s.spi := by obtain ⟨_, _, e⟩ := sendEvt_frame s; rw [e]
@[simp] theorem sendEvt_uar (s : State) : (sendEvt s).uar = s.uar := by obtain ⟨_, _, e⟩ := sendEvt_frame s; rw [e]
@[simp] theorem sendEvt_i2c (s : State) : (sendEvt s).i2c = s.i2c := by obtain ⟨_, _, e⟩ := sendEvt_frame s; rw [e]
@[simp] theorem sendEvt_jtg (s : State) : (sendEvt s).jtg = s.jtg := by obtain ⟨_, _, e⟩ := sendEvt_frame s; rw [e]
@[simp] theorem sendEvt_mem (s : State) : (sendEvt s).mem = s.mem := by obtain ⟨_, _, e⟩ := sendEvt_frame s; rw [e]

@[simp] theorem raiseEvt_pending (s : State) (b : Nat) : (raiseEvt s b).pending = s.pending := by obtain ⟨_, _, e⟩ := raiseEvt_frame s b; rw [e]
@[simp] theorem raiseEvt_free (s : State) (b : Nat) : (raiseEvt s b).free = s.free := by obtain ⟨_, _, e⟩ := raiseEvt_frame s b; rw [e]
@[simp] theorem raiseEvt_clk (s : State) (b : Nat) : (raiseEvt s b).clk = s.clk := by obtain ⟨_, _, e⟩ := raiseEvt_frame s b; rw [e]
@[simp] theorem raiseEvt_lap (s : State) (b : Nat) : (raiseEvt s b).lap = s.lap := by obtain ⟨_, _, e⟩ := raiseEvt_frame s b; rw [e]
@[simp] theorem raiseEvt_coach (s : State) (b : Nat) : (raiseEvt s b).coach = s.coach := by obtain ⟨_, _, e⟩ := raiseEvt_frame s b; rw [e]
@[simp] theorem raiseEvt_sel (s : State) (b : Nat) : (raiseEvt s b).sel = s.sel := by obtain ⟨_, _, e⟩ := raiseEvt_frame s b; rw [e]
@[simp] theorem raiseEvt_sta (s : State) (b : Nat) : (raiseEvt s b).sta = s.sta := by obtain ⟨_, _, e⟩ := raiseEvt_frame s b; rw [e]
@[simp] theorem raiseEvt_fus (s : State) (b : Nat) : (raiseEvt s b).fus = s.fus := by obtain ⟨_, _, e⟩ := raiseEvt_frame s b; rw [e]
@[simp] theorem raiseEvt_fwu (s : State) (b : Nat) : (raiseEvt s b).fwu = s.fwu := by obtain ⟨_, _, e⟩ := raiseEvt_frame s b; rw [e]
@[simp] theorem raiseEvt_mpl (s : State) (b : Nat) : (raiseEvt s b).mpl = s.mpl := by obtain ⟨_, _, e⟩ := raiseEvt_frame s b; rw [e]
@[simp] theorem raiseEvt_lanes (s : State) (b : Nat) : (raiseEvt s b).lanes = s.lanes := by obtain ⟨_, _, e⟩ := raiseEvt_frame s b; rw [e]
@[simp] theorem raiseEvt_reqs (s : State) (b : Nat) : (raiseEvt s b).reqs = s.reqs := by obtain ⟨_, _, e⟩ := raiseEvt_frame s b; rw [e]
@[simp] theorem raiseEvt_slotGen (s : State) (b : Nat) : (raiseEvt s b).slotGen = s.slotGen := by obtain ⟨_, _, e⟩ := raiseEvt_frame s b; rw [e]
@[simp] theorem raiseEvt_jdg (s : State) (b : Nat) : (raiseEvt s b).jdg = s.jdg := by obtain ⟨_, _, e⟩ := raiseEvt_frame s b; rw [e]
@[simp] theorem raiseEvt_stp (s : State) (b : Nat) : (raiseEvt s b).stp = s.stp := by obtain ⟨_, _, e⟩ := raiseEvt_frame s b; rw [e]
@[simp] theorem raiseEvt_srg (s : State) (b : Nat) : (raiseEvt s b).srg = s.srg := by obtain ⟨_, _, e⟩ := raiseEvt_frame s b; rw [e]
@[simp] theorem raiseEvt_xz (s : State) (b : Nat) : (raiseEvt s b).xz = s.xz := by obtain ⟨_, _, e⟩ := raiseEvt_frame s b; rw [e]
@[simp] theorem raiseEvt_btn (s : State) (b : Nat) : (raiseEvt s b).btn = s.btn := by obtain ⟨_, _, e⟩ := raiseEvt_frame s b; rw [e]
@[simp] theorem raiseEvt_te (s : State) (b : Nat) : (raiseEvt s b).te = s.te := by obtain ⟨_, _, e⟩ := raiseEvt_frame s b; rw [e]
@[simp] theorem raiseEvt_rly (s : State) (b : Nat) : (raiseEvt s b).rly = s.rly := by obtain ⟨_, _, e⟩ := raiseEvt_frame s b; rw [e]
@[simp] theorem raiseEvt_pac (s : State) (b : Nat) : (raiseEvt s b).pac = s.pac := by obtain ⟨_, _, e⟩ := raiseEvt_frame s b; rw [e]
@[simp] theorem raiseEvt_bib (s : State) (b : Nat) : (raiseEvt s b).bib = s.bib := by obtain ⟨_, _, e⟩ := raiseEvt_frame s b; rw [e]
@[simp] theorem raiseEvt_mar (s : State) (b : Nat) : (raiseEvt s b).mar = s.mar := by obtain ⟨_, _, e⟩ := raiseEvt_frame s b; rw [e]
@[simp] theorem raiseEvt_hif (s : State) (b : Nat) : (raiseEvt s b).hif = s.hif := by obtain ⟨_, _, e⟩ := raiseEvt_frame s b; rw [e]
@[simp] theorem raiseEvt_cap (s : State) (b : Nat) : (raiseEvt s b).cap = s.cap := by obtain ⟨_, _, e⟩ := raiseEvt_frame s b; rw [e]
@[simp] theorem raiseEvt_spi (s : State) (b : Nat) : (raiseEvt s b).spi = s.spi := by obtain ⟨_, _, e⟩ := raiseEvt_frame s b; rw [e]
@[simp] theorem raiseEvt_uar (s : State) (b : Nat) : (raiseEvt s b).uar = s.uar := by obtain ⟨_, _, e⟩ := raiseEvt_frame s b; rw [e]
@[simp] theorem raiseEvt_i2c (s : State) (b : Nat) : (raiseEvt s b).i2c = s.i2c := by obtain ⟨_, _, e⟩ := raiseEvt_frame s b; rw [e]
@[simp] theorem raiseEvt_jtg (s : State) (b : Nat) : (raiseEvt s b).jtg = s.jtg := by obtain ⟨_, _, e⟩ := raiseEvt_frame s b; rw [e]
@[simp] theorem raiseEvt_mem (s : State) (b : Nat) : (raiseEvt s b).mem = s.mem := by obtain ⟨_, _, e⟩ := raiseEvt_frame s b; rw [e]

@[simp] theorem signalCtx_pending (s : State) (t : Tenant) : (signalCtx s t).pending = s.pending := by obtain ⟨_, _, e⟩ := signalCtx_frame s t; rw [e]
@[simp] theorem signalCtx_free (s : State) (t : Tenant) : (signalCtx s t).free = s.free := by obtain ⟨_, _, e⟩ := signalCtx_frame s t; rw [e]
@[simp] theorem signalCtx_clk (s : State) (t : Tenant) : (signalCtx s t).clk = s.clk := by obtain ⟨_, _, e⟩ := signalCtx_frame s t; rw [e]
@[simp] theorem signalCtx_lap (s : State) (t : Tenant) : (signalCtx s t).lap = s.lap := by obtain ⟨_, _, e⟩ := signalCtx_frame s t; rw [e]
@[simp] theorem signalCtx_glb (s : State) (t : Tenant) : (signalCtx s t).glb = s.glb := by obtain ⟨_, _, e⟩ := signalCtx_frame s t; rw [e]
@[simp] theorem signalCtx_coach (s : State) (t : Tenant) : (signalCtx s t).coach = s.coach := by obtain ⟨_, _, e⟩ := signalCtx_frame s t; rw [e]
@[simp] theorem signalCtx_sel (s : State) (t : Tenant) : (signalCtx s t).sel = s.sel := by obtain ⟨_, _, e⟩ := signalCtx_frame s t; rw [e]
@[simp] theorem signalCtx_sta (s : State) (t : Tenant) : (signalCtx s t).sta = s.sta := by obtain ⟨_, _, e⟩ := signalCtx_frame s t; rw [e]
@[simp] theorem signalCtx_fus (s : State) (t : Tenant) : (signalCtx s t).fus = s.fus := by obtain ⟨_, _, e⟩ := signalCtx_frame s t; rw [e]
@[simp] theorem signalCtx_fwu (s : State) (t : Tenant) : (signalCtx s t).fwu = s.fwu := by obtain ⟨_, _, e⟩ := signalCtx_frame s t; rw [e]
@[simp] theorem signalCtx_mpl (s : State) (t : Tenant) : (signalCtx s t).mpl = s.mpl := by obtain ⟨_, _, e⟩ := signalCtx_frame s t; rw [e]
@[simp] theorem signalCtx_lanes (s : State) (t : Tenant) : (signalCtx s t).lanes = s.lanes := by obtain ⟨_, _, e⟩ := signalCtx_frame s t; rw [e]
@[simp] theorem signalCtx_reqs (s : State) (t : Tenant) : (signalCtx s t).reqs = s.reqs := by obtain ⟨_, _, e⟩ := signalCtx_frame s t; rw [e]
@[simp] theorem signalCtx_slotGen (s : State) (t : Tenant) : (signalCtx s t).slotGen = s.slotGen := by obtain ⟨_, _, e⟩ := signalCtx_frame s t; rw [e]
@[simp] theorem signalCtx_jdg (s : State) (t : Tenant) : (signalCtx s t).jdg = s.jdg := by obtain ⟨_, _, e⟩ := signalCtx_frame s t; rw [e]
@[simp] theorem signalCtx_stp (s : State) (t : Tenant) : (signalCtx s t).stp = s.stp := by obtain ⟨_, _, e⟩ := signalCtx_frame s t; rw [e]
@[simp] theorem signalCtx_srg (s : State) (t : Tenant) : (signalCtx s t).srg = s.srg := by obtain ⟨_, _, e⟩ := signalCtx_frame s t; rw [e]
@[simp] theorem signalCtx_xz (s : State) (t : Tenant) : (signalCtx s t).xz = s.xz := by obtain ⟨_, _, e⟩ := signalCtx_frame s t; rw [e]
@[simp] theorem signalCtx_btn (s : State) (t : Tenant) : (signalCtx s t).btn = s.btn := by obtain ⟨_, _, e⟩ := signalCtx_frame s t; rw [e]
@[simp] theorem signalCtx_te (s : State) (t : Tenant) : (signalCtx s t).te = s.te := by obtain ⟨_, _, e⟩ := signalCtx_frame s t; rw [e]
@[simp] theorem signalCtx_rly (s : State) (t : Tenant) : (signalCtx s t).rly = s.rly := by obtain ⟨_, _, e⟩ := signalCtx_frame s t; rw [e]
@[simp] theorem signalCtx_pac (s : State) (t : Tenant) : (signalCtx s t).pac = s.pac := by obtain ⟨_, _, e⟩ := signalCtx_frame s t; rw [e]
@[simp] theorem signalCtx_bib (s : State) (t : Tenant) : (signalCtx s t).bib = s.bib := by obtain ⟨_, _, e⟩ := signalCtx_frame s t; rw [e]
@[simp] theorem signalCtx_mar (s : State) (t : Tenant) : (signalCtx s t).mar = s.mar := by obtain ⟨_, _, e⟩ := signalCtx_frame s t; rw [e]
@[simp] theorem signalCtx_cap (s : State) (t : Tenant) : (signalCtx s t).cap = s.cap := by obtain ⟨_, _, e⟩ := signalCtx_frame s t; rw [e]
@[simp] theorem signalCtx_spi (s : State) (t : Tenant) : (signalCtx s t).spi = s.spi := by obtain ⟨_, _, e⟩ := signalCtx_frame s t; rw [e]
@[simp] theorem signalCtx_uar (s : State) (t : Tenant) : (signalCtx s t).uar = s.uar := by obtain ⟨_, _, e⟩ := signalCtx_frame s t; rw [e]
@[simp] theorem signalCtx_i2c (s : State) (t : Tenant) : (signalCtx s t).i2c = s.i2c := by obtain ⟨_, _, e⟩ := signalCtx_frame s t; rw [e]
@[simp] theorem signalCtx_jtg (s : State) (t : Tenant) : (signalCtx s t).jtg = s.jtg := by obtain ⟨_, _, e⟩ := signalCtx_frame s t; rw [e]
@[simp] theorem signalCtx_mem (s : State) (t : Tenant) : (signalCtx s t).mem = s.mem := by obtain ⟨_, _, e⟩ := signalCtx_frame s t; rw [e]

@[simp] theorem pumpCpl_pending (s : State) (t : Tenant) : (pumpCpl s t).pending = s.pending := by obtain ⟨_, _, e⟩ := pumpCpl_frame s t; rw [e]
@[simp] theorem pumpCpl_free (s : State) (t : Tenant) : (pumpCpl s t).free = s.free := by obtain ⟨_, _, e⟩ := pumpCpl_frame s t; rw [e]
@[simp] theorem pumpCpl_clk (s : State) (t : Tenant) : (pumpCpl s t).clk = s.clk := by obtain ⟨_, _, e⟩ := pumpCpl_frame s t; rw [e]
@[simp] theorem pumpCpl_lap (s : State) (t : Tenant) : (pumpCpl s t).lap = s.lap := by obtain ⟨_, _, e⟩ := pumpCpl_frame s t; rw [e]
@[simp] theorem pumpCpl_glb (s : State) (t : Tenant) : (pumpCpl s t).glb = s.glb := by obtain ⟨_, _, e⟩ := pumpCpl_frame s t; rw [e]
@[simp] theorem pumpCpl_coach (s : State) (t : Tenant) : (pumpCpl s t).coach = s.coach := by obtain ⟨_, _, e⟩ := pumpCpl_frame s t; rw [e]
@[simp] theorem pumpCpl_sel (s : State) (t : Tenant) : (pumpCpl s t).sel = s.sel := by obtain ⟨_, _, e⟩ := pumpCpl_frame s t; rw [e]
@[simp] theorem pumpCpl_sta (s : State) (t : Tenant) : (pumpCpl s t).sta = s.sta := by obtain ⟨_, _, e⟩ := pumpCpl_frame s t; rw [e]
@[simp] theorem pumpCpl_fus (s : State) (t : Tenant) : (pumpCpl s t).fus = s.fus := by obtain ⟨_, _, e⟩ := pumpCpl_frame s t; rw [e]
@[simp] theorem pumpCpl_fwu (s : State) (t : Tenant) : (pumpCpl s t).fwu = s.fwu := by obtain ⟨_, _, e⟩ := pumpCpl_frame s t; rw [e]
@[simp] theorem pumpCpl_mpl (s : State) (t : Tenant) : (pumpCpl s t).mpl = s.mpl := by obtain ⟨_, _, e⟩ := pumpCpl_frame s t; rw [e]
@[simp] theorem pumpCpl_lanes (s : State) (t : Tenant) : (pumpCpl s t).lanes = s.lanes := by obtain ⟨_, _, e⟩ := pumpCpl_frame s t; rw [e]
@[simp] theorem pumpCpl_reqs (s : State) (t : Tenant) : (pumpCpl s t).reqs = s.reqs := by obtain ⟨_, _, e⟩ := pumpCpl_frame s t; rw [e]
@[simp] theorem pumpCpl_slotGen (s : State) (t : Tenant) : (pumpCpl s t).slotGen = s.slotGen := by obtain ⟨_, _, e⟩ := pumpCpl_frame s t; rw [e]
@[simp] theorem pumpCpl_jdg (s : State) (t : Tenant) : (pumpCpl s t).jdg = s.jdg := by obtain ⟨_, _, e⟩ := pumpCpl_frame s t; rw [e]
@[simp] theorem pumpCpl_stp (s : State) (t : Tenant) : (pumpCpl s t).stp = s.stp := by obtain ⟨_, _, e⟩ := pumpCpl_frame s t; rw [e]
@[simp] theorem pumpCpl_srg (s : State) (t : Tenant) : (pumpCpl s t).srg = s.srg := by obtain ⟨_, _, e⟩ := pumpCpl_frame s t; rw [e]
@[simp] theorem pumpCpl_xz (s : State) (t : Tenant) : (pumpCpl s t).xz = s.xz := by obtain ⟨_, _, e⟩ := pumpCpl_frame s t; rw [e]
@[simp] theorem pumpCpl_btn (s : State) (t : Tenant) : (pumpCpl s t).btn = s.btn := by obtain ⟨_, _, e⟩ := pumpCpl_frame s t; rw [e]
@[simp] theorem pumpCpl_te (s : State) (t : Tenant) : (pumpCpl s t).te = s.te := by obtain ⟨_, _, e⟩ := pumpCpl_frame s t; rw [e]
@[simp] theorem pumpCpl_rly (s : State) (t : Tenant) : (pumpCpl s t).rly = s.rly := by obtain ⟨_, _, e⟩ := pumpCpl_frame s t; rw [e]
@[simp] theorem pumpCpl_pac (s : State) (t : Tenant) : (pumpCpl s t).pac = s.pac := by obtain ⟨_, _, e⟩ := pumpCpl_frame s t; rw [e]
@[simp] theorem pumpCpl_bib (s : State) (t : Tenant) : (pumpCpl s t).bib = s.bib := by obtain ⟨_, _, e⟩ := pumpCpl_frame s t; rw [e]
@[simp] theorem pumpCpl_mar (s : State) (t : Tenant) : (pumpCpl s t).mar = s.mar := by obtain ⟨_, _, e⟩ := pumpCpl_frame s t; rw [e]
@[simp] theorem pumpCpl_cap (s : State) (t : Tenant) : (pumpCpl s t).cap = s.cap := by obtain ⟨_, _, e⟩ := pumpCpl_frame s t; rw [e]
@[simp] theorem pumpCpl_spi (s : State) (t : Tenant) : (pumpCpl s t).spi = s.spi := by obtain ⟨_, _, e⟩ := pumpCpl_frame s t; rw [e]
@[simp] theorem pumpCpl_uar (s : State) (t : Tenant) : (pumpCpl s t).uar = s.uar := by obtain ⟨_, _, e⟩ := pumpCpl_frame s t; rw [e]
@[simp] theorem pumpCpl_i2c (s : State) (t : Tenant) : (pumpCpl s t).i2c = s.i2c := by obtain ⟨_, _, e⟩ := pumpCpl_frame s t; rw [e]
@[simp] theorem pumpCpl_jtg (s : State) (t : Tenant) : (pumpCpl s t).jtg = s.jtg := by obtain ⟨_, _, e⟩ := pumpCpl_frame s t; rw [e]
@[simp] theorem pumpCpl_mem (s : State) (t : Tenant) : (pumpCpl s t).mem = s.mem := by obtain ⟨_, _, e⟩ := pumpCpl_frame s t; rw [e]

@[simp] theorem postCpl_pending (s : State) (x : Cpl) : (postCpl s x).pending = s.pending := by obtain ⟨_, _, _, _, e⟩ := postCpl_frame s x; rw [e]
@[simp] theorem postCpl_free (s : State) (x : Cpl) : (postCpl s x).free = s.free := by obtain ⟨_, _, _, _, e⟩ := postCpl_frame s x; rw [e]
@[simp] theorem postCpl_clk (s : State) (x : Cpl) : (postCpl s x).clk = s.clk := by obtain ⟨_, _, _, _, e⟩ := postCpl_frame s x; rw [e]
@[simp] theorem postCpl_lap (s : State) (x : Cpl) : (postCpl s x).lap = s.lap := by obtain ⟨_, _, _, _, e⟩ := postCpl_frame s x; rw [e]
@[simp] theorem postCpl_glb (s : State) (x : Cpl) : (postCpl s x).glb = s.glb := by obtain ⟨_, _, _, _, e⟩ := postCpl_frame s x; rw [e]
@[simp] theorem postCpl_sel (s : State) (x : Cpl) : (postCpl s x).sel = s.sel := by obtain ⟨_, _, _, _, e⟩ := postCpl_frame s x; rw [e]
@[simp] theorem postCpl_sta (s : State) (x : Cpl) : (postCpl s x).sta = s.sta := by obtain ⟨_, _, _, _, e⟩ := postCpl_frame s x; rw [e]
@[simp] theorem postCpl_fus (s : State) (x : Cpl) : (postCpl s x).fus = s.fus := by obtain ⟨_, _, _, _, e⟩ := postCpl_frame s x; rw [e]
@[simp] theorem postCpl_fwu (s : State) (x : Cpl) : (postCpl s x).fwu = s.fwu := by obtain ⟨_, _, _, _, e⟩ := postCpl_frame s x; rw [e]
@[simp] theorem postCpl_mpl (s : State) (x : Cpl) : (postCpl s x).mpl = s.mpl := by obtain ⟨_, _, _, _, e⟩ := postCpl_frame s x; rw [e]
@[simp] theorem postCpl_lanes (s : State) (x : Cpl) : (postCpl s x).lanes = s.lanes := by obtain ⟨_, _, _, _, e⟩ := postCpl_frame s x; rw [e]
@[simp] theorem postCpl_reqs (s : State) (x : Cpl) : (postCpl s x).reqs = s.reqs := by obtain ⟨_, _, _, _, e⟩ := postCpl_frame s x; rw [e]
@[simp] theorem postCpl_slotGen (s : State) (x : Cpl) : (postCpl s x).slotGen = s.slotGen := by obtain ⟨_, _, _, _, e⟩ := postCpl_frame s x; rw [e]
@[simp] theorem postCpl_jdg (s : State) (x : Cpl) : (postCpl s x).jdg = s.jdg := by obtain ⟨_, _, _, _, e⟩ := postCpl_frame s x; rw [e]
@[simp] theorem postCpl_stp (s : State) (x : Cpl) : (postCpl s x).stp = s.stp := by obtain ⟨_, _, _, _, e⟩ := postCpl_frame s x; rw [e]
@[simp] theorem postCpl_srg (s : State) (x : Cpl) : (postCpl s x).srg = s.srg := by obtain ⟨_, _, _, _, e⟩ := postCpl_frame s x; rw [e]
@[simp] theorem postCpl_xz (s : State) (x : Cpl) : (postCpl s x).xz = s.xz := by obtain ⟨_, _, _, _, e⟩ := postCpl_frame s x; rw [e]
@[simp] theorem postCpl_btn (s : State) (x : Cpl) : (postCpl s x).btn = s.btn := by obtain ⟨_, _, _, _, e⟩ := postCpl_frame s x; rw [e]
@[simp] theorem postCpl_te (s : State) (x : Cpl) : (postCpl s x).te = s.te := by obtain ⟨_, _, _, _, e⟩ := postCpl_frame s x; rw [e]
@[simp] theorem postCpl_rly (s : State) (x : Cpl) : (postCpl s x).rly = s.rly := by obtain ⟨_, _, _, _, e⟩ := postCpl_frame s x; rw [e]
@[simp] theorem postCpl_pac (s : State) (x : Cpl) : (postCpl s x).pac = s.pac := by obtain ⟨_, _, _, _, e⟩ := postCpl_frame s x; rw [e]
@[simp] theorem postCpl_bib (s : State) (x : Cpl) : (postCpl s x).bib = s.bib := by obtain ⟨_, _, _, _, e⟩ := postCpl_frame s x; rw [e]
@[simp] theorem postCpl_mar (s : State) (x : Cpl) : (postCpl s x).mar = s.mar := by obtain ⟨_, _, _, _, e⟩ := postCpl_frame s x; rw [e]
@[simp] theorem postCpl_cap (s : State) (x : Cpl) : (postCpl s x).cap = s.cap := by obtain ⟨_, _, _, _, e⟩ := postCpl_frame s x; rw [e]
@[simp] theorem postCpl_spi (s : State) (x : Cpl) : (postCpl s x).spi = s.spi := by obtain ⟨_, _, _, _, e⟩ := postCpl_frame s x; rw [e]
@[simp] theorem postCpl_uar (s : State) (x : Cpl) : (postCpl s x).uar = s.uar := by obtain ⟨_, _, _, _, e⟩ := postCpl_frame s x; rw [e]
@[simp] theorem postCpl_i2c (s : State) (x : Cpl) : (postCpl s x).i2c = s.i2c := by obtain ⟨_, _, _, _, e⟩ := postCpl_frame s x; rw [e]
@[simp] theorem postCpl_jtg (s : State) (x : Cpl) : (postCpl s x).jtg = s.jtg := by obtain ⟨_, _, _, _, e⟩ := postCpl_frame s x; rw [e]
@[simp] theorem postCpl_mem (s : State) (x : Cpl) : (postCpl s x).mem = s.mem := by obtain ⟨_, _, _, _, e⟩ := postCpl_frame s x; rw [e]

@[simp] theorem complete_pending (s : State) (h : HostHdr) (op : Byte) (c : Finish) : (complete s h op c).pending = s.pending := by obtain ⟨_, _, _, _, e⟩ := complete_frame s h op c; rw [e]
@[simp] theorem complete_free (s : State) (h : HostHdr) (op : Byte) (c : Finish) : (complete s h op c).free = s.free := by obtain ⟨_, _, _, _, e⟩ := complete_frame s h op c; rw [e]
@[simp] theorem complete_clk (s : State) (h : HostHdr) (op : Byte) (c : Finish) : (complete s h op c).clk = s.clk := by obtain ⟨_, _, _, _, e⟩ := complete_frame s h op c; rw [e]
@[simp] theorem complete_lap (s : State) (h : HostHdr) (op : Byte) (c : Finish) : (complete s h op c).lap = s.lap := by obtain ⟨_, _, _, _, e⟩ := complete_frame s h op c; rw [e]
@[simp] theorem complete_glb (s : State) (h : HostHdr) (op : Byte) (c : Finish) : (complete s h op c).glb = s.glb := by obtain ⟨_, _, _, _, e⟩ := complete_frame s h op c; rw [e]
@[simp] theorem complete_sel (s : State) (h : HostHdr) (op : Byte) (c : Finish) : (complete s h op c).sel = s.sel := by obtain ⟨_, _, _, _, e⟩ := complete_frame s h op c; rw [e]
@[simp] theorem complete_sta (s : State) (h : HostHdr) (op : Byte) (c : Finish) : (complete s h op c).sta = s.sta := by obtain ⟨_, _, _, _, e⟩ := complete_frame s h op c; rw [e]
@[simp] theorem complete_fus (s : State) (h : HostHdr) (op : Byte) (c : Finish) : (complete s h op c).fus = s.fus := by obtain ⟨_, _, _, _, e⟩ := complete_frame s h op c; rw [e]
@[simp] theorem complete_fwu (s : State) (h : HostHdr) (op : Byte) (c : Finish) : (complete s h op c).fwu = s.fwu := by obtain ⟨_, _, _, _, e⟩ := complete_frame s h op c; rw [e]
@[simp] theorem complete_mpl (s : State) (h : HostHdr) (op : Byte) (c : Finish) : (complete s h op c).mpl = s.mpl := by obtain ⟨_, _, _, _, e⟩ := complete_frame s h op c; rw [e]
@[simp] theorem complete_lanes (s : State) (h : HostHdr) (op : Byte) (c : Finish) : (complete s h op c).lanes = s.lanes := by obtain ⟨_, _, _, _, e⟩ := complete_frame s h op c; rw [e]
@[simp] theorem complete_reqs (s : State) (h : HostHdr) (op : Byte) (c : Finish) : (complete s h op c).reqs = s.reqs := by obtain ⟨_, _, _, _, e⟩ := complete_frame s h op c; rw [e]
@[simp] theorem complete_slotGen (s : State) (h : HostHdr) (op : Byte) (c : Finish) : (complete s h op c).slotGen = s.slotGen := by obtain ⟨_, _, _, _, e⟩ := complete_frame s h op c; rw [e]
@[simp] theorem complete_jdg (s : State) (h : HostHdr) (op : Byte) (c : Finish) : (complete s h op c).jdg = s.jdg := by obtain ⟨_, _, _, _, e⟩ := complete_frame s h op c; rw [e]
@[simp] theorem complete_stp (s : State) (h : HostHdr) (op : Byte) (c : Finish) : (complete s h op c).stp = s.stp := by obtain ⟨_, _, _, _, e⟩ := complete_frame s h op c; rw [e]
@[simp] theorem complete_srg (s : State) (h : HostHdr) (op : Byte) (c : Finish) : (complete s h op c).srg = s.srg := by obtain ⟨_, _, _, _, e⟩ := complete_frame s h op c; rw [e]
@[simp] theorem complete_xz (s : State) (h : HostHdr) (op : Byte) (c : Finish) : (complete s h op c).xz = s.xz := by obtain ⟨_, _, _, _, e⟩ := complete_frame s h op c; rw [e]
@[simp] theorem complete_btn (s : State) (h : HostHdr) (op : Byte) (c : Finish) : (complete s h op c).btn = s.btn := by obtain ⟨_, _, _, _, e⟩ := complete_frame s h op c; rw [e]
@[simp] theorem complete_te (s : State) (h : HostHdr) (op : Byte) (c : Finish) : (complete s h op c).te = s.te := by obtain ⟨_, _, _, _, e⟩ := complete_frame s h op c; rw [e]
@[simp] theorem complete_rly (s : State) (h : HostHdr) (op : Byte) (c : Finish) : (complete s h op c).rly = s.rly := by obtain ⟨_, _, _, _, e⟩ := complete_frame s h op c; rw [e]
@[simp] theorem complete_pac (s : State) (h : HostHdr) (op : Byte) (c : Finish) : (complete s h op c).pac = s.pac := by obtain ⟨_, _, _, _, e⟩ := complete_frame s h op c; rw [e]
@[simp] theorem complete_bib (s : State) (h : HostHdr) (op : Byte) (c : Finish) : (complete s h op c).bib = s.bib := by obtain ⟨_, _, _, _, e⟩ := complete_frame s h op c; rw [e]
@[simp] theorem complete_mar (s : State) (h : HostHdr) (op : Byte) (c : Finish) : (complete s h op c).mar = s.mar := by obtain ⟨_, _, _, _, e⟩ := complete_frame s h op c; rw [e]
@[simp] theorem complete_cap (s : State) (h : HostHdr) (op : Byte) (c : Finish) : (complete s h op c).cap = s.cap := by obtain ⟨_, _, _, _, e⟩ := complete_frame s h op c; rw [e]
@[simp] theorem complete_spi (s : State) (h : HostHdr) (op : Byte) (c : Finish) : (complete s h op c).spi = s.spi := by obtain ⟨_, _, _, _, e⟩ := complete_frame s h op c; rw [e]
@[simp] theorem complete_uar (s : State) (h : HostHdr) (op : Byte) (c : Finish) : (complete s h op c).uar = s.uar := by obtain ⟨_, _, _, _, e⟩ := complete_frame s h op c; rw [e]
@[simp] theorem complete_i2c (s : State) (h : HostHdr) (op : Byte) (c : Finish) : (complete s h op c).i2c = s.i2c := by obtain ⟨_, _, _, _, e⟩ := complete_frame s h op c; rw [e]
@[simp] theorem complete_jtg (s : State) (h : HostHdr) (op : Byte) (c : Finish) : (complete s h op c).jtg = s.jtg := by obtain ⟨_, _, _, _, e⟩ := complete_frame s h op c; rw [e]
@[simp] theorem complete_mem (s : State) (h : HostHdr) (op : Byte) (c : Finish) : (complete s h op c).mem = s.mem := by obtain ⟨_, _, _, _, e⟩ := complete_frame s h op c; rw [e]

@[simp] theorem completeR_pending (s : State) (h : HostHdr) (op : Byte) (c : Finish) (r : Byte) : (completeR s h op c r).pending = s.pending := by rw [completeR, postCpl_pending]
@[simp] theorem completeR_free (s : State) (h : HostHdr) (op : Byte) (c : Finish) (r : Byte) : (completeR s h op c r).free = s.free := by rw [completeR, postCpl_free]
@[simp] theorem completeR_clk (s : State) (h : HostHdr) (op : Byte) (c : Finish) (r : Byte) : (completeR s h op c r).clk = s.clk := by rw [completeR, postCpl_clk]
@[simp] theorem completeR_lap (s : State) (h : HostHdr) (op : Byte) (c : Finish) (r : Byte) : (completeR s h op c r).lap = s.lap := by rw [completeR, postCpl_lap]
@[simp] theorem completeR_glb (s : State) (h : HostHdr) (op : Byte) (c : Finish) (r : Byte) : (completeR s h op c r).glb = s.glb := by rw [completeR, postCpl_glb]
@[simp] theorem completeR_sel (s : State) (h : HostHdr) (op : Byte) (c : Finish) (r : Byte) : (completeR s h op c r).sel = s.sel := by rw [completeR, postCpl_sel]
@[simp] theorem completeR_sta (s : State) (h : HostHdr) (op : Byte) (c : Finish) (r : Byte) : (completeR s h op c r).sta = s.sta := by rw [completeR, postCpl_sta]
@[simp] theorem completeR_fus (s : State) (h : HostHdr) (op : Byte) (c : Finish) (r : Byte) : (completeR s h op c r).fus = s.fus := by rw [completeR, postCpl_fus]
@[simp] theorem completeR_fwu (s : State) (h : HostHdr) (op : Byte) (c : Finish) (r : Byte) : (completeR s h op c r).fwu = s.fwu := by rw [completeR, postCpl_fwu]
@[simp] theorem completeR_mpl (s : State) (h : HostHdr) (op : Byte) (c : Finish) (r : Byte) : (completeR s h op c r).mpl = s.mpl := by rw [completeR, postCpl_mpl]
@[simp] theorem completeR_lanes (s : State) (h : HostHdr) (op : Byte) (c : Finish) (r : Byte) : (completeR s h op c r).lanes = s.lanes := by rw [completeR, postCpl_lanes]
@[simp] theorem completeR_reqs (s : State) (h : HostHdr) (op : Byte) (c : Finish) (r : Byte) : (completeR s h op c r).reqs = s.reqs := by rw [completeR, postCpl_reqs]
@[simp] theorem completeR_slotGen (s : State) (h : HostHdr) (op : Byte) (c : Finish) (r : Byte) : (completeR s h op c r).slotGen = s.slotGen := by rw [completeR, postCpl_slotGen]
@[simp] theorem completeR_jdg (s : State) (h : HostHdr) (op : Byte) (c : Finish) (r : Byte) : (completeR s h op c r).jdg = s.jdg := by rw [completeR, postCpl_jdg]
@[simp] theorem completeR_stp (s : State) (h : HostHdr) (op : Byte) (c : Finish) (r : Byte) : (completeR s h op c r).stp = s.stp := by rw [completeR, postCpl_stp]
@[simp] theorem completeR_srg (s : State) (h : HostHdr) (op : Byte) (c : Finish) (r : Byte) : (completeR s h op c r).srg = s.srg := by rw [completeR, postCpl_srg]
@[simp] theorem completeR_xz (s : State) (h : HostHdr) (op : Byte) (c : Finish) (r : Byte) : (completeR s h op c r).xz = s.xz := by rw [completeR, postCpl_xz]
@[simp] theorem completeR_btn (s : State) (h : HostHdr) (op : Byte) (c : Finish) (r : Byte) : (completeR s h op c r).btn = s.btn := by rw [completeR, postCpl_btn]
@[simp] theorem completeR_te (s : State) (h : HostHdr) (op : Byte) (c : Finish) (r : Byte) : (completeR s h op c r).te = s.te := by rw [completeR, postCpl_te]
@[simp] theorem completeR_rly (s : State) (h : HostHdr) (op : Byte) (c : Finish) (r : Byte) : (completeR s h op c r).rly = s.rly := by rw [completeR, postCpl_rly]
@[simp] theorem completeR_pac (s : State) (h : HostHdr) (op : Byte) (c : Finish) (r : Byte) : (completeR s h op c r).pac = s.pac := by rw [completeR, postCpl_pac]
@[simp] theorem completeR_bib (s : State) (h : HostHdr) (op : Byte) (c : Finish) (r : Byte) : (completeR s h op c r).bib = s.bib := by rw [completeR, postCpl_bib]
@[simp] theorem completeR_mar (s : State) (h : HostHdr) (op : Byte) (c : Finish) (r : Byte) : (completeR s h op c r).mar = s.mar := by rw [completeR, postCpl_mar]
@[simp] theorem completeR_cap (s : State) (h : HostHdr) (op : Byte) (c : Finish) (r : Byte) : (completeR s h op c r).cap = s.cap := by rw [completeR, postCpl_cap]
@[simp] theorem completeR_spi (s : State) (h : HostHdr) (op : Byte) (c : Finish) (r : Byte) : (completeR s h op c r).spi = s.spi := by rw [completeR, postCpl_spi]
@[simp] theorem completeR_uar (s : State) (h : HostHdr) (op : Byte) (c : Finish) (r : Byte) : (completeR s h op c r).uar = s.uar := by rw [completeR, postCpl_uar]
@[simp] theorem completeR_i2c (s : State) (h : HostHdr) (op : Byte) (c : Finish) (r : Byte) : (completeR s h op c r).i2c = s.i2c := by rw [completeR, postCpl_i2c]
@[simp] theorem completeR_jtg (s : State) (h : HostHdr) (op : Byte) (c : Finish) (r : Byte) : (completeR s h op c r).jtg = s.jtg := by rw [completeR, postCpl_jtg]
@[simp] theorem completeR_mem (s : State) (h : HostHdr) (op : Byte) (c : Finish) (r : Byte) : (completeR s h op c r).mem = s.mem := by rw [completeR, postCpl_mem]

@[simp] theorem completeB_pending (s : State) (h : HostHdr) (op : Byte) (c : Finish) (r : Byte) (b : List Word) : (completeB s h op c r b).pending = s.pending := by obtain ⟨_, _, _, _, e⟩ := completeB_frame s h op c r b; rw [e]
@[simp] theorem completeB_free (s : State) (h : HostHdr) (op : Byte) (c : Finish) (r : Byte) (b : List Word) : (completeB s h op c r b).free = s.free := by obtain ⟨_, _, _, _, e⟩ := completeB_frame s h op c r b; rw [e]
@[simp] theorem completeB_clk (s : State) (h : HostHdr) (op : Byte) (c : Finish) (r : Byte) (b : List Word) : (completeB s h op c r b).clk = s.clk := by obtain ⟨_, _, _, _, e⟩ := completeB_frame s h op c r b; rw [e]
@[simp] theorem completeB_lap (s : State) (h : HostHdr) (op : Byte) (c : Finish) (r : Byte) (b : List Word) : (completeB s h op c r b).lap = s.lap := by obtain ⟨_, _, _, _, e⟩ := completeB_frame s h op c r b; rw [e]
@[simp] theorem completeB_glb (s : State) (h : HostHdr) (op : Byte) (c : Finish) (r : Byte) (b : List Word) : (completeB s h op c r b).glb = s.glb := by obtain ⟨_, _, _, _, e⟩ := completeB_frame s h op c r b; rw [e]
@[simp] theorem completeB_sel (s : State) (h : HostHdr) (op : Byte) (c : Finish) (r : Byte) (b : List Word) : (completeB s h op c r b).sel = s.sel := by obtain ⟨_, _, _, _, e⟩ := completeB_frame s h op c r b; rw [e]
@[simp] theorem completeB_sta (s : State) (h : HostHdr) (op : Byte) (c : Finish) (r : Byte) (b : List Word) : (completeB s h op c r b).sta = s.sta := by obtain ⟨_, _, _, _, e⟩ := completeB_frame s h op c r b; rw [e]
@[simp] theorem completeB_fus (s : State) (h : HostHdr) (op : Byte) (c : Finish) (r : Byte) (b : List Word) : (completeB s h op c r b).fus = s.fus := by obtain ⟨_, _, _, _, e⟩ := completeB_frame s h op c r b; rw [e]
@[simp] theorem completeB_fwu (s : State) (h : HostHdr) (op : Byte) (c : Finish) (r : Byte) (b : List Word) : (completeB s h op c r b).fwu = s.fwu := by obtain ⟨_, _, _, _, e⟩ := completeB_frame s h op c r b; rw [e]
@[simp] theorem completeB_mpl (s : State) (h : HostHdr) (op : Byte) (c : Finish) (r : Byte) (b : List Word) : (completeB s h op c r b).mpl = s.mpl := by obtain ⟨_, _, _, _, e⟩ := completeB_frame s h op c r b; rw [e]
@[simp] theorem completeB_lanes (s : State) (h : HostHdr) (op : Byte) (c : Finish) (r : Byte) (b : List Word) : (completeB s h op c r b).lanes = s.lanes := by obtain ⟨_, _, _, _, e⟩ := completeB_frame s h op c r b; rw [e]
@[simp] theorem completeB_reqs (s : State) (h : HostHdr) (op : Byte) (c : Finish) (r : Byte) (b : List Word) : (completeB s h op c r b).reqs = s.reqs := by obtain ⟨_, _, _, _, e⟩ := completeB_frame s h op c r b; rw [e]
@[simp] theorem completeB_slotGen (s : State) (h : HostHdr) (op : Byte) (c : Finish) (r : Byte) (b : List Word) : (completeB s h op c r b).slotGen = s.slotGen := by obtain ⟨_, _, _, _, e⟩ := completeB_frame s h op c r b; rw [e]
@[simp] theorem completeB_jdg (s : State) (h : HostHdr) (op : Byte) (c : Finish) (r : Byte) (b : List Word) : (completeB s h op c r b).jdg = s.jdg := by obtain ⟨_, _, _, _, e⟩ := completeB_frame s h op c r b; rw [e]
@[simp] theorem completeB_stp (s : State) (h : HostHdr) (op : Byte) (c : Finish) (r : Byte) (b : List Word) : (completeB s h op c r b).stp = s.stp := by obtain ⟨_, _, _, _, e⟩ := completeB_frame s h op c r b; rw [e]
@[simp] theorem completeB_srg (s : State) (h : HostHdr) (op : Byte) (c : Finish) (r : Byte) (b : List Word) : (completeB s h op c r b).srg = s.srg := by obtain ⟨_, _, _, _, e⟩ := completeB_frame s h op c r b; rw [e]
@[simp] theorem completeB_xz (s : State) (h : HostHdr) (op : Byte) (c : Finish) (r : Byte) (b : List Word) : (completeB s h op c r b).xz = s.xz := by obtain ⟨_, _, _, _, e⟩ := completeB_frame s h op c r b; rw [e]
@[simp] theorem completeB_btn (s : State) (h : HostHdr) (op : Byte) (c : Finish) (r : Byte) (b : List Word) : (completeB s h op c r b).btn = s.btn := by obtain ⟨_, _, _, _, e⟩ := completeB_frame s h op c r b; rw [e]
@[simp] theorem completeB_te (s : State) (h : HostHdr) (op : Byte) (c : Finish) (r : Byte) (b : List Word) : (completeB s h op c r b).te = s.te := by obtain ⟨_, _, _, _, e⟩ := completeB_frame s h op c r b; rw [e]
@[simp] theorem completeB_rly (s : State) (h : HostHdr) (op : Byte) (c : Finish) (r : Byte) (b : List Word) : (completeB s h op c r b).rly = s.rly := by obtain ⟨_, _, _, _, e⟩ := completeB_frame s h op c r b; rw [e]
@[simp] theorem completeB_pac (s : State) (h : HostHdr) (op : Byte) (c : Finish) (r : Byte) (b : List Word) : (completeB s h op c r b).pac = s.pac := by obtain ⟨_, _, _, _, e⟩ := completeB_frame s h op c r b; rw [e]
@[simp] theorem completeB_bib (s : State) (h : HostHdr) (op : Byte) (c : Finish) (r : Byte) (b : List Word) : (completeB s h op c r b).bib = s.bib := by obtain ⟨_, _, _, _, e⟩ := completeB_frame s h op c r b; rw [e]
@[simp] theorem completeB_mar (s : State) (h : HostHdr) (op : Byte) (c : Finish) (r : Byte) (b : List Word) : (completeB s h op c r b).mar = s.mar := by obtain ⟨_, _, _, _, e⟩ := completeB_frame s h op c r b; rw [e]
@[simp] theorem completeB_cap (s : State) (h : HostHdr) (op : Byte) (c : Finish) (r : Byte) (b : List Word) : (completeB s h op c r b).cap = s.cap := by obtain ⟨_, _, _, _, e⟩ := completeB_frame s h op c r b; rw [e]
@[simp] theorem completeB_spi (s : State) (h : HostHdr) (op : Byte) (c : Finish) (r : Byte) (b : List Word) : (completeB s h op c r b).spi = s.spi := by obtain ⟨_, _, _, _, e⟩ := completeB_frame s h op c r b; rw [e]
@[simp] theorem completeB_uar (s : State) (h : HostHdr) (op : Byte) (c : Finish) (r : Byte) (b : List Word) : (completeB s h op c r b).uar = s.uar := by obtain ⟨_, _, _, _, e⟩ := completeB_frame s h op c r b; rw [e]
@[simp] theorem completeB_i2c (s : State) (h : HostHdr) (op : Byte) (c : Finish) (r : Byte) (b : List Word) : (completeB s h op c r b).i2c = s.i2c := by obtain ⟨_, _, _, _, e⟩ := completeB_frame s h op c r b; rw [e]
@[simp] theorem completeB_jtg (s : State) (h : HostHdr) (op : Byte) (c : Finish) (r : Byte) (b : List Word) : (completeB s h op c r b).jtg = s.jtg := by obtain ⟨_, _, _, _, e⟩ := completeB_frame s h op c r b; rw [e]
@[simp] theorem completeB_mem (s : State) (h : HostHdr) (op : Byte) (c : Finish) (r : Byte) (b : List Word) : (completeB s h op c r b).mem = s.mem := by obtain ⟨_, _, _, _, e⟩ := completeB_frame s h op c r b; rw [e]

end Sys2Proof.Machine
end

