-- ==== Sys2Proof/Laws/Memory.lean ====
section
/-! SUPPORT. Memory: a read after a write, and the canonical form that every memory operation keeps. -/

namespace Sys2Proof.Machine

open Sys2Proof

/-- Every listed address lies above k. -/
abbrev above (k : Nat) (m : Mem) : Prop := ∀ c ∈ m, k < c.1

theorem wf_cons (k : Nat) (b : Byte) (t : Mem) :
    Memory.wf ((k, b) :: t) = true ↔ b ≠ 0 ∧ above k t ∧ Memory.wf t = true := by
  simp [Memory.wf, above, and_assoc]

theorem above_memWrite {k : Nat} {m : Mem} (a : Nat) (b : Byte) (hm : above k m) (ha : k < a) : above k (memWrite m a b) := by
  induction m with
  | nil =>
    intro c hc
    simp only [memWrite] at hc
    split at hc
    · simp at hc
    · simp at hc; subst hc; exact ha
  | cons e t ih =>
    obtain ⟨j, x⟩ := e
    have ht : above k t := fun c hc => hm c (List.mem_cons_of_mem _ hc)
    have hj : k < j := hm (j, x) (by simp)
    intro c hc
    simp only [memWrite] at hc
    split at hc
    · split at hc
      · exact hm c hc
      · rcases List.mem_cons.1 hc with h | h
        · subst h; exact ha
        · exact hm c h
    · split at hc
      · split at hc
        · exact ht c hc
        · rcases List.mem_cons.1 hc with h | h
          · subst h; exact ha
          · exact ht c h
      · rcases List.mem_cons.1 hc with h | h
        · subst h; exact hj
        · exact ih ht c h

/-- A write keeps the canonical form. -/
theorem memWrite_wf {m : Mem} (a : Nat) (b : Byte) (h : Memory.wf m = true) : Memory.wf (memWrite m a b) = true := by
  induction m with
  | nil =>
    simp only [memWrite]
    split
    · rfl
    · rename_i hb
      exact (wf_cons a b []).2 ⟨hb, by intro c hc; simp at hc, rfl⟩
  | cons e t ih =>
    obtain ⟨k, x⟩ := e
    obtain ⟨hx, hk, ht⟩ := (wf_cons k x t).1 h
    simp only [memWrite]
    split
    · rename_i hak
      split
      · exact h
      · rename_i hb
        refine (wf_cons a b _).2 ⟨hb, ?_, h⟩
        intro c hc
        rcases List.mem_cons.1 hc with e | e
        · subst e; exact hak
        · exact Nat.lt_trans hak (hk c e)
    · split
      · rename_i hak
        subst hak
        split
        · exact ht
        · rename_i hb
          exact (wf_cons _ b t).2 ⟨hb, hk, ht⟩
      · rename_i h1 h2
        exact (wf_cons k x _).2 ⟨hx, above_memWrite a b hk (by omega), ih ht⟩

theorem memRead_above {k : Nat} {m : Mem} (h : above k m) : memRead m k = 0 := by
  induction m with
  | nil => rfl
  | cons e t ih =>
    obtain ⟨j, x⟩ := e
    have hj : k < j := h (j, x) (by simp)
    have : ¬ j = k := by omega
    simp [memRead, this, ih fun c hc => h c (List.mem_cons_of_mem _ hc)]

/-- A read after a write to the same address gives the byte written. -/
theorem memRead_memWrite_self {m : Mem} (a : Nat) (b : Byte) (h : Memory.wf m = true) : memRead (memWrite m a b) a = b := by
  induction m with
  | nil =>
    simp only [memWrite]
    split
    · rename_i hb; simp [memRead, hb]
    · simp [memRead]
  | cons e t ih =>
    obtain ⟨k, x⟩ := e
    obtain ⟨_, hk, ht⟩ := (wf_cons k x t).1 h
    simp only [memWrite]
    split
    · rename_i hak
      split
      · rename_i hb
        rw [hb]
        refine memRead_above ?_
        intro c hc
        rcases List.mem_cons.1 hc with e | e
        · subst e; exact hak
        · exact Nat.lt_trans hak (hk c e)
      · simp [memRead]
    · split
      · rename_i hak
        subst hak
        split
        · rename_i hb; rw [hb]; exact memRead_above hk
        · simp [memRead]
      · rename_i h1 h2
        have : ¬ k = a := fun e => h2 e.symm
        simp [memRead, this, ih ht]

/-- A write leaves every other address as it was. -/
theorem memRead_memWrite_ne {m : Mem} (a c : Nat) (b : Byte) (h : Memory.wf m = true) (hc : c ≠ a) :
    memRead (memWrite m a b) c = memRead m c := by
  induction m with
  | nil =>
    simp only [memWrite]
    split
    · rfl
    · simp [memRead, hc.symm]
  | cons e t ih =>
    obtain ⟨k, x⟩ := e
    obtain ⟨_, hk, ht⟩ := (wf_cons k x t).1 h
    simp only [memWrite]
    split
    · split
      · rfl
      · simp [memRead, hc.symm]
    · split
      · rename_i hak
        subst hak
        split
        · simp [memRead, hc.symm]
        · simp [memRead, hc.symm]
      · simp [memRead, ih ht]

theorem memStore_wf (bs : List Byte) : ∀ (m : Mem) (a : Nat), Memory.wf m = true → Memory.wf (memStore m a bs) = true := by
  induction bs with
  | nil => intro m a h; exact h
  | cons b bs ih => intro m a h; exact ih _ _ (memWrite_wf a b h)

/-- A store leaves every address outside its bytes as it was. -/
theorem memRead_memStore_ne (bs : List Byte) : ∀ (m : Mem) (a c : Nat), Memory.wf m = true → (c < a ∨ a + bs.length ≤ c) →
    memRead (memStore m a bs) c = memRead m c := by
  induction bs with
  | nil => intro m a c _ _; rfl
  | cons b bs ih =>
    intro m a c h hc
    simp only [List.length_cons] at hc
    rw [memStore, ih _ _ _ (memWrite_wf a b h) (by omega), memRead_memWrite_ne a c b h (by omega)]

/-- A store is read back. -/
theorem memRead_memStore (bs : List Byte) : ∀ (m : Mem) (a i : Nat) (hi : i < bs.length), Memory.wf m = true →
    memRead (memStore m a bs) (a + i) = bs[i] := by
  induction bs with
  | nil => intro m a i hi; simp at hi
  | cons b bs ih =>
    intro m a i hi h
    cases i with
    | zero =>
      rw [memStore, memRead_memStore_ne bs _ _ _ (memWrite_wf a b h) (by omega)]
      simpa using memRead_memWrite_self a b h
    | succ i =>
      have := ih (memWrite m a b) (a + 1) i (by simpa using hi) (memWrite_wf a b h)
      rw [memStore, show a + (i + 1) = a + 1 + i by omega, this]
      simp

/-- Leaving bytes out keeps the form. -/
theorem filter_wf (p : Host.Cell → Bool) {m : Mem} (h : Memory.wf m = true) : Memory.wf (m.filter p) = true := by
  induction m with
  | nil => rfl
  | cons e t ih =>
    obtain ⟨k, x⟩ := e
    obtain ⟨hx, hk, ht⟩ := (wf_cons k x t).1 h
    by_cases hp : p (k, x) = true
    · rw [List.filter_cons_of_pos hp]
      exact (wf_cons k x _).2 ⟨hx, fun c hc => hk c (List.mem_filter.1 hc).1, ih ht⟩
    · rw [List.filter_cons_of_neg hp]
      exact ih ht

end Sys2Proof.Machine
end

