-- ==== Sys2Proof/Laws/Images.lean ====
section
/-! SUPPORT. Images in memory and operand SRAM: each operation keeps the canonical form, and a core's bytes have places of their own
(02_structure_and_hierarchies.md R37, R41; 04_laps_and_lap_tables.md R107). -/

namespace Sys2Proof.Machine

open Sys2Proof

/-- Writes in any order keep the canonical form. -/
theorem writes_wf {α : Type} (f : α → Nat) (g : α → Byte) (xs : List α) :
    ∀ m : Mem, Memory.wf m = true → Memory.wf (xs.foldl (fun m x => memWrite m (f x) (g x)) m) = true := by
  induction xs with
  | nil => intro m h; exact h
  | cons x xs ih => intro m h; exact ih _ (memWrite_wf _ _ h)

theorem storeImage_wf {m : Mem} (l : Lane) (slots : List Nat) (off : Nat) (bs : List Byte) (h : Memory.wf m = true) :
    Memory.wf (storeImage m l slots off bs) = true :=
  writes_wf (fun p : Byte × Nat => imageAddr l slots (off + p.2)) (fun p => p.1) bs.zipIdx m h

theorem memMove_wf (src : Mem) (a n : Nat) {dst : Mem} (b : Nat) (h : Memory.wf dst = true) :
    Memory.wf (memMove src a n dst b) = true :=
  writes_wf (fun c : Host.Cell => c.1 - a + b) (fun c => c.2) _ _ (filter_wf _ h)

/-- Addresses moved down by a common amount, none below zero, keep the form. -/
theorem shift_wf (k : Nat) : ∀ {m : Mem}, Memory.wf m = true → (∀ c ∈ m, k ≤ c.1) →
    Memory.wf (m.map fun c => (c.1 - k, c.2)) = true
  | [], _, _ => rfl
  | (a, x) :: t, h, hk => by
    obtain ⟨hx, ha, ht⟩ := (wf_cons a x t).1 h
    refine (wf_cons (a - k) x _).2 ⟨hx, ?_, shift_wf k ht fun c hc => hk c (List.mem_cons_of_mem _ hc)⟩
    intro c hc
    obtain ⟨d, hd, rfl⟩ := List.mem_map.1 hc
    have h1 := ha d hd
    have h2 : k ≤ a := hk (a, x) (by simp)
    show a - k < d.1 - k
    omega

theorem coreImage_wf {m : Mem} (core : Nat) (h : Memory.wf m = true) : Memory.wf (coreImage m core) = true := by
  refine shift_wf _ (filter_wf _ h) ?_
  intro c hc
  have := (List.mem_filter.1 hc).2
  simp only [Bool.and_eq_true, decide_eq_true_eq] at this
  exact this.1

theorem clearCore_wf {m : Mem} (core : Nat) (h : Memory.wf m = true) : Memory.wf (clearCore m core) = true := filter_wf _ h

theorem putCore_wf {m : Mem} (core : Nat) (img : Mem) (h : Memory.wf m = true) : Memory.wf (putCore m core img) = true :=
  writes_wf (fun c : Host.Cell => core * sramBytes + c.1) (fun c => c.2) img _ (clearCore_wf core h)

/-- Cores put one after another. -/
theorem putCores_wf (f : Nat → Nat) (g : Nat → Mem) (is : List Nat) :
    ∀ m : Mem, Memory.wf m = true → Memory.wf (is.foldl (fun m i => putCore m (f i) (g i)) m) = true := by
  induction is with
  | nil => intro m h; exact h
  | cons i is ih => intro m h; exact ih _ (putCore_wf _ _ h)

/-- What a SWITCH slot or a core test saves is in canonical form. -/
theorem laneSram_wf (s : State) (n : LaneNo) : Memory.wf (laneSram s n) = true :=
  putCores_wf (fun i => i) (fun i => coreImage s.mem.sram (coreNo s n i)) (List.range 24) [] rfl

theorem setLaneSram_wf {s : State} (n : LaneNo) (img : Mem) (h : Memory.wf s.mem.sram = true) :
    Memory.wf (setLaneSram s n img).mem.sram = true :=
  putCores_wf (fun i => coreNo s n i) (fun i => coreImage img i) (List.range 24) s.mem.sram h

theorem sramWrite_wf {s : State} (n : LaneNo) (pos a : Nat) (bs : List Byte) (h : Memory.wf s.mem.sram = true) :
    Memory.wf (sramWrite s n pos a bs).mem.sram = true :=
  writes_wf (fun p : Byte × Nat => sramKey (coreNo s n pos) (a + p.2)) (fun p => p.1) _ _ h

/-- A core's banks hold its bytes and nothing more. -/
theorem sramPlace_lt {a : Nat} (h : a < sramBytes) : sramPlace a < sramBytes := by
  unfold sramPlace sramBank sramWord bankBytes sramBytes at *
  omega

/-- Bank, word and byte in the word name a place. -/
theorem place_digits {b c w v o p : Nat} (hw : w < 640) (hv : v < 640) (ho : o < 64) (hp : p < 64)
    (h : b * 40960 + w * 64 + o = c * 40960 + v * 64 + p) : b = c ∧ w = v ∧ o = p := by omega

/-- Two core addresses have two places. -/
theorem sramPlace_inj {a b : Nat} (ha : a < sramBytes) (hb : b < sramBytes) (h : sramPlace a = sramPlace b) : a = b := by
  unfold sramBytes at ha hb
  obtain ⟨h1, h2, h3⟩ : a / 64 % 16 = b / 64 % 16 ∧ a / 1024 = b / 1024 ∧ a % 64 = b % 64 :=
    place_digits (by omega) (by omega) (Nat.mod_lt a (by decide)) (Nat.mod_lt b (by decide)) h
  omega

/-- Two bytes of two cores have two keys. -/
theorem sramKey_inj {c d a b : Nat} (ha : a < sramBytes) (hb : b < sramBytes) (h : sramKey c a = sramKey d b) : c = d ∧ a = b := by
  have h1 := sramPlace_lt ha
  have h2 := sramPlace_lt hb
  unfold sramKey at h
  have hc : c = d := by
    unfold sramBytes at *
    omega
  subst hc
  exact ⟨rfl, sramPlace_inj ha hb (by omega)⟩

end Sys2Proof.Machine
end

