-- ==== Sys2Proof/WellFormed.lean ====
section
/-! DEFINITION. Which terms of `Instr` some record, frame, register write or event spells: lists have the length that their count
field gives, and numbers fit the field that carries them. What the device itself checks is not asked here. -/

namespace Sys2Proof

/-- A pattern image carries the ranges and transitions that NRANGES and NSTATES count (R154). -/
def Pattern.wf (p : Pattern) : Bool := decide (p.ranges.length = p.nranges.toNat) && decide (p.next.length = 16 * p.nstates.toNat)

/-- A submission block carries NPAT patterns and PROMPT_LEN tokens (R382). -/
def SubmitBlock.wf (b : SubmitBlock) : Bool :=
  decide (b.patterns.length = b.npat.toNat) && decide (b.tokens.length = b.promptLen.toNat) && b.patterns.all Pattern.wf

/-- A lap table carries NSLOTS slot records (R96). -/
def LapTable.wf (t : LapTable) : Bool := decide (t.slots.length = t.nslots.toNat)

/-- A plan image has NSECT directory entries, and its LANE sections' tables are well formed (R292, R293). -/
def PlanImage.wf (p : PlanImage) : Bool :=
  decide (p.dir.length = p.nsect.toNat) && p.lanes.toList.all fun x => match x.table with | some t => t.wf | none => true

/-- A payload fits the 14-bit LEN field (R213, R216). -/
def Frame.wf (f : Frame) : Bool := decide (f.payload.length < 16384)

/-- Bytes of operand SRAM lie within one core's 655,360 (R37). -/
def srcWf : Src → Bool
  | .given _ => true
  | .sram _ addr len => decide (addr + len ≤ 655360)

def dstWf (d : Dst) : Bool := decide (d.addr < 655360)

/-- A CB3 block is 20 bytes (R66). -/
def cb3Wf : Src → Bool
  | .given bytes => decide (bytes.length = 20)
  | .sram _ addr len => decide (addr + len ≤ 655360) && decide (len = 20)

/-- The operands of one operation of a slot. -/
def Work.wf : Work → Bool
  | .matrix _ a cols dst => srcWf a && cols.all (fun c => srcWf c.1) && dstWf dst
  | .logits _ _ a cols => srcWf a && cols.all fun c => srcWf c.1
  | .vector _ a b dst => srcWf a.src && srcWf b.src && dstWf dst
  | .reduce _ x dst | .convert _ x dst | .quantise _ x dst => srcWf x.src && dstWf dst
  | .cb3 block dst => cb3Wf block && dstWf dst
  | .lowRank layer head coef dst => decide (layer < 1024) && decide (head < 32) && srcWf coef && dstWf dst
  | .attend _ layer head _ _ q dst => decide (layer < 1024) && decide (head < 32) && srcWf q && dstWf dst
  | .append _ layer _ keys vals => decide (layer < 1024) && keys.all (fun x => srcWf x.src) && vals.all fun x => srcWf x.src
  | .probe _ layer queries => decide (layer < 1024) && queries.all fun q => q.all fun x => srcWf x.src
  | .route layer routes => decide (layer < 1024) && routes.all fun x => decide (x.2 < 65536)
  | .stall _ => true

/-- How a control part arrives: in a frame, or inside the device. -/
def CtlRx.wf : CtlRx → Bool
  | .here _ _ _ => true
  | .track f => f.wf

/-- The bytes of a weight image lie within its length and are numbered once, in rising order (R306). -/
def weightWf (len : Nat) : List (Nat × Byte) → Bool
  | a :: b :: rest => decide (a.1 < b.1) && weightWf len (b :: rest)
  | [a] => decide (a.1 < len)
  | [] => true

/-- A REPORT carries the eight words of a log entry (R324). -/
def entryWf (e : List Word) : Bool := decide (e.length = 8)

/-- A slot index is below 1,024 (R96). -/
def slotWf (i : Nat) : Bool := decide (i < 1024)

/-- Core numbers of a die (R34). -/
def coreWf (k : Nat) : Bool := decide (k < 74)

/-- An offset of BAR0 (R375). -/
def offWf (o : Nat) : Bool := decide (o < 67108864)

/-- The commands that some encoding or event spells. -/
def Instr.wf : Instr → Bool
  | .submit _ blk => blk.wf
  | .rcRead _ off len | .loReadLatch _ off len | .unmappedRead _ off len => offWf off && decide (1 ≤ len) && decide (len ≤ 4)
  | .registerWrite _ off _ _ => offWf off
  | .spiRead _ e | .spiWrite _ e | .spiDataWord _ e | .spiNoop _ e => decide (32 ≤ e)
  | .spiFrameDiscard e => decide (e < 32)
  | .coreMarchDone failed => failed.all fun x => coreWf x.2
  | .stackTrainingDone _ cap => cap.toList.all fun c => decide (c.sizeUnits < 65536)
  | .capPortTrained _ r => decide (r.sizeUnits < 65536)
  | .slotStart _ slot work => slotWf slot && work.all Work.wf
  | .slotComplete _ slot _ _ => slotWf slot
  | .coreFailure _ core => coreWf core
  | .legPageRx f | .clearRx f | .legCommitRx f | .legAbortRx f | .write f | .readReq f | .readResp f | .atomicAdd f | .fetchAdd f | .cmpSwap f | .atomicResp f | .send f
  | .ack f | .nack f | .ringRx f | .heartbeat f _ | .echo f _ | .suspect f _ | .fence f _ | .readmit f _ => f.wf
  | .report f _ e => f.wf && entryWf e
  | .legRequest f _ => match f with | some f => f.wf | none => true
  | .legControlPartRx x => x.wf
  | .weightPut _ len _ data => weightWf len.toNat data
  | .pfcFrameRx _ _ t => decide (t < 65536)
  | .pagePresent _ page => decide (page < 134217728)
  | .planImageFetched img => img.wf
  | .lapTableReplacement _ t _ _ => t.wf
  | .extend _ _ ts => decide (ts.length < 65536)
  | .resume _ _ _ ext => match ext with | some x => decide (x.tokens.length < 65536) | none => true
  | .bibUpdate _ _ rs => decide (rs.length < 65536)
  | .pause _ _ | .cancel _ _ | .release _ _ | .audit _ _ _ _ _ | .regionAlloc _ _ _ | .regionFree _ _ | .sqOpen _ _ | .rqOpen _ _
  | .sqClose _ _ | .rqClose _ _ | .bibLookup _ _ _ | .planLoad _ _ | .planWithdraw _ | .laneDrain _ _ | .laneServe _ _
  | .laneTest _ _ _ | .stageVariant _ _ _ => true
  | .commandRingTail _ _ _ | .completionRingHead _ _ _ | .descriptorRingTail _ _ _ _ | .trackCompletionRingHead _ _ _
  | .bufferRingTail _ _ _ _ | .descriptorSplit _ => true
  | .marCmdFenceAdmin _ | .marCmdReadmit _ | .marCmdSwap _ | .fwuStage _ | .activate _ _ | .confirm _ | .rom _
  | .lcTransitionRequest _ _ _ | .deviceSoftwareReset _ _ | .blockSoftwareReset _ _ | .laneReset _ _ | .mchTestStart _ _ _
  | .capRetrain _ _ _ | .rlyDemote _ _ _ | .portFenceWrite _ _ | .teCtrWrite _ _ | .tePathEntryWrite _ _ | .teKgenWrite _ _ _
  | .teTuningWrite _ _ _ | .glbEvtWrite _ _ _ => true
  | .uartByteRx _ _ _ _ | .uartRead _ _ _ | .uartWrite _ _ _ _ | .uartPacketGap | .i2cReadByte _ | .i2cReadWord _
  | .alertResponse | .i2cSclTimeout | .telemetryUpdate _ | .extest _ | .idcode | .samplePreload _ | .clamp | .highz | .debug
  | .bypass _ | .tapReset => true
  | .powerOnReset | .mainBrownout _ | .resetPin | .resetPinRelease | .railGood _ | .pcieFundamentalReset | .perstRelease
  | .functionLevelReset _ | .pcieConfigRequest _ | .pcieLinkDownAfterFatal | .standbyRelease | .fuseLoadDone | .strapSampled _
  | .pllLock | .bolzilMarchDone _ | .dieLinksTrained | .startupStackTestDone _ | .bootImageChecked _ | .sysclkFail | .refclkFail
  | .ethclkFail | .clockRecovered _ | .thermalSample _ | .coachWatchdog | .coachRestartTimeout | .coachServesAgain => true
  | .lapBoundary | .commitPoint | .lapSyncEdge _ | .syncLost | .syncRegained | .stragglerReport _ | .weightHalfFull _
  | .lapTableReady _ | .lapTableLate _ | .variantLanded _ _ | .capCopyDone _ _ _ | .pageFetchDone _ _ _ | .heatDirLate _
  | .batonResident _ | .holdLimitPark _ | .handoffWaitExpired _ | .coreStopTimeout _ _ | .hbmUncorrectable _ _ _ | .stewardFault _
  | .hbcFault _ | .dieLinkFault _ | .mchTestDone _ _ => true
  | .xzPageWritten _ _ _ | .legIdleTimeout _ | .legSourceTimeout _ | .spillDone _ | .recallDone _ | .controlScrub _ | .auditDone _ | .judgeReturn _ _ => true
  | .nontrackFrameRx _ | .ptpFrameRx _ _ | .pfcPauseEnd _ _ | .relayCreditReturn _ _ _ | .pacerChoose _ | .retxTimeout _ _
  | .ackTimer _ | .rateIncrease _ | .pageFaultRetry _ _ | .rxNoBufferRetry _ _ | .systemContextIdle _ | .rlyLaneOut _ _
  | .rlyLinkTrained _ _ _ _ _ | .capLinkDown _ | .bibEngineDone | .bibBatchLate | .bibRingPacket _ | .bibCascadeTimeout _
  | .bibRingHoldDrop | .planChecked | .planDeadlinePassed | .laneBuildDone _ _ | .heartbeatSend _ | .heartbeatDue _ | .echoDue _
  | .tallyClose _ | .fwuStageDone _ | .healthyTimer | .confirmWindowExpired | .lcIntentBurned _ | .lcWorkDone | .evtMsiHoldoff
  | .portDown _ | .portUp _ | .relayLinkDown _ | .pcieLinkUp _ _ _ | .ptpLockLost | .blockResetRelease _
  | .contextMsiXHoldoff _ => true

end Sys2Proof
end

