-- ==== Sys2Proof/Tests/World.lean ====
section
/-! SUPPORT. Small states and operands for the tests: a plan that passes every check, a device that runs it, and one request,
queue, context, leg and frame of each kind. -/

namespace Sys2Proof.Tests

open Sys2Proof Sys2Proof.Machine

/-! ### A plan image that passes every check (R292 to R311) -/

def wModel : ModelSec :=
  { number := 0, digest := 7, digestOk := true, weightDigest := 9, weightBytes := 4096, arithMode := 0, lrRank := 0
    headDim := 32, segBlocks := 16, attnScale := 0x3F800000, kvHeads := 1, retrieve := 0, layers := 1, windowTokens := 128
    topk := 1, runs := 1, vocab := 64, sampleRows := 1, maxLen := 4096, nkern := 1, ops := [], rsvClear := true }

def wSlot (type : BitVec 4) (param : BitVec 16) (deps : List (BitVec 10)) : Slot :=
  { type := type, preempt := false, stream := false, model := 0, subbatch := 0, kernel := 0, budget := 1000, cores := 1
    deps := deps, hbmRd := 0, hbmWr := 0, param := param, rsvClear := true }

def wTable (batch : BitVec 16) (slots : List Slot) : LapTable :=
  { nslots := BitVec.ofNat 16 slots.length, periodUs := 250, quietUs := 20, models := 1, batchMax := batch, subbatches := 1
    preemptGap := 1, overrunLimit := 1, promptQueueMax := 4096, slots := slots, rsvClear := true, crcOk := true }

def wLane (role : BitVec 2) (table : LapTable) : LaneSec :=
  { role := role, dirEntries := 16, model := #v[0, 0xFF, 0xFF, 0xFF], mflags := #v[0, 0, 0, 0]
    cores := Vector.ofFn fun i => BitVec.ofNat 8 i.val, windowKib := 2, weight2m := 1, slot4k := 4, kvFlags := 0x7
    reserve := 64, shared := 64, runCells := 4, guar := 0, cap := 64, handoff := [], exch := [], table := some table
    rsvClear := true }

def wIdleLane : LaneSec :=
  { role := 0, dirEntries := 0, model := Vector.replicate 4 0, mflags := Vector.replicate 4 0, cores := Vector.replicate 24 0
    windowKib := 0, weight2m := 0, slot4k := 0, kvFlags := 0, reserve := 0, shared := 0, runCells := 0, guar := 0, cap := 0
    handoff := [], exch := [], table := none, rsvClear := true }

def wPacQueue : PacQueue := ⟨16, 1, 1000, 64⟩
def wPacPort (relay : Bool) : PacPort :=
  { legQ := 31, overhead := 20, police := 0, pcp := 0, maxFrame := if relay then 0 else 9216
    queues := Vector.replicate 32 wPacQueue, meters := Vector.replicate 30 ⟨1000, 1000, 16, 16⟩, rsvClear := true }

def wPart : BibPart := ⟨0, 4, 1, false, false, false, true⟩

def wEntry (i : Nat) (type index : Byte) : DirEntry :=
  { type := type, index := index, offset := BitVec.ofNat 32 (512 + 64 * i), length := 64, crcOk := true, rsvClear := true }

def wDir : List DirEntry :=
  [wEntry 0 1 0, wEntry 1 2 0, wEntry 2 3 0, wEntry 3 4 0] ++ (List.range 12).map (fun i => wEntry (4 + i) 5 (BitVec.ofNat 8 i)) ++
  [wEntry 16 6 0, wEntry 17 7 0, { wEntry 18 15 0 with length := 192 }]

def wPromptTable : LapTable := wTable 0 [wSlot tPrompt 16 []]
def wGenTable : LapTable := wTable 4 [wSlot tLayer 0 [], wSlot tSample 0 [0]]

def wPlan : PlanImage :=
  { magic := 0x4E4C504D, format := 1, nsect := 19, totalBytes := 1856, targetDev := 5, hdrRsvClear := true, dir := wDir
    keyHash := 0, sigValid := true, planDigest := 0xAB
    system := { epoch := 3, scheme := 1, quietUs := 20, periodUs := 250, devices := 8, regions := 64, lapBase := 0
                activate := 10, deadline := 20, groups := [], rsvClear := true }
    device := { leader := 0, idleLaps := 8, handoffWait := 16, holdLimit := 8, scrubS := 60
                spares := Vector.replicate 4 [72, 73], park := [], ctrLap := [], rsvClear := true }
    tenants := [(1, ⟨true, 1, 64, 1024, 0, true⟩), (2, ⟨true, 2, 64, 1024, 0, true⟩)]
    models := [wModel]
    lanes := vset (vset (Vector.replicate 12 wIdleLane) 0 (wLane 1 wPromptTable)) 3 (wLane 2 wGenTable)
    pacer := Vector.ofFn fun i => wPacPort (decide (16 ≤ i.val))
    bib := some { cascade := 2, deadline := 4, parts := [wPart], rsvClear := true } }

/-! ### A device that runs it -/

def wHdr : HostHdr := ⟨1, 1, 0x55, true⟩
def wPfHdr : HostHdr := ⟨0, 2, 0x66, true⟩

def wCtx : Ctx := { Ctx.reset with enable := true, cplLog2 := 6, cmdLog2 := 6 }

def bootAll : Boot :=
  { railGood := 0xFF, stbyReleased := true, fusesLoaded := true, strapDue := true, strapDone := true, resetN := true
    perstN := true, mainStart := true, fabricUp := true, coachUp := true, dieLinksUp := true, coreMarch := true
    stacksTrained := true, stackTest := true, imageChecked := true }

/-- A kernel key group whose CRC holds. -/
def goodGroup : KeyGroup := ⟨0, crc32c (List.replicate 48 0)⟩

/-- The device after start-up, with the host's link up and two contexts open: tenant 1 of VF 1 and tenant 2 of the PF. -/
def wUp : State :=
  { State.reset with
    clk := { Clk.reset with sysOk := true, ethOk := true, refOk := true, ptpLock := true }
    coach := { Coach.reset with phase := .awaiting }
    sta := { Sta.reset with boot := bootAll }
    fus := { Fus.reset with lc := .field, planKey := goodGroup, fwKey := goodGroup, family := ⟨0, crc32c (List.replicate 32 0)⟩ }
    hif := { Hif.reset with
      linkUp := true, width := 16, speed := 6, flit := true, funcOf := [(1, 1)], ctxs := [(1, wCtx), (2, wCtx)] }
    cap := { ports := vset Cap.reset.ports 1 ⟨2, 64, 0, 0, 0⟩, weights := [(9, 1, 0, 4096)] }
    te := { Te.reset with ethertype := 0x88B5, portUp := 0xFFFF } }

def wRun (t : LapTable) : List SlotRun := t.slots.map fun x => ⟨x.deps.length, .waiting, 0, 0, [], 0⟩

def wLaneState (n : LaneNo) (sec : LaneSec) (t : LapTable) : Lane :=
  { Lane.reset n with
    role := sec.role, ctl := .serving, dataOpen := true, sec := some sec, models := #v[some 0, none, none, none]
    tables := { Tables.reset with copyA := some t }, st := { Steward.reset with slots := wRun t }
    kv := { LaneKv.reset with
      slotSize := 4, reserveFree := List.range 8, sharedFree := (List.range 8).map (· + 64), reserveSize := 64,
      runFree := [0, 1, 2, 3] }
    hbc := { LaneHbc.reset with trained := true } }

/-- The device with the plan in force and laps running, in lap 12. -/
def wServing : State :=
  { wUp with
    coach := { wUp.coach with phase := .serving }
    mpl := { Mpl.reset with current := some wPlan, devSet := true, devId := 5, epoch := 3, tagCur := 0xAB }
    lap := { Lap.reset with period := 250, quiet := 20, count := 12, running := true, boundaryAt := 3000000 }
    lanes := vset (vset State.reset.lanes 0 (wLaneState 0 (wLane 1 wPromptTable) wPromptTable))
      3 (wLaneState 3 (wLane 2 wGenTable) wGenTable)
    clk := { wUp.clk with now := 3000100 }
    mar := { Mar.reset with state := .live } }

/-! ### One of each thing -/

def wBaton : BatonId := mkBaton 5 1 0 7
def wRing : RingDesc := ⟨0x10000, 0x20000, 8, 1, 3, 1, 0, true⟩
def wSampler : Sampler := ⟨1, 0x3F800000, 40, 0x3F800000, 0, 0x3F800000, 0, 0, 1, true⟩
def wBlock : SubmitBlock :=
  { sampler := wSampler, ring := wRing, ttft := 0, tbt := 0, promptLen := 3, maxNew := 8, model := 0, npat := 0, patterns := []
    blockLen := 128, rsvClear := true, tokens := [1, 2, 3] }

def wStream : Stream :=
  { ring := wRing, produced := 0, phase := true, written := 0, any := false, tokenEntries := 0, window := [], cons := 0, consLap := none, irqLap := none
    closed := false, ttftTarget := 0, tbtTarget := 0, ttftStart := 0, lastCommit := 0, missed := 0, cause := 0, ext := false
    resumed := false, lapIrq := false }

/-- A member of lane 3 whose prompt of three tokens is done. -/
def wReq : Req :=
  { id := wBaton, phase := .generation, lane := some 3, model := 0, digest := 7, nshares := 1, hdr := wHdr, promptLen := 3
    prompt := [1, 2, 3], done := 3, take := 0, log := [1, 2, 3], samp := ⟨wSampler, [], [], 3, 8, 0⟩, strm := wStream
    endReason := 0, stopPattern := 0, cancelled := false, cancelPos := 0, auditFail := false, cmds := [], waitPark := []
    waitLand := [], parkNext := false, parkWhy := .ok, missNow := 0, held := 0, heldPrev := false, expertWait := false, logits := none, replay := false, shares := [], pulledBy := none, spillDue := none
    draw := none, pages := [], heat := [], probe := [], probeNew := [], sel := [], selNew := [], heatNew := [], listed := false
    extQ := [], extCmds := [], resident := true, handoffWait := 0, moveTried := 0, lost := none, capPort := none, tierBytes := 0
    copies := [], audit := none, epoch := 3, lastLap := 11, finalOwed := true, landing := none, readyAt := 0, residentAt := 0 }

/-- The serving device with one request. -/
def withReq (r : Req) : State := { wServing with reqs := [r] }
def wParked : Req := { wReq with phase := .parked, lane := none }

def wLaw : RateLaw := ⟨100000, 100000, 0, 0, 0, 0⟩
def wDesc : Descriptor :=
  { op := 1, ctl := 0, waitCtr := 0, waitVal := 0, incCtr := 0, len := 8, localKey := 0, localOff := 0, rkey := 0, remote := 0
    operand0 := 0, operand1 := 0, user := 0x77, rsvClear := true }
def wTxOp (op : Byte) : TxOp := ⟨{ wDesc with op := op }, 4096, 1, 1, 9, 0, [], false, 0, 0, false, 0⟩

def wTx (psn : Word) : TxFrame :=
  { op := 1, cls := 2, flags := 0, dst := 6, path := 0, dstCh := 4, psn := psn, planTag := 0xAB, tenant := 1, kgen := 0
    rkey := 0, aux := 0, addr := 0, payload := [0], vlan := 0, sq := some 2, rt := Retx.new }

def wSq : SendQ :=
  { tenant := 1, target := 6, pathTable := 0, relaxed := true, rxCtx := 4, descLog2 := 6, cplLog2 := 6, vector := 2, func := 1
    cplRing := 0x30000, rateMax := 100000, tail := 0, head := 0, posted := [], ops := [], nextPsn := 10, message := 0
    unacked := [], resend := [], rot := 0, nextAt := 0, cplIdx := 0, cplHead := 0, heldCpl := [], law := wLaw }

def wRx : RxCtx :=
  { source := 6, tenant := 1, expected := 20, got := [], waiting := [], minDelay := none, marked := 0, total := 0, owed := none
    atoms := [], counter := none, queue := 1, respPsn := 0 }
def wBuf : RxBuffer := ⟨0, 0x100, 64, true⟩
def wRq : RecvQ := ⟨4, 6, 2, 1, 0x40000, 1, [wBuf], [], 0, [], 0⟩
def wRegion : Region := ⟨1, 0, 4096, 0xF, [], none⟩

/-- The serving device with a region, a send queue with the given state, a receive context and a receive queue. -/
def withTe (x : SendQ) : State :=
  { wServing with te := { wServing.te with
      regions := [(0, wRegion)], dataTop := 4096, sqs := [(2, x)], rxs := [(4, wRx)], rqs := [(1, wRq)]
      paths := [(0, 0x80000000)] } }

/-- Header bytes 0 to 15 of a fabric frame (R213): VER 1, class, opcode, flags, SRC_DEV 6, DST_CH, LEN. -/
def wHead (cls : BitVec 2) (op : Byte) (flags : BitVec 16) (ch : BitVec 14) (len : BitVec 14) : BitVec 128 :=
  (0 : BitVec 2) ++ len ++ (0 : BitVec 2) ++ ch ++ (0 : BitVec 44) ++ (6 : BitVec 20) ++ flags ++ op ++ (1 : BitVec 4) ++ cls ++
    (0 : BitVec 2)

def wFrame (cls : BitVec 2) (op : Byte) (ch : BitVec 14) (psn aux : Word) (addr : BitVec 64) (payload : List Byte) : Frame :=
  { port := 0, head := wHead cls op 0 ch (BitVec.ofNat 14 payload.length), psn := psn, txTime := 0, planTag := 0xAB, tenant := 1
    kgen := 0, rkey := 0, aux := aux, addr := addr, payload := payload, rsvTail := 0, tagDei := false
    mac := macOf 5 0, fcsOk := true, linkCrc := 0 }

def wItem : LegItem := ⟨wBaton, 0, 1, false, 0, 0, 64⟩
def wLegPage : LegPage := ⟨wItem, true, 0, 1, 0, false, [1], 0, none⟩
def wLeg : Leg :=
  { index := 0, gen := 1, type := 1, atTarget := true, localLeg := false, peer := 6, srcLane := 0, dstLane := 3
    state := .opened, batons := [wBaton], lead := true, partsLeft := [0], ctlOff := 0, partRx := [], partFails := []
    partBytes := [], pages := [wLegPage], ctlBlocks := 1, sent := 0, peerId := none, states := 0, hold := false
    replay := false, tier := none }
def withLeg (g : Leg) (rs : List Req) : State := { wServing with reqs := rs, btn := { wServing.btn with legs := [g] } }

def wMsg (mtype kind : Byte) (sender subject : DevId) (round : BitVec 48) : MarMsg :=
  let m : MarMsg := ⟨mtype, kind, sender, subject, 3, round, 0, true⟩
  { m with crc := marCrc m }

end Sys2Proof.Tests
end

