-- ==== Sys2Proof/Tests/Slice0.lean ====
section
/-! SUPPORT. The smoke test of WellFormed, tests of single steps, and for every statement with hypotheses a witness that meets
them: one clause of a theorem per clause of the statement. -/

namespace Sys2Proof.Tests

set_option Elab.async false

open Sys2Proof Sys2Proof.Machine

/-! ### WellFormed refuses an ill-formed term for each of its checks -/

def badPattern : Pattern := ⟨64, 1, 1, 1, 0, 0, [], [], true⟩

theorem test_wf_submit : Instr.wf (.submit wHdr wBlock) = true ∧ Instr.wf (.submit wHdr { wBlock with tokens := [] }) = false ∧
    Instr.wf (.submit wHdr { wBlock with npat := 1 }) = false ∧
    Instr.wf (.submit wHdr { wBlock with npat := 1, patterns := [badPattern] }) = false := by decide
theorem test_wf_offsets : Instr.wf (.rcRead .pf 67108864 4) = false ∧ Instr.wf (.loReadLatch .pf 67108864 4) = false ∧
    Instr.wf (.unmappedRead .pf 67108864 4) = false ∧ Instr.wf (.rcRead .pf 0 0) = false ∧ Instr.wf (.rcRead .pf 0 5) = false ∧ Instr.wf (.registerWrite .pf 67108864 0 true) = false ∧
    Instr.wf (.registerWrite .pf 67108860 0 true) = true := by decide
theorem test_wf_spi : Instr.wf (.spiRead 0 31) = false ∧ Instr.wf (.spiWrite 0 31) = false ∧ Instr.wf (.spiDataWord 0 31) = false ∧
    Instr.wf (.spiNoop 0 31) = false ∧ Instr.wf (.spiFrameDiscard 32) = false ∧ Instr.wf (.spiNoop 0 32) = true := by decide
theorem test_wf_cores : Instr.wf (.coreMarchDone [(0, 74)]) = false ∧ Instr.wf (.coreFailure 0 74) = false ∧
    Instr.wf (.coreFailure 0 73) = true := by decide
theorem test_wf_ports : Instr.wf (.capPortTrained 0 ⟨true, true, 65536, true⟩) = false ∧
    Instr.wf (.stackTrainingDone [] (Vector.replicate 4 ⟨true, true, 65536, true⟩)) = false := by decide
/-- One byte past the end of a core's operand SRAM. -/
def pastSram : Src := .sram 0 655360 1
theorem test_wf_slots : Instr.wf (.slotStart 0 1024 []) = false ∧ Instr.wf (.slotComplete 0 1024 0 none) = false ∧
    [Work.cb3 (.given []) ⟨0, 0⟩, .vector .add ⟨.bf16, .given []⟩ ⟨.bf16, pastSram⟩ ⟨0, 0⟩, .reduce .max ⟨.fp32, pastSram⟩ ⟨0, 0⟩,
      .convert .bf16 ⟨.fp32, .given []⟩ ⟨0, 655360⟩, .matrix 0 pastSram [] ⟨0, 0⟩, .matrix 0 (.given []) [(pastSram, none)] ⟨0, 0⟩,
      .logits wBaton 0 pastSram [], .lowRank 1024 0 (.given []) ⟨0, 0⟩, .attend wBaton 0 32 0 0 (.given []) ⟨0, 0⟩,
      .append wBaton 1024 0 [] [], .probe wBaton 0 [[⟨.fp32, pastSram⟩]], .route 0 [(wBaton, 65536)]].all
      (fun w => Instr.wf (.slotStart 0 0 [w]) == false) = true ∧
    Instr.wf (.slotStart 0 0 [.cb3 (.given (List.replicate 20 0)) ⟨0, 0⟩, .stall 9]) = true := by decide
theorem test_wf_weights : Instr.wf (.weightPut wPfHdr 4 9 [(1, 7), (3, 7)]) = true ∧ Instr.wf (.weightPut wPfHdr 4 9 [(4, 7)]) = false ∧
    Instr.wf (.weightPut wPfHdr 4 9 [(3, 7), (1, 7)]) = false := by decide
theorem test_wf_frames (xs : List Byte) (h : xs.length = 16384) : Instr.wf (.write { wFrame 2 1 4 0 0 0 [] with payload := xs }) = false ∧
    Instr.wf (.legControlPartRx (.track { wFrame 3 opLegCtl sysCh 0 0 0 [] with payload := xs })) = false := by
  simp [Instr.wf, Frame.wf, CtlRx.wf, h]
theorem test_wf_report : Instr.wf (.report (wFrame 0 0x1C 0 0 0 0 []) (wMsg 6 0 6 6 0) []) = false := by decide
theorem test_wf_counts : Instr.wf (.pfcFrameRx 0 0 65536) = false ∧ Instr.wf (.pagePresent 1 134217728) = false := by decide
theorem test_wf_plan : Instr.wf (.planImageFetched wPlan) = true ∧ Instr.wf (.planImageFetched { wPlan with nsect := 18 }) = false ∧
    Instr.wf (.lapTableReplacement 0 { wGenTable with nslots := 3 } 0 0) = false := by decide +kernel
theorem test_wf_tokens (ts : List Word) (h : ts.length = 65536) : Instr.wf (.extend wHdr wBaton ts) = false ∧
    Instr.wf (.resume wHdr wBaton none (some ⟨ts, 1⟩)) = false := by simp [Instr.wf, h]
theorem test_wf_records (rs : List BibRecord) (h : rs.length = 65536) : Instr.wf (.bibUpdate wHdr 0 rs) = false := by
  simp [Instr.wf, h]

/-! ### Witnesses: host commands -/

def fencedDev : State := { wServing with mar := { wServing.mar with state := .fenced } }
def badHdr : HostHdr := { wHdr with rsvClear := false }
def wCpl : Cpl := ⟨.ok, (0, 0), false, [], 0x55, 1, 0, 1⟩
/-- Tenant 1's completion ring with the given index: 64 entries are its whole size. -/
def cplAt (i : Word) : State := { wServing with hif := { wServing.hif with ctxs := [(1, { wCtx with cplIdx := i })] } }

theorem wit_HostCommandsTurnedAway :
    (canFetch wServing badHdr = true ∧ hostOk wServing badHdr false = false) ∧
    (isFenced wServing = false ∧ canFetch fencedDev wHdr = true ∧ isFenced fencedDev = true) ∧
    (canFetch fencedDev badHdr = true ∧ hostOk fencedDev badHdr false = false) ∧
    (canFetch wServing wHdr = true ∧ wHdr.func ≠ 0) := by decide

theorem wit_CompletionRing :
    (wServing.coach.phase ≠ .restarting ∧ (ctxOf (cplAt 63) wCpl.tenant).enable = true ∧ hostUp (cplAt 63) = true ∧
      (ctxOf (cplAt 63) wCpl.tenant).heldCpl = [] ∧ cplRoom (ctxOf (cplAt 63) wCpl.tenant) = true ∧
      (ctxOf (cplAt 63) wCpl.tenant).msiHold = false) ∧
    ((cplAt 64).coach.phase ≠ .restarting ∧ (ctxOf (cplAt 64) wCpl.tenant).enable = true ∧ hostUp (cplAt 64) = true ∧
      cplRoom (ctxOf (cplAt 64) wCpl.tenant) = false) := by decide

theorem wit_RequestCommands_queued : HostServed (withReq wReq) wHdr false ∧ batonTenant wBaton = wHdr.tenant ∧
    findReq (withReq wReq) wBaton = some wReq ∧ laneHalted (withReq wReq) wReq = false := by
  unfold HostServed; decide +kernel

def otherBaton : BatonId := mkBaton 5 2 0 7

theorem wit_RequestCommands_others :
    (HostServed wServing wHdr false ∧ batonTenant wBaton = wHdr.tenant ∧ findReq wServing wBaton = none ∧
      (wServing.btn.pulls.any fun p => p.baton == wBaton) = false) ∧
    (HostServed wServing wHdr false ∧ batonTenant otherBaton ≠ wHdr.tenant) ∧
    (findReq (withReq wReq) wBaton = some wReq ∧ wReq.endReason = 0 ∧ wReq.cancelled = false) ∧
    (findReq (withReq wParked) wBaton = some wParked ∧ resting wParked = true ∧ wParked.lost = none) ∧
    (wReq.phase = .generation ∧ wReq.parkNext = false ∧ wReq.lost = none ∧ tokensOk (withReq wReq) wReq [63] 0 = true ∧
      wReq.lane = some 3) := by
  unfold HostServed; decide +kernel

theorem wit_SubmitAdmits : HostServed wServing wHdr false ∧ wServing.coach.phase = .serving ∧
    modelOf wServing wBlock.model.toNat = some wModel ∧ blockOk wBlock wModel.vocab.toNat = true ∧
    chooseLane (fetched wServing wHdr) wHdr.tenant wModel wBlock.promptLen.toNat wBlock.maxNew.toNat (patStates wBlock.patterns)
      = some (0, 0) := by
  unfold HostServed; decide +kernel

theorem wit_AuditBegins : HostServed (withReq wParked) wHdr false ∧ batonTenant wBaton = wHdr.tenant ∧
    findReq (withReq wParked) wBaton = some wParked ∧ wParked.lost = none ∧
    modelOf (withReq wParked) wParked.model = some wModel ∧ resting wParked = true ∧ wParked.audit = none ∧
    auditRange wParked (0 : Word).toNat (2 : Word).toNat = true ∧ btnOpen (withReq wParked) = true ∧
    (withReq wParked).btn.legs.length + (if (0 : Word) = 0 then 0 else 1) ≤ 4096 ∧
    resumeLanes (withReq wParked) wParked = [3] ∧
    (wParked.pages.any fun e => belowFrom (0 : Word).toNat e && e.slots.isEmpty) = false ∧
    (let need := scratchNeed wModel 2 (min (2 - 0) (replayChunk (laneOf (withReq wParked) 3)))
     (takeSlots (fetched (withReq wParked) wHdr) 3 wHdr.tenant need).2.length = need) := by
  unfold HostServed; decide +kernel

/-- The plan with device-wide page numbers (SCHEME 1 is KEYED). -/
def flatDev : State := { wServing with mpl := { wServing.mpl with
  current := some { wPlan with system := { wPlan.system with scheme := 0 } } } }

theorem wit_RegionCommands :
    (HostServed wServing wHdr false ∧ schemeKeyed wServing = true ∧ allocOk 1 = true ∧ (1 : BitVec 64) ≠ 0 ∧
      freeRegion wServing = some 0 ∧ (placeRegion wServing 1 1 1).isSome = true) ∧
    (HostServed (withTe wSq) wHdr false ∧ schemeKeyed (withTe wSq) = true ∧
      tblGet (withTe wSq).te.regions (0 : BitVec 16).toNat = some wRegion ∧ wRegion.tenant = wHdr.tenant) ∧
    (HostServed (withTe wSq) wPfHdr false ∧ wRegion.tenant ≠ wPfHdr.tenant) ∧ allocOk 0 = false ∧
    placeRegion wServing 1 1 (2 ^ 40) = none ∧
    (HostServed flatDev wHdr false ∧ schemeKeyed flatDev = false) := by
  unfold HostServed; decide +kernel

def wSqArg : SqOpenArg := ⟨8191, 6, 0, 1, 8191, 6, 16, 1, 0, 0, 12800000⟩
def wRqArg : RqOpenArg := ⟨8191, 4095, 6, 16, 1, 4095, 0, 0⟩

theorem wit_TrackQueues :
    (HostServed (withTe wSq) wHdr false ∧ sqOpenOk (withTe wSq) wHdr wSqArg = true ∧ rqOpenOk (withTe wSq) wHdr wRqArg = true) ∧
    (getSq (withTe wSq) (2 : BitVec 16).toNat = some wSq ∧ wSq.tenant = wHdr.tenant) ∧
    (tblGet (withTe wSq).te.rqs (1 : BitVec 16).toNat = some wRq ∧ getRx (withTe wSq) wRq.ctx = some wRx ∧
      wRx.tenant = wHdr.tenant) ∧
    (HostServed (withTe wSq) wPfHdr false ∧ wSq.tenant ≠ wPfHdr.tenant) := by
  unfold HostServed; decide +kernel

def wRecord : BibRecord := ⟨5, BitVec.allOnes 128, 1, 0, 1, 9, true⟩
def wBatch : BibBatch := ⟨wHdr, 0, [wRecord]⟩
/-- The device with a batch in the update engine since lap `k`. -/
def bibAt (k : BitVec 48) (b : BibBatch) : State :=
  { wServing with bib := { Bib.reset with queue := [b], engine := .running k } }

theorem wit_BibCommands : HostServed wServing wHdr false ∧ bibHeld wServing = false ∧ bibPart wServing 0 = some wPart ∧
    (if wPart.priv then wHdr.func = 0 else (wHdr.func = 0 ∨ wHdr.tenant = wPart.tenant)) ∧ wServing.bib.queue.length < 16 ∧
    [wRecord].all (recordOk 0 wPart) = true ∧ wPart.userBtn = false ∧ wPart.casc = false := by
  unfold HostServed; decide +kernel

theorem wit_BibEngine :
    ((bibAt 8 wBatch).bib.engine = .running 8 ∧ (bibAt 8 wBatch).bib.queue = [wBatch] ∧
      bibPart (bibAt 8 wBatch) wBatch.part = some wPart) ∧
    (match applyRecords wPart 0 (bibBg (bibAt 8 wBatch).bib) wBatch.records with | .ok _ => true | .error _ => false) = true ∧
    (match applyRecords wPart 0 (bibBg (bibAt 8 wBatch).bib) [{ wRecord with op := 3 }] with | .ok _ => false | .error _ => true)
      = true ∧
    bibDeadline (bibAt 8 wBatch) ≤ ((bibAt 8 wBatch).lap.count - 8).toNat ∧
    ((bibAt 9 wBatch).lap.count - 9).toNat < bibDeadline (bibAt 9 wBatch) := by decide +kernel

/-- The device before its first plan, with a PLAN_LOAD fetching. -/
def loading (l : MplLoad) : State := { wUp with mpl := { Mpl.reset with load := l } }
def stagedDev : State := { wUp with mpl := { Mpl.reset with staged := some wPlan, stagedCmd := some wPfHdr, firstLap := 20 } }
def lateDev : State := { stagedDev with mpl := { stagedDev.mpl with firstLap := 21 } }

theorem wit_PlanLoading :
    (HostServed wUp wPfHdr true ∧ mplHeld wUp = false ∧ wUp.mpl.load = .idle ∧ wUp.mpl.staged = none ∧ wUp.mpl.grace = false ∧
      cxlWorks wUp = true) ∧
    (HostServed stagedDev wPfHdr true ∧ stagedDev.mpl.staged = some wPlan ∧ stagedDev.mpl.stagedCmd = some wPfHdr) ∧
    checkPlan (loading (.fetched wPfHdr 1856 wPlan)) wPlan (1856 : Word).toNat = none ∧
    (checkPlan (loading (.fetched wPfHdr 1792 wPlan)) wPlan (1792 : Word).toNat).isSome = true ∧
    deadlineOver stagedDev wPlan = false ∧ deadlineOver lateDev wPlan = true := by
  unfold HostServed; decide +kernel

def buildingDev : State :=
  { wServing with lanes := vset wServing.lanes 3 { wLaneState 3 (wLane 2 wGenTable) wGenTable with ctl := .unassigned, build := .copying } }
def variantSec : LaneSec := { wLane 2 wGenTable with mflags := #v[0, 1, 0, 0], model := #v[0, 0, 0xFF, 0xFF] }
def variantDev : State := { wServing with lanes := vset wServing.lanes 3 (wLaneState 3 variantSec wGenTable) }


theorem wit_WeightsAndBuilds :
    (HostServed wServing wPfHdr true ∧ (∀ w ∈ wServing.cap.weights, w.1 ≠ 10) ∧ bestPort wServing 17179869184 = some 1) ∧
    (HostServed variantDev wPfHdr true ∧ laneArg 3 = some 3 ∧ variantModel variantDev 3 (1 : Byte).toNat = some wModel ∧
      runs (laneOf variantDev 3) = true ∧ (laneOf variantDev 3).stagingCmd = none ∧
      inStore variantDev wModel.weightDigest = true) ∧
    ((laneOf buildingDev 3).build = .copying ∧ buildingDev.mpl.current = some wPlan ∧
      ([] : List Digest) ≠ buildDigests wPlan (wPlan.lanes.get 3)) := by
  unfold HostServed; decide +kernel

/-- Lane 3 in a control state, with no share. -/
def laneIn (c : LaneCtl) (l : Lane → Lane) : State :=
  { wServing with lanes := vset wServing.lanes 3 (l { wLaneState 3 (wLane 2 wGenTable) wGenTable with ctl := c }) }

theorem wit_LaneCommands :
    (HostServed (laneIn .serving id) wPfHdr true ∧ laneArg 3 = some 3 ∧ (laneOf (laneIn .serving id) 3).ctl = .serving) ∧
    (HostServed (laneIn .stopped id) wPfHdr true ∧ (laneOf (laneIn .stopped id) 3).ctl = .stopped ∧
      (laneOf (laneIn .stopped id) 3).st.overrunStop = false ∧ (laneOf (laneIn .stopped id) 3).destructed = false) ∧
    (laneOf (laneIn .stopped fun l => { l with st := { l.st with overrunStop := true } }) 3).st.overrunStop = true ∧
    ((laneOf (laneIn .stopped id) 3).mch.busy = false ∧ testOk (laneIn .stopped id) 3 (5 : Byte).toNat = true) := by
  unfold HostServed; decide +kernel

theorem wit_LaneTests :
    RegActs (laneIn .stopped id) .pf (0x010E0000 + (3 : LaneNo).val * 0x00100000) ∧
    bits (0 : Word).toNat 2 0 = 0 ∧
    (bits (6 : Word).toNat 2 0 ≠ 0 ∧ (laneOf (laneIn .stopped id) 3).mch.busy = false ∧
      testOk (laneIn .stopped id) 3 (bits (6 : Word).toNat 2 0) = false) ∧
    testOk (laneIn .stopped id) 3 (bits (5 : Word).toNat 2 0) = true ∧
    ((laneOf (laneIn .testing fun l => { l with mch := { l.mch with busy := true } }) 3).mch.busy = true ∧
      (laneOf (laneIn .testing fun l => { l with mch := { l.mch with busy := true } }) 3).ctl = .testing) := by
  unfold RegActs; decide +kernel

/-! ### Witnesses: registers, interrupts, firmware, life cycle, resets, start -/

/-- A device whose fabric is still in reset. -/
def earlyDev : State := { State.reset with sta := { Sta.reset with boot := { Boot.reset with stbyReleased := true, fusesLoaded := true } } }

theorem wit_RegisterWriteOutcomes :
    inBar wServing .pf 0x48 = true ∧ regAt wServing .pf 0x0FFC = none ∧
    (regAt earlyDev .pf 0x48).map (·.2) = some true ∧ (regAt wServing .pf 0x48).map (·.2) = some false ∧
    ((regAt wServing .pf 0x000C003C).isSome = true ∧ (regAt wServing .pf 0x000C0040).map (·.2) = some false ∧
      writeAt wServing .pf 0x000C0040 0 = none) ∧
    (writeAt wServing .pf 0x48 7).isSome = true ∧ inBar wServing (.vf 0) 0xFFFC = true ∧ regAt wServing (.vf 0) 0xFFFC = none := by
  decide +kernel

theorem wit_RegisterReads :
    RegActs wServing .pf 0x48 ∧ (inBar wServing .uart 0x0FFF = true ∧ 1 ≤ 1 ∧ 0x0FFF % 4 + 1 ≤ 4 ∧ (∀ n, Accessor.uart ≠ .vf n) ∧
      regAt wServing .uart (4 * (0x0FFF / 4)) = none ∧ wServing.sta.boot.fabricUp = true) ∧
    RegActs wServing .spi 0x000C0024 ∧ RegActs wServing .uart 0x00040008 := by
  unfold RegActs; decide +kernel

theorem wit_TrackRegisterWrites :
    RegActs wServing .pf 0x000C0000 ∧ pathOk 0xC0020000 = true ∧ 8 ≤ ((8 : Word).setWidth 13).toNat ∧
    ((4096 : Word).setWidth 13).toNat ≤ 4096 ∧ 100 ≤ ((100 : Word).setWidth 16).toNat ∧ 1000 ≤ ((1000 : Word).setWidth 24).toNat ∧
    ((800000 : Word).setWidth 24).toNat ≤ 800000 ∧ ((999 : Word).setWidth 24).toNat < 1000 := by
  unfold RegActs; decide +kernel

def evtDev (later : Bool) (en : BitVec 13) : State :=
  { wServing with glb := { wServing.glb with evtHold := true, evtLater := later, evt := 1, evtEn := en } }
def msiDev (later : Bool) : State :=
  { wServing with hif := { wServing.hif with ctxs := [(1, { wCtx with msiHold := true, msiLater := later })] } }

theorem wit_EventInterrupts :
    RegActs wServing .pf 0x20 ∧ ((evtDev false 0).glb.evtHold = true ∧ (evtDev false 0).glb.evtLater = false) ∧
    ((evtDev true 1).glb.evtHold = true ∧ (evtDev true 1).glb.evtLater = true ∧
      (evtDev true 1).glb.evt &&& (evtDev true 1).glb.evtEn ≠ 0 ∧ hostUp (evtDev true 1) = true) ∧
    ((ctxOf (msiDev false) 1).msiHold = true ∧ (ctxOf (msiDev false) 1).msiLater = false) ∧
    ((ctxOf (msiDev true) 1).msiHold = true ∧ (ctxOf (msiDev true) 1).msiLater = true ∧ hostUp (msiDev true) = true) := by
  unfold RegActs; decide +kernel

def swapDev : State := { wServing with mar := { wServing.mar with arg0 := 6, argLanes := 8, argEpoch := 4 } }

theorem wit_MarshalCommandsAndFences :
    (RegActs wServing .pf 0x000F0018 ∧ isFenced wServing = false) ∧ isFenced fencedDev = true ∧ RegActs fencedDev .pf 0x000F0018 ∧
    (RegActs swapDev .pf 0x000F0018 ∧ swapRefusal swapDev = none) ∧ swapRefusal wServing = some .refused ∧
    ((6 : DevId) ≠ wServing.mpl.devId ∧ fenceIgnored wServing 6 3 true = false ∧ wServing.te.sqs = [] ∧ wServing.te.sysTx = [] ∧
      wServing.te.ctxWait = [] ∧ wServing.btn.legs = [] ∧ wServing.btn.pulls = [] ∧ wServing.reqs = [] ∧ wServing.bib.waits = [] ∧ wServing.bib.lookQ = []) := by
  unfold RegActs; decide +kernel

def wImage : FwImage := ⟨0x46574E41, 1, 2, 0, 4096, true, 0, true, true⟩
def fwDev (f : Fwu → Fwu) : State := { wServing with fwu := f { Fwu.reset with running := .a, slotA := ⟨.good, some wImage⟩ } }
def trialDev (h : Bool) : State := fwDev fun f => { f with slotA := ⟨.trial, some wImage⟩, healthy := h }

theorem wit_FirmwareUpdate :
    (RegActs (fwDev id) .pf 0x0003000C ∧ fwuBlocked (fwDev id) = false ∧ lcTakesImage (fwDev id) = true ∧
      ∀ b, (fwuSlot (fwDev id) b).state ≠ .trial ∧ (fwuSlot (fwDev id) b).state ≠ .staging) ∧
    imageReason (fwDev fun f => { f with op := .stage true 4368 }) wImage 4368 = 0 ∧
    imageReason (fwDev fun f => { f with op := .stage true 4368 }) { wImage with bodyBytes := 4080 } 4368 ≠ 0 ∧
    (slotRunnable (fwDev fun f => { f with slotB := ⟨.staged, some wImage⟩ }) true = true ∧ modeTakesImage (fwDev id) = true ∧
      pauseAllowed (fwDev id) = true ∧ (fwDev id).mpl.current = some wPlan) ∧
    (runningSlot (fwDev id) = some false ∧ inTrial (fwDev id) false = false ∧ inTrial (fwDev id) true = false) ∧
    (fwuBlocked (trialDev true) = false ∧ runningSlot (trialDev true) = some false ∧ inTrial (trialDev true) false = true ∧
      (trialDev true).fwu.healthy = true) ∧
    (onTrial (trialDev false) = true ∧ coachRuns (trialDev false) = true) := by
  unfold RegActs; decide +kernel

/-- R369: as Coach stops, the image that ACTIVATE named is checked again; one that passes enters TRIAL. -/
theorem test_activateRechecked :
    (let t := pauseAtBoundary (fwDev fun f => { f with op := .activate true, slotB := ⟨.staged, some wImage⟩ })
     t.coach.phase = .restarting ∧ t.fwu.slotB.state = .trial ∧ t.fwu.running = .b) ∧
    (let t := pauseAtBoundary (fwDev fun f => { f with op := .activate true, slotB := ⟨.staged, some { wImage with tagValid := false }⟩ })
     t.coach.phase = .serving ∧ t.fwu.slotB.state = .staged ∧ t.fwu.result = 0x03 ∧ t.fwu.reason = 0x03) := by decide +kernel

def coachAway (p : CoachPause) (op : FwuOp) : State :=
  { wServing with coach := { wServing.coach with phase := .restarting, pause := p }, fwu := { Fwu.reset with op := op } }

theorem wit_CoachRestarts :
    (coachRuns (trialDev false) = true ∧ runningSlot (trialDev false) = some false ∧ inTrial (trialDev false) false = true) ∧
    ((coachAway .watchdog .none).coach.phase = .restarting ∧ (coachAway .watchdog .none).coach.pause = .watchdog ∧
      pauseDue (coachAway .watchdog .none) = false) ∧
    ((coachAway .service (.activate true)).coach.phase = .restarting ∧
      (coachAway .service (.activate true)).coach.pause = .service ∧
      (coachAway .service (.activate true)).fwu.op = .activate true) := by decide +kernel

def lcDev (lc : LcState) (r : LcRun) : State :=
  { wUp with fus := { Fus.reset with lc := lc, lcRun := r } }

theorem wit_LifeCycle :
    (RegActs (lcDev .blank .idle) .spi 0x00020004 ∧ ((0x4C420001 : Word) >>> 16) ≠ 0x4C43) ∧
    (((0x4C430002 : Word) >>> 16) = 0x4C43 ∧ (lcDev .provisioned .idle).fus.lcRun = .idle ∧
      lcIndex (lcDev .provisioned .idle).fus.lc = some (1 : Fin 4).val ∧ (0x4C430002 : Word).toNat % 8 = (1 : Fin 4).val + 1 ∧
      lcAllowed (lcDev .provisioned .idle) 1 true = true) ∧
    ((lcDev .returned (.intent 3)).fus.lcRun = .intent 3 ∧
      lcRead ((lcDev .returned (.intent 3)).fus.intent.get 3 ||| 0x00FFFFFF) = .set) ∧
    ((lcDev .blank (.work 0)).fus.lcRun = .work 0 ∧ (0 : Fin 4) ≠ 2) ∧
    ((lcDev .returned (.work 3)).fus.lcRun = .work 3 ∧ (3 : Fin 4) ≠ 2) := by
  unfold RegActs; decide +kernel

theorem wit_Resets :
    ((0x80 : BitVec 8) ≠ 0 ∧ Completes (exec (.mainBrownout 0x80) wServing) fun _ => True) ∧
    (RegActs wServing .spi 0x0001000C ∧ mayReset wServing .spi = true ∧ ((0x5A5A0001 : Word) >>> 16) = 0x5A5A ∧
      (0x5A5A0001 : Word).getLsbD 0 = true) ∧ ((0x5A590001 : Word) >>> 16) ≠ 0x5A5A := by
  refine ⟨⟨by decide, ⟨_, rfl, trivial⟩⟩, ?_⟩
  unfold RegActs; decide +kernel

def heldDev : State := { wServing with sta := { wServing.sta with blockHeld := 0x3FF } }

theorem wit_PartialResets :
    (RegActs wServing .pf 0x00010010 ∧ wServing.sta.blockHeld.getLsbD 0 = false ∧ wServing.sta.blockHeld.getLsbD 1 = false ∧
      wServing.sta.blockHeld.getLsbD 5 = false) ∧
    (RegActs heldDev .pf 0x00010010 ∧ ∀ b : Fin 10, heldDev.sta.blockHeld.getLsbD b.val = true) ∧
    (RegActs (laneIn .stopped id) .pf 0x00010014 ∧ laneHeld (laneIn .stopped id) 3 = false ∧
      laneResetOk (laneIn .stopped id) 3 = true) ∧
    (laneHeld (laneIn .retired id) 3 = false ∧ laneResetOk (laneIn .retired id) 3 = true) ∧
    laneHeld (laneIn .unassigned fun l => { l with heldUntil := 4000000 }) 3 = true ∧
    (laneHeld wServing 3 = false ∧ (laneOf wServing 3).ctl = .serving) := by
  unfold RegActs; decide +kernel

/-- A device that has come as far as a start-up record says. -/
def bootDev (b : Boot) : State := { wUp with sta := { wUp.sta with boot := b, mode := 1 }, coach := Coach.reset }

theorem wit_StartUp :
    ((bootDev { bootAll with fusesLoaded := false }).sta.boot.stbyReleased = true ∧
      (bootDev { bootAll with fusesLoaded := false }).sta.boot.fusesLoaded = false) ∧
    ((bootDev bootAll).sta.boot.fusesLoaded = true ∧ (bootDev bootAll).sta.boot.strapDue = true) ∧
    ((bootDev { bootAll with fabricUp := false }).sta.boot.mainStart = true ∧
      (bootDev { bootAll with fabricUp := false }).sta.boot.strapDone = true ∧
      (bootDev { bootAll with fabricUp := false }).sta.boot.fabricUp = false ∧
      sysclkGone (bootDev { bootAll with fabricUp := false }) = false) ∧
    ((bootDev { bootAll with coachUp := false }).sta.boot.fabricUp = true ∧
      (bootDev { bootAll with coachUp := false }).sta.boot.coachUp = false) ∧ (bootDev bootAll).sta.boot.coachUp = true ∧
    ((bootDev { bootAll with coreMarch := false }).sta.boot.dieLinksUp = true ∧
      (bootDev { bootAll with coreMarch := false }).sta.boot.coreMarch = false) ∧
    ((bootDev { bootAll with stacksTrained := false }).sta.boot.dieLinksUp = true ∧
      (bootDev { bootAll with stacksTrained := false }).sta.boot.stacksTrained = false) ∧
    (modeFull (bootDev { bootAll with stackTest := false }) = true ∧
      (bootDev { bootAll with stackTest := false }).sta.boot.stacksTrained = true ∧
      (bootDev { bootAll with stackTest := false }).sta.boot.stackTest = false) ∧
    ((bootDev { bootAll with imageChecked := false }).sta.boot.coachUp = true ∧
      (bootDev { bootAll with imageChecked := false }).sta.boot.imageChecked = false) ∧
    ((bootDev bootAll).coach.phase = .booting ∧ bootDone (bootDev bootAll) = true) := by decide +kernel

/-- One sample with the die 0 sensor at 105 degrees. -/
def hotReading : ThermalReading := ⟨#v[1680, 400, 400, 400], 400, Vector.replicate 12 400, 900⟩
def hotDev : State := { wServing with sta := { wServing.sta with hotAtTrip := [0] } }

theorem wit_ClocksAndTemperatures :
    wServing.sta.boot.fabricUp = true ∧ (∀ x ∈ sensors hotReading, tripC ≤ x.2 → x.1 ∉ wServing.sta.hotAtTrip) ∧
    (((sensors hotReading).filter fun x => decide (tripC ≤ x.2) && hotDev.sta.hotAtTrip.contains x.1) = [(0, 1680)] ∧
      hotDev.glb.fatal = false) := by decide +kernel

def trainingDev : State := { wUp with hif := { Hif.reset with training := true } }
def fatalDev : State := { wServing with glb := { wServing.glb with fatal := true } }

theorem wit_HostLink :
    (wServing.reqs = [] ∧ wServing.te.sqs = [] ∧ wServing.te.rqs = []) ∧
    (trainingDev.hif.training = true ∧ trainingDev.glb.fatal = false ∧ linkOk 16 6 true = true ∧ linkOk 1 1 false = true) ∧
    wServing.hif.linkUp = true ∧
    (fatalDev.glb.fatal = true ∧ fatalDev.hif.linkUp = true) := by decide +kernel

/-! ### Witnesses: management ports, doorbells, descriptors, links, laps -/

def spiDev (o : Option Nat) : State := { wServing with spi := { Spi.reset with expect := o } }

theorem wit_SerialPorts_spi :
    ((spiDev none).sta.boot.strapDone = true ∧ (spiDev none).spi.pend = none) ∧
    ((spiDev none).spi.expect = none ∧ (0x80000012 : Word).extractLsb' 30 2 = 2 ∧ (0x80000012 : Word).extractLsb' 24 6 = 0) ∧
    (inBar wServing .spi 0x48 = true ∧ regAt (emit (spiDev none) (.spiMiso (spiStatus (spiDev none)))) .spi 0x48 = some (0, false) ∧
      usesFree (emit (spiDev none) (.spiMiso (spiStatus (spiDev none)))) 0x48 = false) ∧
    ((0x40000012 : Word).extractLsb' 30 2 = 1 ∧ (0x40000012 : Word).extractLsb' 24 6 = 0) ∧
    ((spiDev (some 0x48)).spi.expect = some 0x48 ∧ regAt (spiDev (some 0x48)) .spi 0x48 = some (0, false)) ∧
    (0x00FFFFFF : Word).extractLsb' 24 8 = 0 := by decide +kernel

def uartDev (p : List Byte) : State := { wServing with uar := { Uar.reset with part := p } }

theorem wit_SerialPorts_uart :
    (uartDev [0x7E]).sta.boot.strapDone = true ∧ ((uartDev [0x7E]).uar.part ≠ [] ∧ (uartDev [0x7E]).uar.part.length < 9) ∧
    ((uartDev (0x7E :: List.replicate 7 0)).uar.part ≠ [] ∧ (uartDev (0x7E :: List.replicate 7 0)).uar.part.length < 9) ∧
    regAt (uartDev []) .uart (4 * (0x12 : BitVec 24).toNat) = some (0, false) := by decide +kernel

def hotAlertDev : State :=
  { wServing with i2c := { I2c.reset with alert := true, railOut := true } }
def openDev : State := { wServing with fus := { wServing.fus with lc := .returned } }

theorem wit_TelemetryAndTap :
    wServing.sta.boot.strapDone = true ∧ (wordCode (0x10 : Byte).toNat = true ∧ (0x10 : Byte) ≠ 0) ∧
    (wordCode (0x15 : Byte).toNat = false ∧ (0x15 : Byte) ≠ 0) ∧ (hotAlertDev.i2c.alert = true ∧ alertWanted hotAlertDev = true) ∧
    debugOpen wServing = false ∧ debugOpen openDev = true ∧ (5 ≤ (0x05 : Byte).toNat ∧ (0x05 : Byte) ≠ 0x10) := by decide +kernel

theorem wit_Doorbells :
    (tenantFunc wServing 1 = (1 : Func).val ∧ (ctxOf wServing 1).enable = true ∧
      ((64 : Word) - (ctxOf wServing 1).head).toNat ≤ 2 ^ (ctxOf wServing 1).cmdLog2.toNat ∧
      ((64 : Word) - (ctxOf wServing 1).cplHead).toNat ≤ 2 ^ (ctxOf wServing 1).cplLog2.toNat) ∧
    (getSq (withTe wSq) (2 : BitVec 13).toNat = some wSq ∧ tenantFunc (withTe wSq) wSq.tenant = (1 : Func).val ∧
      ((64 : Word) - wSq.head).toNat ≤ 2 ^ wSq.descLog2 ∧ ((64 : Word) - wSq.cplHead).toNat ≤ 2 ^ wSq.cplLog2) ∧
    (tblGet (withTe wSq).te.rqs (1 : BitVec 12).toNat = some wRq ∧ getRx (withTe wSq) wRq.ctx = some wRx ∧
      tenantFunc (withTe wSq) wRx.tenant = (1 : Func).val ∧ ((64 : Word) - wRq.tail).toNat ≤ 2 ^ wRq.log2 ∧
      wRq.bufs.length + ((64 : Word) - wRq.tail).toNat ≤ 2 ^ wRq.log2) ∧
    (tenantFunc wServing 1 ≠ (0 : Func).val ∨ (ctxOf wServing 1).enable = false) ∧
    getSq (withTe wSq) (3 : BitVec 13).toNat = none := by decide +kernel

def postedDev (d : Descriptor) : State := withTe { wSq with posted := [d] }
def postedFenced : State := { postedDev wDesc with mar := { wServing.mar with state := .declared } }
def postedDead (dead : Bool) : State :=
  { postedDev wDesc with te := { (postedDev wDesc).te with fenced := [6], dead := if dead then [6] else [] } }
def badDesc : Descriptor := { wDesc with len := 0 }
/-- A descriptor that waits for counter 1 to reach 5. -/
def waitDesc : Descriptor := { wDesc with ctl := 4, waitCtr := 1, waitVal := 5 }

theorem wit_DescriptorsAreTaken :
    (getSq (postedDev wDesc) (2 : BitVec 13).toNat = some { wSq with posted := [wDesc] } ∧ teHeld (postedDev wDesc) = false) ∧
    (isFenced postedFenced = true ∧ teHeld postedFenced = false) ∧
    (isFenced (postedDead true) = false ∧ (postedDead true).te.dead.contains wSq.target = true) ∧
    (isFenced (postedDead false) = false ∧ (postedDead false).te.dead.contains wSq.target = false ∧
      (postedDead false).te.fenced.contains wSq.target = true) ∧
    (isFenced (postedDev badDesc) = false ∧ (postedDev badDesc).te.dead.contains wSq.target = false ∧
      (postedDev badDesc).te.fenced.contains wSq.target = false ∧
      descOk (postedDev badDesc) { wSq with posted := [badDesc] } badDesc = false) ∧
    (descOk (postedDev waitDesc) { wSq with posted := [waitDesc] } waitDesc = true ∧ waitMet (postedDev waitDesc) waitDesc = false) ∧
    (isFenced (postedDev wDesc) = false ∧ descOk (postedDev wDesc) { wSq with posted := [wDesc] } wDesc = true ∧
      (postedDev wDesc).te.dead.contains wSq.target = false ∧ (postedDev wDesc).te.fenced.contains wSq.target = false ∧
      waitMet (postedDev wDesc) wDesc = true ∧ limitsOk (postedDev wDesc) { wSq with posted := [wDesc] } wDesc = true ∧
      tableValid (postedDev wDesc) wSq.pathTable = true) := by decide +kernel

/-- Capacity port 1 in a state. -/
def capDev (st : BitVec 2) : State := { wServing with cap := { wServing.cap with ports := vset Cap.reset.ports 1 ⟨st, 64, 0, 0, 0⟩ } }

theorem wit_PortsAndLinks :
    (RegActs (capDev 0) .pf (0x0010000C + 0x100 * (1 : Fin 4).val) ∧ ((capDev 0).cap.ports.get 1).state = 0 ∧
      (1 : Word).getLsbD 0 = true) ∧
    (RegActs (capDev 3) .pf (0x0010000C + 0x100 * (1 : Fin 4).val) ∧ ((capDev 3).cap.ports.get 1).state ≠ 1) ∧
    ((capDev 1).cap.ports.get 1).state = 1 ∧ (((capDev 2).cap.ports.get 1).state ≠ 0 ∧ 2 ≤ ((capDev 2).cap.ports.get 1).state.toNat) ∧
    (wServing.clk.ethOk = true ∧ wServing.sta.blockHeld.getLsbD 5 = false ∧ (wServing.rly.get 0).out.getLsbD (16 : Fin 17).val = false) ∧
    (RegActs wServing .pf (0x00110004 + 0x100 * (2 : Fin 3).val) ∧ (0x30 : Word).getLsbD 5 = true ∧ bits (0x30 : Word).toNat 4 0 ≤ 16)
    := by unfold RegActs; decide +kernel

def quietDev : State := { wServing with lap := { wServing.lap with inQuiet := true } }

theorem wit_LapAdvances :
    (wServing.lap.running = true ∧ wServing.lap.inQuiet = false) ∧
    (quietDev.lap.running = true ∧ quietDev.lap.inQuiet = true ∧ quietDev.mpl.staged = none ∧ quietDev.mpl.grace = false) ∧
    (State.reset.lap.running = false ∧ (State.reset.mpl.current.isSome = true ∨ State.reset.mpl.staged = none)) := by decide +kernel

def drawing (d : Option (Option (BitVec 18))) : Req := { wReq with draw := d }
/-- A request whose ring holds four committed TOKEN entries that wait for room. -/
def blockedReq : Req :=
  { drawing (some (some 5)) with strm := { wStream with window := List.replicate 256 ⟨true, false, false, [0, 0, 0, 0]⟩ } }

theorem wit_DrawsCommitOnce :
    (findReq (withReq (drawing (some (some 63)))) wBaton = some (drawing (some (some 63))) ∧ (drawing (some (some 63))).take = 0 ∧
      (drawing (some (some 63))).missNow = 0 ∧ ringBlocked (drawing (some (some 63))).strm = false) ∧
    (drawing (some none)).draw = some none ∧ (drawing none).draw = none ∧
    (findReq (withReq blockedReq) wBaton = some blockedReq ∧ blockedReq.draw = some (some 5) ∧ ringBlocked blockedReq.strm = true)
    := by decide +kernel

/-- Lane 3's slots at some phases, for a table. -/
def slotsIn (tbl : LapTable) (xs : List SlotRun) (w : WeightWin) (r : Req) : State :=
  { wServing with
    reqs := [r]
    lanes := vset wServing.lanes 3 { wLaneState 3 (wLane 2 tbl) tbl with
      st := { Steward.reset with slots := xs, win := w, batch := [(wBaton, 0)] } } }
def runAt (pending : Nat) (p : SlotPhase) : SlotRun := ⟨pending, p, 0, 0, [], 0⟩
def slotsOne : State := slotsIn wGenTable [runAt 0 .running, runAt 1 .waiting] WeightWin.reset wReq
/-- The SAMPLE slot runs and the request has its logits. -/
def judged : Req := { wReq with logits := some (List.replicate 64 0) }
def slotsNow : State := slotsIn wGenTable [runAt 0 .complete, runAt 0 .running] WeightWin.reset judged
def idleTable : LapTable := wTable 4 [wSlot tIdle 0 []]
def idleSlot : State := slotsIn idleTable [runAt 0 .running] WeightWin.reset wReq
def wStreamSlot : Slot := { wSlot tLayer 0 [] with stream := true, hbmRd := 1 }
def streamTable : LapTable := wTable 4 [wStreamSlot, wStreamSlot]
/-- The first streamed slot's half is full and the second's weights load. -/
def fullWin : WeightWin := ⟨some 1, #v[some (0, 4096), none], 1⟩
def streamDev (w : WeightWin) : State := slotsIn streamTable [runAt 0 .waiting, runAt 0 .waiting] w wReq

theorem wit_SlotsAndDraws :
    (slotAt (laneOf wServing 3) 0 = some (wSlot tLayer 0 [], runAt 0 .waiting) ∧ lapOpen wServing (laneOf wServing 3) = true ∧
      slotReady (laneOf wServing 3) 0 (wSlot tLayer 0 []) (runAt 0 .waiting) = true ∧ firstReady (laneOf wServing 3) 0 = true) ∧
    (slotAt (laneOf wServing 3) 1 = some (wSlot tSample 0 [0], runAt 1 .waiting) ∧
      slotReady (laneOf wServing 3) 1 (wSlot tSample 0 [0]) (runAt 1 .waiting) = false) ∧
    (slotAt (laneOf (streamDev fullWin) 3) 0 = some (wStreamSlot, runAt 0 .waiting) ∧
      slotReady (laneOf (streamDev fullWin) 3) 0 wStreamSlot (runAt 0 .waiting) = true ∧
      slotReady (laneOf (streamDev fullWin) 3) 1 wStreamSlot (runAt 0 .waiting) = false ∧ firstReady (laneOf (streamDev fullWin) 3) 1 = false) ∧
    (slotAt (laneOf slotsOne 3) 0 = some (wSlot tLayer 0 [], runAt 0 .running) ∧
      slotDone slotsOne 3 0 (wSlot tLayer 0 []) (runAt 0 .running) 500 = true ∧ fgTable (laneOf slotsOne 3) = some wGenTable ∧
      wGenTable.slots[1]? = some (wSlot tSample 0 [0]) ∧ (laneOf slotsOne 3).st.slots[1]? = some (runAt 1 .waiting)) ∧
    (slotAt (laneOf idleSlot 3) 0 = some (wSlot tIdle 0 [], runAt 0 .running) ∧
      slotDone idleSlot 3 0 (wSlot tIdle 0 []) (runAt 0 .running) 999 = false) ∧
    (fgTable (laneOf (streamDev fullWin) 3) = some streamTable ∧ (laneOf (streamDev fullWin) 3).st.win.loading = some 1 ∧
      streamTable.slots[1]? = some wStreamSlot) ∧
    (findReq slotsNow wBaton = some judged ∧ judged.logits = some (List.replicate 64 0) ∧ lapOpen slotsNow (laneOf slotsNow 3) = true ∧
      judged.lane = some 3 ∧ sampling (laneOf slotsNow 3) wBaton = true ∧ drawsNow (laneOf slotsNow 3) judged = true ∧
      judged.draw = none ∧ slotsNow.sta.blockHeld.getLsbD 0 = false) := by decide +kernel

def srcDev (x : BitVec 2) : State := { wServing with lap := { wServing.lap with source := x } }
def lateDevs : State :=
  { wServing with mar := { wServing.mar with stragLimit := 1, lateLaps := [(6, 10), (6, 11)] } }

theorem wit_LapAlignment :
    (wServing.lap.leader = false ∧ wServing.lap.running = true) ∧
    ((srcDev 1).lap.leader = false ∧ (srcDev 1).lap.running = true ∧ (srcDev 1).lap.source = 1 ∧ (-2000 : Int) ≤ -2000 ∧
      (-2000 : Int) ≤ 2000) ∧ (srcDev 2).lap.source ≠ 1 ∧
    (lateDevs.mar.stragLimit.toNat < lateCount lateDevs 6 ∧ marHeld lateDevs = false ∧
      (tblGet lateDevs.mar.reportedAt (6 : DevId).toNat).isNone = true) ∧
    lateCount lateDevs 7 ≤ lateDevs.mar.stragLimit.toNat := by decide +kernel

def replDev (r : Option Replacement) (bg : LapTable) : State :=
  laneIn .serving fun l => { l with tables := { l.tables with copyB := some bg, repl := r } }
def stagingLane (landed : Nat) : State :=
  { wServing with lanes := vset wServing.lanes 3 { wLaneState 3 variantSec wGenTable with
    stagingCmd := some (wPfHdr, 1), variantReady := none, staged := landed } }

theorem wit_TableReplacement :
    (mplHeld wServing = false ∧ (laneOf wServing 3).ctl ≠ .retired ∧ (laneOf wServing 3).ctl ≠ .unassigned ∧
      (laneOf wServing 3).tables.repl = none ∧ (20 : BitVec 48).toNat ≤ (20 : BitVec 48).toNat) ∧
    (laneOf (replDev (some ⟨20, 30, false⟩) wGenTable) 3).tables.repl ≠ none ∧
    ((laneOf (replDev (some ⟨20, 30, false⟩) wGenTable) 3).tables.repl = some ⟨20, 30, false⟩ ∧
      bgTable (laneOf (replDev (some ⟨20, 30, false⟩) wGenTable) 3) = some wGenTable ∧
      (replDev (some ⟨20, 30, false⟩) wGenTable).mpl.current = some wPlan ∧ fitTest (fitEnv wPlan 3) wGenTable = 0) ∧
    fitTest (fitEnv wPlan 3) wPromptTable ≠ 0 ∧
    ((laneOf (replDev (some ⟨10, 12, false⟩) wGenTable) 3).tables.repl = some ⟨10, 12, false⟩ ∧
      (12 : BitVec 48).toNat ≤ (replDev (some ⟨10, 12, false⟩) wGenTable).lap.count.toNat) ∧
    ((laneOf (stagingLane 4096) 3).stagingCmd = some (wPfHdr, 1) ∧ (laneOf (stagingLane 4096) 3).variantReady = none ∧
      variantModel (stagingLane 4096) 3 1 = some wModel ∧ stagedAll (stagingLane 4096) (laneOf (stagingLane 4096) 3) wModel = true ∧
      wModel.weightDigest = 9 ∧ wModel.weightDigest ≠ 10) ∧
    stagedAll (stagingLane 4095) (laneOf (stagingLane 4095) 3) wModel = false := by decide +kernel

/-! ### Witnesses: pages, failures, legs -/

def wPage (state : BitVec 2) (slots : List Nat) : PageEnt :=
  { kind := kPage, state := state, copy := false, layer := 0, index := 0, slots := slots, lastUse := 0, filled := 128
    lapNew := false, sealSlot := none, wrote := 0, sealedNow := false, tierAddr := 0, off := 0, hdr := [], index_ := [] }
def sealedReq : Req := { wReq with pages := [wPage pSealed [8]] }
def farReq : Req := { wReq with pages := [wPage pFar [8]], capPort := some 1 }
def fetchLeg : Leg := { wLeg with type := 7, pages := [{ wLegPage with item := ⟨wBaton, 0, 2, false, 0, 0, 64⟩ }] }
def arrivedReq : Req := { wReq with resident := false }
def heldReq : Req := { wReq with held := 8 }
def handoffReq : Req := { wReq with phase := .handoff, handoffWait := 16 }

theorem wit_PageEvents :
    (findReq (withReq sealedReq) wBaton = some sealedReq ∧ sealedReq.lane = some 3 ∧
      findPage sealedReq kPage (0 : BitVec 10).toNat (0 : BitVec 16).toNat = some (wPage pSealed [8]) ∧
      (wPage pSealed [8]).copy = false ∧ kvFlag (laneOf (withReq sealedReq) 3) 2 = true ∧
      (tierPlace (withReq sealedReq) sealedReq (packed (entImage (withReq sealedReq) sealedReq (wPage pSealed [8])).length)).isSome
        = true) ∧
    (findReq (withLeg fetchLeg [farReq]) wBaton = some farReq ∧ farReq.lane = some 3 ∧
      findPage farReq kPage (0 : BitVec 10).toNat (0 : BitVec 16).toNat = some (wPage pFar [8]) ∧ farReq.capPort = some 1 ∧
      modelOf (withLeg fetchLeg [farReq]) farReq.model = some wModel ∧
      capUp ((withLeg fetchLeg [farReq]).cap.ports.get 1) = true ∧
      headFetch (withLeg fetchLeg [farReq]) 1 = some fetchLeg ∧
      isFetch wBaton (0 : BitVec 10).toNat (0 : BitVec 16).toNat fetchLeg = true ∧
      (laneOf (withLeg fetchLeg [farReq]) 3).ctl ≠ .retired) ∧
    ((laneOf (laneIn .serving fun l => { l with kv := { l.kv with dirStart := some 8 } }) 3).kv.dirStart = some 8 ∧
      4 ≤ dirAge wServing 8 ∧ dirReady wServing { LaneKv.reset with dirHeld := 5 } 8 = false) ∧ 4 < dirAge wServing 7 ∧
    (arrived (withReq arrivedReq) arrivedReq 3 = true ∧ residentOk (withReq arrivedReq) arrivedReq 3 = true ∧
      findReq (withReq arrivedReq) wBaton = some arrivedReq) ∧
    (findReq (withReq heldReq) wBaton = some heldReq ∧ holdLimit (withReq heldReq) ≤ heldReq.held ∧ heldReq.parkNext = false ∧
      heldReq.lost = none ∧ (heldReq.phase = .generation ∨ heldReq.phase = .prompt)) ∧
    (findReq (withReq handoffReq) wBaton = some handoffReq ∧ handoffReq.phase = .handoff ∧
      inLeg (withReq handoffReq) wBaton = false ∧ handoffLimit (withReq handoffReq) ≤ handoffReq.handoffWait ∧
      handoffReq.parkNext = false) := by decide +kernel

def fusedDev : State := { wServing with fus := { wServing.fus with coreFailed := vset wServing.fus.coreFailed 1 8 } }

theorem wit_CoreAndLaneFailures :
    ((fusedDev.fus.coreFailed.get 1).getLsbD 3 = true) ∧ (73 < 74 ∧ (fusedDev.fus.coreFailed.get 1).getLsbD 73 = false) ∧
    ((laneOf wServing 3).hbc.rows.length < 64 ∧ ∀ r ∈ (laneOf wServing 3).hbc.rows, ¬(r.bank = 1 ∧ r.row = 2)) ∧
    (laneOf wServing 3).ctl ≠ .retired ∧ (laneOf (laneIn .retired id) 3).ctl = .retired := by decide +kernel

/-- The one page of layer 0 as the KV profile of the model gives its size. -/
def wMapItem : LegItem := { wItem with state := pSealed, bytes := itemBytes wModel 0 kPage pSealed 0 }
def wLegReq : LegReq :=
  { ask := .opens, type := 2, src := 6, entry := 5, leg := 0, srcLane := 0, dstLane := 3, batons := [wBaton], digest := 7
    nshares := 1, counterOk := true, originOk := true, recordRsvClear := true, cancelled := false, ended := false, ext := false
    lead := true, states := 0, items := [wMapItem] }
def cacheDev : State := laneIn .serving fun l => { l with role := 3 }
def wSysRx : SysRx := ⟨7, [], [], 0, none, 0, 0, none⟩
def withSysRx (s : State) : State := { s with te := { s.te with sysRx := [(6, wSysRx)] } }
/-- A LEG_CTL frame of device 6 about the leg that AUX names: a message of a kind, with its words, or a part at an offset. -/
def ctlFrame (high low : Word) (aux : Word) (bs : List Byte) : Frame := wFrame 1 opLegCtl sysCh 7 aux (high ++ low) bs
def msgFrame (kind : Nat) (aux : Word) (ws : List Word) : Frame := ctlFrame (lo32 (2147483648 + kind)) 0 aux (ws.flatMap wordBytes)
def askFrame : Frame := msgFrame msgRequest 0 (List.replicate 32 0)

theorem wit_LegOpening_requests :
    (RunsSystem (withSysRx cacheDev) askFrame opLegCtl wSysRx ∧ (parseHdr (withSysRx cacheDev) askFrame).src = 6 ∧
      wLegReq.ask = .opens ∧ wLegReq.type ≠ legResume) ∧
    (let u := sysTaken (withSysRx cacheDev) askFrame wSysRx
     inboundModel u 3 7 = some wModel ∧ inboundSound u wLegReq 3 = true ∧ itemsOk wModel wLegReq.items = true ∧
     (acceptLeg u ⟨2, false, 6, some 5, 0, 3, [wBaton], true, [wMapItem], 0, none, inboundTier wLegReq, 0⟩ wModel).2 = some 0 ∧
     inboundModel u 3 8 = none ∧ inboundSound u { wLegReq with recordRsvClear := false } 3 = false) ∧
    (wLegReq.ask = .opens ∧ wLegReq.batons = [wBaton]) := by
  unfold RunsSystem HeadOk Arrives MacTakes FreshPsn; decide +kernel

/-- A local leg at its target, opened, for a request that is here, and one with two failures of its record. -/
def logLeg : Leg := { wLeg with localLeg := true, partsLeft := [1] }
def opened : State := withLeg logLeg [wReq]
def failedLeg : Leg := { logLeg with partFails := [(1, 2)] }
def goodPart : List Byte := ctlBytes opened wReq .log
def partFrame : Frame := ctlFrame 0 0 1 [1, 2, 3]

theorem wit_LegOpening_parts :
    findLeg opened 2 = none ∧
    (findLeg opened 1 = some logLeg ∧ logLeg.atTarget = true ∧ logLeg.localLeg = true ∧ logLeg.state = .opened ∧
      logLeg.ctlBlocks ≠ 0 ∧ logLeg.partsLeft.contains (partNum 0 .log) = true ∧ logLeg.batons.head? = some wBaton ∧
      findReq opened wBaton = some wReq ∧ crc32c goodPart = crc32c (ctlBytes opened wReq .log) ∧
      crc32c [1] ≠ crc32c (ctlBytes opened wReq .log)) ∧
    (findLeg (withLeg failedLeg [wReq]) 1 = some failedLeg ∧ 2 ≤ failsOf failedLeg (partNum 0 .log)) ∧
    failsOf logLeg (partNum 0 .log) < 2 := by decide +kernel

theorem wit_LegOpening_frames :
    (RunsSystem (withSysRx (withLeg wLeg [])) partFrame opLegCtl wSysRx ∧
      findLeg (sysTaken (withSysRx (withLeg wLeg [])) partFrame wSysRx) (partFrame.aux.setWidth 28) = some wLeg ∧
      wLeg.localLeg = false ∧ wLeg.peer = (parseHdr (withSysRx (withLeg wLeg [])) partFrame).src ∧
      wLeg.partsLeft.contains (partFrame.addr.extractLsb' 32 32).toNat = true) ∧
    findLeg (sysTaken (withSysRx wServing) partFrame wSysRx) (partFrame.aux.setWidth 28) = none := by
  unfold RunsSystem HeadOk Arrives MacTakes FreshPsn; decide +kernel

def srcLeg (st : LegState) : Leg := { wLeg with atTarget := false, state := st, partsLeft := [] }
def dstLeg : Leg := { wLeg with state := .clearing, partsLeft := [], peerId := some 9 }
def localLegG : Leg := { dstLeg with localLeg := true }
def srcDevice (st : LegState) : State := withSysRx (withLeg (srcLeg st) [wReq])
def wHdr0 : PageHdr := ⟨wBaton, 1, 0, 0x1000000000000000, 64, 0⟩
def wPageHdr : PageHdr := { wHdr0 with crc := crc32c (hdrHead wHdr0) }
/-- The target's leg 9 clears one page of this device's leg 1. -/
def clearFrame : Frame := msgFrame msgClear 9 [1, 1, 0, 1]
def pageFrame : Frame := wFrame 3 opLegPage sysCh 7 1 0 (List.replicate 96 1)

theorem wit_LegPages :
    (RunsSystem (srcDevice .sending) clearFrame opLegCtl wSysRx ∧
      findSource (sysTaken (srcDevice .sending) clearFrame wSysRx) clearFrame = some (srcLeg .sending) ∧
      msgKind clearFrame = some msgClear ∧ (srcLeg .sending).state = .sending ∧
      (sysTaken (srcDevice .sending) clearFrame wSysRx).btn.legs.find? (fun y => y.index == 0) = some (srcLeg .sending) ∧
      msgWord clearFrame 0 = 1 ∧
      (srcLeg .sending).sent + min (msgWord clearFrame 1).toNat ((srcLeg .sending).pages.length - (srcLeg .sending).sent)
        = (srcLeg .sending).pages.length ∧ (srcLeg .sending).partsLeft = [] ∧
      swapHeld (sysTaken (srcDevice .sending) clearFrame wSysRx) (srcLeg .sending) = false) ∧
    (RunsSystem (withSysRx (withLeg dstLeg [])) pageFrame opLegPage wSysRx ∧
      findLeg (sysTaken (withSysRx (withLeg dstLeg [])) pageFrame wSysRx) (pageFrame.aux.setWidth 28) = some dstLeg ∧
      dstLeg.peer = (parseHdr wServing pageFrame).src ∧ dstLeg.pages[0]? = some wLegPage ∧ wLegPage.cleared = true ∧
      wLegPage.written = false ∧ 0 + pageFrame.payload.length ≤ 32 + wLegPage.item.bytes) ∧
    findLeg (sysTaken (withSysRx wServing) pageFrame wSysRx) (pageFrame.aux.setWidth 28) = none ∧
    (findLeg (withLeg localLegG []) 1 = some localLegG ∧ localLegG.pages[0]? = some wLegPage ∧
      pageArrived (withLeg localLegG []) localLegG 0 wLegPage wPageHdr = true ∧ hdrSound 1 0 wLegPage.item wPageHdr = true ∧
      pageArrived (withLeg localLegG []) localLegG 0 wLegPage wHdr0 = true ∧ hdrSound 1 0 wLegPage.item wHdr0 = false) := by
  unfold RunsSystem HeadOk Arrives MacTakes FreshPsn; decide +kernel

def commitFrame : Frame := msgFrame msgCommit 9 [0, 0, 0, 1]
def abortFrame : Frame := msgFrame msgAbort 9 [3, 0, 0, 1]
/-- The source's leg 9 ends, of which this device is the target. -/
def abortFrom : Frame := msgFrame msgAbort 0 [3, 0, 0, 9]

theorem wit_LegEnds :
    (RunsSystem (srcDevice .releasing) commitFrame opLegCtl wSysRx ∧
      findSource (sysTaken (srcDevice .releasing) commitFrame wSysRx) commitFrame = some (srcLeg .releasing) ∧
      msgKind commitFrame = some msgCommit ∧ (srcLeg .releasing).state = .releasing) := by
  unfold RunsSystem HeadOk Arrives MacTakes FreshPsn; decide +kernel

theorem wit_LegEnds_void :
    (RunsSystem (srcDevice .sending) commitFrame opLegCtl wSysRx ∧
      findSource (sysTaken (srcDevice .sending) commitFrame wSysRx) commitFrame = some (srcLeg .sending) ∧
      (srcLeg .sending).state ≠ .releasing) ∧
    (RunsSystem (withSysRx wServing) commitFrame opLegCtl wSysRx ∧
      findSource (sysTaken (withSysRx wServing) commitFrame wSysRx) commitFrame = none) := by
  unfold RunsSystem HeadOk Arrives MacTakes FreshPsn; decide +kernel

theorem wit_LegEnds_abort :
    (RunsSystem (srcDevice .sending) abortFrame opLegCtl wSysRx ∧
      findSource (sysTaken (srcDevice .sending) abortFrame wSysRx) abortFrame = some (srcLeg .sending) ∧
      msgKind abortFrame = some msgAbort) ∧
    (RunsSystem (withSysRx (withLeg dstLeg [])) abortFrom opLegCtl wSysRx ∧
      findSource (sysTaken (withSysRx (withLeg dstLeg [])) abortFrom wSysRx) abortFrom = none ∧
      findTarget (sysTaken (withSysRx (withLeg dstLeg [])) abortFrom wSysRx) abortFrom = some dstLeg ∧
      msgKind abortFrom = some msgAbort) := by
  unfold RunsSystem HeadOk Arrives MacTakes FreshPsn; decide +kernel

theorem wit_LegEnds_timers :
    (findLeg (withLeg dstLeg []) 1 = some dstLeg ∧ dstLeg.atTarget = true ∧ dstLeg.state = .clearing ∧
      (dstLeg.pages.any fun p => p.cleared && decide (p.arrived < 32 + p.item.bytes)) = true) ∧
    (findLeg (withLeg (srcLeg .sending) []) 1 = some (srcLeg .sending) ∧ (srcLeg .sending).atTarget = false ∧
      (srcLeg .sending).state = .sending) ∧
    (findLeg (withLeg (srcLeg .releasing) []) 1 = some (srcLeg .releasing) ∧ (srcLeg .releasing).state = .releasing) := by decide +kernel

def spillLeg : Leg := { wLeg with type := 3, localLeg := true, tier := some (1, 0, 64), pages := [] }
def recallLeg : Leg := { wLeg with type := 4, localLeg := true, pages := [] }
def restReq : Req := { wReq with phase := .parked, lane := some 3, copies := [⟨false, .record, [1], crc32c [1]⟩] }
def resumeReq : Req := { restReq with phase := .resuming, lane := some 5 }
/-- Lane 5 is a cache lane. -/
def cached (s : State) : State :=
  { s with lanes := vset s.lanes 5 { wLaneState 5 (wLane 3 wGenTable) wGenTable with tables := Tables.reset } }
def lostReq : Req := { restReq with copies := [⟨false, .record, [1], 0⟩] }
def auditReq : Req := { restReq with audit := some ⟨wHdr, 0, 16, false, 3, []⟩ }
def landed : State := recallLand (cached (withLeg recallLeg [resumeReq])) recallLeg wBaton

/-- The request under audit with the scratch sequence of its replay, which has done so many positions; page 0 of layer 0 is open. -/
def scratchOf (done : Nat) (slots : List Nat) : Req :=
  { replayReq auditReq 3 0 slots with done := done, pages := [wPage pOpen slots] }
def auditDev (done : Nat) : State :=
  { withReq { auditReq with pages := [wPage pOpen [9]] } with btn := { wServing.btn with replays := [scratchOf done [8]] } }
def recallReplay : Leg := { recallLeg with replay := true }

theorem wit_BatonsAtRest :
    (findReq (withLeg spillLeg [wReq]) wBaton = some wReq ∧ legOf (withLeg spillLeg [wReq]) legSpill wBaton = some spillLeg ∧
      spillLeg.tier = some (1, 0, 64) ∧ modelOf (withLeg spillLeg [wReq]) wReq.model = some wModel ∧ wReq.pulledBy = none) ∧
    (legOf (cached (withLeg recallLeg [resumeReq])) legRecall wBaton = some recallLeg ∧ recallLeg.replay = false ∧
      findReq landed wBaton = some resumeReq ∧ resumeReq.pulledBy = none ∧
      (tryResumeLanes landed wBaton (resumeLanes landed resumeReq)).2 = true) ∧
    (legOf (withLeg recallReplay [auditReq]) legRecall wBaton = some recallReplay ∧ recallReplay.replay = true) ∧
    (findReq (withReq restReq) wBaton = some restReq ∧ (restReq.phase = .parked ∨ restReq.phase = .ended) ∧
      copiesHold restReq.copies = true) ∧
    (findReq (withReq lostReq) wBaton = some lostReq ∧ copiesHold lostReq.copies = false ∧ lostReq.lost = none) ∧
    (wReq.phase ≠ .parked ∧ wReq.phase ≠ .ended) := by decide +kernel

theorem wit_BatonsAtRest_audit :
    (findReq (auditDev 1) wBaton = some { auditReq with pages := [wPage pOpen [9]] } ∧
      auditReq.audit = some ⟨wHdr, 0, 16, false, 3, []⟩ ∧
      (auditDev 1).btn.replays.find? (fun q => q.id == wBaton) = some (scratchOf 1 [8]) ∧
      modelOf (auditDev 1) auditReq.model = some wModel ∧ (scratchOf 1 [8]).done < (16 : Word).toNat) ∧
    ((auditDev 16).btn.replays.find? (fun q => q.id == wBaton) = some (scratchOf 16 [8]) ∧ (16 : Word).toNat ≤ (scratchOf 16 [8]).done ∧
      (comparedPages wModel { auditReq with pages := [wPage pOpen [9]] } (scratchOf 16 [8]) ⟨wHdr, 0, 16, false, 3, []⟩).length = 1) := by
  decide +kernel

/-- No lane serves: none takes the baton. -/
def noLane : State := { withLeg recallLeg [resumeReq] with lanes := State.reset.lanes }
theorem wit_BatonsAtRest_refused : legOf noLane legRecall wBaton = some recallLeg ∧
    findReq (recallLand noLane recallLeg wBaton) wBaton = some resumeReq ∧
    (tryResumeLanes (recallLand noLane recallLeg wBaton) wBaton
      (resumeLanes (recallLand noLane recallLeg wBaton) resumeReq)).2 = false := by decide +kernel

/-! ### Witnesses: Track -/

def teDev : State := withTe wSq
def writeFrame : Frame := wFrame 2 opWrite 4 20 0 8 [1, 2, 3, 4]
/-- The last byte of the region, and the last number of the window on a channel that may overtake. -/
def lastFrame : Frame := wFrame 2 opWrite 4 4115 0 4095 [9]

theorem wit_WriteStoresItsPayload : RunsRequest teDev writeFrame opWrite wRx ∧ RunsRequest teDev lastFrame opWrite wRx := by
  unfold RunsRequest OnChannel HeadOk Arrives MacTakes FreshPsn; decide +kernel

theorem wit_ReadsAndAtomics_add : RunsRequest teDev (wFrame 2 opAtomicAdd 4 20 0 8 (List.replicate 8 1)) opAtomicAdd wRx := by
  unfold RunsRequest OnChannel HeadOk Arrives MacTakes FreshPsn; decide +kernel
theorem wit_ReadsAndAtomics_fetch : RunsRequest teDev (wFrame 2 opFetchAdd 4 20 0 8 (List.replicate 8 1)) opFetchAdd wRx := by
  unfold RunsRequest OnChannel HeadOk Arrives MacTakes FreshPsn; decide +kernel
theorem wit_ReadsAndAtomics_swap : RunsRequest teDev (wFrame 2 opCmpSwap 4 20 0 8 (List.replicate 16 0)) opCmpSwap wRx := by
  unfold RunsRequest OnChannel HeadOk Arrives MacTakes FreshPsn; decide +kernel
theorem wit_ReadsAndAtomics_read :
    RunsRequest teDev (wFrame 2 opReadReq 4 20 4096 0 (List.replicate 16 0)) opReadReq wRx ∧
    (parseHdr teDev (wFrame 2 opReadReq 4 20 4096 0 (List.replicate 16 0))).flags.getLsbD 3 = false := by
  unfold RunsRequest OnChannel HeadOk Arrives MacTakes FreshPsn; decide +kernel

theorem wit_SendsFillBuffers :
    (RunsRequest teDev (wFrame 2 opSend 4 20 0 56 (List.replicate 8 1)) opSend wRx ∧ tblGet teDev.te.rqs wRx.queue = some wRq ∧
      (0 : Word) = wRq.nextMsg ∧ tblGet wRq.dropped (0 : Word).toNat = none ∧
      claim (56 + 8) (getMsg wRq 0).bufs wRq.bufs = some ([wBuf], [])) ∧
    (RunsRequest teDev (wFrame 2 opSend 4 20 0 57 (List.replicate 8 1)) opSend wRx ∧
      claim (57 + 8) (getMsg wRq 0).bufs wRq.bufs = none) := by
  unfold RunsRequest OnChannel HeadOk Arrives MacTakes FreshPsn; decide +kernel

theorem wit_BadRequestsDoNothing :
    (Arrives teDev { writeFrame with planTag := 0xAC } ∧
      headCheck teDev (parseHdr teDev { writeFrame with planTag := 0xAC }) { writeFrame with planTag := 0xAC } opWrite = some 0x02) ∧
    (OnChannel teDev (wFrame 2 opWrite 4 19 0 8 [1]) opWrite wRx ∧ 2147483648 ≤ ((19 : Word) - wRx.expected).toNat) ∧
    (OnChannel teDev (wFrame 2 opWrite 4 4116 0 8 [1]) opWrite wRx ∧ wRx.got.contains 4116 = false ∧
      4096 ≤ ((4116 : Word) - wRx.expected).toNat ∧ ((4116 : Word) - wRx.expected).toNat < 2147483648) ∧
    (OnChannel teDev { writeFrame with rkey := 1 } opWrite wRx ∧ FreshPsn wRx.expected wRx.got 20 ∧
      accessCheck teDev (parseHdr teDev { writeFrame with rkey := 1 }) { writeFrame with rkey := 1 } = some 0x05) := by
  unfold OnChannel HeadOk Arrives MacTakes FreshPsn; decide +kernel

def readOp : TxOp := wTxOp opReadReq
def addOp : TxOp := wTxOp opFetchAdd
def ackDev (o : TxOp) : State := withTe { wSq with ops := [o] }
def ackFrame : Frame := wFrame 1 opAck 4 0 9 0 (List.replicate 16 0)
def nackFrame (code : Byte) : Frame := wFrame 1 opNack 4 0 9 0 (code :: List.replicate 7 0)
def sysAck : Frame := wFrame 1 opAck sysCh 0 9 0 (List.replicate 16 0)
def sysNack : Frame := wFrame 1 opNack sysCh 0 9 0 (0x0C :: List.replicate 7 0)
def wSysTx : SysTx := ⟨0, true, 0, [], [], [], [], 0, 0, wLaw⟩
def sysDev (x : SysTx) : State := { wServing with te := { wServing.te with sysTx := [(6, x)], paths := [(0, 0x80000000)] } }

theorem wit_Responses :
    (RunsResponse (ackDev readOp) (wFrame 2 opReadResp 4 0 9 0 (List.replicate 8 1)) opReadResp 2 { wSq with ops := [readOp] } readOp ∧
      localAddr (ackDev readOp) wSq.tenant readOp.desc.localKey (readOp.desc.localOff + BitVec.ofNat 48 0) 8 = some 0) ∧
    RunsResponse (ackDev addOp) (wFrame 2 opAtomicResp 4 0 9 0 (List.replicate 8 1)) opAtomicResp 2 { wSq with ops := [addOp] } addOp := by
  unfold RunsResponse HeadOk Arrives MacTakes; decide +kernel

theorem wit_Ack : RunsAck (ackDev readOp) ackFrame opAck ∧ (parseHdr (ackDev readOp) ackFrame).dstCh ≠ sysCh ∧
    chanOf (ackDev readOp) (parseHdr (ackDev readOp) ackFrame).src (parseHdr (ackDev readOp) ackFrame).dstCh = some 2 := by
  unfold RunsAck HeadOk Arrives MacTakes; decide +kernel
theorem wit_Ack_sys : RunsAck (sysDev wSysTx) sysAck opAck ∧ (parseHdr (sysDev wSysTx) sysAck).dstCh = sysCh := by
  unfold RunsAck HeadOk Arrives MacTakes; decide +kernel
theorem wit_Nack_ends : RunsAck (ackDev readOp) (nackFrame 0x03) opNack ∧ getSq (ackDev readOp) 2 = some { wSq with ops := [readOp] } ∧
    [readOp].find? (fun o => opHas o 9) = some readOp ∧ nackFinish 0x03 = some .falseStart := by
  unfold RunsAck HeadOk Arrives MacTakes; decide +kernel
theorem wit_Nack_fault : RunsAck (ackDev readOp) (nackFrame 0x0A) opNack := by unfold RunsAck HeadOk Arrives MacTakes; decide +kernel
theorem wit_Nack_dry : RunsAck (ackDev readOp) (nackFrame 0x0B) opNack ∧ { readOp with retries := 6 }.retries < 7 ∧
    7 ≤ { readOp with retries := 7 }.retries := by
  unfold RunsAck HeadOk Arrives MacTakes; decide +kernel
theorem wit_Nack_sys : RunsAck (sysDev wSysTx) sysNack opNack ∧ tblGet (sysDev wSysTx).te.sysTx 6 = some wSysTx ∧
    (∀ g ∈ wSysTx.unacked, g.psn ≠ 9) ∧ isFenced (sysDev wSysTx) = false := by
  unfold RunsAck HeadOk Arrives MacTakes; decide +kernel

/-- Time stands at 3,000,100 ns: a timer that ran out, a fault's retry that is over, and one of each still running. -/
def lateTx (due fault : Nat) : TxFrame := { wTx 9 with rt := { Retx.new with dueAt := some due, faultAt := some fault } }
def resendDev (due fault : Nat) : State := withTe { wSq with unacked := [lateTx due fault] }
def resendPeer : State := sysDev { wSysTx with unacked := [lateTx 3000100 9] }
def owedDev (t : Nat) : State :=
  { teDev with te := { teDev.te with rxs := [(4, { wRx with owed := some t })], sysRx := [(6, { wSysRx with owed := some t })] } }
def pagedPlan : PlanImage := { wPlan with tenants := [(1, ⟨true, 1, 64, 1024, 1, true⟩)] }
def pageDev : State :=
  { wServing with mpl := { wServing.mpl with current := some pagedPlan }, te := { wServing.te with wanted := [(1, 134217727)] } }
def idleDev : State := { sysDev wSysTx with clk := { wServing.clk with now := 500000000 } }

theorem wit_ChannelTimers :
    (getSq (resendDev 3000100 3000101) (2 : BitVec 13).toNat = some { wSq with unacked := [lateTx 3000100 3000101] } ∧
      (resendDev 3000100 3000101).te.dead.contains wSq.target = false ∧
      [lateTx 3000100 3000101].any (timerOut wServing.clk.now 9) = true ∧
      [lateTx 3000100 3000101].any (faultOut wServing.clk.now 9) = false ∧
      (resendSq (resendDev 3000100 3000101) (2 : BitVec 13).toNat 9).isSome = true) ∧
    ([lateTx 3000101 3000100].any (timerOut wServing.clk.now 9) = false ∧ [lateTx 3000101 3000100].any (faultOut wServing.clk.now 9) = true) ∧
    (resendPeer.te.dead.contains 6 = false ∧ (resendSys resendPeer 6 9).isSome = true ∧
      [lateTx 3000100 9].any (timerOut resendPeer.clk.now 9) = true) ∧
    (pageWanted pageDev 1 134217727 = true ∧ pageWanted pageDev 1 134217726 = false) ∧
    (getRx (owedDev 2992100) (4 : BitVec 13).toNat = some { wRx with owed := some 2992100 } ∧
      ackDue (owedDev 2992100).clk.now (some 2992100) = true ∧ ackDue (owedDev 2992101).clk.now (some 2992101) = false) ∧
    (tblGet (owedDev 2992100).te.sysRx (6 : DevId).toNat = some { wSysRx with owed := some 2992100 }) ∧
    (tblGet idleDev.te.sysTx (6 : DevId).toNat = some wSysTx ∧ wSysTx.unacked = [] ∧ wSysTx.ctlWait = [] ∧ wSysTx.legWait = [] ∧
      idleDev.te.ctxWait = [] ∧ wSysTx.lastUse + 500000000 ≤ idleDev.clk.now ∧ (sysDev wSysTx).clk.now < wSysTx.lastUse + 500000000)
    := by decide +kernel

def frameDev : State :=
  { wServing with pac := { ports := vset Pac.reset.ports 0 { PacP.reset with
      queues := vset PacP.reset.queues 0 { PacQ.reset with frames := [{ wTx 9 with op := opMarshal, cls := 0, sq := none }] } } } }
def ringFrame : Frame := wFrame 1 opRing sysCh 7 0 0 (List.replicate 32 1)

theorem wit_PortEvents :
    (teHeld wServing = false ∧ fabricUsable wServing (0 : Fin 16).val = true ∧ (pacPort wServing (0 : Fin 16).val).isSome = true) ∧
    fabricUsable State.reset (0 : Fin 16).val = false ∧
    (wServing.clk.ethOk = true ∧ State.reset.clk.ethOk = false) ∧
    (pacHeld frameDev = false ∧ portUsable frameDev (0 : Fin 19).val = true ∧ (frameDev.pac.ports.get 0).busyUntil ≤ frameDev.clk.now ∧
      (chooseQueue (holdHeads (fillPort frameDev 0) 0) 0).2 = some 0 ∧
      (pacQueue (chooseQueue (holdHeads (fillPort frameDev 0) 0) 0).1 0 0).frames
        = [{ wTx 9 with op := opMarshal, cls := 0, sq := none }]) ∧
    (chooseQueue (holdHeads (fillPort wServing 0) 0) 0).2 = none := by decide +kernel

def ringNext : Frame := wFrame 1 opRing sysCh 8 0 0 (List.replicate 32 1)
theorem wit_PortEvents_ring :
    (RunsSystem (withSysRx wServing) ringFrame opRing wSysRx ∧ hostUp (withSysRx wServing) = true ∧ wSysRx.waiting = [] ∧
      wSysRx.got = [] ∧ (parseHdr (withSysRx wServing) ringFrame).psn = wSysRx.expected) ∧
    (RunsSystem (withSysRx wServing) ringNext opRing wSysRx ∧ (parseHdr (withSysRx wServing) ringNext).psn ≠ wSysRx.expected) := by
  unfold RunsSystem HeadOk Arrives MacTakes FreshPsn; decide +kernel

/-- Messages of the device's own PTP domain and of another. -/
theorem wit_PortEvents_ptp :
    (⟨.sync, Config.ptpDomain, 0⟩ : PtpMsg).domain = Config.ptpDomain ∧
    (⟨.sync, Config.ptpDomain + 1, 0⟩ : PtpMsg).domain ≠ Config.ptpDomain := ⟨rfl, by
  intro h
  have h : Config.ptpDomain + 1 = Config.ptpDomain := h
  exact absurd h (by bv_omega)⟩

/-! ### Witnesses: Bib's ring, Marshal, whole machine -/

def packet (tag : Byte) (hit : Bool) (pos : BitVec 2) : RingPacket :=
  let p : RingPacket := ⟨5, tag, 0, hit, pos, 3, 0x99, 0⟩
  { p with crc := packetCrc p }
def wWait : BibWait := ⟨9, ⟨wHdr, 0, 5, none⟩, 0, some 0⟩
/-- Tray position 1 of a cascade of two, with an entry that matches key 5 and a lookup on the ring. -/
def trayDev (k : Nat) : State :=
  { wServing with
    sta := { wServing.sta with pos := 1 }
    clk := { wServing.clk with now := k }
    bib := { Bib.reset with
      copyA := [(2, ⟨5, BitVec.allOnes 128, 1, 0x77⟩)], waits := [{ wWait with tag := 73 }], hold := [(packet 0 false 0, 0)] } }
def loneDev : State := { wServing with mpl := { wServing.mpl with current := some { wPlan with bib := none } } }

theorem wit_BibRing :
    (bibHeld (trayDev 0) = false ∧ (trayDev 0).sta.boot.fabricUp = true ∧ isMember (trayDev 0) = true) ∧
    packetCrc { packet 9 true 0 with crc := 1 + (packet 9 true 0).crc } ≠ 1 + (packet 9 true 0).crc ∧
    (packetCrc (packet 73 true 0) = (packet 73 true 0).crc ∧ (packet 73 true 0).tag.toNat / 64 = trayPos (trayDev 0) ∧
      (trayDev 0).bib.waits.find? (fun w => w.tag == (packet 73 true 0).tag.toNat) = some { wWait with tag := 73 }) ∧
    ((packet 9 false 0).tag.toNat / 64 ≠ trayPos (trayDev 0) ∧ bibPart (trayDev 0) (packet 9 false 0).part.toNat = some wPart ∧
      firstMatch (bibFg (trayDev 0).bib) wPart (packet 9 false 0).key = some (2, ⟨5, BitVec.allOnes 128, 1, 0x77⟩) ∧
      ((packet 9 false 0).hit = false ∨ trayPos (trayDev 0) < (packet 9 false 0).pos.toNat)) ∧
    (bibHeld loneDev = false ∧ loneDev.sta.boot.fabricUp = true ∧ isMember loneDev = false) ∧
    ((trayDev 4000).bib.waits.find? (fun w => w.tag == (73 : Byte).toNat) = some { wWait with tag := 73 } ∧ wWait.sentAt = some 0 ∧
      0 + 4000 ≤ (trayDev 4000).clk.now ∧ (trayDev 3999).clk.now < 0 + 4000) ∧ (0 + 2000 < (trayDev 2001).clk.now) ∧
    (trayDev 2000).clk.now ≤ 0 + 2000 := by decide +kernel

/-- A LIVE device whose ring names device 6 as first watcher and as first watched device, with watcher 7. -/
def ringDevice (r : Rounds) : State :=
  { wServing with mar := { wServing.mar with
      ringCur := [(0, 0x80000006), (1, 0x80000007), (2, 0x80000008), (5, 0x80000006), (26, 0x80000007)], rounds := r } }
def marFrame : Frame := { wFrame 0 opMarshal sysCh 0 0 0 (List.replicate 32 0) with head := wHead 0 opMarshal 0 sysCh 32 }
def mdev : State := ringDevice Rounds.reset

theorem wit_MarshalMessages_heartbeat :
    RunsMarshal mdev marFrame (wMsg mtHeartbeat 0 6 6 3) mtHeartbeat ∧ watchedPlace mdev 6 = some 0 ∧ expectsHb mdev 6 3 = true ∧
    mdev.mar.state ≠ .inactive ∧ mdev.mar.rounds.got.contains (6, 3) = false ∧ mdev.mar.rounds.late.contains (6, 3) = false ∧
    mdev.clk.now ≤ roundStart mdev 3 + 1246000 := by unfold RunsMarshal HeadOk Arrives MacTakes; decide +kernel
theorem wit_MarshalMessages_late :
    RunsMarshal mdev marFrame (wMsg mtHeartbeat 0 6 6 1) mtHeartbeat ∧ roundStart mdev 1 + 1246000 < mdev.clk.now ∧
    expectsHb mdev 6 1 = true ∧ mdev.mar.rounds.got.contains (6, 1) = false ∧ mdev.mar.rounds.late.contains (6, 1) = false := by
  unfold RunsMarshal HeadOk Arrives MacTakes; decide +kernel
/-- The same device once each message of the witnesses has come. -/
def mdevAgain : State := ringDevice { Rounds.reset with
  echoes := [(0, 3)], suspects := [(6, 3, 7)], strays := [wMsg mtHeartbeat 0 9 9 3] }
theorem wit_MarshalMessages_stray :
    (RunsMarshal mdev marFrame (wMsg mtHeartbeat 0 9 9 3) mtHeartbeat ∧ watchedPlace mdev 9 = none ∧
      mdev.mar.rounds.strays.contains (wMsg mtHeartbeat 0 9 9 3) = false) ∧
    (RunsMarshal mdevAgain marFrame (wMsg mtHeartbeat 0 9 9 3) mtHeartbeat ∧ watchedPlace mdevAgain 9 = none ∧
      mdevAgain.mar.rounds.strays.contains (wMsg mtHeartbeat 0 9 9 3) = true) := by
  unfold RunsMarshal HeadOk Arrives MacTakes; decide +kernel
theorem wit_MarshalMessages_echo :
    (RunsMarshal mdev marFrame (wMsg mtEcho 0 6 5 3) mtEcho ∧ watcherPlace mdev 6 = some 0 ∧ (5 : DevId) = mdev.mpl.devId ∧
      mdev.clk.now ≤ roundStart mdev 3 + 1496000 ∧ mdev.mar.rounds.echoes.contains (0, 3) = false) ∧
    (RunsMarshal mdevAgain marFrame (wMsg mtEcho 0 6 5 3) mtEcho ∧ watcherPlace mdevAgain 6 = some 0 ∧
      mdevAgain.mar.rounds.echoes.contains (0, 3) = true) := by unfold RunsMarshal HeadOk Arrives MacTakes; decide +kernel
theorem wit_MarshalMessages_suspect :
    (RunsMarshal mdev marFrame (wMsg mtSuspect 0 7 6 3) mtSuspect ∧ (coWatchers mdev 6).contains 7 = true ∧
      mdev.clk.now < roundStart mdev 3 + 1996000 ∧ mdev.mar.rounds.suspects.contains (6, 3, 7) = false) ∧
    (RunsMarshal mdevAgain marFrame (wMsg mtSuspect 0 7 6 3) mtSuspect ∧ (coWatchers mdevAgain 6).contains 7 = true ∧
      mdevAgain.mar.rounds.suspects.contains (6, 3, 7) = true) ∧
    (RunsMarshal mdev marFrame (wMsg mtSuspect 0 8 6 3) mtSuspect ∧ (coWatchers mdev 6).contains 8 = false ∧
      mdev.mar.rounds.strays.contains (wMsg mtSuspect 0 8 6 3) = false) := by
  unfold RunsMarshal HeadOk Arrives MacTakes; decide +kernel
theorem wit_MarshalMessages_fence :
    RunsMarshal mdev marFrame (wMsg mtFence 1 6 7 3) mtFence ∧ mdev.te.fenced.contains (parseHdr mdev marFrame).src = false ∧
    (wMsg mtFence 1 6 7 3).kind.toNat ≤ 1 := by
  unfold RunsMarshal HeadOk Arrives MacTakes; decide +kernel
theorem wit_MarshalMessages_readmit : RunsMarshal mdev marFrame (wMsg mtReadmit 0 6 7 3) mtReadmit := by
  unfold RunsMarshal HeadOk Arrives MacTakes; decide +kernel
theorem wit_MarshalMessages_report : RunsMarshal mdev marFrame (wMsg mtReport 0 6 6 3) mtReport := by
  unfold RunsMarshal HeadOk Arrives MacTakes; decide +kernel

/-- 4 ms: of round 2 every time has come, of round 3 the first alone. -/
def roundDev (r : Rounds) : State := { ringDevice r with clk := { wServing.clk with now := 4000000 } }
def freshDev : State := roundDev Rounds.reset
def lonelyDev : State := roundDev { Rounds.reset with sent := [1, 2] }
def votedDev (m : List (DevId × BitVec 48)) : State :=
  roundDev { Rounds.reset with suspects := [(6, 2, 5), (6, 2, 7), (6, 2, 8)], majority := m }
def inactiveDev : State := { freshDev with mar := { freshDev.mar with state := .inactive } }

theorem wit_MarshalRounds :
    (marHeld freshDev = false ∧ freshDev.mar.state = .live ∧ freshDev.mar.rounds.liveAt.toNat ≤ (3 : BitVec 48).toNat ∧
      freshDev.mar.rounds.sent.contains 3 = false ∧ roundDue freshDev 3 996 = true) ∧
    (inactiveDev.mar.state ≠ .live ∧ inactiveDev.mar.state ≠ .fenced ∧ marHeld inactiveDev = false ∧
      roundDue inactiveDev 2 1496 = true) ∧
    (roundDue freshDev 4 996 = false ∧ roundDue freshDev 3 1246 = false ∧ roundDue freshDev 3 1496 = false ∧
      roundDue freshDev 3 1996 = false) ∧
    (watched freshDev = [6] ∧ expectsHb freshDev 6 2 = true ∧ (6, 2) ∉ freshDev.mar.rounds.got ∧ roundDue freshDev 2 1246 = true) ∧
    (3 ≤ freeWatchers freshDev ∧ roundDue freshDev 2 1496 = true ∧ lonely freshDev 2 = false) ∧
    (3 ≤ freeWatchers lonelyDev ∧ roundDue lonelyDev 2 1496 = true ∧ 0 < (2 : BitVec 48).toNat ∧ lonely lonelyDev (2 - 1) = true ∧
      lonely lonelyDev 2 = true ∧ lonelyDev.mar.state = .live) ∧
    (watched (votedDev []) = [6] ∧ hasMajority (votedDev []) 6 (2 - 1) = false ∧ 3 ≤ suspectCount (votedDev []) 6 2 ∧
      expectsHb (votedDev []) 6 2 = true ∧ roundDue (votedDev []) 2 1996 = true) ∧
    (watched (votedDev [(6, 1)]) = [6] ∧ hasMajority (votedDev [(6, 1)]) 6 2 = false ∧
      hasMajority (votedDev [(6, 1)]) 6 (2 - 1) = true ∧ (votedDev [(6, 1)]).mar.state = .live) := by decide +kernel

theorem wit_StepRunsFrontCommand : State.reset.pending = [] := rfl

theorem reset_mems : MemsOk State.reset := by unfold MemsOk; decide

theorem wit_StepKeepsMemories : MemsOk State.reset ∧ ∃ t, step State.reset = .next t := ⟨reset_mems, _, rfl⟩

theorem wit_StepKeepsTheQueue : ∃ t, step { State.reset with pending := [.idcode, .idcode] } = .next t ∧ t.pending = [.idcode] :=
  ⟨_, rfl, rfl⟩

theorem wit_GenerationAdvances :
    (findReq (withReq wReq) wBaton = some wReq ∧ batonHome wBaton = (withReq wReq).mpl.devId ∧
      tblGetD (withReq wReq).slotGen (batonSlot wBaton) 0 ≠ batonGen wBaton) ∧
    (findReq { withReq wReq with slotGen := [(0, 7)] } wBaton = some wReq ∧
      tblGetD ([(0, 7)] : Tbl (BitVec 16)) (batonSlot wBaton) 0 = batonGen wBaton) ∧
    batonGen (mkBaton 5 1 0 0xFFFF) = 0xFFFF := by
  decide +kernel

theorem wit_PlanWithdrawal :
    (HostServed stagedDev wPfHdr true ∧ stagedDev.mpl.staged = some wPlan ∧ stagedDev.mpl.stagedCmd = some wPfHdr) ∧
    (HostServed wUp wPfHdr true ∧ wUp.mpl.staged = none) := by
  unfold HostServed; decide +kernel

/-! ### Single steps

The expected values are worked by hand from the rules named. -/

/-- R60: BF16 rounds half to even: 1 + 2^-8 goes down to 1, 1 + 3 * 2^-8 up to 1 + 2^-6. -/
theorem test_bf16_ties : (runFx (Num.convert .bf16 false (dec32 0x3F808000)) 0).1 = 0x3F80 ∧
    (runFx (Num.convert .bf16 false (dec32 0x3F818000)) 0).1 = 0x3F82 := by decide +kernel
/-- R57: the largest finite E4M3 is 448; saturating conversion of 1024 gives it. -/
theorem test_e4m3_saturates : (runFx (Num.convert .e4m3 true (dec32 0x44800000)) 0).1 = 0x7E := by decide +kernel
/-- R58: the canonical NaN of E5M2 is 0x7F, of E4M3 0x7F too. -/
theorem test_nan : (runFx (Num.convert .e5m2 false (dec32 0x7FC00000)) 0).1 = 0x7F ∧
    (runFx (Num.convert .e4m3 false (dec32 0x7FC00000)) 0).1 = 0x7F := by decide +kernel
/-- 1 + 2^-24 rounds to 1 in FP32, and 3 * 0.5 is 1.5. -/
theorem test_fp32 : (runFx (add32 0x3F800000 0x33800000) 0).1 = 0x3F800000 ∧ (runFx (mul32 0x40400000 0x3F000000) 0).1 = 0x3FC00000 ∧
    (runFx (sqrt32 0x40800000) 0).1 = 0x40000000 := by decide +kernel
/-- e^0 and 2^3 are exact. -/
theorem test_exp : (runFx (exp32 0) 0).1 = 0x3F800000 ∧ (runFx (exp2_32 0x40400000) 0).1 = 0x41000000 := by decide +kernel
/-- The check value of CRC-32C over the digits 1 to 9. -/
theorem test_crc32c : crc32c [0x31, 0x32, 0x33, 0x34, 0x35, 0x36, 0x37, 0x38, 0x39] = 0xE3069283 := by decide +kernel
/-- R37: byte 64 is in bank 1, byte 1024 in word 1 of bank 0, and the banks follow each other. -/
theorem test_sramPlace : sramBank 64 = 1 ∧ sramWord 64 = 0 ∧ sramBank 1024 = 0 ∧ sramWord 1024 = 1 ∧ sramPlace 65 = 40961 ∧
    sramPlace 655359 = 655359 := by decide
/-- R62: a slot's conversion of 1.0 leaves BF16 0x3F80 in the core's operand SRAM, low byte first. -/
theorem test_slotConvert : Completes (exec (.slotStart 3 0 [.convert .bf16 ⟨.fp32, .given [0, 0, 0x80, 0x3F]⟩ ⟨0, 63⟩]) wServing) fun t =>
    sramRead t 3 0 63 2 = [0x80, 0x3F] := ⟨_, rfl, by decide +kernel⟩
/-- R43: a NEAR region of one byte takes entry 0 and one page slot. -/
theorem test_region : Completes (exec (.regionAlloc wHdr 1 1) wServing) fun t =>
    (tblGet t.te.regions 0).map (fun r => (r.len, r.near.length)) = some (1, 1) := ⟨_, rfl, by decide +kernel⟩
/-- R401: IDCODE shifts out 0x1A320CB7. -/
theorem test_idcode : Completes (exec .idcode State.reset) fun t => t.out = [.jtag 0x01 0x1A320CB7] := ⟨_, rfl, rfl⟩
/-- R405: a write to GLB_SCRATCH from the host. -/
theorem test_scratch : Completes (exec (.registerWrite .pf 0x48 0x12345678 true) wServing) fun t => t.glb.scratch = 0x12345678 :=
  ⟨_, rfl, by decide +kernel⟩
/-- R406: an unmapped write is recorded as KIND UNMAPPED at its word offset. -/
theorem test_unmapped : Completes (exec (.registerWrite .pf 0x0FFC 1 true) wServing) fun t =>
    t.glb.errKind = 1 ∧ t.glb.errOffset = 0x3FF ∧ t.glb.errCnt = 1 := ⟨_, rfl, by decide +kernel⟩
/-- R91 and R92: the boundary ends lap 12 and the commit point stands 20 microseconds before the next boundary. -/
theorem test_lap : Completes (exec .lapBoundary wServing) (fun t => t.lap.count = 13) ∧
    Completes (exec .commitPoint wServing) (fun t => t.lap.inQuiet = true ∧ t.clk.now = 3230000) :=
  ⟨⟨_, rfl, by decide +kernel⟩, ⟨_, rfl, by decide +kernel⟩⟩
/-- R227: four bytes of a WRITE lie at the region's byte 8 on, and byte 12 is not written. -/
theorem test_write : Completes (exec (.write writeFrame) teDev) fun t =>
    memBytes t.mem.data 7 6 = [0, 1, 2, 3, 4, 0] ∧ (getRx t 4).map (·.expected) = some 21 := ⟨_, rfl, by decide +kernel⟩
/-- R227: FETCH_ADD adds the little-endian operand at byte 8. -/
theorem test_fetchAdd : Completes (exec (.fetchAdd (wFrame 2 opFetchAdd 4 20 0 8 [2, 1, 0, 0, 0, 0, 0, 0])) teDev) fun t =>
    memBytes t.mem.data 8 8 = [2, 1, 0, 0, 0, 0, 0, 0] := ⟨_, rfl, by decide +kernel⟩
/-- R24: a PAUSE of a running request waits in its command queue. -/
theorem test_pause : Completes (exec (.pause wHdr wBaton) (withReq wReq)) fun t =>
    (findReq t wBaton).map (·.cmds.length) = some 1 ∧ t.out = [] := ⟨_, rfl, by decide +kernel⟩
/-- R380: a command with an RSV bit set completes with REFUSED and is signalled. -/
theorem test_refused : Completes (exec (.pause badHdr wBaton) (withReq wReq)) fun t => t.out.length = 2 := ⟨_, rfl, by decide +kernel⟩
/-- R396: a byte with a bad stop bit is dropped and counted. -/
theorem test_uart : Completes (exec (.uartByteRx 0x7E false true false) wServing) fun t => t.uar.frameErr = 1 ∧ t.uar.part = [] :=
  ⟨_, rfl, by decide +kernel⟩
/-- R393: a NOOP shifts SPI_STATUS out. -/
theorem test_spi : Completes (exec (.spiNoop 0 32) wServing) fun t => t.out = [.spiMiso (spiStatus wServing)] := ⟨_, rfl, by decide +kernel⟩
/-- R332: a failed steward retires its lane with the data path open. -/
theorem test_steward : Completes (exec (.stewardFault 3) wServing) fun t =>
    (laneOf t 3).ctl = .retired ∧ (laneOf t 3).cause = 2 ∧ (laneOf t 3).dataOpen = true := ⟨_, rfl, by decide +kernel⟩
/-- R274 and R276: the lowest matching address of the partition answers. -/
theorem test_lookup : firstMatch [(1, ⟨7, BitVec.allOnes 128, 0, 1⟩), (2, ⟨5, BitVec.allOnes 128, 0, 2⟩), (3, ⟨0, 0, 0, 3⟩)] wPart 5
    = some (2, ⟨5, BitVec.allOnes 128, 0, 2⟩) := by decide +kernel
/-- R384: completion entries of the second pass carry PHASE 0. -/
theorem test_phase : ringPhase 63 6 = true ∧ ringPhase 64 6 = false := by decide
/-- R425: PTP time holds while ETHCLK fails, though the device's own time runs on. -/
theorem test_ptpHolds : Completes (exec .ethclkFail wServing) fun t =>
    ptpTime { t with clk := { t.clk with now := t.clk.now + 9 } } = ptpTime wServing := ⟨_, rfl, by decide +kernel⟩
/-- No table word spells a command (log 1), so nothing joins the queue. -/
theorem test_noWord : decodeTableWord 32 7 = none ∧ (State.reset.withFetchWord 32 7).pending = [] := ⟨rfl, rfl⟩

end Sys2Proof.Tests
end

section
/-! PROOFS. The order of the finish codes (R13). -/

namespace Sys2Proof.Machine

open Sys2Proof

/-- The sixteen finish codes as R13 lists them. -/
def finishOrder : List Finish :=
  [.fenced, .deadTarget, .laneRetired, .discarded, .planMismatch, .keyDenied, .falseStart, .stalled,
    .lapOverrun, .refused, .auditMismatch, .abandoned, .cancelledDropped, .heldNoPage, .pageFaultResent, .ok]

/-- R13's list and the places of the model agree: place 1 is the head of the list. -/
theorem finishPlace_finishOrder : ∀ k : Fin 16, finishPlace (finishOrder.get (k.cast rfl)) = k.val + 1 := by
  decide

theorem finishOf_eq_left {a b : Finish} (h : finishPlace a ≤ finishPlace b) : finishOf a b = a := if_pos h

theorem finishOf_eq_right {a b : Finish} (h : finishPlace b < finishPlace a) : finishOf a b = b :=
  if_neg (Nat.not_le_of_lt h)

@[simp] theorem finishOf_self (a : Finish) : finishOf a a = a := finishOf_eq_left (Nat.le_refl _)

/-- Settles O57: places grow along R13's list, so the earlier of two codes has the lower place, on whichever side it stands. -/
theorem finishCodeOrder : Obligations.FinishCodeOrder := by
  intro i j hij
  rcases Nat.eq_or_lt_of_le hij with heq | hlt
  · obtain rfl : i = j := Fin.ext heq
    exact ⟨finishOf_self _, finishOf_self _⟩
  · have hplace : finishPlace (finishOrder.get (i.cast rfl)) < finishPlace (finishOrder.get (j.cast rfl)) := by
      rw [finishPlace_finishOrder, finishPlace_finishOrder]
      exact Nat.succ_lt_succ hlt
    exact ⟨finishOf_eq_left (Nat.le_of_lt hplace), finishOf_eq_right hplace⟩

end Sys2Proof.Machine
end

section
/-! PROOFS. The generation of a slot (R11): of the parts of `freeReq` only `bumpSlot` writes the table of generations, and none
changes the device ID that it compares with a baton's home. -/

namespace Sys2Proof.Machine

open Sys2Proof

/-! ### What `bumpSlot` reads, and the updates that leave it alone -/

/-- The parts of the state that decide and hold a slot's generation: the table, and MPL with the device ID. -/
def genView (s : State) : Tbl (BitVec 16) × Mpl := (s.slotGen, s.mpl)

/-- What each step of a fold leaves alone, the fold leaves alone. -/
theorem foldl_keeps {α β : Type} (p : State → β) (f : State → α → State) (h : ∀ s x, p (f s x) = p s) (xs : List α) (s : State) :
    p (xs.foldl f s) = p s := by
  induction xs generalizing s with
  | nil => rfl
  | cons x xs ih => exact (ih (f s x)).trans (h s x)

variable (s : State)

@[simp] theorem modLane_genView (n : LaneNo) (f : Lane → Lane) : genView (modLane s n f) = genView s := rfl
@[simp] theorem modReq_genView (b : BatonId) (f : Req → Req) : genView (modReq s b f) = genView s := rfl
@[simp] theorem dropReq_genView (b : BatonId) : genView (dropReq s b) = genView s := rfl
@[simp] theorem dropLeg_genView (i : Nat) : genView (dropLeg s i) = genView s := rfl
@[simp] theorem stpGive_genView (n : Nat) : genView (stpGive s n) = genView s := rfl
@[simp] theorem ungrant_genView (n : LaneNo) (a b : Nat) : genView (ungrant s n a b) = genView s := rfl
@[simp] theorem dropStaleFetches_genView (b : BatonId) : genView (dropStaleFetches s b) = genView s := rfl
@[simp] theorem dirChange_genView (n : LaneNo) (add : Bool) (b : BatonId) : genView (dirChange s n add b) = genView s := rfl

@[simp] theorem complete_genView (h : HostHdr) (op : Byte) (c : Finish) : genView (complete s h op c) = genView s := by
  simp [genView]
@[simp] theorem completeB_genView (h : HostHdr) (op : Byte) (c : Finish) (r : Byte) (ws : List Word) :
    genView (completeB s h op c r ws) = genView s := by
  simp [genView]

/-! ### Pages and slots -/

@[simp] theorem freeSlot_genView (n : LaneNo) (k : Nat) : genView (freeSlot s n k) = genView s := modLane_genView ..
@[simp] theorem freeCell_genView (n : LaneNo) (k : Nat) : genView (freeCell s n k) = genView s := modLane_genView ..

@[simp] theorem freeSlots_genView (n : LaneNo) (ks : List Nat) : genView (freeSlots s n ks) = genView s := by
  unfold freeSlots
  exact foldl_keeps genView _ (fun s k => freeSlot_genView s n k) ks s

@[simp] theorem freeEnt_genView (n : LaneNo) (e : PageEnt) : genView (freeEnt s n e) = genView s := by
  unfold freeEnt
  dsimp only
  split
  · rw [foldl_keeps genView _ fun s k => freeCell_genView s n k, freeSlots_genView]
  · exact freeSlots_genView ..

@[simp] theorem freeHbm_genView (b : BatonId) : genView (freeHbm s b) = genView s := by
  unfold freeHbm
  split
  · rfl
  · split
    · exact foldl_keeps genView _ (fun s e => freeEnt_genView s _ e) _ s
    · rfl

@[simp] theorem freeTier_genView (b : BatonId) : genView (freeTier s b) = genView s := by
  unfold freeTier
  split
  · rfl
  · split <;> rfl

@[simp] theorem freePages_genView (b : BatonId) : genView (freePages s b) = genView s := by
  simp [freePages]

/-! ### Commands, audits and queues -/

@[simp] theorem completeCmd_genView (b : BatonId) (op : Byte) (h : HostHdr) (c : Finish) :
    genView (completeCmd s b op h c) = genView s := by
  unfold completeCmd
  split
  · exact completeB_genView ..
  · exact complete_genView ..

@[simp] theorem completeEach_genView (b : BatonId) (xs : List (Byte × HostHdr)) (c : Finish) :
    genView (completeEach s b xs c) = genView s := by
  unfold completeEach
  exact foldl_keeps genView _ (fun s x => completeCmd_genView s b x.1 x.2 c) xs s

@[simp] theorem endCmds_genView (b : BatonId) (c : Finish) : genView (endCmds s b c) = genView s := by
  unfold endCmds
  split
  · rfl
  · exact (completeEach_genView ..).trans (modReq_genView ..)

@[simp] theorem dropReplayLegs_genView (b : BatonId) : genView (dropReplayLegs s b) = genView s := by
  unfold dropReplayLegs
  refine foldl_keeps genView _ (fun s g => ?_) _ s
  exact foldl_keeps genView _ (fun s p => ungrant_genView s g.dstLane p.reserveGr p.sharedGr) g.pages s

@[simp] theorem endAudit_genView (b : BatonId) (c : Finish) : genView (endAudit s b c) = genView s := by
  unfold endAudit
  split
  · rfl
  · split
    · rfl
    · rw [completeB_genView, freeSlots_genView]
      exact dropReplayLegs_genView s b

@[simp] theorem unqueue_genView (b : BatonId) : genView (unqueue s b) = genView s := by
  unfold unqueue
  split
  · rfl
  · split
    · rfl
    · exact modLane_genView ..

/-! ### A request leaves -/

/-- A request that is here leaves by `bumpSlot` on a state without it that holds the generations as they were. -/
theorem freeReq_eq_bumpSlot {s : State} {b : BatonId} {r : Req} (h : findReq s b = some r) (code : Finish) :
    ∃ u, freeReq s b code = bumpSlot (dropReq u b) b ∧ genView u = genView s := by
  have hqueues : genView (unqueue (endCmds (endAudit s b .discarded) b code) b) = genView s := by
    rw [unqueue_genView, endCmds_genView, endAudit_genView]
  unfold freeReq
  simp only [h]
  refine ⟨_, rfl, ?_⟩
  rw [stpGive_genView, freePages_genView]
  split
  · split
    · rw [dirChange_genView, hqueues]
    · exact hqueues
  · exact hqueues

theorem findReq_dropReq (b : BatonId) : findReq (dropReq s b) b = none := by
  simp [findReq]

@[simp] theorem bumpSlot_reqs (b : BatonId) : (bumpSlot s b).reqs = s.reqs := by
  unfold bumpSlot
  split <;> rfl

@[simp] theorem findReq_bumpSlot (b c : BatonId) : findReq (bumpSlot s b) c = findReq s c := by
  simp [findReq]

theorem bumpSlot_slotGen_current {s : State} {b : BatonId} (hhome : batonHome b = s.mpl.devId)
    (hgen : tblGetD s.slotGen (batonSlot b) 0 = batonGen b) :
    (bumpSlot s b).slotGen = tblSet s.slotGen (batonSlot b) (batonGen b + 1) := by
  unfold bumpSlot
  rw [hhome, hgen, if_pos (by simp)]

theorem bumpSlot_earlier {s : State} {b : BatonId} (hgen : tblGetD s.slotGen (batonSlot b) 0 ≠ batonGen b) :
    bumpSlot s b = s := by
  unfold bumpSlot
  rw [beq_false_of_ne hgen, Bool.and_false, if_neg Bool.false_ne_true]

/-- R10: the generation is the low field of a baton ID. -/
@[simp] theorem batonGen_mkBaton (d : DevId) (t : Tenant) (slot : Nat) (g : BitVec 16) : batonGen (mkBaton d t slot g) = g := by
  unfold batonGen mkBaton
  ext i hi
  rw [BitVec.getElem_extractLsb', Nat.zero_add, BitVec.getLsbD_append, if_pos hi, BitVec.getLsbD_eq_getElem hi]

/-- Settles O58: `freeReq` ends in `bumpSlot`, and nothing before it touches what `bumpSlot` compares. The moment of the advance,
when the baton leaves the device, is the model's choice (log 25). -/
theorem generationAdvances : Obligations.GenerationAdvances := by
  intro s b r code hreq hhome
  obtain ⟨u, hfree, hview⟩ := freeReq_eq_bumpSlot hreq code
  obtain ⟨hslotGen, hmpl⟩ : u.slotGen = s.slotGen ∧ u.mpl = s.mpl := Prod.mk.inj hview
  rw [hfree]
  refine ⟨(findReq_bumpSlot ..).trans (findReq_dropReq u b), fun hgen => ?_, fun hgen => ?_⟩
  · have hnext : tblGetD (bumpSlot (dropReq u b) b).slotGen (batonSlot b) 0 = batonGen b + 1 := by
      rw [bumpSlot_slotGen_current (by simpa [hmpl] using hhome) (by simpa [hslotGen] using hgen), tblGetD_tblSet_self]
    refine ⟨hnext, fun hmax => ?_, fun t => ?_⟩
    · rw [hnext, hmax]
      decide
    · rw [hnext, batonGen_mkBaton]
  · rw [bumpSlot_earlier (by simpa [hslotGen] using hgen), dropReq_slotGen, hslotGen]

end Sys2Proof.Machine
end

section
/-! PROOFS. Sending: what frames, and the clearance of a leg's pages, leave of the state. -/

namespace Sys2Proof.Machine

open Sys2Proof

/-- The state with Track, the Pacer, BTN's legs and the exchange zone blank: what forming and sending frames, and clearing a leg's
pages, do not reach. -/
def sansTransport (s : State) : State :=
  { s with te := State.reset.te, pac := State.reset.pac, btn := State.reset.btn, xz := State.reset.xz }

/-! ### Frames -/

theorem enqueue_sansTransport {s t : State} {port : Nat} {f : TxFrame} (h : enqueue s port f = some t) :
    sansTransport t = sansTransport s := by
  simp only [enqueue] at h
  split at h <;> cases h
  rfl

theorem sendOn_sansTransport {s t : State} {table rot r : Nat} {f g : TxFrame} (h : sendOn s table rot f = some (t, g, r)) :
    sansTransport t = sansTransport s := by
  simp only [sendOn] at h
  (repeat' split at h) <;> cases h
  exact enqueue_sansTransport ‹_›

theorem formSys_sansTransport {s t : State} {d : DevId} {leg : Bool} (h : formSys s d leg = some t) :
    sansTransport t = sansTransport s := by
  simp only [formSys] at h
  (repeat' split at h) <;> cases h
  all_goals exact (sendOn_sansTransport ‹_› :)

theorem resendSys_sansTransport {s t : State} {d : DevId} {psn : Word} (h : resendSys s d psn = some t) :
    sansTransport t = sansTransport s := by
  simp only [resendSys] at h
  (repeat' split at h) <;> cases h
  all_goals exact (sendOn_sansTransport ‹_› :)

theorem formOne_sansTransport {s t : State} {q : Nat} (h : formOne s q = some t) : sansTransport t = sansTransport s := by
  simp only [formOne] at h
  (repeat' split at h) <;> cases h
  exact (sendOn_sansTransport ‹_› :)

theorem resendSq_sansTransport {s t : State} {q : Nat} {psn : Word} (h : resendSq s q psn = some t) :
    sansTransport t = sansTransport s := by
  simp only [resendSq] at h
  (repeat' split at h) <;> cases h
  exact (sendOn_sansTransport ‹_› :)

theorem resendNext_sansTransport {s t : State} {q : Nat} (h : resendNext s q = some t) : sansTransport t = sansTransport s := by
  simp only [resendNext] at h
  (repeat' split at h) <;> try cases h
  · obtain ⟨u, hu, rfl⟩ := Option.map_eq_some_iff.1 h
    exact (resendSq_sansTransport hu :)
  · obtain ⟨u, hu, rfl⟩ := Option.map_eq_some_iff.1 h
    exact (resendSq_sansTransport hu :)
  · rfl

theorem trySend_sansTransport {s t : State} {x : Option Nat × TxFrame} (h : trySend s x = some t) :
    sansTransport t = sansTransport s := by
  unfold trySend at h
  (repeat' split at h)
  · exact enqueue_sansTransport h
  · cases h
  · cases h
    exact (sendOn_sansTransport ‹_› :)
  · cases h

@[simp] theorem pumpSq_sansTransport (s : State) (q n : Nat) : sansTransport (pumpSq s q n) = sansTransport s := by
  induction n generalizing s with
  | zero => rfl
  | succ n ih =>
    unfold pumpSq
    cases hresend : resendNext s q with
    | some t => exact (ih t).trans (resendNext_sansTransport hresend)
    | none =>
      cases hform : formOne s q with
      | some t => exact (ih t).trans (formOne_sansTransport hform)
      | none => rfl

theorem formAll_sansTransport (s : State) (d : DevId) (leg : Bool) (n : Nat) :
    sansTransport (formAll s d leg n) = sansTransport s := by
  induction n generalizing s with
  | zero => rfl
  | succ n ih =>
    unfold formAll
    split
    · next h => rw [ih, formSys_sansTransport h]
    · rfl

theorem resendWaiting_sansTransport (s : State) (d : DevId) (leg : Bool) :
    sansTransport (resendWaiting s d leg) = sansTransport s := by
  unfold resendWaiting
  split
  · rfl
  · refine foldl_keeps sansTransport _ (fun s psn => ?_) _ _
    split
    · next h => exact (resendSys_sansTransport h :)
    · rfl

theorem pumpSys_sansTransport (s : State) (d : DevId) (leg : Bool) (n : Nat) :
    sansTransport (pumpSys s d leg n) = sansTransport s := by
  rw [pumpSys, formAll_sansTransport, resendWaiting_sansTransport]

/-- What each turn leaves alone in the state that a fold carries beside other results, the fold leaves alone. -/
theorem foldl_fst_keeps {α β γ : Type} (p : State → γ) (f : State × β → α → State × β) (h : ∀ y x, p (f y x).1 = p y.1) (xs : List α)
    (y : State × β) : p (xs.foldl f y).1 = p y.1 := by
  induction xs generalizing y with
  | nil => rfl
  | cons x xs ih => exact (ih (f y x)).trans (h y x)

theorem pumpLoose_sansTransport (s : State) : sansTransport (pumpLoose s) = sansTransport s := by
  refine foldl_fst_keeps sansTransport _ (fun y x => ?_) _ _
  split
  · next h => exact trySend_sansTransport h
  · rfl

theorem pumpAll_sansTransport (s : State) : sansTransport (pumpAll s) = sansTransport s := by
  have hsys : ∀ (s : State) (e : Nat × SysTx),
      sansTransport (pumpSys (pumpSys s (BitVec.ofNat 20 e.1) false 4096) (BitVec.ofNat 20 e.1) true 4096) = sansTransport s :=
    fun s e => (pumpSys_sansTransport ..).trans (pumpSys_sansTransport ..)
  unfold pumpAll
  exact (foldl_keeps sansTransport _ (fun s _ => pumpSq_sansTransport s _ _) _ _).trans
    ((foldl_keeps sansTransport _ hsys _ _).trans (pumpLoose_sansTransport s))

theorem sendLoose_sansTransport (s : State) (port : Option Nat) (f : TxFrame) :
    sansTransport (sendLoose s port f) = sansTransport s :=
  pumpLoose_sansTransport _

theorem sysGive_sansTransport (s : State) (f : TxFrame) : sansTransport (sysGive s f) = sansTransport s := by
  unfold sysGive
  split
  · exact pumpSys_sansTransport ..
  · split
    · exact pumpSys_sansTransport ..
    · rfl

theorem sysSendF_sansTransport (s : State) (dst : DevId) (op : Byte) (flags : BitVec 16) (aux : Word) (addr : BitVec 64)
    (bs : List Byte) : sansTransport (sysSendF s dst op flags aux addr bs) = sansTransport s :=
  sysGive_sansTransport ..

theorem sysSend_sansTransport (s : State) (dst : DevId) (op : Byte) (aux : Word) (addr : BitVec 64) (bs : List Byte) :
    sansTransport (sysSend s dst op aux addr bs) = sansTransport s :=
  sysGive_sansTransport ..

theorem closeSysTx_sansTransport (s : State) (d : DevId) : sansTransport (closeSysTx s d) = sansTransport s := by
  unfold closeSysTx
  split
  · rfl
  · exact foldl_keeps sansTransport _ (fun s f => sysGive_sansTransport s f) _ _

/-! ### Clearance -/

theorem btnMsg_sansTransport (s : State) (dst : DevId) (leg : LegId) (kind : Nat) (ws : List Word) :
    sansTransport (btnMsg s dst leg kind ws) = sansTransport s :=
  sysSend_sansTransport ..

theorem legMsg_sansTransport (s : State) (g : Leg) (kind a b c : Nat) : sansTransport (legMsg s g kind a b c) = sansTransport s := by
  unfold legMsg
  split
  · rfl
  · exact btnMsg_sansTransport ..

theorem clearPage_sansTransport (s : State) (g : Leg) (k a b : Nat) : sansTransport (clearPage s g k a b) = sansTransport s :=
  legMsg_sansTransport ..

theorem grant_sansTransport {s t : State} {n : LaneNo} {g a b : Nat} (h : grant s n g = some (t, a, b)) :
    sansTransport t = sansTransport s := by
  simp only [grant] at h
  split at h <;> cases h
  rfl

theorem clearLeg_sansTransport (fuel : Nat) (s : State) (i : Nat) : sansTransport (clearLeg fuel s i) = sansTransport s := by
  induction fuel generalizing s with
  | zero => rfl
  | succ fuel ih =>
    simp only [clearLeg]
    (repeat' split) <;> try rfl
    · rw [ih, clearPage_sansTransport]
    · next h => rw [ih, clearPage_sansTransport, grant_sansTransport h]

theorem testWaiting_sansTransport (s : State) (blocked : List LaneNo) (ws : List XzWait) :
    sansTransport (testWaiting s blocked ws).1 = sansTransport s := by
  induction ws generalizing s blocked with
  | nil => rfl
  | cons w ws ih =>
    unfold testWaiting
    split
    · exact ih ..
    · split
      · exact ih ..
      · split
        · next h => exact (ih ..).trans ((clearPage_sansTransport ..).trans (grant_sansTransport h :))
        · exact ih ..

theorem retest_sansTransport (s : State) : sansTransport (retest s) = sansTransport s := by
  unfold retest
  rw [foldl_keeps sansTransport _ fun s i => clearLeg_sansTransport 65536 s i, testWaiting_sansTransport]



theorem reqs_of_sansTransport {s t : State} (h : sansTransport t = sansTransport s) : t.reqs = s.reqs :=
  (congrArg State.reqs h :)

end Sys2Proof.Machine
end

section
/-! PROOFS. Commands on requests (R24, R380): where they wait, who is refused, and what a cancel, a release and an extend do when they are
applied. -/

namespace Sys2Proof.Machine

open Sys2Proof

/-! ### A request under the operations on requests -/

theorem findReq_eq_of_reqs {s t : State} (h : t.reqs = s.reqs) (b : BatonId) : findReq t b = findReq s b := by
  rw [findReq, findReq, h]

theorem findReq_id {s : State} {b : BatonId} {r : Req} (h : findReq s b = some r) : r.id = b := by
  simpa using List.find?_some h

theorem findReq_modReq {f : Req → Req} (hid : ∀ r, (f r).id = r.id) (s : State) (b k : BatonId) :
    findReq (modReq s b f) k = (findReq s k).map fun r => if r.id = b then f r else r := by
  have hkey : ((fun r : Req => r.id == k) ∘ fun r => if r.id = b then f r else r) = fun r => r.id == k := by
    funext r
    by_cases hr : r.id = b <;> simp [hr, hid]
  rw [findReq, modReq_reqs, List.find?_map, hkey, findReq]

/-- The request that a baton names, after a change that keeps its ID. -/
theorem findReq_modReq_self {f : Req → Req} (hid : ∀ r, (f r).id = r.id) {s : State} {b : BatonId} {r : Req}
    (h : findReq s b = some r) : findReq (modReq s b f) b = some (f r) := by
  rw [findReq_modReq hid, h, Option.map_some, if_pos (findReq_id h)]

theorem findReq_complete (s : State) (h : HostHdr) (op : Byte) (c : Finish) (b : BatonId) :
    findReq (complete s h op c) b = findReq s b :=
  findReq_eq_of_reqs (complete_reqs ..) b

theorem findReq_retest (s : State) (b : BatonId) : findReq (retest s) b = findReq s b :=
  findReq_eq_of_reqs (reqs_of_sansTransport (retest_sansTransport s)) b

theorem findReq_freeReq (s : State) (b : BatonId) (code : Finish) : findReq (freeReq s b code) b = none := by
  cases h : findReq s b with
  | none => simp only [freeReq, h]
  | some r =>
    obtain ⟨u, hfree, -⟩ := freeReq_eq_bumpSlot h code
    rw [hfree, findReq_bumpSlot, findReq_dropReq]

/-! ### What a cancel marks and keeps of a request (R170) -/

/-- The marks of a cancel, the log and the pages. -/
def cancelView (r : Req) : Bool × Bool × List Word × List PageEnt := (r.cancelled, r.strm.closed, r.log, r.pages)

theorem pushEntry_id (r : Req) (e : RingEnt) : (pushEntry r e).id = r.id := by
  unfold pushEntry
  split <;> rfl

theorem pushEntry_log (r : Req) (e : RingEnt) : (pushEntry r e).log = r.log := by
  unfold pushEntry
  split <;> rfl

theorem pushEntry_pages (r : Req) (e : RingEnt) : (pushEntry r e).pages = r.pages := by
  unfold pushEntry
  split <;> rfl

theorem putEntry_closed (here : Bool) (st : Stream) (e : RingEnt) : (putEntry here st e).closed = st.closed := by
  unfold putEntry
  dsimp only
  split <;> rfl

theorem drainWindow_closed (here : Bool) (lap : Word) (st : Stream) (es : List RingEnt) :
    (drainWindow here lap st es).2.closed = st.closed := by
  induction es generalizing st with
  | nil => rfl
  | cons e es ih =>
    unfold drainWindow
    split
    · exact (ih _).trans (putEntry_closed ..)
    · rfl

theorem readCons_closed (s : State) (st : Stream) : (readCons s st).1.closed = st.closed := by
  unfold readCons
  split <;> rfl

theorem readCons_reqs (s : State) (st : Stream) : (readCons s st).2.reqs = s.reqs := by
  unfold readCons
  split <;> rfl

theorem sendEntries_reqs (s : State) (st : Stream) (xs : List (BitVec 64 × List Word)) (irq : Bool) :
    (sendEntries s st xs irq).reqs = s.reqs := by
  unfold sendEntries
  dsimp only
  split
  · split
    · rw [msix_reqs, emitAll_reqs]
    · rfl
  · split
    · rfl
    · exact reqs_of_sansTransport (sysSend_sansTransport ..)

theorem findReq_sendEntries {s u : State} {b : BatonId} {r : Req} (hu : u.reqs = s.reqs) (h : findReq s b = some r)
    (st st' : Stream) (xs : List (BitVec 64 × List Word)) (irq : Bool) :
    findReq (sendEntries (modReq u b fun r => { r with strm := st }) st' xs irq) b = some { r with strm := st } := by
  rw [findReq_eq_of_reqs (sendEntries_reqs ..), findReq_modReq_self fun _ => by rfl]
  exact (findReq_eq_of_reqs hu b).trans h

/-- SRG's turn for a ring changes only the stream of its request, and never closes nor opens it. -/
theorem findReq_flushRing {s : State} {b : BatonId} {r : Req} (h : findReq s b = some r) :
    ∃ st, findReq (flushRing s b) b = some { r with strm := st } ∧ st.closed = r.strm.closed := by
  unfold flushRing
  simp only [h]
  split
  · exact ⟨r.strm, h, rfl⟩
  · refine ⟨_, findReq_sendEntries ?_ h .., ?_⟩
    · split
      · rfl
      · exact readCons_reqs ..
    · split <;> split <;> simp only [drainWindow_closed, readCons_closed]

theorem cancelView_finalCpl (s : State) (r : Req) (code : Finish) (reason : Byte) (pos : Nat) (b : BatonId) :
    (findReq (finalCpl s r code reason pos) b).map cancelView = (findReq s b).map cancelView := by
  unfold finalCpl
  split
  · rw [findReq_eq_of_reqs (postCpl_reqs ..), findReq_modReq fun _ => by rfl, Option.map_map]
    congr 1
    funext q
    simp only [Function.comp]
    split <;> rfl
  · rfl

theorem findReq_applyCancel {s : State} {b : BatonId} {r : Req} (h : HostHdr) (hreq : findReq s b = some r)
    (hend : r.endReason = 0) (hopen : r.cancelled = false) :
    (findReq (applyCancel s b r h) b).map cancelView = some (true, true, r.log, r.pages) := by
  have hmark : ∀ f : Req → Req, (∀ q, (f q).id = q.id) → cancelView (f r) = (true, true, r.log, r.pages) →
      (findReq (complete (flushRing (modReq s b f) b) h 0x04 .cancelledDropped) b).map cancelView
        = some (true, true, r.log, r.pages) := by
    intro f hid hview
    obtain ⟨st, hfind, hclosed⟩ := findReq_flushRing (findReq_modReq_self hid hreq)
    rw [findReq_complete, hfind, ← hview, Option.map_some, cancelView, hclosed]
    rfl
  unfold applyCancel
  rw [if_neg (by simp [hend, hopen])]
  dsimp only
  split
  · rw [cancelView_finalCpl]
    exact hmark _ (fun q => pushEntry_id ..) (by simp [cancelView, pushEntry_log, pushEntry_pages])
  · exact hmark _ (fun q => pushEntry_id ..) (by simp [cancelView, pushEntry_log, pushEntry_pages])

/-! ### Commands on requests (R24, R380) -/

/-- A command for another tenant's baton is refused. -/
theorem queueCmd_foreign {s : State} {h : HostHdr} {b : BatonId} (c : ReqCmd) (absent : State → State)
    (ht : batonTenant b ≠ h.tenant) : queueCmd s h b c absent = completeCmd s b (cmdOp c) h .refused :=
  if_pos ht

/-- A command for a baton that is neither here nor on its way here. -/
theorem queueCmd_absent {s : State} {h : HostHdr} {b : BatonId} (c : ReqCmd) (absent : State → State)
    (ht : batonTenant b = h.tenant) (hreq : findReq s b = none) (hpull : (s.btn.pulls.any fun p => p.baton == b) = false) :
    queueCmd s h b c absent = absent s := by
  simp only [queueCmd, ne_eq, ht, not_true_eq_false, if_false, hreq, hpull, Bool.false_eq_true]

/-- A command that does not act at once joins the request's queue. -/
theorem queueCmd_queued {s : State} {h : HostHdr} {b : BatonId} {r : Req} (c : ReqCmd) (absent : State → State)
    (ht : batonTenant b = h.tenant) (hreq : findReq s b = some r) (hwait : atOnce s r c = false) :
    queueCmd s h b c absent = modReq s b fun r => { r with cmds := r.cmds ++ [(c, s.clk.now)] } := by
  simp only [queueCmd, ne_eq, ht, not_true_eq_false, if_false, hreq, hwait, Bool.false_eq_true]

/-- No command acts at once on a request whose lane runs. -/
theorem atOnce_eq_false {s : State} {r : Req} (c : ReqCmd) (h : laneHalted s r = false) : atOnce s r c = false := by
  cases c <;> simp [atOnce, h]

theorem findReq_applyRelease {s : State} {b : BatonId} {r : Req} (h : HostHdr) (hrest : resting r = true) (hlost : r.lost = none) :
    findReq (applyRelease s b r h) b = none := by
  simp only [applyRelease, hlost, hrest, Bool.true_or, if_true]
  rw [findReq_retest, findReq_complete, findReq_freeReq]

/-- An extend that is taken puts its tokens behind the request's and the lane's pre-emption work. -/
theorem applyExtend_taken {s : State} {b : BatonId} {r : Req} {n : LaneNo} {ts : List Word} (h : HostHdr) (since : Nat)
    (hphase : r.phase = .generation) (hend : r.endReason = 0) (hpark : r.parkNext = false) (hlost : r.lost = none)
    (hok : tokensOk s r ts 0 = true) (hlane : r.lane = some n) :
    applyExtend s b r h ts since =
      modLane (modReq s b fun r => { r with extQ := r.extQ ++ ts, extCmds := r.extCmds ++ [(h, ts.length)] }) n
        fun l => { l with st := { l.st with preemptQ := l.st.preemptQ ++ [(b, ts.length, since)] } } := by
  simp [applyExtend, hphase, hend, hpark, hlost, hok, hlane]

/-- A served command joins the queue of a request that runs. -/
theorem hostCmd_queued {s : State} {h : HostHdr} {b : BatonId} {r : Req} {op : Byte} (c : ReqCmd) (absent : State → State)
    (hs : HostServed s h false) (ht : batonTenant b = h.tenant) (hreq : findReq s b = some r) (hlane : laneHalted s r = false) :
    hostCmd s h op false (fun s => queueCmd s h b c absent) =
      modReq (fetched s h) b fun r => { r with cmds := r.cmds ++ [(c, s.clk.now)] } := by
  rw [hostCmd_served hs]
  exact queueCmd_queued c absent ht hreq (atOnce_eq_false c hlane)

/-- Settles O3: a served command comes to `queueCmd`, whose branches give the queueing and the refusals; what it does at its
boundary is `applyCancel`, `applyRelease` and `applyExtend`. That a command on another tenant's baton is REFUSED is the model's choice,
and so is what a cancel of a PARKING baton does (log 58). -/
theorem requestCommands : Obligations.RequestCommands := by
  refine ⟨fun s h b r hs ht hreq hlane => ?_, fun s h b => ⟨fun hs ht hreq hpull => ?_, fun hs ht => ?_, fun r hreq => ?_⟩⟩
  · have hqueued := fun op c absent => hostCmd_queued (op := op) c absent hs ht hreq hlane
    exact ⟨congrArg _ (hqueued ..), fun _ _ => congrArg _ (hqueued ..), congrArg _ (hqueued ..), congrArg _ (hqueued ..),
      fun _ => congrArg _ (hqueued ..)⟩
  · have habsent : ∀ (op : Byte) (c : ReqCmd) (absent : State → State),
        hostCmd s h op false (fun s => queueCmd s h b c absent) = absent (fetched s h) :=
      fun op c absent => (hostCmd_served hs).trans (queueCmd_absent c absent ht hreq hpull)
    exact ⟨congrArg _ (habsent ..), congrArg _ (habsent ..), congrArg _ (habsent ..), fun _ => congrArg _ (habsent ..)⟩
  · have hforeign : ∀ (op : Byte) (c : ReqCmd) (absent : State → State),
        hostCmd s h op false (fun s => queueCmd s h b c absent) = completeCmd (fetched s h) b (cmdOp c) h .refused :=
      fun op c absent => (hostCmd_served hs).trans (queueCmd_foreign c absent ht)
    exact ⟨congrArg _ (hforeign ..), fun _ _ => congrArg _ (hforeign ..), congrArg _ (hforeign ..), congrArg _ (hforeign ..),
      fun _ => congrArg _ (hforeign ..)⟩
  · refine ⟨fun hend hopen => ?_, findReq_applyRelease h, fun ts t n hphase hend hpark hlost hok hlane => ?_⟩
    · obtain ⟨q, hfind, hview⟩ := Option.map_eq_some_iff.1 (findReq_applyCancel h hreq hend hopen)
      simp only [cancelView, Prod.mk.injEq] at hview
      exact ⟨q, hfind, hview⟩
    · rw [applyExtend_taken h t hphase hend hpark hlost hok hlane]
      exact ⟨_, (findReq_eq_of_reqs (modLane_reqs ..) b).trans (findReq_modReq_self (fun _ => by rfl) hreq), rfl, rfl,
        congrArg (fun l : Lane => l.st.preemptQ) (laneOf_modLane_self ..)⟩

end Sys2Proof.Machine
end

section
/-! PROOFS. The queue of commands (log 1): no operation of the model reaches it, so a step leaves what waits behind the command it
takes. One lemma a function, in the order of the model's files; a function that answers an `Option` has one about what it answers.
`(rfl)` in place of `rfl` keeps a lemma a rewriting rule, which `foldl_pending` needs for its side condition. -/

namespace Sys2Proof.Machine

open Sys2Proof

/-- A command's answer, where it is a next state, has the queue of the state it ran in. -/
def QueueKept (s : State) (r : Res) : Prop := ∀ t, r = .next t → t.pending = s.pending

@[simp] theorem queueKept_next (s t : State) : QueueKept s (.next t) ↔ t.pending = s.pending := by
  simp [QueueKept]

theorem pending_of_sansTransport {s t : State} (h : sansTransport t = sansTransport s) : t.pending = s.pending :=
  (congrArg State.pending h :)

@[simp] theorem ite_pending (c : Prop) [Decidable c] (s t : State) :
    (if c then s else t).pending = if c then s.pending else t.pending :=
  apply_ite ..

@[simp] theorem foldl_pending {α : Type} (f : State → α → State) (xs : List α) (s : State)
    (h : ∀ s x, (f s x).pending = s.pending) : (xs.foldl f s).pending = s.pending :=
  foldl_keeps State.pending f h xs s

/-! ### Machine/Ops -/

@[simp] theorem raiseArith_pending (s n fl) : (raiseArith s n fl).pending = s.pending := by simp [raiseArith]
@[simp] theorem deliverCpl_pending (s x) : (deliverCpl s x).pending = s.pending := by simp [deliverCpl]
@[simp] theorem completeAll_pending (s hs op code) : (completeAll s hs op code).pending = s.pending := by simp [completeAll]

@[simp] theorem hostCmd_pending (s h op pfOnly serve) (hserve : ∀ u, (serve u).pending = u.pending) :
    (hostCmd s h op pfOnly serve).pending = s.pending := by
  unfold hostCmd
  dsimp only
  (repeat' split) <;> simp [hserve]

theorem hostCmd_queueKept {s : State} {h : HostHdr} {op : Byte} {pf : Bool} {serve : State → State}
    (hserve : ∀ u, (serve u).pending = u.pending) : QueueKept s (.next (hostCmd s h op pf serve)) :=
  (queueKept_next ..).2 (hostCmd_pending _ _ _ _ _ hserve)

@[simp] theorem drivePin_pending (s p low) : (drivePin s p low).pending = s.pending := (rfl)

/-! ### Machine/Wire -/

@[simp] theorem pumpLoose_pending (s) : (pumpLoose s).pending = s.pending := pending_of_sansTransport (pumpLoose_sansTransport ..)

@[simp] theorem sendLoose_pending (s port f) : (sendLoose s port f).pending = s.pending :=
  pending_of_sansTransport (sendLoose_sansTransport ..)

@[simp] theorem countRetx_pending (s) : (countRetx s).pending = s.pending := (rfl)
@[simp] theorem countPf_pending (s) : (countPf s).pending = s.pending := (rfl)
@[simp] theorem pumpSq_pending (s q n) : (pumpSq s q n).pending = s.pending := pending_of_sansTransport (pumpSq_sansTransport ..)

@[simp] theorem resendWaiting_pending (s d leg) : (resendWaiting s d leg).pending = s.pending :=
  pending_of_sansTransport (resendWaiting_sansTransport ..)

@[simp] theorem formAll_pending (s d leg n) : (formAll s d leg n).pending = s.pending :=
  pending_of_sansTransport (formAll_sansTransport ..)

@[simp] theorem pumpSys_pending (s d leg n) : (pumpSys s d leg n).pending = s.pending :=
  pending_of_sansTransport (pumpSys_sansTransport ..)

@[simp] theorem sysGive_pending (s f) : (sysGive s f).pending = s.pending := pending_of_sansTransport (sysGive_sansTransport ..)

@[simp] theorem sysSendF_pending (s dst op flags aux addr payload) :
    (sysSendF s dst op flags aux addr payload).pending = s.pending :=
  pending_of_sansTransport (sysSendF_sansTransport ..)

@[simp] theorem closeSysTx_pending (s d) : (closeSysTx s d).pending = s.pending :=
  pending_of_sansTransport (closeSysTx_sansTransport ..)

@[simp] theorem sysSend_pending (s dst op aux addr payload) : (sysSend s dst op aux addr payload).pending = s.pending :=
  pending_of_sansTransport (sysSend_sansTransport ..)

@[simp] theorem pumpAll_pending (s) : (pumpAll s).pending = s.pending := pending_of_sansTransport (pumpAll_sansTransport ..)

/-! ### Machine/MarLog -/

@[simp] theorem marSend_pending (s dst m entry) : (marSend s dst m entry).pending = s.pending := by simp [marSend]

@[simp] theorem marLog_pending (s ev lane subject core detail) : (marLog s ev lane subject core detail).pending = s.pending := by
  simp [marLog]

@[simp] theorem fatalError_pending (s) : (fatalError s).pending = s.pending := by simp [fatalError]
@[simp] theorem reportFreeRun_pending (s) : (reportFreeRun s).pending = s.pending := by simp [reportFreeRun]
@[simp] theorem setSource_pending (s src) : (setSource s src).pending = s.pending := by simp [setSource]

/-! ### Machine/BibOps -/

@[simp] theorem endBatch_pending (s b code failing) : (endBatch s b code failing).pending = s.pending := by simp [endBatch]

@[simp] theorem bibBoundary_pending (s) : (bibBoundary s).pending = s.pending := by
  unfold bibBoundary
  dsimp only
  (repeat' split) <;> simp

@[simp] theorem lookupCpl_pending (s h gen code hit pos addr result) :
    (lookupCpl s h gen code hit pos addr result).pending = s.pending := by
  simp [lookupCpl]

@[simp] theorem ringDropped_pending (s) : (ringDropped s).pending = s.pending := (rfl)
@[simp] theorem dropHeld_pending (s) : (dropHeld s).pending = s.pending := by unfold dropHeld; split <;> simp
@[simp] theorem pumpRing_pending (s) : (pumpRing s).pending = s.pending := by unfold pumpRing; dsimp only; (repeat' split) <;> simp
@[simp] theorem cascade_pending (s q p i) : (cascade s q p i).pending = s.pending := by simp [cascade]
@[simp] theorem lookup_pending (s q) : (lookup s q).2.pending = s.pending := by unfold lookup; (repeat' split) <;> simp

@[simp] theorem answerLookup_pending (s h gen r) : (answerLookup s h gen r).pending = s.pending := by
  unfold answerLookup
  split <;> simp

@[simp] theorem forwardPacket_pending (s p) : (forwardPacket s p).pending = s.pending := by simp [forwardPacket]

@[simp] theorem bibReset_pending (s) : (bibReset s).pending = s.pending := by
  unfold bibReset
  grind [foldl_pending, completeB_pending, answerLookup_pending]

/-! ### Machine/Bib -/

@[simp] theorem execBibUpdate_queueKept (h part records s) : QueueKept s (execBibUpdate h part records s) := by
  refine hostCmd_queueKept fun s => ?_
  dsimp only
  (repeat' split) <;> simp

@[simp] theorem execBibLookup_queueKept (h part key s) : QueueKept s (execBibLookup h part key s) := by
  refine hostCmd_queueKept fun s => ?_
  (repeat' split) <;> grind [answerLookup_pending, lookup_pending]

@[simp] theorem execBibEngineDone_queueKept (s) : QueueKept s (execBibEngineDone s) := by
  unfold execBibEngineDone
  (repeat' split) <;> simp

@[simp] theorem execBibBatchLate_queueKept (s) : QueueKept s (execBibBatchLate s) := by unfold execBibBatchLate; split <;> simp
@[simp] theorem execBibRingHoldDrop_queueKept (s) : QueueKept s (execBibRingHoldDrop s) := by simp [execBibRingHoldDrop]

/-! ### Machine/Sram -/

@[simp] theorem putDst_pending (s n d bs) : (putDst s n d bs).pending = s.pending := (rfl)
@[simp] theorem withFlags_pending {α : Type} (s n) (x : Fx α) : (withFlags s n x).2.pending = s.pending := by simp [withFlags]
@[simp] theorem putFx_pending (s n d x) : (putFx s n d x).pending = s.pending := by simp [putFx]

/-! ### Machine/Kv -/

@[simp] theorem freeSlot_pending (s n k) : (freeSlot s n k).pending = s.pending := (rfl)
@[simp] theorem freeSlots_pending (s n ks) : (freeSlots s n ks).pending = s.pending := by simp [freeSlots]
@[simp] theorem freeCell_pending (s n k) : (freeCell s n k).pending = s.pending := (rfl)
@[simp] theorem freeEnt_pending (s n e) : (freeEnt s n e).pending = s.pending := by simp [freeEnt]
@[simp] theorem countReclaim_pending (s n) : (countReclaim s n).pending = s.pending := (rfl)

theorem reclaim_pending (s n t) {u} (h : reclaim s n t = some u) : u.pending = s.pending := by
  simp only [reclaim] at h
  split at h <;> cases h <;> simp

theorem takeFreeSlot_pending (s n t) {a' u} (h : takeFreeSlot s n t = some (a', u)) : u.pending = s.pending := by
  simp only [takeFreeSlot] at h
  (repeat' split at h) <;> cases h <;> simp

@[simp] theorem takeOrReclaim_pending (n s k t) : (takeOrReclaim n s k t).1.pending = s.pending := by
  fun_induction takeOrReclaim n s k t <;> grind [takeFreeSlot_pending, reclaim_pending]

@[simp] theorem takeSlot_pending (s n t) : (takeSlot s n t).1.pending = s.pending := by unfold takeSlot; split <;> simp

@[simp] theorem takeSlots_pending (s n t m) : (takeSlots s n t m).1.pending = s.pending := by
  fun_induction takeSlots s n t m <;> grind [takeSlot_pending]

theorem openEntry_pending (s mk) {a' u} (h : openEntry s mk = some (a', u)) : u.pending = s.pending := by
  simp only [openEntry] at h
  split at h <;> cases h
  simp

@[simp] theorem dropStaleFetches_pending (s b) : (dropStaleFetches s b).pending = s.pending := (rfl)

@[simp] theorem meetNeed_pending (s n b m x) : (meetNeed s n b m x).1.pending = s.pending := by
  unfold meetNeed
  grind [foldl_pending, takeSlot_pending, openEntry_pending, modReq_pending, freeSlot_pending, modLane_pending, takeSlots_pending,
    freeSlots_pending]

@[simp] theorem meetNeeds_pending (s n b m xs) : (meetNeeds s n b m xs).1.pending = s.pending := by
  fun_induction meetNeeds s n b m xs <;> grind [meetNeed_pending]

@[simp] theorem modWork_pending (s n b f) : (modWork s n b f).pending = s.pending := by unfold modWork; split <;> simp

@[simp] theorem undoNeeds_pending (s n b before) : (undoNeeds s n b before).pending = s.pending := by
  unfold undoNeeds
  split <;> simp

@[simp] theorem missReq_pending (s b c) : (missReq s b c).pending = s.pending := (rfl)
@[simp] theorem holdReq_pending (s n b c) : (holdReq s n b c).pending = s.pending := (rfl)

@[simp] theorem serveSeq_pending (s n b work) : (serveSeq s n b work).pending = s.pending := by
  unfold serveSeq
  dsimp only
  (repeat' split) <;> simp

@[simp] theorem storeProbe_pending (s n m r) : (storeProbe s n m r).pending = s.pending := by simp [storeProbe]

@[simp] theorem commitPages_pending (s n b) : (commitPages s n b).pending = s.pending := by
  unfold commitPages
  (repeat' split) <;> simp

@[simp] theorem discardPages_pending (s n b) : (discardPages s n b).pending = s.pending := by unfold discardPages; split <;> simp
@[simp] theorem freeHbm_pending (s b) : (freeHbm s b).pending = s.pending := by unfold freeHbm; (repeat' split) <;> simp
@[simp] theorem freeTier_pending (s b) : (freeTier s b).pending = s.pending := by unfold freeTier; (repeat' split) <;> simp
@[simp] theorem freePages_pending (s b) : (freePages s b).pending = s.pending := by simp [freePages]

@[simp] theorem startFetches_pending (s n b) : (startFetches s n b).pending = s.pending := by
  unfold startFetches
  (repeat' split) <;> simp

@[simp] theorem capTake_pending (s p bytes) : (capTake s p bytes).2.pending = s.pending := (rfl)

/-! ### Machine/Streams -/

@[simp] theorem sendEntries_pending (s st xs irq) : (sendEntries s st xs irq).pending = s.pending := by simp [sendEntries]

@[simp] theorem ringTaken_pending (s serve payload) : (ringTaken s serve payload).pending = s.pending := by
  unfold ringTaken
  dsimp only
  split <;> simp

@[simp] theorem readCons_pending (s st) : (readCons s st).2.pending = s.pending := by unfold readCons; split <;> rfl

@[simp] theorem flushRing_pending (s b) : (flushRing s b).pending = s.pending := by
  unfold flushRing
  dsimp only
  (repeat' split) <;> simp

@[simp] theorem flushRings_pending (s) : (flushRings s).pending = s.pending := by simp [flushRings]
@[simp] theorem pushNotice_pending (s b code) : (pushNotice s b code).pending = s.pending := (rfl)
@[simp] theorem setSrgTenant_pending (s t x) : (setSrgTenant s t x).pending = s.pending := (rfl)
@[simp] theorem recordTtft_pending (s t target us) : (recordTtft s t target us).pending = s.pending := by simp [recordTtft]
@[simp] theorem recordTbt_pending (s t target us) : (recordTbt s t target us).pending = s.pending := by simp [recordTbt]

@[simp] theorem streamToken_pending (s b tok pos) : (streamToken s b tok pos).pending = s.pending := by
  unfold streamToken
  split <;> simp

@[simp] theorem finalCpl_pending (s r code reason pos) : (finalCpl s r code reason pos).pending = s.pending := by simp [finalCpl]
@[simp] theorem streamResume_pending (s b ring) : (streamResume s b ring).pending = s.pending := (rfl)

/-! ### Machine/ReqOps -/

@[simp] theorem unqueue_pending (s b) : (unqueue s b).pending = s.pending := by unfold unqueue; (repeat' split) <;> simp
@[simp] theorem dirChange_pending (s n add b) : (dirChange s n add b).pending = s.pending := (rfl)

@[simp] theorem endRequest_pending (s b reason pattern) : (endRequest s b reason pattern).pending = s.pending := by
  unfold endRequest
  split <;> simp

@[simp] theorem completeCmd_pending (s b op h code) : (completeCmd s b op h code).pending = s.pending := by simp [completeCmd]
@[simp] theorem completeEach_pending (s b xs code) : (completeEach s b xs code).pending = s.pending := by simp [completeEach]
@[simp] theorem endCmds_pending (s b code) : (endCmds s b code).pending = s.pending := by unfold endCmds; split <;> simp
@[simp] theorem ungrant_pending (s n a b) : (ungrant s n a b).pending = s.pending := (rfl)

@[simp] theorem dropReplayLegs_pending (s b) : (dropReplayLegs s b).pending = s.pending := by
  unfold dropReplayLegs
  grind [foldl_pending, ungrant_pending, dropLeg_pending]

@[simp] theorem endAudit_pending (s b code) : (endAudit s b code).pending = s.pending := by
  unfold endAudit
  (repeat' split) <;> simp

@[simp] theorem bumpSlot_pending (s b) : (bumpSlot s b).pending = s.pending := by simp [bumpSlot]
@[simp] theorem freeReq_pending (s b rest) : (freeReq s b rest).pending = s.pending := by unfold freeReq; (repeat' split) <;> simp
@[simp] theorem abortReq_pending (s b code) : (abortReq s b code).pending = s.pending := by unfold abortReq; split <;> simp
@[simp] theorem scrub_pending (s b) : (scrub s b).pending = s.pending := by unfold scrub; split <;> rfl
@[simp] theorem setPhase_pending (s b p) : (setPhase s b p).pending = s.pending := (rfl)

/-! ### Machine/LegOps -/

@[simp] theorem allocItem_pending (s n m it) : (allocItem s n m it).1.pending = s.pending := by
  unfold allocItem
  dsimp only
  (repeat' split) <;> simp

@[simp] theorem freeItem_pending (s n it ks) : (freeItem s n it ks).pending = s.pending := by simp [freeItem]

@[simp] theorem allocEach_pending (s n m xs) : (allocEach s n m xs).1.pending = s.pending := by
  fun_induction allocEach s n m xs <;> grind [allocItem_pending, freeItem_pending]

@[simp] theorem allocItems_pending (s n m its) : (allocItems s n m its).1.pending = s.pending := by
  unfold allocItems
  dsimp only
  (repeat' split) <;> simp

@[simp] theorem allocTier_pending (s port bytes) : (allocTier s port bytes).1.pending = s.pending := by
  unfold allocTier
  dsimp only
  (repeat' split) <;> simp

@[simp] theorem freeTierSpace_pending (s t) : (freeTierSpace s t).pending = s.pending := by unfold freeTierSpace; split <;> rfl

@[simp] theorem btnMsg_pending (s dst leg kind ws) : (btnMsg s dst leg kind ws).pending = s.pending :=
  pending_of_sansTransport (btnMsg_sansTransport ..)

@[simp] theorem legMsg_pending (s g kind a b c) : (legMsg s g kind a b c).pending = s.pending :=
  pending_of_sansTransport (legMsg_sansTransport ..)

@[simp] theorem clearControl_pending (s g blocks) : (clearControl s g blocks).pending = s.pending := by simp [clearControl]
@[simp] theorem clearData_pending (s g pages grans) : (clearData s g pages grans).pending = s.pending := by simp [clearData]
@[simp] theorem clearAgain_pending (s g part) : (clearAgain s g part).pending = s.pending := by simp [clearAgain]
@[simp] theorem refuseAsk_pending (s dst entry b code) : (refuseAsk s dst entry b code).pending = s.pending := by simp [refuseAsk]
@[simp] theorem sendAsk_pending (s dst r) : (sendAsk s dst r).pending = s.pending := by simp [sendAsk]

@[simp] theorem clearPage_pending (s g k a b) : (clearPage s g k a b).pending = s.pending :=
  pending_of_sansTransport (clearPage_sansTransport ..)

@[simp] theorem clearLeg_pending (n s m) : (clearLeg n s m).pending = s.pending :=
  pending_of_sansTransport (clearLeg_sansTransport ..)

@[simp] theorem testWaiting_pending (s xs ys) : (testWaiting s xs ys).1.pending = s.pending :=
  pending_of_sansTransport (testWaiting_sansTransport ..)

@[simp] theorem retest_pending (s) : (retest s).pending = s.pending := pending_of_sansTransport (retest_sansTransport ..)
@[simp] theorem takeBlocks_pending (s) : (takeBlocks s).2.pending = s.pending := (rfl)
@[simp] theorem giveBlocks_pending (s i) : (giveBlocks s i).pending = s.pending := by unfold giveBlocks; split <;> simp
@[simp] theorem regrantBlocks_pending (s) : (regrantBlocks s).pending = s.pending := by simp [regrantBlocks]
@[simp] theorem freeBlocks_pending (s g) : (freeBlocks s g).pending = s.pending := by simp [freeBlocks]
@[simp] theorem freeOneBlock_pending (s g) : (freeOneBlock s g).pending = s.pending := by simp [freeOneBlock]

@[simp] theorem acceptLeg_pending (s a m) : (acceptLeg s a m).1.pending = s.pending := by
  unfold acceptLeg
  grind [foldl_pending, allocItems_pending, allocTier_pending, freeItem_pending, openEntry_pending, stpTake_pending,
    giveBlocks_pending]

@[simp] theorem checkRest_pending (s b) : (checkRest s b).pending = s.pending := by unfold checkRest; split <;> simp
@[simp] theorem legPhase_pending (s type b) : (legPhase s type b).pending = s.pending := by simp [legPhase]

@[simp] theorem openLocal_pending (s type b dst) : (openLocal s type b dst).1.pending = s.pending := by
  grind [openLocal, checkRest_pending, acceptLeg_pending, dirChange_pending, legPhase_pending, dropStaleFetches_pending,
    unqueue_pending]

@[simp] theorem sourceDone_pending (s i) : (sourceDone s i).pending = s.pending := (rfl)

@[simp] theorem sendParts_pending (n s m) : (sendParts n s m).pending = s.pending := by
  fun_induction sendParts n s m <;> grind [sourceDone_pending, sysSendF_pending, modLeg_pending]

@[simp] theorem openRemote_pending (s type b dev dst) : (openRemote s type b dev dst).1.pending = s.pending := by
  unfold openRemote
  dsimp only
  (repeat' split) <;> grind [openEntry_pending, checkRest_pending, sendAsk_pending, legPhase_pending, dropStaleFetches_pending,
    unqueue_pending]

@[simp] theorem tryTargets_pending (s type b ok xs) : (tryTargets s type b ok xs).1.pending = s.pending := by
  fun_induction tryTargets s type b ok xs <;> grind [openLocal_pending, openRemote_pending]

@[simp] theorem setTried_pending (s b k) : (setTried s b k).pending = s.pending := (rfl)
@[simp] theorem tryPark_pending (s b) : (tryPark s b).pending = s.pending := by unfold tryPark; split <;> simp
@[simp] theorem tryHandoff_pending (s b) : (tryHandoff s b).pending = s.pending := by unfold tryHandoff; (repeat' split) <;> simp
@[simp] theorem dirDrop_pending (s n b) : (dirDrop s n b).pending = s.pending := by simp [dirDrop]
@[simp] theorem clearStaged_pending (s i) : (clearStaged s i).pending = s.pending := (rfl)
@[simp] theorem freeLegSpace_pending (s g) : (freeLegSpace s g).pending = s.pending := by simp [freeLegSpace]
@[simp] theorem legCpl_pending (s b code) : (legCpl s b code).pending = s.pending := by simp [legCpl]
@[simp] theorem takeUp_pending (s b) : (takeUp s b).pending = s.pending := by unfold takeUp; (repeat' split) <;> simp

@[simp] theorem afterAbort_pending (s g code b) : (afterAbort s g code b).pending = s.pending := by
  unfold afterAbort
  split <;> simp

@[simp] theorem setPrecopy_pending (s) : (setPrecopy s).pending = s.pending := by simp [setPrecopy]
@[simp] theorem swapEnd_pending (s) : (swapEnd s).pending = s.pending := by simp [swapEnd]
@[simp] theorem swapLost_pending (s g code) : (swapLost s g code).pending = s.pending := by simp [swapLost]
@[simp] theorem endPull_pending (s p code) : (endPull s p code).pending = s.pending := by simp [endPull]
@[simp] theorem afterRemoteAbort_pending (s g code) : (afterRemoteAbort s g code).pending = s.pending := by simp [afterRemoteAbort]
@[simp] theorem abortLeg_pending (s g code tell) : (abortLeg s g code tell).pending = s.pending := by simp [abortLeg]
@[simp] theorem landIfDone_pending (s i) : (landIfDone s i).pending = s.pending := (rfl)
@[simp] theorem partsDone_pending (s i) : (partsDone s i).pending = s.pending := by unfold partsDone; split <;> simp
@[simp] theorem passPart_pending (s g part bs) : (passPart s g part bs).pending = s.pending := (rfl)
@[simp] theorem failPart_pending (s g part) : (failPart s g part).pending = s.pending := by simp [failPart]

@[simp] theorem settleParts_pending (n s m) : (settleParts n s m).pending = s.pending := by
  fun_induction settleParts n s m <;> simp_all

@[simp] theorem takeChunk_pending (s g part off last bs) : (takeChunk s g part off last bs).pending = s.pending := by
  simp [takeChunk]

@[simp] theorem pageDone_pending (s g k) : (pageDone s g k).pending = s.pending := by unfold pageDone; split <;> simp
@[simp] theorem queueExt_pending (s n b) : (queueExt s n b).pending = s.pending := by unfold queueExt; split <;> simp
@[simp] theorem takeLanding_pending (s b) : (takeLanding s b).pending = s.pending := by unfold takeLanding; (repeat' split) <;> simp
@[simp] theorem commitLocal_pending (s g b) : (commitLocal s g b).pending = s.pending := by unfold commitLocal; split <;> simp

@[simp] theorem openSpill_pending (s b n tier) : (openSpill s b n tier).pending = s.pending := by
  grind [openSpill, openEntry_pending, modReq_pending]

@[simp] theorem spillCommit_pending (s b g) : (spillCommit s b g).pending = s.pending := by
  unfold spillCommit
  (repeat' split) <;> simp

@[simp] theorem afterLanding_pending (s g b) : (afterLanding s g b).pending = s.pending := by unfold afterLanding; split <;> simp
@[simp] theorem commitHere_pending (s g) : (commitHere s g).pending = s.pending := by simp [commitHere]
@[simp] theorem takePull_pending (s b n) : (takePull s b n).pending = s.pending := by unfold takePull; split <;> simp

@[simp] theorem commitRemote_pending (s g b k) : (commitRemote s g b k).pending = s.pending := by
  unfold commitRemote
  dsimp only
  split <;> simp

@[simp] theorem commitReplay_pending (s g b) : (commitReplay s g b).pending = s.pending := (rfl)
@[simp] theorem commitLeg_pending (s g) : (commitLeg s g).pending = s.pending := by simp [commitLeg]
@[simp] theorem commitLegs_pending (s) : (commitLegs s).pending = s.pending := by simp [commitLegs]

@[simp] theorem openRecall_pending (s b n) : (openRecall s b n).1.pending = s.pending := by
  unfold openRecall
  dsimp only
  (repeat' split) <;> grind [allocItems_pending, openEntry_pending, setPhase_pending]

@[simp] theorem recallLand_pending (s g b) : (recallLand s g b).pending = s.pending := by unfold recallLand; split <;> rfl

@[simp] theorem openReplayLeg_pending (s b) : (openReplayLeg s b).pending = s.pending := by
  unfold openReplayLeg
  grind [modReplay_pending, openEntry_pending, clearLeg_pending, endAudit_pending]

@[simp] theorem tryResumeLanes_pending (s b xs) : (tryResumeLanes s b xs).1.pending = s.pending := by
  fun_induction tryResumeLanes s b xs <;> grind [openLocal_pending]

/-! ### Machine/LaneOps -/

@[simp] theorem failQueued_pending (s code b) : (failQueued s code b).pending = s.pending := by unfold failQueued; split <;> simp
@[simp] theorem failQueues_pending (s n code) : (failQueues s n code).pending = s.pending := by simp [failQueues]
@[simp] theorem missLap_pending (s n b) : (missLap s n b).pending = s.pending := by simp [missLap]

@[simp] theorem clearMiss_pending (s bs) : (clearMiss s bs).pending = s.pending := by
  unfold clearMiss
  grind [foldl_pending, modReq_pending]

@[simp] theorem discardReplays_pending (s n) : (discardReplays s n).pending = s.pending := (rfl)
@[simp] theorem missAll_pending (s n) : (missAll s n).pending = s.pending := by simp [missAll]
@[simp] theorem loseLap_pending (s n) : (loseLap s n).pending = s.pending := by simp [loseLap]
@[simp] theorem enterStopped_pending (s n) : (enterStopped s n).pending = s.pending := by simp [enterStopped]
@[simp] theorem overrunStop_pending (s n) : (overrunStop s n).pending = s.pending := by simp [overrunStop]
@[simp] theorem loseShare_pending (s b) : (loseShare s b).pending = s.pending := by unfold loseShare; split <;> simp
@[simp] theorem loseShares_pending (s n) : (loseShares s n).pending = s.pending := by simp [loseShares]
@[simp] theorem abortLaneLegs_pending (s n code) : (abortLaneLegs s n code).pending = s.pending := by simp [abortLaneLegs]

@[simp] theorem failLaneCmds_pending (s n code) : (failLaneCmds s n code).pending = s.pending := by
  unfold failLaneCmds
  dsimp only
  (repeat' split) <;> simp

@[simp] theorem returnSpares_pending (s n) : (returnSpares s n).pending = s.pending := (rfl)

@[simp] theorem retireLane_pending (s n cause stackOpen) : (retireLane s n cause stackOpen).pending = s.pending := by
  simp [retireLane]

@[simp] theorem recordCore_pending (s d core) : (recordCore s d core).pending = s.pending := (rfl)
@[simp] theorem logCore_pending (s n core spare) : (logCore s n core spare).pending = s.pending := by simp [logCore]

@[simp] theorem substitute_pending (s n i core) : (substitute s n i core).pending = s.pending := by
  unfold substitute
  dsimp only
  split <;> simp

@[simp] theorem coreFails_pending (s d core) : (coreFails s d core).pending = s.pending := by
  unfold coreFails
  dsimp only
  (repeat' split) <;> simp

@[simp] theorem applySubst_pending (s n) : (applySubst s n).pending = s.pending := by simp [applySubst]

/-! ### Machine/ReqCmds -/

@[simp] theorem execSubmit_queueKept (h blk s) : QueueKept s (execSubmit h blk s) := by
  refine hostCmd_queueKept fun s => ?_
  dsimp only
  (repeat' split) <;> simp

@[simp] theorem parkRequest_pending (s b) : (parkRequest s b).pending = s.pending := by simp [parkRequest]
@[simp] theorem holdRemote_pending (s b r) : (holdRemote s b r).pending = s.pending := by unfold holdRemote; split <;> simp

@[simp] theorem applyPause_pending (s b r h) : (applyPause s b r h).pending = s.pending := by
  unfold applyPause
  (repeat' split) <;> simp

@[simp] theorem applyCancel_pending (s b r h) : (applyCancel s b r h).pending = s.pending := by simp [applyCancel]

@[simp] theorem applyRelease_pending (s b r h) : (applyRelease s b r h).pending = s.pending := by
  unfold applyRelease
  (repeat' split) <;> simp

@[simp] theorem applyExtend_pending (s b r h tokens since) : (applyExtend s b r h tokens since).pending = s.pending := by
  unfold applyExtend
  (repeat' split) <;> simp

@[simp] theorem resumeCpl_pending (s b h code) : (resumeCpl s b h code).pending = s.pending := by simp [resumeCpl]

@[simp] theorem resumeLocal_pending (s b h ring ext) : (resumeLocal s b h ring ext).pending = s.pending := by
  grind [resumeLocal, scrub_pending, retest_pending, endAudit_pending, resumeCpl_pending, modReq_pending, openRecall_pending,
    tryResumeLanes_pending]

@[simp] theorem resumeFrom_pending (s b h ring ext dev) : (resumeFrom s b h ring ext dev).pending = s.pending := by
  simp [resumeFrom]

@[simp] theorem resumeFound_pending (s b h ring ext x) : (resumeFound s b h ring ext x).pending = s.pending := by
  unfold resumeFound
  split <;> simp

@[simp] theorem resumeReach_pending (s b h ring ext) : (resumeReach s b h ring ext).pending = s.pending := by
  grind [resumeReach, lookup_pending, resumeFound_pending, resumeFrom_pending]

theorem applyResume_pending (s b r h ring ext) {u} (h : applyResume s b r h ring ext = some u) : u.pending = s.pending := by
  simp only [applyResume] at h
  (repeat' split at h) <;> cases h <;> simp

theorem applyCmd_pending (s b r c since) {u} (h : applyCmd s b r c since = some u) : u.pending = s.pending := by
  simp only [applyCmd] at h
  (repeat' split at h) <;> grind [applyPause_pending, applyResume_pending, applyCancel_pending, applyRelease_pending,
    applyExtend_pending]

@[simp] theorem applyHead_pending (s b) : (applyHead s b).pending = s.pending := by
  grind [applyHead, applyCmd_pending, modReq_pending]

@[simp] theorem applyAtBoundary_pending (s b) : (applyAtBoundary s b).pending = s.pending := by
  unfold applyAtBoundary
  (repeat' split) <;> simp

@[simp] theorem applyPullHead_pending (s b) : (applyPullHead s b).pending = s.pending := by
  unfold applyPullHead
  (repeat' split) <;> simp

@[simp] theorem queueCmd_pending (s h b c absent) (habsent : ∀ u, (absent u).pending = u.pending) :
    (queueCmd s h b c absent).pending = s.pending := by
  grind [queueCmd, completeCmd_pending, queuePull_pending, modReq_pending, applyHead_pending]

@[simp] theorem execPause_queueKept (h baton s) : QueueKept s (execPause h baton s) := by simp [execPause]
@[simp] theorem execResume_queueKept (h baton ring ext s) : QueueKept s (execResume h baton ring ext s) := by simp [execResume]
@[simp] theorem execCancel_queueKept (h baton s) : QueueKept s (execCancel h baton s) := by simp [execCancel]
@[simp] theorem execRelease_queueKept (h baton s) : QueueKept s (execRelease h baton s) := by simp [execRelease]
@[simp] theorem execExtend_queueKept (h baton tokens s) : QueueKept s (execExtend h baton tokens s) := by simp [execExtend]

@[simp] theorem execAudit_queueKept (h baton fromPos toPos repair s) : QueueKept s (execAudit h baton fromPos toPos repair s) := by
  refine hostCmd_queueKept fun s => ?_
  dsimp only
  (repeat' split) <;> try rw [openEntry_pending _ _ ‹_›]
  all_goals simp

/-! ### Machine/BibRing -/

@[simp] theorem answerReq_pending (s q gen r) : (answerReq s q gen r).pending = s.pending := by unfold answerReq; split <;> simp

@[simp] theorem pumpLookups_pending (n s) : (pumpLookups n s).pending = s.pending := by
  fun_induction pumpLookups n s <;> grind [lookup_pending, answerReq_pending]

@[simp] theorem packetHome_pending (s p) : (packetHome s p).pending = s.pending := by unfold packetHome; split <;> simp

@[simp] theorem execBibRingPacket_queueKept (p s) : QueueKept s (execBibRingPacket p s) := by
  unfold execBibRingPacket
  (repeat' split) <;> simp

@[simp] theorem execBibCascadeTimeout_queueKept (tag s) : QueueKept s (execBibCascadeTimeout tag s) := by
  unfold execBibCascadeTimeout
  (repeat' split) <;> simp

/-! ### Machine/TrackOps -/

@[simp] theorem incCtr_pending (s c) : (incCtr s c).pending = s.pending := (rfl)
@[simp] theorem pumpTrackCpl_pending (s q) : (pumpTrackCpl s q).pending = s.pending := by unfold pumpTrackCpl; split <;> simp
@[simp] theorem postTrack_pending (s q w) : (postTrack s q w).pending = s.pending := by unfold postTrack; split <;> simp
@[simp] theorem endOp_pending (s q o code) : (endOp s q o code).pending = s.pending := by unfold endOp; split <;> simp
@[simp] theorem endAcked_pending (s q) : (endAcked s q).pending = s.pending := by unfold endAcked; split <;> simp
@[simp] theorem deadLoad_pending (s x d) : (deadLoad s x d).pending = s.pending := by unfold deadLoad; (repeat' split) <;> simp
@[simp] theorem deadTarget_pending (s d) : (deadTarget s d).pending = s.pending := by simp [deadTarget]

@[simp] theorem endAll_pending (s q code) : (endAll s q code).pending = s.pending := by
  unfold endAll
  dsimp only
  (repeat' split) <;> simp

@[simp] theorem closeSq_pending (s q) : (closeSq s q).pending = s.pending := by simp [closeSq]
@[simp] theorem closeRq_pending (s q) : (closeRq s q).pending = s.pending := by unfold closeRq; split <;> rfl
@[simp] theorem sendNack_pending (s h code retryUs) : (sendNack s h code retryUs).pending = s.pending := by simp [sendNack]
@[simp] theorem falseStart_pending (s f h code) : (falseStart s f h code).pending = s.pending := by simp [falseStart]
@[simp] theorem dropNontrack_pending (s) : (dropNontrack s).pending = s.pending := (rfl)
@[simp] theorem freeLinkBuffer_pending (s f) : (freeLinkBuffer s f).pending = s.pending := (rfl)

@[simp] theorem arrive_pending (s f k) (hk : ∀ u, (k u).pending = u.pending) : (arrive s f k).pending = s.pending := by
  grind [arrive, freeLinkBuffer_pending, dropNontrack_pending]

@[simp] theorem sendAckFrame_pending (s dst ch expected payload) : (sendAckFrame s dst ch expected payload).pending = s.pending := by
  simp [sendAckFrame]

@[simp] theorem ackCtx_pending (s n) : (ackCtx s n).pending = s.pending := by unfold ackCtx; split <;> simp
@[simp] theorem ackSys_pending (s d) : (ackSys s d).pending = s.pending := by unfold ackSys; split <;> simp
@[simp] theorem fillPort_pending (s port) : (fillPort s port).pending = s.pending := by unfold fillPort; split <;> rfl

@[simp] theorem meterFrame_pending (s f t) : (meterFrame s f t).2.pending = s.pending := by
  unfold meterFrame
  (repeat' split) <;> simp

@[simp] theorem checkFail_pending (s f h code) : (checkFail s f h code).pending = s.pending := by simp [checkFail]
@[simp] theorem teFence_pending (s d) : (teFence s d).pending = s.pending := (rfl)

@[simp] theorem zeroLapCtrs_pending (s) : (zeroLapCtrs s).pending = s.pending := by
  unfold zeroLapCtrs
  grind [foldl_pending, setCtr_pending]

/-! ### Machine/MarOps -/

@[simp] theorem openMsg_pending (s mtype subject round) : (openMsg s mtype subject round).2.pending = s.pending := (rfl)
@[simp] theorem marSendAll_pending (s ds m) : (marSendAll s ds m).pending = s.pending := by simp [marSendAll]
@[simp] theorem trimRounds_pending (s r) : (trimRounds s r).pending = s.pending := (rfl)

@[simp] theorem endLookups_pending (s code) : (endLookups s code).pending = s.pending := by
  unfold endLookups
  refine foldl_pending _ _ _ fun s x => ?_
  split <;> simp

@[simp] theorem fenceMember_pending (s d declared) : (fenceMember s d declared).pending = s.pending := by
  unfold fenceMember
  split <;> simp

@[simp] theorem fenceLeg_pending (s g declared) : (fenceLeg s g declared).pending = s.pending := by simp [fenceLeg]
@[simp] theorem fencePulls_pending (s d code) : (fencePulls s d code).pending = s.pending := by simp [fencePulls]
@[simp] theorem loseGroupReq_pending (s b) : (loseGroupReq s b).pending = s.pending := by unfold loseGroupReq; split <;> simp

@[simp] theorem groupLost_pending (s d) : (groupLost s d).pending = s.pending := by
  unfold groupLost
  grind [foldl_pending, modLane_pending, loseGroupReq_pending]

@[simp] theorem fenceTarget_pending (s d) : (fenceTarget s d).pending = s.pending := by simp [fenceTarget]
@[simp] theorem fencePeer_pending (s d epoch declared) : (fencePeer s d epoch declared).pending = s.pending := by simp [fencePeer]
@[simp] theorem silence_pending (s declared) : (silence s declared).pending = s.pending := by simp [silence]
@[simp] theorem fenceReq_pending (s declared b) : (fenceReq s declared b).pending = s.pending := by unfold fenceReq; split <;> simp
@[simp] theorem fenceBib_pending (s) : (fenceBib s).pending = s.pending := by simp [fenceBib]
@[simp] theorem fencePull_pending (s p) : (fencePull s p).pending = s.pending := by simp [fencePull]
@[simp] theorem fenceSelf_pending (s epoch declared) : (fenceSelf s epoch declared).pending = s.pending := by simp [fenceSelf]

@[simp] theorem fenceIn_pending (s d epoch declared received round) :
    (fenceIn s d epoch declared received round).pending = s.pending := by
  simp [fenceIn]

@[simp] theorem clearFence_pending (s d epoch) : (clearFence s d epoch).pending = s.pending := (rfl)
@[simp] theorem readmitIn_pending (s d epoch round) : (readmitIn s d epoch round).pending = s.pending := by simp [readmitIn]
@[simp] theorem takeRing_pending (s) : (takeRing s).pending = s.pending := (rfl)
@[simp] theorem readmitSelf_pending (s epoch) : (readmitSelf s epoch).pending = s.pending := by simp [readmitSelf]
@[simp] theorem ringState_pending (s) : (ringState s).pending = s.pending := by unfold ringState; split <;> simp
@[simp] theorem marSwitch_pending (s epoch) : (marSwitch s epoch).pending = s.pending := by simp [marSwitch]

@[simp] theorem openSwap_pending (s dev n) : (openSwap s dev n).1.pending = s.pending := by
  grind [openSwap, openEntry_pending, sendAsk_pending]

@[simp] theorem swapAdd_pending (s g early) : (swapAdd s g early).pending = s.pending := by
  unfold swapAdd
  dsimp only
  split <;> simp

@[simp] theorem swapSealed_pending (s) : (swapSealed s).pending = s.pending := by simp [swapSealed]
@[simp] theorem leaveBatch_pending (s n) : (leaveBatch s n).pending = s.pending := by simp [leaveBatch]
@[simp] theorem swapFinal_pending (s g) : (swapFinal s g).pending = s.pending := by simp [swapFinal]
@[simp] theorem swapSwitch_pending (s before after) : (swapSwitch s before after).pending = s.pending := by simp [swapSwitch]

/-! ### Machine/Pacer -/

@[simp] theorem holdHeads_pending (s port) : (holdHeads s port).pending = s.pending := by
  unfold holdHeads
  grind [foldl_pending, modPacQ_pending]

@[simp] theorem weightedPass_pending (s port xs) : (weightedPass s port xs).1.pending = s.pending := by
  fun_induction weightedPass s port xs <;> simp_all

@[simp] theorem weightedLoop_pending (s port n) : (weightedLoop s port n).1.pending = s.pending := by
  fun_induction weightedLoop s port n <;> grind [weightedPass_pending]

@[simp] theorem chooseQueue_pending (s port) : (chooseQueue s port).1.pending = s.pending := by unfold chooseQueue; split <;> simp
@[simp] theorem startFrame_pending (s port q) : (startFrame s port q).pending = s.pending := by unfold startFrame; split <;> simp

@[simp] theorem execPacerChoose_queueKept (port s) : QueueKept s (execPacerChoose port s) := by
  rw [execPacerChoose, queueKept_next]
  split
  · rfl
  · grind [holdHeads_pending, fillPort_pending, chooseQueue_pending, startFrame_pending]

@[simp] theorem setPaused_pending (s port prio p) : (setPaused s port prio p).pending = s.pending :=
  foldl_pending _ _ _ fun _ _ => modPacQ_pending ..

@[simp] theorem execPfcFrameRx_queueKept (port priority pause s) : QueueKept s (execPfcFrameRx port priority pause s) := by
  simp [execPfcFrameRx]

@[simp] theorem execPfcPauseEnd_queueKept (port priority s) : QueueKept s (execPfcPauseEnd port priority s) := by
  simp [execPfcPauseEnd]

@[simp] theorem releaseHeads_pending (s) : (releaseHeads s).pending = s.pending := by simp only [releaseHeads]
@[simp] theorem pacRefill_pending (s) : (pacRefill s).pending = s.pending := by unfold pacRefill; split <;> rfl
@[simp] theorem pacReset_pending (s) : (pacReset s).pending = s.pending := by simp [pacReset]

/-! ### Machine/Track -/

@[simp] theorem sendResponse_pending (s n op flags aux addr payload) :
    (sendResponse s n op flags aux addr payload).pending = s.pending := by
  unfold sendResponse
  split <;> simp

@[simp] theorem sendRead_pending (s n h a len) : (sendRead s n h a len).pending = s.pending := by simp [sendRead]
@[simp] theorem sendOld_pending (s n h old) : (sendOld s n h old).pending = s.pending := by simp [sendOld]
@[simp] theorem execAtomic_pending (s n x h f) : (execAtomic s n x h f).pending = s.pending := by simp [execAtomic]
@[simp] theorem postRq_pending (s q ws) : (postRq s q ws).pending = s.pending := by unfold postRq; split <;> simp

@[simp] theorem placeMsg_pending (s t xs ys n zs) : (placeMsg s t xs ys n zs).1.pending = s.pending := by
  fun_induction placeMsg s t xs ys n zs <;> grind [placeData_pending]

theorem runSend_pending {s t : State} {x : RxCtx} {hd : Hdr} {f : Frame}
    (h : runSend s x hd f = .dropped t ∨ runSend s x hd f = .placed t) : t.pending = s.pending := by
  simp only [runSend] at h
  (repeat' split at h) <;> rcases h with h | h <;> cases h <;> simp

theorem runFrame_pending (s n f) {u} (h : runFrame s n f = some u) : u.pending = s.pending := by
  simp only [runFrame] at h
  (repeat' split at h) <;> grind [runSend_pending, incCtr_pending, placeData_pending, sendRead_pending, sendNack_pending,
    execAtomic_pending]

theorem execWaiting_pending (s n xs) {u} (h : execWaiting s n xs = some u) : u.pending = s.pending := by
  fun_induction execWaiting s n xs <;> grind [runFrame_pending, putRx_pending]

@[simp] theorem drainCtx_pending (s n m) : (drainCtx s n m).pending = s.pending := by
  fun_induction drainCtx s n m <;> grind [execWaiting_pending]

@[simp] theorem acceptReq_pending (s n x h f) : (acceptReq s n x h f).pending = s.pending := by simp [acceptReq]

@[simp] theorem duplicate_pending (s n x h f) : (duplicate s n x h f).pending = s.pending := by
  unfold duplicate
  (repeat' split) <;> simp

@[simp] theorem rxRequest_pending (s f op) : (rxRequest s f op).pending = s.pending := by
  grind [rxRequest, arrive_pending, checkFail_pending, duplicate_pending, acceptReq_pending]

@[simp] theorem execWrite_queueKept (f s) : QueueKept s (execWrite f s) := by simp [execWrite]
@[simp] theorem execReadReq_queueKept (f s) : QueueKept s (execReadReq f s) := by simp [execReadReq]
@[simp] theorem execAtomicAdd_queueKept (f s) : QueueKept s (execAtomicAdd f s) := by simp [execAtomicAdd]
@[simp] theorem execFetchAdd_queueKept (f s) : QueueKept s (execFetchAdd f s) := by simp [execFetchAdd]
@[simp] theorem execCmpSwap_queueKept (f s) : QueueKept s (execCmpSwap f s) := by simp [execCmpSwap]
@[simp] theorem execSend_queueKept (f s) : QueueKept s (execSend f s) := by simp [execSend]

@[simp] theorem placeResponse_pending (s q x o f) : (placeResponse s q x o f).pending = s.pending := by
  unfold placeResponse
  dsimp only
  (repeat' split) <;> simp

@[simp] theorem rxResponse_pending (s f op) : (rxResponse s f op).pending = s.pending := by
  unfold rxResponse
  refine arrive_pending _ _ _ fun s => ?_
  dsimp only
  (repeat' split) <;> simp

@[simp] theorem execReadResp_queueKept (f s) : QueueKept s (execReadResp f s) := by simp [execReadResp]
@[simp] theorem execAtomicResp_queueKept (f s) : QueueKept s (execAtomicResp f s) := by simp [execAtomicResp]
@[simp] theorem ringsTaken_pending (s d cum bitmap fs) : (ringsTaken s d cum bitmap fs).pending = s.pending := by simp [ringsTaken]
@[simp] theorem ackQueue_pending (s q f) : (ackQueue s q f).pending = s.pending := by unfold ackQueue; split <;> simp
@[simp] theorem ackPeer_pending (s d f) : (ackPeer s d f).pending = s.pending := by unfold ackPeer; split <;> simp

@[simp] theorem rxAckLike_pending (s f op k) (hk : ∀ u x, (k u x).pending = u.pending) :
    (rxAckLike s f op k).pending = s.pending := by
  unfold rxAckLike
  refine arrive_pending _ _ _ fun s => ?_
  dsimp only
  (repeat' split) <;> simp [hk]

theorem rxAckLike_queueKept {s : State} {f : Frame} {op : Byte} {k : State → Hdr → State}
    (hk : ∀ u x, (k u x).pending = u.pending) : QueueKept s (.next (rxAckLike s f op k)) :=
  (queueKept_next ..).2 (rxAckLike_pending _ _ _ _ hk)

@[simp] theorem execAck_queueKept (f s) : QueueKept s (execAck f s) := by
  refine rxAckLike_queueKept fun s h => ?_
  (repeat' split) <;> simp

@[simp] theorem nackQueue_pending (s q psn code retryUs) : (nackQueue s q psn code retryUs).pending = s.pending := by
  unfold nackQueue
  (repeat' split) <;> simp

@[simp] theorem execSqOpen_queueKept (h a s) : QueueKept s (execSqOpen h a s) := by simp [execSqOpen]
@[simp] theorem execRqOpen_queueKept (h a s) : QueueKept s (execRqOpen h a s) := by simp [execRqOpen]

@[simp] theorem execSqClose_queueKept (h queue s) : QueueKept s (execSqClose h queue s) := by
  refine hostCmd_queueKept fun s => ?_
  split <;> simp

@[simp] theorem execRqClose_queueKept (h queue s) : QueueKept s (execRqClose h queue s) := by
  refine hostCmd_queueKept fun s => ?_
  (repeat' split) <;> simp

@[simp] theorem badBell_pending (s) : (badBell s).pending = s.pending := (rfl)

@[simp] theorem execDescriptorRingTail_queueKept (f queue tail descs s) :
    QueueKept s (execDescriptorRingTail f queue tail descs s) := by
  unfold execDescriptorRingTail
  split <;> simp

@[simp] theorem execTrackCompletionRingHead_queueKept (f queue head s) :
    QueueKept s (execTrackCompletionRingHead f queue head s) := by
  unfold execTrackCompletionRingHead
  split <;> simp

@[simp] theorem execBufferRingTail_queueKept (f queue tail bufs s) : QueueKept s (execBufferRingTail f queue tail bufs s) := by
  unfold execBufferRingTail
  (repeat' split) <;> simp

@[simp] theorem dropHead_pending (s q x) : (dropHead s q x).pending = s.pending := (rfl)
@[simp] theorem endDesc_pending (s q x d code) : (endDesc s q x d code).pending = s.pending := by simp [endDesc]

@[simp] theorem execDescriptorSplit_queueKept (queue s) : QueueKept s (execDescriptorSplit queue s) := by
  unfold execDescriptorSplit
  dsimp only
  (repeat' split) <;> simp

@[simp] theorem sendAgain_pending (s q psn pf) : (sendAgain s q psn pf).pending = s.pending := by
  unfold sendAgain
  split
  · next h => split <;> exact (pending_of_sansTransport (resendSq_sansTransport h) :)
  · split <;> rfl

@[simp] theorem sendAgainSys_pending (s d psn) : (sendAgainSys s d psn).pending = s.pending := by
  unfold sendAgainSys
  split
  · next h => exact (pending_of_sansTransport (resendSys_sansTransport h) :)
  · split <;> rfl

@[simp] theorem execRetxTimeout_queueKept (chan psn s) : QueueKept s (execRetxTimeout chan psn s) := by
  unfold execRetxTimeout
  (repeat' split) <;> simp

@[simp] theorem execPageFaultRetry_queueKept (queue psn s) : QueueKept s (execPageFaultRetry queue psn s) := by
  unfold execPageFaultRetry
  split <;> simp

@[simp] theorem execPagePresent_queueKept (tenant page s) : QueueKept s (execPagePresent tenant page s) := by simp [execPagePresent]

@[simp] theorem execRxNoBufferRetry_queueKept (queue message s) : QueueKept s (execRxNoBufferRetry queue message s) := by
  unfold execRxNoBufferRetry
  split <;> simp

@[simp] theorem execAckTimer_queueKept (chan s) : QueueKept s (execAckTimer chan s) := by
  unfold execAckTimer
  (repeat' split) <;> simp

@[simp] theorem execRateIncrease_queueKept (chan s) : QueueKept s (execRateIncrease chan s) := by
  unfold execRateIncrease
  (repeat' split) <;> simp

@[simp] theorem execSystemContextIdle_queueKept (peer s) : QueueKept s (execSystemContextIdle peer s) := by
  unfold execSystemContextIdle
  split <;> simp

theorem takeSysRx_pending (s d psn) {u} (h : takeSysRx s d psn = some u) : u.pending = s.pending := by
  simp only [takeSysRx] at h
  (repeat' split at h) <;> cases h <;> simp

@[simp] theorem runRing_pending (s f) : (runRing s f).pending = s.pending := by unfold runRing; dsimp only; (repeat' split) <;> simp
@[simp] theorem runRings_pending (s d) : (runRings s d).pending = s.pending := by unfold runRings; split <;> simp
@[simp] theorem sysAfter_pending (s h x y) : (sysAfter s h x y).pending = s.pending := by simp [sysAfter]

@[simp] theorem rxSysIn_pending (s f h k) (hk : ∀ u, (k u).pending = u.pending) : (rxSysIn s f h k).pending = s.pending := by
  grind [rxSysIn, ackSys_pending, checkFail_pending, sysAfter_pending]

@[simp] theorem rxSystem_pending (s f op k) (hk : ∀ u, (k u).pending = u.pending) : (rxSystem s f op k).pending = s.pending := by
  unfold rxSystem
  refine arrive_pending _ _ _ fun s => ?_
  dsimp only
  (repeat' split) <;> simp only [checkFail_pending, rxSysIn_pending _ _ _ _ hk]
  next hctx => exact takeSysRx_pending _ _ _ hctx

theorem rxSystem_queueKept {s : State} {f : Frame} {op : Byte} {k : State → State} (hk : ∀ u, (k u).pending = u.pending) :
    QueueKept s (.next (rxSystem s f op k)) :=
  (queueKept_next ..).2 (rxSystem_pending _ _ _ _ hk)

@[simp] theorem execRingRx_queueKept (f s) : QueueKept s (execRingRx f s) := by
  refine rxSystem_queueKept fun s => ?_
  dsimp only
  (repeat' split) <;> simp

@[simp] theorem execNontrackFrameRx_queueKept (port s) : QueueKept s (execNontrackFrameRx port s) := by simp [execNontrackFrameRx]
@[simp] theorem setPtp_pending (s time) : (setPtp s time).pending = s.pending := (rfl)

@[simp] theorem execPtpFrameRx_queueKept (port m s) : QueueKept s (execPtpFrameRx port m s) := by
  unfold execPtpFrameRx
  (repeat' split) <;> simp

@[simp] theorem execPortDown_queueKept (port s) : QueueKept s (execPortDown port s) := by simp [execPortDown]
@[simp] theorem execPortUp_queueKept (port s) : QueueKept s (execPortUp port s) := by simp [execPortUp]
@[simp] theorem execRelayLinkDown_queueKept (link s) : QueueKept s (execRelayLinkDown link s) := by simp [execRelayLinkDown]

@[simp] theorem execRelayCreditReturn_queueKept (link cls units s) : QueueKept s (execRelayCreditReturn link cls units s) := by
  simp [execRelayCreditReturn]

@[simp] theorem takeLanesOut_pending (s link o) : (takeLanesOut s link o).pending = s.pending := (rfl)
@[simp] theorem execRlyLaneOut_queueKept (link lane s) : QueueKept s (execRlyLaneOut link lane s) := by simp [execRlyLaneOut]

@[simp] theorem execRlyLinkTrained_queueKept (link peer tagCur tagNext failed s) :
    QueueKept s (execRlyLinkTrained link peer tagCur tagNext failed s) := by
  simp [execRlyLinkTrained]

/-! ### Machine/Blocks -/

@[simp] theorem endMsgs_pending (s q code) : (endMsgs s q code).pending = s.pending := by unfold endMsgs; split <;> simp
@[simp] theorem discardRq_pending (s q) : (discardRq s q).pending = s.pending := by simp [discardRq]
@[simp] theorem closeQueues_pending (s) : (closeQueues s).pending = s.pending := by simp [closeQueues]
@[simp] theorem teReset_pending (s) : (teReset s).pending = s.pending := by simp [teReset]
@[simp] theorem rlyReset_pending (s) : (rlyReset s).pending = s.pending := (rfl)
@[simp] theorem endFetches_pending (s b) : (endFetches s b).pending = s.pending := by unfold endFetches; (repeat' split) <;> simp
@[simp] theorem btnReset_pending (s) : (btnReset s).pending = s.pending := by simp [btnReset]
@[simp] theorem jdgReset_pending (s) : (jdgReset s).pending = s.pending := (rfl)
@[simp] theorem stpReset_pending (s) : (stpReset s).pending = s.pending := (rfl)
@[simp] theorem srgReset_pending (s) : (srgReset s).pending = s.pending := (rfl)
@[simp] theorem marReset_pending (s) : (marReset s).pending = s.pending := (rfl)
@[simp] theorem endLoads_pending (s) : (endLoads s).pending = s.pending := by unfold endLoads; dsimp only; (repeat' split) <;> simp
@[simp] theorem mplReset_pending (s) : (mplReset s).pending = s.pending := by simp [mplReset]
@[simp] theorem blockReset_pending (s n) : (blockReset s n).pending = s.pending := by unfold blockReset; split <;> simp

/-! ### Machine/Access -/

@[simp] theorem recordAccess_pending (s a kind off) : (recordAccess s a kind off).pending = s.pending := by simp [recordAccess]
@[simp] theorem vfOutside_pending (s a off) : (vfOutside s a off).pending = s.pending := by simp [vfOutside]

@[simp] theorem regWrite_pending (s a off act) (hact : ∀ u, (act u).pending = u.pending) :
    (regWrite s a off act).pending = s.pending := by
  unfold regWrite
  grind [vfOutside_pending]

@[simp] theorem regCmd_queueKept (s a off act) (hact : ∀ u, (act u).pending = u.pending) :
    QueueKept s (regCmd s a off act) :=
  (queueKept_next ..).2 (regWrite_pending s a off act hact)

/-! ### Machine/KvWork -/

@[simp] theorem appendKv_pending (s n b layer pos keys vals) : (appendKv s n b layer pos keys vals).pending = s.pending := by
  unfold appendKv
  (repeat' split) <;> simp

@[simp] theorem sealPage_pending (s n b layer page) : (sealPage s n b layer page).pending = s.pending := by
  unfold sealPage
  (repeat' split) <;> simp

@[simp] theorem attendWork_pending (s n m r layer head t o q dst) :
    (attendWork s n m r layer head t o q dst).pending = s.pending := by
  simp [attendWork]

@[simp] theorem probeWork_pending (s n m b layer queries) : (probeWork s n m b layer queries).pending = s.pending := by
  simp [probeWork]

@[simp] theorem selectLayer_pending (s n m r probe t layer) : (selectLayer s n m r probe t layer).1.pending = s.pending := by
  simp [selectLayer]

@[simp] theorem selectAll_pending (s n m r probe t) : (selectAll s n m r probe t).1.pending = s.pending := by
  refine foldl_fst_keeps State.pending _ (fun y l => ?_) _ _
  exact selectLayer_pending y.1 n m r probe t l

@[simp] theorem heatNext_pending (s n b) : (heatNext s n b).pending = s.pending := by unfold heatNext; (repeat' split) <;> simp

@[simp] theorem heatArrived_pending (s n b) : (heatArrived s n b).pending = s.pending := by
  unfold heatArrived
  (repeat' split) <;> simp

/-! ### Machine/LapOps -/

@[simp] theorem leaveOne_pending (s b) : (leaveOne s b).pending = s.pending := by unfold leaveOne; split <;> simp

@[simp] theorem joinOne_pending (s n t x) : (joinOne s n t x).pending = s.pending := by
  unfold joinOne
  dsimp only
  (repeat' split) <;> simp

@[simp] theorem joins_pending (s n) : (joins s n).pending = s.pending := by unfold joins; dsimp only; split <;> simp

@[simp] theorem serveExt_pending (s n m xs) : (serveExt s n m xs).pending = s.pending := by
  fun_induction serveExt s n m xs <;> grind [modReq_pending]

@[simp] theorem serveReplays_pending (s n m xs) : (serveReplays s n m xs).pending = s.pending := by
  fun_induction serveReplays s n m xs <;> simp_all

@[simp] theorem missPreempted_pending (s n) : (missPreempted s n).pending = s.pending := by
  unfold missPreempted
  refine foldl_pending _ _ _ fun s x => ?_
  split <;> simp

@[simp] theorem preempt_pending (s n) : (preempt s n).pending = s.pending := by unfold preempt; dsimp only; (repeat' split) <;> simp

@[simp] theorem stepReplays_pending (s n) : (stepReplays s n).pending = s.pending := by
  unfold stepReplays
  grind [foldl_pending, modReplay_pending]

@[simp] theorem takePrompts_pending (s n m xs) : (takePrompts s n m xs).pending = s.pending := by
  fun_induction takePrompts s n m xs <;> simp_all

@[simp] theorem holdFetch_pending (s n b) : (holdFetch s n b).pending = s.pending := by unfold holdFetch; (repeat' split) <;> simp
@[simp] theorem serveWork_pending (s n b) : (serveWork s n b).pending = s.pending := by unfold serveWork; split <;> simp
@[simp] theorem seqNeeds_pending (s n b) : (seqNeeds s n b).pending = s.pending := by unfold seqNeeds; split <;> simp

@[simp] theorem clearHeld_pending (s bs) : (clearHeld s bs).pending = s.pending :=
  foldl_pending _ _ _ fun _ _ => modReq_pending ..

@[simp] theorem clearRunning_pending (s n bs) : (clearRunning s n bs).pending = s.pending :=
  foldl_pending _ _ _ fun _ _ => modReq_pending ..

@[simp] theorem replayNeed_pending (s n q) : (replayNeed s n q).pending = s.pending := by unfold replayNeed; split <;> simp
@[simp] theorem replayNeeds_pending (s n) : (replayNeeds s n).pending = s.pending := by simp [replayNeeds]
@[simp] theorem laneNeeds_pending (s n) : (laneNeeds s n).pending = s.pending := by simp [laneNeeds]

@[simp] theorem writeTable_pending (s n) : (writeTable s n).pending = s.pending := by
  unfold writeTable
  grind [foldl_pending, modLane_pending, sramWrite_pending]

@[simp] theorem heatBoundary_pending (s n) : (heatBoundary s n).pending = s.pending := (rfl)
@[simp] theorem heatHold_pending (s n) : (heatHold s n).pending = s.pending := (rfl)
@[simp] theorem loadSlots_pending (s n) : (loadSlots s n).pending = s.pending := (rfl)
@[simp] theorem loadSeals_pending (s n) : (loadSeals s n).pending = s.pending := (rfl)
@[simp] theorem countInto_pending (s b toks) : (countInto s b toks).pending = s.pending := by unfold countInto; split <;> rfl
@[simp] theorem stepPatterns_pending (s b tok) : (stepPatterns s b tok).pending = s.pending := (rfl)
@[simp] theorem stopCheck_pending (s b) : (stopCheck s b).1.pending = s.pending := by unfold stopCheck; (repeat' split) <;> simp
@[simp] theorem commitDraw_pending (s n b r tok) : (commitDraw s n b r tok).pending = s.pending := by simp [commitDraw]
@[simp] theorem commitNone_pending (s n b) : (commitNone s n b).pending = s.pending := by simp [commitNone]
@[simp] theorem ringMiss_pending (s b) : (ringMiss s b).pending = s.pending := (rfl)
@[simp] theorem ranOnce_pending (s b) : (ranOnce s b).pending = s.pending := (rfl)

@[simp] theorem commitMember_pending (s n b) : (commitMember s n b).pending = s.pending := by
  unfold commitMember
  (repeat' split) <;> simp

@[simp] theorem commitPromptTokens_pending (s b r) : (commitPromptTokens s b r).pending = s.pending := by simp [commitPromptTokens]
@[simp] theorem setPromptLeft_pending (s n b k) : (setPromptLeft s n b k).pending = s.pending := (rfl)

@[simp] theorem commitPrompt_pending (s n b) : (commitPrompt s n b).pending = s.pending := by
  unfold commitPrompt
  dsimp only
  (repeat' split) <;> simp

@[simp] theorem appendExt_pending (s b xs) : (appendExt s b xs).pending = s.pending := by
  fun_induction appendExt s b xs <;> grind [modReq_pending, countInto_pending, stopCheck_pending, stepPatterns_pending]

@[simp] theorem missExt_pending (s n b r) : (missExt s n b r).pending = s.pending := by simp [missExt]
@[simp] theorem commitExt_pending (s n b) : (commitExt s n b).pending = s.pending := by unfold commitExt; split <;> simp
@[simp] theorem commitScratch_pending (s q) : (commitScratch s q).pending = s.pending := by unfold commitScratch; split <;> simp
@[simp] theorem recordHard_pending (s n i) : (recordHard s n i).pending = s.pending := (rfl)

@[simp] theorem commitLane_pending (s n) : (commitLane s n).1.pending = s.pending := by
  unfold commitLane
  dsimp only
  (repeat' split) <;> simp

/-! ### Machine/Lanes -/

@[simp] theorem laneCmd_queueKept (h lane serve s) (hserve : ∀ n u, (serve n u).pending = u.pending) :
    QueueKept s (laneCmd h lane serve s) := by
  refine hostCmd_queueKept fun s => ?_
  split <;> simp [hserve]

@[simp] theorem drainLane_pending (h n s) : (drainLane h n s).pending = s.pending := by unfold drainLane; split <;> simp
@[simp] theorem execLaneDrain_queueKept (h lane s) : QueueKept s (execLaneDrain h lane s) := by simp [execLaneDrain]
@[simp] theorem serveLane_pending (h n s) : (serveLane h n s).pending = s.pending := by unfold serveLane; dsimp only; split <;> simp
@[simp] theorem execLaneServe_queueKept (h lane s) : QueueKept s (execLaneServe h lane s) := by simp [execLaneServe]
@[simp] theorem loseRegions_pending (s n) : (loseRegions s n).pending = s.pending := (rfl)
@[simp] theorem emptyStack_pending (s n) : (emptyStack s n).pending = s.pending := by simp [emptyStack]
@[simp] theorem saveSram_pending (s n) : (saveSram s n).pending = s.pending := (rfl)
@[simp] theorem restoreSram_pending (s n) : (restoreSram s n).pending = s.pending := by unfold restoreSram; split <;> rfl
@[simp] theorem startTest_pending (s n mode cmd) : (startTest s n mode cmd).pending = s.pending := by simp [startTest]
@[simp] theorem writeMchTest_pending (s n mode) : (writeMchTest s n mode).pending = s.pending := by simp [writeMchTest]
@[simp] theorem execMchTestStart_queueKept (a lane v s) : QueueKept s (execMchTestStart a lane v s) := by simp [execMchTestStart]
@[simp] theorem testLane_pending (h mode n s) : (testLane h mode n s).pending = s.pending := by simp [testLane]
@[simp] theorem execLaneTest_queueKept (h lane mode s) : QueueKept s (execLaneTest h lane mode s) := by simp [execLaneTest]
@[simp] theorem noteFail_pending (s n first unit pos word) : (noteFail s n first unit pos word).pending = s.pending := (rfl)

@[simp] theorem testCores_pending (s n first xs) : (testCores s n first xs).pending = s.pending := by
  fun_induction testCores s n first xs <;> grind [noteFail_pending, coreFails_pending]

@[simp] theorem logRow_pending (s n bank what) : (logRow s n bank what).pending = s.pending := by simp [logRow]
@[simp] theorem listRow_pending (s n bank row) : (listRow s n bank row).pending = s.pending := by simp [listRow]

@[simp] theorem testRows_pending (s n first xs) : (testRows s n first xs).pending = s.pending := by
  fun_induction testRows s n first xs <;> simp_all

@[simp] theorem repairRows_pending (s n) : (repairRows s n).pending = s.pending := by simp [repairRows]

@[simp] theorem endStackTest_pending (s n first found) : (endStackTest s n first found).pending = s.pending := by
  simp [endStackTest]

@[simp] theorem execMchTestDone_queueKept (lane found s) : QueueKept s (execMchTestDone lane found s) := by
  unfold execMchTestDone
  dsimp only
  (repeat' split) <;> simp

@[simp] theorem execCoreFailure_queueKept (die core s) : QueueKept s (execCoreFailure die core s) := by simp [execCoreFailure]

@[simp] theorem execCoreStopTimeout_queueKept (lane position s) : QueueKept s (execCoreStopTimeout lane position s) := by
  simp [execCoreStopTimeout]

@[simp] theorem execHbmUncorrectable_queueKept (lane bank row s) : QueueKept s (execHbmUncorrectable lane bank row s) := by
  simp [execHbmUncorrectable]

@[simp] theorem execStewardFault_queueKept (lane s) : QueueKept s (execStewardFault lane s) := by simp [execStewardFault]
@[simp] theorem execHbcFault_queueKept (lane s) : QueueKept s (execHbcFault lane s) := by simp [execHbcFault]
@[simp] theorem execDieLinkFault_queueKept (die s) : QueueKept s (execDieLinkFault die s) := by simp [execDieLinkFault]

/-! ### Machine/Regions -/

@[simp] theorem takeNear_pending (s t x) : (takeNear s t x).pending = s.pending := by unfold takeNear; split <;> rfl
@[simp] theorem takeFar_pending (s p len) : (takeFar s p len).pending = s.pending := by unfold takeFar; split <;> rfl

@[simp] theorem execRegionAlloc_queueKept (h flags len s) : QueueKept s (execRegionAlloc h flags len s) := by
  refine hostCmd_queueKept fun s => ?_
  dsimp only
  (repeat' split) <;> simp

@[simp] theorem freeRegionSpace_pending (s r) : (freeRegionSpace s r).pending = s.pending := by
  unfold freeRegionSpace
  split <;> simp

@[simp] theorem execRegionFree_queueKept (h rkey s) : QueueKept s (execRegionFree h rkey s) := by
  refine hostCmd_queueKept fun s => ?_
  split <;> simp

/-! ### Machine/SlotWork -/

@[simp] theorem assignOne_pending (n slot layer cap s x) : (assignOne n slot layer cap s x).pending = s.pending := by
  simp [assignOne]

@[simp] theorem assignRoutes_pending (s n slot layer cap routes) : (assignRoutes s n slot layer cap routes).pending = s.pending := by
  simp [assignRoutes]

@[simp] theorem matrixWork_pending (s n m o a cols dst) : (matrixWork s n m o a cols dst).pending = s.pending := by
  simp [matrixWork]

@[simp] theorem logitsWork_pending (s n m o b a cols) : (logitsWork s n m o b a cols).pending = s.pending := by simp [logitsWork]
@[simp] theorem doWork_pending (s n i x w) : (doWork s n i x w).pending = s.pending := by unfold doWork; (repeat' split) <;> simp

@[simp] theorem runWorks_pending (n i x s xs ys) : (runWorks n i x s xs ys).1.pending = s.pending := by
  fun_induction runWorks n i x s xs ys <;> simp_all

@[simp] theorem runSlot_pending (s n i x ws) : (runSlot s n i x ws).pending = s.pending := by simp [runSlot]

theorem sealOnce_pending (s n) {u} (h : sealOnce s n = some u) : u.pending = s.pending := by
  simp only [sealOnce] at h
  split at h <;> cases h
  simp

@[simp] theorem settle_pending (n s k) : (settle n s k).pending = s.pending := by
  fun_induction settle n s k <;> grind [foldl_pending, sealOnce_pending, runSlot_pending]

@[simp] theorem settleLane_pending (s n) : (settleLane s n).pending = s.pending := by simp [settleLane]
@[simp] theorem fetchNext_pending (s n b) : (fetchNext s n b).pending = s.pending := by unfold fetchNext; (repeat' split) <;> simp
@[simp] theorem fetchArrived_pending (s n) : (fetchArrived s n).pending = s.pending := by simp [fetchArrived]
@[simp] theorem heatEnd_pending (s n x) : (heatEnd s n x).pending = s.pending := by simp [heatEnd]

@[simp] theorem stageBytes_pending (s n x) : (stageBytes s n x).pending = s.pending := by
  unfold stageBytes
  dsimp only
  (repeat' split) <;> simp

@[simp] theorem switchSram_pending (s n x) : (switchSram s n x).pending = s.pending := by
  unfold switchSram
  dsimp only
  split <;> simp

/-! ### Machine/Plan -/

@[simp] theorem planCpl_pending (s h code second reason) : (planCpl s h code second reason).pending = s.pending := by simp [planCpl]
@[simp] theorem noteRefuse_pending (s x) : (noteRefuse s x).pending = s.pending := (rfl)
@[simp] theorem refuseLoad_pending (s h x) : (refuseLoad s h x).pending = s.pending := by simp [refuseLoad]
@[simp] theorem execPlanLoad_queueKept (h totalBytes s) : QueueKept s (execPlanLoad h totalBytes s) := by simp [execPlanLoad]

@[simp] theorem dropStaged_pending (s reason) : (dropStaged s reason).pending = s.pending := by
  unfold dropStaged
  dsimp only
  split <;> simp

@[simp] theorem execPlanWithdraw_queueKept (h s) : QueueKept s (execPlanWithdraw h s) := by simp [execPlanWithdraw]

@[simp] theorem execPlanImageFetched_queueKept (img s) : QueueKept s (execPlanImageFetched img s) := by
  unfold execPlanImageFetched
  split <;> simp

@[simp] theorem stagePlan_pending (s h p) : (stagePlan s h p).pending = s.pending := by simp [stagePlan]
@[simp] theorem noteTable_pending (s p x) : (noteTable s p x).pending = s.pending := by unfold noteTable; (repeat' split) <;> simp

@[simp] theorem execPlanChecked_queueKept (s) : QueueKept s (execPlanChecked s) := by
  unfold execPlanChecked
  (repeat' split) <;> simp

@[simp] theorem execPlanDeadlinePassed_queueKept (s) : QueueKept s (execPlanDeadlinePassed s) := by
  unfold execPlanDeadlinePassed
  (repeat' split) <;> simp

@[simp] theorem dropRegionsIn_pending (s n) : (dropRegionsIn s n).pending = s.pending := by simp [dropRegionsIn]
@[simp] theorem endAuditsIn_pending (s n) : (endAuditsIn s n).pending = s.pending := by simp [endAuditsIn]
@[simp] theorem dropLost_pending (s n) : (dropLost s n).pending = s.pending := (rfl)
@[simp] theorem rebuildLane_pending (s p n) : (rebuildLane s p n).pending = s.pending := by simp [rebuildLane]
@[simp] theorem dropReplacement_pending (s n) : (dropReplacement s n).pending = s.pending := by simp [dropReplacement]
@[simp] theorem switchLane_pending (s p n) : (switchLane s p n).pending = s.pending := by simp [switchLane]
@[simp] theorem switchBib_pending (s old new) : (switchBib s old new).pending = s.pending := by simp [switchBib]
@[simp] theorem trimRegions_pending (s k) : (trimRegions s k).pending = s.pending := by simp [trimRegions]
@[simp] theorem switchTrack_pending (s old p) : (switchTrack s old p).pending = s.pending := by unfold switchTrack; split <;> simp
@[simp] theorem switchLap_pending (s p m) : (switchLap s p m).pending = s.pending := by simp [switchLap]
@[simp] theorem switchModels_pending (s p) : (switchModels s p).pending = s.pending := (rfl)
@[simp] theorem takePlan_pending (s p) : (takePlan s p).pending = s.pending := (rfl)

@[simp] theorem planSwitch_pending (s p m) : (planSwitch s p m).pending = s.pending := by
  unfold planSwitch
  dsimp only
  (repeat' split) <;> simp

@[simp] theorem copyWeights_pending (s n x) : (copyWeights s n x).pending = s.pending := by
  unfold copyWeights
  grind [foldl_pending, setStack_pending]

@[simp] theorem finishBuild_pending (s n x) : (finishBuild s n x).pending = s.pending := by simp [finishBuild]

@[simp] theorem execLaneBuildDone_queueKept (lane digest s) : QueueKept s (execLaneBuildDone lane digest s) := by
  unfold execLaneBuildDone
  dsimp only
  (repeat' split) <;> simp

@[simp] theorem execWeightPut_queueKept (h len digest data s) : QueueKept s (execWeightPut h len digest data s) := by
  refine hostCmd_queueKept fun s => ?_
  dsimp only
  (repeat' split) <;> simp

@[simp] theorem execStageVariant_queueKept (h lane model s) : QueueKept s (execStageVariant h lane model s) := by
  refine hostCmd_queueKept fun s => ?_
  dsimp only
  (repeat' split) <;> simp

@[simp] theorem execVariantLanded_queueKept (lane digest s) : QueueKept s (execVariantLanded lane digest s) := by
  unfold execVariantLanded
  dsimp only
  (repeat' split) <;> simp

@[simp] theorem takeVariant_pending (s n) : (takeVariant s n).pending = s.pending := by
  unfold takeVariant
  dsimp only
  split <;> simp

@[simp] theorem execLapTableReplacement_queueKept (lane table swapLap deadlineLap s) :
    QueueKept s (execLapTableReplacement lane table swapLap deadlineLap s) := by
  unfold execLapTableReplacement
  dsimp only
  split <;> simp

@[simp] theorem refuseTable_pending (s n reason) : (refuseTable s n reason).pending = s.pending := (rfl)

@[simp] theorem execLapTableReady_queueKept (lane s) : QueueKept s (execLapTableReady lane s) := by
  unfold execLapTableReady
  dsimp only
  (repeat' split) <;> simp

@[simp] theorem execLapTableLate_queueKept (lane s) : QueueKept s (execLapTableLate lane s) := by
  unfold execLapTableLate
  (repeat' split) <;> simp

@[simp] theorem swapTable_pending (s n m) : (swapTable s n m).pending = s.pending := by unfold swapTable; dsimp only; split <;> simp

/-! ### Machine/Fwu -/

@[simp] theorem setFwuSlot_pending (s b x) : (setFwuSlot s b x).pending = s.pending := (rfl)
@[simp] theorem setSlotState_pending (s b x) : (setSlotState s b x).pending = s.pending := (rfl)
@[simp] theorem fwuResult_pending (s code reason) : (fwuResult s code reason).pending = s.pending := (rfl)
@[simp] theorem fwuRefuse_pending (s reason) : (fwuRefuse s reason).pending = s.pending := (rfl)
@[simp] theorem rejectTrial_pending (s b) : (rejectTrial s b).pending = s.pending := by simp [rejectTrial]

@[simp] theorem startPause_pending (s) : (startPause s).pending = s.pending := by
  unfold startPause
  dsimp only
  (repeat' split) <;> simp

@[simp] theorem recheck_pending (s) : (recheck s).pending = s.pending := by unfold recheck; split <;> simp
@[simp] theorem pauseAtBoundary_pending (s) : (pauseAtBoundary s).pending = s.pending := by simp [pauseAtBoundary]
@[simp] theorem pauseAtOnce_pending (s) : (pauseAtOnce s).pending = s.pending := by simp [pauseAtOnce]
@[simp] theorem flushLate_pending (s) : (flushLate s).pending = s.pending := by simp [flushLate]

@[simp] theorem execCoachServesAgain_queueKept (s) : QueueKept s (execCoachServesAgain s) := by
  unfold execCoachServesAgain
  dsimp only
  (repeat' split) <;> simp

@[simp] theorem execCoachWatchdog_queueKept (s) : QueueKept s (execCoachWatchdog s) := by
  unfold execCoachWatchdog
  dsimp only
  (repeat' split) <;> simp

@[simp] theorem execCoachRestartTimeout_queueKept (s) : QueueKept s (execCoachRestartTimeout s) := by simp [execCoachRestartTimeout]
@[simp] theorem fwuStage_pending (s) : (fwuStage s).pending = s.pending := by simp [fwuStage]
@[simp] theorem fwuActivate_pending (s b) : (fwuActivate s b).pending = s.pending := by simp [fwuActivate]
@[simp] theorem fwuConfirm_pending (s) : (fwuConfirm s).pending = s.pending := by unfold fwuConfirm; (repeat' split) <;> simp
@[simp] theorem fwuRom_pending (s) : (fwuRom s).pending = s.pending := by simp [fwuRom]
@[simp] theorem writeFwuCmd_pending (s v) : (writeFwuCmd s v).pending = s.pending := by unfold writeFwuCmd; split <;> simp
@[simp] theorem execFwuStage_queueKept (a s) : QueueKept s (execFwuStage a s) := by simp [execFwuStage]
@[simp] theorem execActivate_queueKept (a slotB s) : QueueKept s (execActivate a slotB s) := by simp [execActivate]
@[simp] theorem execConfirm_queueKept (a s) : QueueKept s (execConfirm a s) := by simp [execConfirm]
@[simp] theorem execRom_queueKept (a s) : QueueKept s (execRom a s) := by simp [execRom]

@[simp] theorem execFwuStageDone_queueKept (img s) : QueueKept s (execFwuStageDone img s) := by
  unfold execFwuStageDone
  dsimp only
  (repeat' split) <;> simp

@[simp] theorem execHealthyTimer_queueKept (s) : QueueKept s (execHealthyTimer s) := by simp [execHealthyTimer]

@[simp] theorem execConfirmWindowExpired_queueKept (s) : QueueKept s (execConfirmWindowExpired s) := by
  unfold execConfirmWindowExpired
  (repeat' split) <;> simp

/-! ### Machine/Marshal -/

@[simp] theorem rxMarshal_pending (s f m mtype k) (hk : ∀ u x, (k u x).pending = u.pending) :
    (rxMarshal s f m mtype k).pending = s.pending := by
  grind [rxMarshal, arrive_pending, checkFail_pending]

@[simp] theorem strayMsg_pending (s m) : (strayMsg s m).pending = s.pending := by simp [strayMsg]

@[simp] theorem takeHeartbeat_pending (s m) : (takeHeartbeat s m).pending = s.pending := by
  unfold takeHeartbeat
  dsimp only
  (repeat' split) <;> simp

@[simp] theorem execHeartbeat_queueKept (f m s) : QueueKept s (execHeartbeat f m s) := by simp [execHeartbeat]
@[simp] theorem takeEcho_pending (s m) : (takeEcho s m).pending = s.pending := by unfold takeEcho; split <;> simp
@[simp] theorem execEcho_queueKept (f m s) : QueueKept s (execEcho f m s) := by simp [execEcho]
@[simp] theorem takeSuspect_pending (s m) : (takeSuspect s m).pending = s.pending := by simp [takeSuspect]
@[simp] theorem execSuspect_queueKept (f m s) : QueueKept s (execSuspect f m s) := by simp [execSuspect]
@[simp] theorem execFence_queueKept (f m s) : QueueKept s (execFence f m s) := by simp [execFence]
@[simp] theorem execReadmit_queueKept (f m s) : QueueKept s (execReadmit f m s) := by simp [execReadmit]
@[simp] theorem execReport_queueKept (f m _entry s) : QueueKept s (execReport f m _entry s) := by simp [execReport]
@[simp] theorem execHeartbeatSend_queueKept (round s) : QueueKept s (execHeartbeatSend round s) := by simp [execHeartbeatSend]
@[simp] theorem suspectDev_pending (s d r) : (suspectDev s d r).pending = s.pending := by simp [suspectDev]
@[simp] theorem execHeartbeatDue_queueKept (round s) : QueueKept s (execHeartbeatDue round s) := by simp [execHeartbeatDue]
@[simp] theorem execEchoDue_queueKept (round s) : QueueKept s (execEchoDue round s) := by unfold execEchoDue; split <;> simp
@[simp] theorem closeTally_pending (s r d) : (closeTally s r d).pending = s.pending := by simp [closeTally]
@[simp] theorem execTallyClose_queueKept (round s) : QueueKept s (execTallyClose round s) := by simp [execTallyClose]
@[simp] theorem marResult_pending (s code) : (marResult s code).pending = s.pending := (rfl)
@[simp] theorem marCmdFence_pending (s) : (marCmdFence s).pending = s.pending := by simp [marCmdFence]
@[simp] theorem marCmdReadmitNow_pending (s) : (marCmdReadmitNow s).pending = s.pending := by simp [marCmdReadmitNow]
@[simp] theorem execMarCmdFenceAdmin_queueKept (a s) : QueueKept s (execMarCmdFenceAdmin a s) := by simp [execMarCmdFenceAdmin]
@[simp] theorem execMarCmdReadmit_queueKept (a s) : QueueKept s (execMarCmdReadmit a s) := by simp [execMarCmdReadmit]
@[simp] theorem marCmdSwapNow_pending (s) : (marCmdSwapNow s).pending = s.pending := by unfold marCmdSwapNow; split <;> simp
@[simp] theorem execMarCmdSwap_queueKept (a s) : QueueKept s (execMarCmdSwap a s) := by simp [execMarCmdSwap]
@[simp] theorem execPortFenceWrite_queueKept (a v s) : QueueKept s (execPortFenceWrite a v s) := by simp [execPortFenceWrite]
@[simp] theorem execStragglerReport_queueKept (dev s) : QueueKept s (execStragglerReport dev s) := by simp [execStragglerReport]

@[simp] theorem nackSys_pending (s d psn code) : (nackSys s d psn code).pending = s.pending := by
  unfold nackSys
  dsimp only
  (repeat' split) <;> simp

@[simp] theorem execNack_queueKept (f s) : QueueKept s (execNack f s) := by
  refine rxAckLike_queueKept fun s h => ?_
  dsimp only
  (repeat' split) <;> simp

/-! ### Machine/Pages -/

theorem tierPlace_pending (s r bytes) {a' b' u} (h : tierPlace s r bytes = some (a', b', u)) : u.pending = s.pending := by
  obtain ⟨k, -, hk⟩ := Option.map_eq_some_iff.1 h
  cases hk
  rfl

@[simp] theorem copyPage_pending (s b r e) : (copyPage s b r e).pending = s.pending := by
  grind [copyPage, tierPlace_pending, modReq_pending]

@[simp] theorem execCapCopyDone_queueKept (baton layer index s) : QueueKept s (execCapCopyDone baton layer index s) := by
  unfold execCapCopyDone
  (repeat' split) <;> simp

@[simp] theorem fetchLand_pending (s n b r m p e len) : (fetchLand s n b r m p e len).pending = s.pending := (rfl)

@[simp] theorem execPageFetchDone_queueKept (baton layer index s) : QueueKept s (execPageFetchDone baton layer index s) := by
  unfold execPageFetchDone
  (repeat' split) <;> simp

@[simp] theorem execHeatDirLate_queueKept (lane s) : QueueKept s (execHeatDirLate lane s) := by
  unfold execHeatDirLate
  (repeat' split) <;> simp

@[simp] theorem execBatonResident_queueKept (baton s) : QueueKept s (execBatonResident baton s) := by
  unfold execBatonResident
  (repeat' split) <;> simp

@[simp] theorem heldCpl_pending (s r) : (heldCpl s r).pending = s.pending := by simp [heldCpl]

@[simp] theorem execHoldLimitPark_queueKept (baton s) : QueueKept s (execHoldLimitPark baton s) := by
  unfold execHoldLimitPark
  (repeat' split) <;> simp

@[simp] theorem execHandoffWaitExpired_queueKept (baton s) : QueueKept s (execHandoffWaitExpired baton s) := by
  unfold execHandoffWaitExpired
  (repeat' split) <;> simp

/-! ### Machine/Laps -/

@[simp] theorem touchReq_pending (s b) : (touchReq s b).pending = s.pending := (rfl)

@[simp] theorem execSlotStart_queueKept (lane slot work s) : QueueKept s (execSlotStart lane slot work s) := by
  unfold execSlotStart
  dsimp only
  (repeat' split) <;> simp

@[simp] theorem execWeightHalfFull_queueKept (lane s) : QueueKept s (execWeightHalfFull lane s) := by
  unfold execWeightHalfFull
  dsimp only
  split <;> simp

@[simp] theorem slotEnd_pending (s n x) : (slotEnd s n x).pending = s.pending := by simp [slotEnd]
@[simp] theorem lateSource_pending (s d) : (lateSource s d).pending = s.pending := by simp [lateSource]

@[simp] theorem execSlotComplete_queueKept (lane slot cycles source s) :
    QueueKept s (execSlotComplete lane slot cycles source s) := by
  unfold execSlotComplete
  dsimp only
  (repeat' split) <;> simp

@[simp] theorem execJudgeReturn_queueKept (lane baton s) : QueueKept s (execJudgeReturn lane baton s) := by
  unfold execJudgeReturn
  dsimp only
  (repeat' split) <;> simp

@[simp] theorem countProductive_pending (s done) : (countProductive s done).pending = s.pending := by simp [countProductive]

@[simp] theorem commitLanes_pending (s) : (commitLanes s).1.pending = s.pending := by
  refine foldl_fst_keeps State.pending _ (fun y n => ?_) _ _
  exact commitLane_pending y.1 n

@[simp] theorem doCommit_pending (s) : (doCommit s).pending = s.pending := by simp [doCommit]
@[simp] theorem execCommitPoint_queueKept (s) : QueueKept s (execCommitPoint s) := by simp [execCommitPoint]
@[simp] theorem throttleUpdate_pending (s) : (throttleUpdate s).pending = s.pending := by simp [throttleUpdate]
@[simp] theorem leaderTakeover_pending (s) : (leaderTakeover s).pending = s.pending := by simp [leaderTakeover]
@[simp] theorem leadPulse_pending (s) : (leadPulse s).pending = s.pending := by simp [leadPulse]
@[simp] theorem startDrain_pending (s n) : (startDrain s n).pending = s.pending := by simp [startDrain]
@[simp] theorem laneCommands_pending (s n) : (laneCommands s n).pending = s.pending := by simp [laneCommands]
@[simp] theorem boundaryStops_pending (s n) : (boundaryStops s n).pending = s.pending := by simp [boundaryStops]

@[simp] theorem retrySpill_pending (s b) : (retrySpill s b).pending = s.pending := by
  unfold retrySpill
  grind [openSpill_pending, allocTier_pending]

@[simp] theorem retryPark_pending (s b) : (retryPark s b).pending = s.pending := by unfold retryPark; split <;> simp
@[simp] theorem retryHandoff_pending (s b) : (retryHandoff s b).pending = s.pending := by simp [retryHandoff]
@[simp] theorem boundaryReqs_pending (s) : (boundaryReqs s).pending = s.pending := by simp [boundaryReqs]
@[simp] theorem drainedLane_pending (s n) : (drainedLane s n).pending = s.pending := by simp [drainedLane]
@[simp] theorem dirBoundary_pending (s n) : (dirBoundary s n).pending = s.pending := by simp [dirBoundary]
@[simp] theorem countClean_pending (s n) : (countClean s n).pending = s.pending := (rfl)

@[simp] theorem startLane_pending (s n) : (startLane s n).pending = s.pending := by
  unfold startLane
  dsimp only
  (repeat' split) <;> simp

@[simp] theorem boundaryWork_pending (s) : (boundaryWork s).pending = s.pending := by simp [boundaryWork]
@[simp] theorem endGrace_pending (s) : (endGrace s).pending = s.pending := by simp [endGrace]
@[simp] theorem stagedAt_pending (s m) : (stagedAt s m).pending = s.pending := by unfold stagedAt; split <;> simp

@[simp] theorem nextLap_pending (s) : (nextLap s).pending = s.pending := by
  unfold nextLap
  dsimp only
  split <;> simp only [boundaryWork_pending, stagedAt_pending, endGrace_pending, doCommit_pending]

@[simp] theorem firstLap_pending (s p) : (firstLap s p).pending = s.pending := by simp [firstLap]

@[simp] theorem execLapBoundary_queueKept (s) : QueueKept s (execLapBoundary s) := by
  unfold execLapBoundary
  (repeat' split) <;> simp

@[simp] theorem execLapSyncEdge_queueKept (offset s) : QueueKept s (execLapSyncEdge offset s) := by
  unfold execLapSyncEdge
  split <;> simp

@[simp] theorem execSyncLost_queueKept (s) : QueueKept s (execSyncLost s) := by unfold execSyncLost; split <;> simp
@[simp] theorem execSyncRegained_queueKept (s) : QueueKept s (execSyncRegained s) := by unfold execSyncRegained; split <;> simp

@[simp] theorem execPtpLockLost_queueKept (s) : QueueKept s (execPtpLockLost s) := by
  unfold execPtpLockLost
  dsimp only
  split <;> simp

/-! ### Machine/HostPort -/

@[simp] theorem execCommandRingTail_queueKept (f tenant tail s) : QueueKept s (execCommandRingTail f tenant tail s) := by
  unfold execCommandRingTail
  dsimp only
  split <;> simp

@[simp] theorem execCompletionRingHead_queueKept (f tenant head s) : QueueKept s (execCompletionRingHead f tenant head s) := by
  unfold execCompletionRingHead
  dsimp only
  split <;> simp

@[simp] theorem execContextMsiXHoldoff_queueKept (tenant s) : QueueKept s (execContextMsiXHoldoff tenant s) := by
  unfold execContextMsiXHoldoff
  dsimp only
  split <;> simp

@[simp] theorem execEvtMsiHoldoff_queueKept (s) : QueueKept s (execEvtMsiHoldoff s) := by unfold execEvtMsiHoldoff; split <;> simp
@[simp] theorem dropCpls_pending (s n) : (dropCpls s n).pending = s.pending := (rfl)
@[simp] theorem dropSq_pending (s q) : (dropSq s q).pending = s.pending := by unfold dropSq; split <;> rfl
@[simp] theorem dropRq_pending (s q) : (dropRq s q).pending = s.pending := by unfold dropRq; split <;> simp
@[simp] theorem pauseRing_pending (s f b) : (pauseRing s f b).pending = s.pending := by unfold pauseRing; split <;> simp
@[simp] theorem closeFunc_pending (s f) : (closeFunc s f).pending = s.pending := by simp [closeFunc]

@[simp] theorem execFunctionLevelReset_queueKept (f s) : QueueKept s (execFunctionLevelReset f s) := by
  simp [execFunctionLevelReset]

@[simp] theorem execPcieFundamentalReset_queueKept (s) : QueueKept s (execPcieFundamentalReset s) := by
  simp [execPcieFundamentalReset]

@[simp] theorem startTraining_pending (s) : (startTraining s).pending = s.pending := (rfl)
@[simp] theorem execPerstRelease_queueKept (s) : QueueKept s (execPerstRelease s) := by simp [execPerstRelease]
@[simp] theorem pumpHost_pending (s) : (pumpHost s).pending = s.pending := by simp [pumpHost]

@[simp] theorem execPcieLinkUp_queueKept (width speed flit s) : QueueKept s (execPcieLinkUp width speed flit s) := by
  unfold execPcieLinkUp
  split <;> simp

@[simp] theorem linkDetect_pending (s) : (linkDetect s).pending = s.pending := (rfl)

@[simp] theorem execPcieLinkDownAfterFatal_queueKept (s) : QueueKept s (execPcieLinkDownAfterFatal s) := by
  simp [execPcieLinkDownAfterFatal]

@[simp] theorem execPcieConfigRequest_queueKept (f s) : QueueKept s (execPcieConfigRequest f s) := by simp [execPcieConfigRequest]
@[simp] theorem voidCopies_pending (s p b) : (voidCopies s p b).pending = s.pending := by unfold voidCopies; split <;> simp
@[simp] theorem dropRegionsOn_pending (s p) : (dropRegionsOn s p).pending = s.pending := (rfl)
@[simp] theorem loseStaging_pending (s p) : (loseStaging s p).pending = s.pending := by simp [loseStaging]
@[simp] theorem capDown_pending (s p) : (capDown s p).pending = s.pending := by simp [capDown]
@[simp] theorem execCapLinkDown_queueKept (port s) : QueueKept s (execCapLinkDown port s) := by simp [execCapLinkDown]
@[simp] theorem retrainCap_pending (s p v) : (retrainCap s p v).pending = s.pending := by simp [retrainCap]
@[simp] theorem execCapRetrain_queueKept (a port v s) : QueueKept s (execCapRetrain a port v s) := by simp [execCapRetrain]

@[simp] theorem execCapPortTrained_queueKept (port r s) : QueueKept s (execCapPortTrained port r s) := by
  unfold execCapPortTrained
  split <;> simp

/-! ### Machine/Legs -/

@[simp] theorem lateDrop_pending (s) : (lateDrop s).pending = s.pending := (rfl)

@[simp] theorem tryInbound_pending (s r n) : (tryInbound s r n).1.pending = s.pending := by
  unfold tryInbound
  grind [foldl_pending, acceptLeg_pending, dirChange_pending]

@[simp] theorem tryInboundLanes_pending (s r xs) : (tryInboundLanes s r xs).1.pending = s.pending := by
  fun_induction tryInboundLanes s r xs <;> grind [tryInbound_pending]

@[simp] theorem inboundOpen_pending (s r) : (inboundOpen s r).pending = s.pending := by simp [inboundOpen]

@[simp] theorem servePull_pending (s b dev ext) : (servePull s b dev ext).pending = s.pending := by
  grind [servePull, scrub_pending, endAudit_pending, refuseAsk_pending, modReq_pending, openRecall_pending, openRemote_pending]

@[simp] theorem serveWaiting_pending (s b) : (serveWaiting s b).pending = s.pending := by
  unfold serveWaiting
  (repeat' split) <;> simp

@[simp] theorem inboundAdd_pending (s r) : (inboundAdd s r).pending = s.pending := by
  grind [inboundAdd, lateDrop_pending, abortLeg_pending, allocItems_pending, modLeg_pending, clearLeg_pending]

@[simp] theorem execLegRequest_queueKept (f r s) : QueueKept s (execLegRequest f r s) := by
  unfold execLegRequest
  dsimp only
  (repeat' split) <;> simp

@[simp] theorem partHere_pending (s leg part bytes) : (partHere s leg part bytes).pending = s.pending := by
  unfold partHere
  (repeat' split) <;> simp

@[simp] theorem partFrameIn_pending (s f) : (partFrameIn s f).pending = s.pending := by unfold partFrameIn; split <;> simp

@[simp] theorem execLegControlPartRx_queueKept (x s) : QueueKept s (execLegControlPartRx x s) := by
  unfold execLegControlPartRx
  split <;> simp

@[simp] theorem sendPage_pending (s g k it image) : (sendPage s g k it image).pending = s.pending := by simp [sendPage]

@[simp] theorem sendCleared_pending (s g pages) : (sendCleared s g pages).pending = s.pending := by
  unfold sendCleared
  grind [foldl_pending, sendPage_pending, setPrecopy_pending, sourceDone_pending, modLeg_pending]

@[simp] theorem takeClear_pending (s f g) : (takeClear s f g).pending = s.pending := by
  unfold takeClear
  dsimp only
  (repeat' split) <;> simp

@[simp] theorem execClearRx_queueKept (f s) : QueueKept s (execClearRx f s) := by
  refine rxSystem_queueKept fun s => ?_
  split <;> simp

@[simp] theorem execLegPageRx_queueKept (f s) : QueueKept s (execLegPageRx f s) := by
  refine rxSystem_queueKept fun s => ?_
  dsimp only
  (repeat' split) <;> simp

@[simp] theorem writeImage_pending (s g k p) : (writeImage s g k p).pending = s.pending := by
  unfold writeImage
  (repeat' split) <;> simp

@[simp] theorem execXzPageWritten_queueKept (leg ordinal hdr s) : QueueKept s (execXzPageWritten leg ordinal hdr s) := by
  unfold execXzPageWritten
  (repeat' split) <;> simp

@[simp] theorem leaveDevice_pending (d s b) : (leaveDevice d s b).pending = s.pending := by unfold leaveDevice; split <;> simp

@[simp] theorem execLegCommitRx_queueKept (f s) : QueueKept s (execLegCommitRx f s) := by
  refine rxSystem_queueKept fun s => ?_
  split <;> simp

@[simp] theorem execLegAbortRx_queueKept (f s) : QueueKept s (execLegAbortRx f s) := by
  refine rxSystem_queueKept fun s => ?_
  dsimp only
  (repeat' split) <;> simp

@[simp] theorem execLegIdleTimeout_queueKept (leg s) : QueueKept s (execLegIdleTimeout leg s) := by
  unfold execLegIdleTimeout
  (repeat' split) <;> simp

@[simp] theorem execLegSourceTimeout_queueKept (leg s) : QueueKept s (execLegSourceTimeout leg s) := by
  unfold execLegSourceTimeout
  (repeat' split) <;> simp

@[simp] theorem execSpillDone_queueKept (baton s) : QueueKept s (execSpillDone baton s) := by unfold execSpillDone; split <;> simp
@[simp] theorem resumeFails_pending (s b code) : (resumeFails s b code).pending = s.pending := by unfold resumeFails; split <;> simp

@[simp] theorem execRecallDone_queueKept (baton s) : QueueKept s (execRecallDone baton s) := by
  unfold execRecallDone
  dsimp only
  (repeat' split) <;> simp

@[simp] theorem execControlScrub_queueKept (baton s) : QueueKept s (execControlScrub baton s) := by
  unfold execControlScrub
  split <;> simp

@[simp] theorem repairPage_pending (s r e bs) : (repairPage s r e bs).pending = s.pending := by
  unfold repairPage
  (repeat' split) <;> simp

@[simp] theorem execAuditDone_queueKept (baton s) : QueueKept s (execAuditDone baton s) := by
  unfold execAuditDone
  (repeat' split) <;> simp

/-! ### Machine/Resets -/

@[simp] theorem runAfterReset_pending (s) : (runAfterReset s).1.pending = s.pending := by
  unfold runAfterReset
  (repeat' split) <;> simp

@[simp] theorem fwuReset_pending (s) : (fwuReset s).1.pending = s.pending := by unfold fwuReset; split <;> simp
@[simp] theorem deviceReset_pending (s mark) : (deviceReset s mark).pending = s.pending := by simp [deviceReset]
@[simp] theorem mainStart_pending (s) : (mainStart s).pending = s.pending := (rfl)
@[simp] theorem execPowerOnReset_queueKept (s) : QueueKept s (execPowerOnReset s) := by simp [execPowerOnReset]

@[simp] theorem execMainBrownout_queueKept (rails s) : QueueKept s (execMainBrownout rails s) := by
  unfold execMainBrownout
  split <;> simp

@[simp] theorem execResetPin_queueKept (s) : QueueKept s (execResetPin s) := by simp [execResetPin]
@[simp] theorem execResetPinRelease_queueKept (s) : QueueKept s (execResetPinRelease s) := by simp [execResetPinRelease]
@[simp] theorem execRailGood_queueKept (r s) : QueueKept s (execRailGood r s) := by simp [execRailGood]
@[simp] theorem swReset_pending (s a v) : (swReset s a v).pending = s.pending := by simp [swReset]

@[simp] theorem execDeviceSoftwareReset_queueKept (a v s) : QueueKept s (execDeviceSoftwareReset a v s) := by
  simp [execDeviceSoftwareReset]

@[simp] theorem blockWrite_pending (s v) : (blockWrite s v).pending = s.pending := by simp [blockWrite]

@[simp] theorem execBlockSoftwareReset_queueKept (a v s) : QueueKept s (execBlockSoftwareReset a v s) := by
  simp [execBlockSoftwareReset]

@[simp] theorem execBlockResetRelease_queueKept (block s) : QueueKept s (execBlockResetRelease block s) := by
  unfold execBlockResetRelease
  split <;> simp

@[simp] theorem setRefused_pending (s n on) : (setRefused s n on).pending = s.pending := (rfl)
@[simp] theorem laneResetOne_pending (s n) : (laneResetOne s n).pending = s.pending := by simp [laneResetOne]
@[simp] theorem laneResetWrite_pending (s v) : (laneResetWrite s v).pending = s.pending := by simp [laneResetWrite]
@[simp] theorem execLaneReset_queueKept (a v s) : QueueKept s (execLaneReset a v s) := by simp [execLaneReset]
@[simp] theorem execTapReset_queueKept (s) : QueueKept s (execTapReset s) := by simp [execTapReset]

/-! ### Machine/LifeCycle -/

@[simp] theorem execFuseLoadDone_queueKept (s) : QueueKept s (execFuseLoadDone s) := by unfold execFuseLoadDone; split <;> simp

@[simp] theorem lcRequest_pending (s v authOk) : (lcRequest s v authOk).pending = s.pending := by
  unfold lcRequest
  (repeat' split) <;> simp

@[simp] theorem execLcTransitionRequest_queueKept (a v authOk s) : QueueKept s (execLcTransitionRequest a v authOk s) := by
  simp [execLcTransitionRequest]

@[simp] theorem execLcIntentBurned_queueKept (readBack s) : QueueKept s (execLcIntentBurned readBack s) := by
  unfold execLcIntentBurned
  split <;> simp

@[simp] theorem eraseAll_pending (s) : (eraseAll s).pending = s.pending := by simp [eraseAll]
@[simp] theorem lcWork_pending (s k) : (lcWork s k).pending = s.pending := by simp [lcWork]
@[simp] theorem execLcWorkDone_queueKept (s) : QueueKept s (execLcWorkDone s) := by unfold execLcWorkDone; split <;> simp

/-! ### Machine/Startup -/

@[simp] theorem reachAwaiting_pending (s) : (reachAwaiting s).pending = s.pending := by simp [reachAwaiting]
@[simp] theorem execStandbyRelease_queueKept (s) : QueueKept s (execStandbyRelease s) := by simp [execStandbyRelease]

@[simp] theorem execStrapSampled_queueKept (codes s) : QueueKept s (execStrapSampled codes s) := by
  unfold execStrapSampled
  split <;> simp

@[simp] theorem execPllLock_queueKept (s) : QueueKept s (execPllLock s) := by unfold execPllLock; split <;> simp
@[simp] theorem failStage_pending (s stage) : (failStage s stage).pending = s.pending := by simp [failStage]

@[simp] theorem execBolzilMarchDone_queueKept (ok s) : QueueKept s (execBolzilMarchDone ok s) := by
  unfold execBolzilMarchDone
  (repeat' split) <;> simp

@[simp] theorem execDieLinksTrained_queueKept (s) : QueueKept s (execDieLinksTrained s) := by simp [execDieLinksTrained]

@[simp] theorem execCoreMarchDone_queueKept (failed s) : QueueKept s (execCoreMarchDone failed s) := by
  unfold execCoreMarchDone
  split <;> simp

@[simp] theorem trainStack_pending (s failed n) : (trainStack s failed n).pending = s.pending := by
  unfold trainStack
  split <;> simp

@[simp] theorem execStackTrainingDone_queueKept (failed cap s) : QueueKept s (execStackTrainingDone failed cap s) := by
  unfold execStackTrainingDone
  split <;> simp

@[simp] theorem execStartupStackTestDone_queueKept (failed s) : QueueKept s (execStartupStackTestDone failed s) := by
  unfold execStartupStackTestDone
  split <;> simp

@[simp] theorem execBootImageChecked_queueKept (bootMs s) : QueueKept s (execBootImageChecked bootMs s) := by
  unfold execBootImageChecked
  split <;> simp

@[simp] theorem execSysclkFail_queueKept (s) : QueueKept s (execSysclkFail s) := by simp [execSysclkFail]
@[simp] theorem execRefclkFail_queueKept (s) : QueueKept s (execRefclkFail s) := by simp [execRefclkFail]
@[simp] theorem relayDown_pending (s i) : (relayDown s i).pending = s.pending := (rfl)
@[simp] theorem execEthclkFail_queueKept (s) : QueueKept s (execEthclkFail s) := by simp [execEthclkFail]

@[simp] theorem execClockRecovered_queueKept (c s) : QueueKept s (execClockRecovered c s) := by
  unfold execClockRecovered
  split <;> simp

@[simp] theorem alertUpdate_pending (s) : (alertUpdate s).pending = s.pending := by simp [alertUpdate]
@[simp] theorem trip_pending (s x) : (trip s x).pending = s.pending := by simp [trip]

@[simp] theorem execThermalSample_queueKept (r s) : QueueKept s (execThermalSample r s) := by
  unfold execThermalSample
  dsimp only
  split <;> simp

/-! ### Machine/RegWrite -/

theorem inRange_pending (ok s) {u} (h : inRange ok s = some u) : u.pending = s.pending := by
  simp only [inRange] at h
  split at h <;> cases h
  rfl

@[simp] theorem writeEvt_pending (s enable v) : (writeEvt s enable v).pending = s.pending := by simp [writeEvt]

theorem writeGlb_pending (s o v) {u} (h : writeGlb s o v = some u) : u.pending = s.pending := by
  simp only [writeGlb, inRange] at h
  (repeat' split at h) <;> cases h <;> simp

@[simp] theorem writeSta_pending (s a o v) : (writeSta s a o v).pending = s.pending := by unfold writeSta; split <;> simp
@[simp] theorem writeFus_pending (s o v) : (writeFus s o v).pending = s.pending := by unfold writeFus; (repeat' split) <;> simp
@[simp] theorem writeFwu_pending (s o v) : (writeFwu s o v).pending = s.pending := by unfold writeFwu; split <;> simp
@[simp] theorem writeLap_pending (s o v) : (writeLap s o v).pending = s.pending := by simp [writeLap]
@[simp] theorem writeMpl_pending (s o v) : (writeMpl s o v).pending = s.pending := by simp [writeMpl]
@[simp] theorem writeSrg_pending (s a o v) : (writeSrg s a o v).pending = s.pending := by unfold writeSrg; split <;> rfl
@[simp] theorem writePath_pending (s a v) : (writePath s a v).pending = s.pending := by simp [writePath]

theorem writeTe_pending (s a o v) {u} (h : writeTe s a o v = some u) : u.pending = s.pending := by
  simp only [writeTe, inRange] at h
  (repeat' split at h) <;> cases h <;> simp

@[simp] theorem demote_pending (s link lane) : (demote s link lane).pending = s.pending := (rfl)

theorem writeRlyCtrl_pending (s link v) {u} (h : writeRlyCtrl s link v = some u) : u.pending = s.pending := by
  simp only [writeRlyCtrl, inRange] at h
  (repeat' split at h) <;> cases h <;> simp

theorem writeRly_pending (s o v) {u} (h : writeRly s o v = some u) : u.pending = s.pending := by
  grind [writeRly, writeRlyCtrl_pending]

theorem writePac_pending (s a o v) {u} (h : writePac s a o v = some u) : u.pending = s.pending := by
  simp only [writePac, inRange] at h
  (repeat' split at h) <;> cases h <;> simp

@[simp] theorem writeBib_pending (s a o v) : (writeBib s a o v).pending = s.pending := by unfold writeBib; split <;> rfl
@[simp] theorem writeMarCmd_pending (s v) : (writeMarCmd s v).pending = s.pending := by unfold writeMarCmd; split <;> simp
@[simp] theorem writeRing_pending (s a v) : (writeRing s a v).pending = s.pending := by simp [writeRing]
@[simp] theorem writePortFence_pending (s v) : (writePortFence s v).pending = s.pending := by simp [writePortFence]
@[simp] theorem writeMar_pending (s a o v) : (writeMar s a o v).pending = s.pending := by unfold writeMar; split <;> simp
@[simp] theorem writeCap_pending (s o v) : (writeCap s o v).pending = s.pending := by unfold writeCap; split <;> simp
@[simp] theorem closeCtx_pending (s t) : (closeCtx s t).pending = s.pending := (rfl)
@[simp] theorem openCtx_pending (s t v) : (openCtx s t v).pending = s.pending := (rfl)

theorem writeCfg_pending (s t v) {u} (h : writeCfg s t v = some u) : u.pending = s.pending := by
  simp only [writeCfg, inRange] at h
  (repeat' split at h) <;> cases h <;> simp

theorem writeCtx_pending (s a o v) {u} (h : writeCtx s a o v = some u) : u.pending = s.pending := by
  simp only [writeCtx] at h
  (repeat' split at h) <;> grind [setCtx_pending, writeCfg_pending]

@[simp] theorem selCtx_pending (s a v) : (selCtx s a v).pending = s.pending := (rfl)

theorem writeHif_pending (s a o v) {u} (h : writeHif s a o v = some u) : u.pending = s.pending := by
  simp only [writeHif, inRange] at h
  (repeat' split at h) <;> try cases h
  · simp
  · rfl
  · exact writeCtx_pending _ _ _ _ h

@[simp] theorem writeMgmt_pending (s o v) : (writeMgmt s o v).pending = s.pending := by unfold writeMgmt; split <;> rfl
@[simp] theorem writeLane_pending (s n o v) : (writeLane s n o v).pending = s.pending := by unfold writeLane; split <;> simp

theorem writeGlobal_pending (s a w o v) {u} (h : writeGlobal s a w o v = some u) : u.pending = s.pending := by
  simp only [writeGlobal] at h
  (repeat' split at h) <;> grind [writeGlb_pending, writeSta_pending, writeFus_pending, writeFwu_pending, writeLap_pending,
    writeMpl_pending, writeSrg_pending, writeTe_pending, writePac_pending, writeBib_pending, writeMar_pending, writeCap_pending,
    writeRly_pending, writeHif_pending, writeMgmt_pending]

theorem writeReg_pending (s a off v) {u} (h : writeReg s a off v = some u) : u.pending = s.pending := by
  grind [writeReg, writeLane_pending, writeGlobal_pending]

theorem writeVf_pending (s f off v) {u} (h : writeVf s f off v = some u) : u.pending = s.pending := by
  grind [writeVf, selCtx_pending, writeCtx_pending]

theorem writeAt_pending (s a off v) {u} (h : writeAt s a off v = some u) : u.pending = s.pending := by
  simp only [writeAt] at h
  (repeat' split at h) <;> grind [writeVf_pending, writeReg_pending]

@[simp] theorem writeAccess_pending (s a off v full) : (writeAccess s a off v full).pending = s.pending := by
  grind [writeAccess, recordAccess_pending, writeAt_pending]

@[simp] theorem rcSmall_pending (s w o f) : (rcSmall s w o f).pending = s.pending := by unfold rcSmall; split <;> rfl
@[simp] theorem rcGlb_pending (s o f) : (rcGlb s o f).pending = s.pending := by unfold rcGlb; split <;> rfl
@[simp] theorem rcSrg_pending (s a o f) : (rcSrg s a o f).pending = s.pending := by unfold rcSrg; (repeat' split) <;> simp
@[simp] theorem rcTe_pending (s o f) : (rcTe s o f).pending = s.pending := by unfold rcTe; (repeat' split) <;> simp
@[simp] theorem modMeter_pending (s a g) : (modMeter s a g).pending = s.pending := (rfl)
@[simp] theorem rcPac_pending (s a o f) : (rcPac s a o f).pending = s.pending := by unfold rcPac; split <;> rfl
@[simp] theorem rcLane_pending (s n o f) : (rcLane s n o f).pending = s.pending := by unfold rcLane; split <;> rfl
@[simp] theorem rcMod_pending (s a off f) : (rcMod s a off f).pending = s.pending := by unfold rcMod; (repeat' split) <;> simp
@[simp] theorem takeRc_pending (s a off v) : (takeRc s a off v).pending = s.pending := by simp [takeRc]
@[simp] theorem latchHi_pending (s a off) : (latchHi s a off).pending = s.pending := by unfold latchHi; split <;> rfl
@[simp] theorem capture_pending (s a off) : (capture s a off).2.2.pending = s.pending := by unfold capture; split <;> simp
@[simp] theorem readOne_pending (s a off) : (readOne s a off).2.pending = s.pending := by unfold readOne; split <;> simp

@[simp] theorem readBytes_pending (s a off len) : (readBytes s a off len).2.pending = s.pending := by
  unfold readBytes
  split <;> simp

@[simp] theorem readAccess_pending (s a off len) : (readAccess s a off len).pending = s.pending := by simp [readAccess]
@[simp] theorem execRlyDemote_queueKept (a link v s) : QueueKept s (execRlyDemote a link v s) := by simp [execRlyDemote]
@[simp] theorem execTeCtrWrite_queueKept (a v s) : QueueKept s (execTeCtrWrite a v s) := by simp [execTeCtrWrite]
@[simp] theorem execTePathEntryWrite_queueKept (a v s) : QueueKept s (execTePathEntryWrite a v s) := by simp [execTePathEntryWrite]
@[simp] theorem execTeKgenWrite_queueKept (a system v s) : QueueKept s (execTeKgenWrite a system v s) := by simp [execTeKgenWrite]
@[simp] theorem execTeTuningWrite_queueKept (a reg v s) : QueueKept s (execTeTuningWrite a reg v s) := by simp [execTeTuningWrite]
@[simp] theorem execGlbEvtWrite_queueKept (a enable v s) : QueueKept s (execGlbEvtWrite a enable v s) := by simp [execGlbEvtWrite]
@[simp] theorem execRcRead_queueKept (a off len s) : QueueKept s (execRcRead a off len s) := by simp [execRcRead]
@[simp] theorem execLoReadLatch_queueKept (a off len s) : QueueKept s (execLoReadLatch a off len s) := by simp [execLoReadLatch]
@[simp] theorem execUnmappedRead_queueKept (a off len s) : QueueKept s (execUnmappedRead a off len s) := by simp [execUnmappedRead]

@[simp] theorem execRegisterWrite_queueKept (a off v full s) : QueueKept s (execRegisterWrite a off v full s) := by
  simp [execRegisterWrite]

/-! ### Machine/Mgmt -/

@[simp] theorem spiOut_pending (s) : (spiOut s).pending = s.pending := (rfl)
@[simp] theorem spiConsume_pending (s) : (spiConsume s).pending = s.pending := by unfold spiConsume; split <;> simp
@[simp] theorem setUnreach_pending (s held) : (setUnreach s held).pending = s.pending := by simp [setUnreach]
@[simp] theorem spiCapture_pending (s off) : (spiCapture s off).pending = s.pending := by simp [spiCapture]
@[simp] theorem spiStore_pending (s off v) : (spiStore s off v).pending = s.pending := by simp [spiStore]
@[simp] theorem spiCommand_pending (s w) : (spiCommand s w).pending = s.pending := by unfold spiCommand; (repeat' split) <;> simp
@[simp] theorem spiDiscarded_pending (s) : (spiDiscarded s).pending = s.pending := (rfl)

@[simp] theorem spiFrame_pending (s w edges) : (spiFrame s w edges).pending = s.pending := by
  unfold spiFrame
  dsimp only
  (repeat' split) <;> simp

@[simp] theorem execSpiRead_queueKept (w edges s) : QueueKept s (execSpiRead w edges s) := by simp [execSpiRead]
@[simp] theorem execSpiWrite_queueKept (w edges s) : QueueKept s (execSpiWrite w edges s) := by simp [execSpiWrite]
@[simp] theorem execSpiDataWord_queueKept (w edges s) : QueueKept s (execSpiDataWord w edges s) := by simp [execSpiDataWord]
@[simp] theorem execSpiNoop_queueKept (w edges s) : QueueKept s (execSpiNoop w edges s) := by simp [execSpiNoop]
@[simp] theorem execSpiFrameDiscard_queueKept (edges s) : QueueKept s (execSpiFrameDiscard edges s) := by simp [execSpiFrameDiscard]
@[simp] theorem uartReply_pending (s status v) : (uartReply s status v).pending = s.pending := (rfl)
@[simp] theorem uartOpen_pending (s status) : (uartOpen s status).pending = s.pending := (rfl)

@[simp] theorem uartRequest_pending (s crcOk opOk write off v) : (uartRequest s crcOk opOk write off v).pending = s.pending := by
  simp [uartRequest]

@[simp] theorem uartPacket_pending (s p) : (uartPacket s p).pending = s.pending := by simp [uartPacket]
@[simp] theorem uartTake_pending (s b) : (uartTake s b).pending = s.pending := by simp [uartTake]

@[simp] theorem execUartByteRx_queueKept (b stopOk parityOk early s) : QueueKept s (execUartByteRx b stopOk parityOk early s) := by
  simp [execUartByteRx]

@[simp] theorem execUartRead_queueKept (addr crcOk opOk s) : QueueKept s (execUartRead addr crcOk opOk s) := by simp [execUartRead]

@[simp] theorem execUartWrite_queueKept (addr v crcOk opOk s) : QueueKept s (execUartWrite addr v crcOk opOk s) := by
  simp [execUartWrite]

@[simp] theorem execUartPacketGap_queueKept (s) : QueueKept s (execUartPacketGap s) := by simp [execUartPacketGap]
@[simp] theorem i2cAnswer_pending (s code data) : (i2cAnswer s code data).pending = s.pending := (rfl)
@[simp] theorem execI2cReadByte_queueKept (code s) : QueueKept s (execI2cReadByte code s) := by simp [execI2cReadByte]
@[simp] theorem execI2cReadWord_queueKept (code s) : QueueKept s (execI2cReadWord code s) := by simp [execI2cReadWord]
@[simp] theorem execAlertResponse_queueKept (s) : QueueKept s (execAlertResponse s) := by simp [execAlertResponse]
@[simp] theorem execI2cSclTimeout_queueKept (s) : QueueKept s (execI2cSclTimeout s) := by simp [execI2cSclTimeout]
@[simp] theorem execTelemetryUpdate_queueKept (r s) : QueueKept s (execTelemetryUpdate r s) := by simp [execTelemetryUpdate]
@[simp] theorem tapSelect_pending (s code v driven hiZ) : (tapSelect s code v driven hiZ).pending = s.pending := (rfl)
@[simp] theorem tapBoundary_pending (s code cells driven) : (tapBoundary s code cells driven).pending = s.pending := (rfl)
@[simp] theorem execExtest_queueKept (cells s) : QueueKept s (execExtest cells s) := by simp [execExtest]
@[simp] theorem execIdcode_queueKept (s) : QueueKept s (execIdcode s) := by simp [execIdcode]
@[simp] theorem execSamplePreload_queueKept (cells s) : QueueKept s (execSamplePreload cells s) := by simp [execSamplePreload]
@[simp] theorem execClamp_queueKept (s) : QueueKept s (execClamp s) := by simp [execClamp]
@[simp] theorem execHighz_queueKept (s) : QueueKept s (execHighz s) := by simp [execHighz]
@[simp] theorem execDebug_queueKept (s) : QueueKept s (execDebug s) := by simp [execDebug]
@[simp] theorem execBypass_queueKept (code s) : QueueKept s (execBypass code s) := by simp [execBypass]

/-! ### Machine/Tick -/

@[simp] theorem tick_pending (s) : (tick s).pending = s.pending := by simp [tick]

/-! ### Step -/

/-- Every command keeps the queue, by its own lemma. -/
theorem exec_queueKept (i : Instr) (s : State) : QueueKept s (exec i s) := by
  unfold exec
  split <;> simp

/-- Settles O56: on an empty queue `tick` leaves it empty; else the command at the front runs on the state with the queue's rest,
and keeps it. The queue itself is the model's choice (log 1). -/
theorem stepKeepsTheQueue : Obligations.StepKeepsTheQueue := by
  intro s t h
  unfold step at h
  split at h
  · next hnil =>
    cases h
    rw [tick_pending, hnil, List.tail_nil]
  · next c cs hcons =>
    rw [hcons, List.tail_cons]
    exact exec_queueKept c { s with pending := cs } t h

end Sys2Proof.Machine
end

section
/-! PROOFS. Page events (R139 to R141, R144, R199, R441): what each event does to the request that it names once its conditions
hold, and what it leaves. -/

namespace Sys2Proof.Machine

open Sys2Proof

/-! ### The pages of a request -/

theorem isPage_of_findPage {r : Req} {kind : BitVec 2} {layer index : Nat} {e : PageEnt}
    (h : findPage r kind layer index = some e) : isPage kind layer index e = true :=
  List.find?_some (p := isPage kind layer index) h

/-- The numbers by which a page was found are its own. -/
theorem findPage_place {r : Req} {kind : BitVec 2} {layer index : Nat} {e : PageEnt} (h : findPage r kind layer index = some e) :
    e.layer.toNat = layer ∧ e.index.toNat = index := by
  have hpage := isPage_of_findPage h
  simp only [isPage, Bool.and_eq_true, decide_eq_true_eq] at hpage
  obtain ⟨⟨-, hlayer⟩, hindex⟩ := hpage
  exact ⟨hlayer, hindex⟩

/-- The page that a change is for is found where it was, changed, where the change keeps its kind and place. -/
theorem findPage_modPage_self {r : Req} {kind : BitVec 2} {layer index : Nat} {e : PageEnt} {f : PageEnt → PageEnt}
    (hkey : ∀ e, isPage kind layer index (f e) = isPage kind layer index e) (h : findPage r kind layer index = some e) :
    findPage (modPage r kind layer index f) kind layer index = some (f e) := by
  have hcomp : (isPage kind layer index ∘ fun e => if isPage kind layer index e then f e else e) = isPage kind layer index := by
    funext e
    simp only [Function.comp]
    split
    · exact hkey e
    · rfl
  have hfound : r.pages.find? (isPage kind layer index) = some e := h
  rw [findPage, modPage, List.find?_map, hcomp, hfound, Option.map_some, if_pos (isPage_of_findPage h)]

/-! ### Copies in the capacity tier (R40, R441) -/

/-- Taking space for a copy leaves requests, lanes and memory. -/
theorem tierPlace_keeps {s u : State} {r : Req} {bytes a : Nat} {p : Fin 4} (h : tierPlace s r bytes = some (p, a, u)) :
    u.reqs = s.reqs ∧ u.lanes = s.lanes ∧ u.mem = s.mem := by
  obtain ⟨k, -, hk⟩ := Option.map_eq_some_iff.1 h
  cases hk
  exact ⟨rfl, rfl, rfl⟩

/-- A page with its copy at a capacity-tier address. -/
def copiedPage (a : Nat) (e : PageEnt) : PageEnt := { e with copy := true, tierAddr := a }

/-- A request with the copy of one of its pages at an address of a port. -/
def copiedReq (e : PageEnt) (p : Fin 4) (a bytes : Nat) (r : Req) : Req :=
  { modPage r kPage e.layer.toNat e.index.toNat (copiedPage a) with capPort := some p, tierBytes := r.tierBytes + bytes }

theorem findPage_copiedReq {r : Req} {layer index : Nat} {e : PageEnt} (h : findPage r kPage layer index = some e) (p : Fin 4)
    (a bytes : Nat) : findPage (copiedReq e p a bytes r) kPage layer index = some (copiedPage a e) := by
  obtain ⟨rfl, rfl⟩ := findPage_place h
  exact findPage_modPage_self (f := copiedPage a) (fun _ => rfl) h

theorem copyPage_eq {s u : State} {b : BatonId} {r : Req} {e : PageEnt} {p : Fin 4} {a : Nat}
    (h : tierPlace s r (packed (entImage s r e).length) = some (p, a, u)) :
    copyPage s b r e = modReq { u with mem := { u.mem with cap := vmod u.mem.cap p fun m => memStore m a (entImage s r e) } } b
      (copiedReq e p a (packed (entImage s r e).length)) := by
  simp only [copyPage, h]
  rfl

section

variable {s u : State} {r : Req} {e : PageEnt} {p : Fin 4} {a : Nat}
  (h : tierPlace s r (packed (entImage s r e).length) = some (p, a, u))

include h

theorem findReq_copyPage {b : BatonId} (hreq : findReq s b = some r) :
    findReq (copyPage s b r e) b = some (copiedReq e p a (packed (entImage s r e).length) r) := by
  obtain ⟨hreqs, -, -⟩ := tierPlace_keeps h
  rw [copyPage_eq h]
  exact findReq_modReq_self (fun _ => by rfl) ((findReq_eq_of_reqs hreqs b).trans hreq)

theorem copyPage_lanes (b : BatonId) : (copyPage s b r e).lanes = s.lanes := by
  obtain ⟨-, hlanes, -⟩ := tierPlace_keeps h
  rw [copyPage_eq h]
  exact hlanes

theorem copyPage_mem (b : BatonId) :
    (copyPage s b r e).mem = { s.mem with cap := vmod s.mem.cap p fun m => memStore m a (entImage s r e) } := by
  obtain ⟨-, -, hmem⟩ := tierPlace_keeps h
  rw [copyPage_eq h, modReq_mem, hmem]

end

theorem exec_capCopyDone {s : State} {b : BatonId} {r : Req} {n : LaneNo} {layer : BitVec 10} {index : BitVec 16} {e : PageEnt}
    (hreq : findReq s b = some r) (hlane : r.lane = some n) (hpage : findPage r kPage layer.toNat index.toNat = some e)
    (hsealed : e.state = pSealed) (hcopy : e.copy = false) (hflag : kvFlag (laneOf s n) 2 = true) :
    exec (.capCopyDone b layer index) s = .next (copyPage s b r e) := by
  change execCapCopyDone b layer index s = _
  simp [execCapCopyDone, hreq, hlane, hpage, hsealed, hcopy, hflag]

/-! ### Fetches (R139) -/

/-- A page that has come back into its slots, SEALED, with the index record of a full page. -/
def fetchedPage (m : ModelSec) (e : PageEnt) : PageEnt :=
  { e with state := pSealed, copy := true, index_ := indexEntries m true 128 }

/-- A request whose page has come back. -/
def fetchedReq (m : ModelSec) (e : PageEnt) (now : Nat) (r : Req) : Req :=
  { modPage r kPage e.layer.toNat e.index.toNat (fetchedPage m) with readyAt := now }

theorem findPage_fetchedReq {r : Req} {layer index : Nat} {e : PageEnt} (h : findPage r kPage layer index = some e) (m : ModelSec)
    (now : Nat) : findPage (fetchedReq m e now r) kPage layer index = some (fetchedPage m e) := by
  obtain ⟨rfl, rfl⟩ := findPage_place h
  exact findPage_modPage_self (f := fetchedPage m) (fun _ => rfl) h

theorem findReq_fetchLand {s : State} {b : BatonId} {r : Req} (h : findReq s b = some r) (n : LaneNo) (m : ModelSec) (p : Fin 4)
    (e : PageEnt) (len : Nat) : findReq (fetchLand s n b r m p e len) b = some (fetchedReq m e s.clk.now r) :=
  findReq_modReq_self (f := fetchedReq m e s.clk.now) (fun _ => rfl) h

theorem fetchLand_mem (s : State) (n : LaneNo) (b : BatonId) (r : Req) (m : ModelSec) (p : Fin 4) (e : PageEnt) (len : Nat) :
    (fetchLand s n b r m p e len).mem = { s.mem with
      stack := vset s.mem.stack n (storeImage (s.mem.stack.get n) (laneOf s n) e.slots 0
        (memBytes (s.mem.cap.get p) e.tierAddr len)) } := rfl

theorem laneOf_dropStaleFetches (s : State) (b : BatonId) (n : LaneNo) : laneOf (dropStaleFetches s b) n = laneOf s n := rfl

/-- A fetch counts in a lane that is not retired. -/
theorem fetchLand_fetchCnt {s : State} {n : LaneNo} (h : (laneOf s n).ctl ≠ .retired) (b : BatonId) (r : Req) (m : ModelSec)
    (p : Fin 4) (e : PageEnt) (len : Nat) :
    (laneOf (fetchLand s n b r m p e len) n).kv.fetchCnt = satInc (laneOf s n).kv.fetchCnt := by
  have hlane : laneOf (fetchLand s n b r m p e len) n = if (laneOf s n).ctl = .retired then laneOf s n
      else { laneOf s n with kv := { (laneOf s n).kv with fetchCnt := satInc (laneOf s n).kv.fetchCnt } } := by
    unfold fetchLand
    rw [laneOf_dropStaleFetches, laneOf_modLane_self]
    rfl
  rw [hlane, if_neg h]

theorem exec_pageFetchDone {s : State} {b : BatonId} {r : Req} {n : LaneNo} {layer : BitVec 10} {index : BitVec 16} {e : PageEnt}
    {p : Fin 4} {m : ModelSec} {g : Leg} (hreq : findReq s b = some r) (hlane : r.lane = some n)
    (hpage : findPage r kPage layer.toNat index.toNat = some e) (hfar : e.state = pFar) (hslots : e.slots ≠ [])
    (hport : r.capPort = some p) (hmodel : modelOf s r.model = some m) (hup : capUp (s.cap.ports.get p) = true)
    (hhead : headFetch s p = some g) (hfetch : isFetch b layer.toNat index.toNat g = true) :
    exec (.pageFetchDone b layer index) s =
      .next (fetchLand s n b r m p e (itemBytes m (slotBytes (laneOf s n)) kPage pSealed 0)) := by
  change execPageFetchDone b layer index s = _
  simp [execPageFetchDone, hreq, hlane, hpage, hfar, hslots, hport, hmodel, hup, hhead, hfetch]

/-! ### The deadline of a heat directory (R141) -/

/-- A rebuild given up: its changes wait again, and the copy in use stays. -/
def abandonRebuild (kv : LaneKv) : LaneKv :=
  { kv with dirPend := undoRebuild kv ++ kv.dirPend, dirStart := none, dirHeld := 0, dirLate := true }

theorem exec_heatDirLate {s : State} {n : LaneNo} {start : BitVec 48} (hstart : (laneOf s n).kv.dirStart = some start)
    (hage : 4 ≤ dirAge s start) (hlate : dirReady s (laneOf s n).kv start = false ∨ 4 < dirAge s start) :
    exec (.heatDirLate n) s = .next (raiseEvt (modLane s n fun l => { l with kv := abandonRebuild l.kv }) 3) := by
  have hdue : (!(dirReady s (laneOf s n).kv start && decide (dirAge s start = 4))) = true := by
    rcases hlate with hready | hpast
    · rw [hready]
      rfl
    · rw [decide_eq_false (Nat.ne_of_gt hpast), Bool.and_false]
      rfl
  change execHeatDirLate n s = _
  simp only [execHeatDirLate, hstart, hage, hdue, decide_true, Bool.and_self, if_true]
  rfl

/-- The event raised stays on in the register. -/
theorem raiseEvt_getLsbD_self (s : State) {k : Nat} (h : k < 13) : (raiseEvt s k).glb.evt.getLsbD k = true := by
  rw [raiseEvt_evt]
  simp [BitVec.getLsbD_ofNat, Nat.testBit_shiftLeft, h]

theorem laneOf_raiseEvt (s : State) (k : Nat) (n : LaneNo) : laneOf (raiseEvt s k) n = laneOf s n :=
  congrArg (fun v : Vector Lane _ => v.get n) (raiseEvt_lanes s k)

/-! ### Residency (R104, R140) -/

theorem exec_batonResident {s : State} {b : BatonId} {r : Req} {n : LaneNo} (hreq : findReq s b = some r) (hlane : r.lane = some n)
    (harr : arrived s r n = true) (hok : residentOk s r n = true) :
    exec (.batonResident b) s =
      .next (modLane (modReq s b fun r => { r with resident := true, residentAt := s.clk.now }) n fun l =>
        { l with st := { l.st with joinQ := insertJoin (s.lap.count, b) l.st.joinQ } }) := by
  change execBatonResident b s = _
  simp only [execBatonResident, hreq, hlane, harr, hok, Bool.and_self, if_true]
  rfl

/-! ### Holding and waiting (R144, R199) -/

theorem findReq_heldCpl (s : State) (r : Req) (b : BatonId) : findReq (heldCpl s r) b = findReq s b :=
  findReq_eq_of_reqs (postCpl_reqs ..) b

theorem laneOf_modReq (s : State) (b : BatonId) (f : Req → Req) (n : LaneNo) : laneOf (modReq s b f) n = laneOf s n := rfl

theorem laneOf_heldCpl (s : State) (r : Req) (n : LaneNo) : laneOf (heldCpl s r) n = laneOf s n :=
  congrArg (fun v : Vector Lane _ => v.get n) (postCpl_lanes ..)

theorem exec_holdLimitPark {s : State} {b : BatonId} {r : Req} {n : LaneNo} (hreq : findReq s b = some r) (hlane : r.lane = some n)
    (hheld : holdLimit s ≤ r.held) (hpark : r.parkNext = false) (hlost : r.lost = none)
    (hphase : r.phase = .generation ∨ r.phase = .prompt) :
    exec (.holdLimitPark b) s =
      .next (heldCpl (modReq (modLane s n fun l => { l with kv := { l.kv with holdParkCnt := satInc l.kv.holdParkCnt } }) b
        fun r => { r with parkNext := true, parkWhy := .heldNoPage, held := 0 }) r) := by
  change execHoldLimitPark b s = _
  simp [execHoldLimitPark, hreq, hlane, hheld, hpark, hlost, hphase]

theorem exec_handoffWaitExpired {s : State} {b : BatonId} {r : Req} (hreq : findReq s b = some r) (hphase : r.phase = .handoff)
    (hleg : inLeg s b = false) (hwait : handoffLimit s ≤ r.handoffWait) (hpark : r.parkNext = false) :
    exec (.handoffWaitExpired b) s = .next (parkRequest s b) := by
  change execHandoffWaitExpired b s = _
  simp [execHandoffWaitExpired, hreq, hphase, hleg, hwait, hpark]

/-- Settles O35: each event's conditions select its one effect, and the clauses read that effect off. A prompt that is held too long
parks as a generation does (log 24). -/
theorem pageEvents : Obligations.PageEvents := by
  intro s b r n hreq hlane
  refine ⟨fun layer index e p a u hpage hsealed hcopy hflag hplace => ?_,
    fun layer index e p m g hpage hfar hslots hport hmodel hup hhead hfetch hctl => ?_, fun start hstart hage hlate => ?_,
    fun harr hok => ?_, fun hheld hpark hlost hphase => ?_, fun hphase hleg hwait hpark => ?_⟩
  · refine ⟨_, _, exec_capCopyDone hreq hlane hpage hsealed hcopy hflag, copyPage_mem hplace b,
      findReq_copyPage hplace hreq, rfl, ?_⟩
    rw [findPage_copiedReq hpage, copyPage_lanes hplace]
    exact ⟨rfl, rfl, rfl, rfl⟩
  · refine ⟨_, _, exec_pageFetchDone hreq hlane hpage hfar hslots hport hmodel hup hhead hfetch,
      ?_, fun k hk => ?_, rfl, rfl, findReq_fetchLand hreq .., ?_, rfl, fetchLand_fetchCnt hctl ..⟩
    · rw [fetchLand_mem, vset_get_self]
    · rw [fetchLand_mem, vset_get_ne _ _ _ _ hk]
    · rw [findPage_fetchedReq hpage]
      rfl
  · refine ⟨_, exec_heatDirLate hstart hage hlate, ?_⟩
    rw [laneOf_raiseEvt, laneOf_modLane_self, raiseEvt_reqs, raiseEvt_mem]
    exact ⟨rfl, rfl, rfl, raiseEvt_getLsbD_self _ (by decide), rfl, rfl⟩
  · exact ⟨_, _, exec_batonResident hreq hlane harr hok, findReq_modReq_self (fun _ => by rfl) hreq, rfl, rfl,
      congrArg (fun l : Lane => l.st.joinQ) (laneOf_modLane_self ..), rfl⟩
  · refine ⟨_, _, exec_holdLimitPark hreq hlane hheld hpark hlost hphase,
      (findReq_heldCpl ..).trans (findReq_modReq_self (fun _ => by rfl) hreq), rfl, rfl, rfl, rfl, ?_, postCpl_mem ..⟩
    rw [laneOf_heldCpl, laneOf_modReq, laneOf_modLane_self]
  · exact exec_handoffWaitExpired hreq hphase hleg hwait hpark

end Sys2Proof.Machine
end

section
/-! PROOFS. Resets of blocks and lanes (R343, R344): a write of one bit does one block's or one lane's work, and what comes before a
lane's restart leaves what the reset reads and keeps. -/

namespace Sys2Proof.Machine

open Sys2Proof

/-! ### One bit of a written word -/

/-- The word with bit k alone, as a write of one bit spells it. -/
theorem getLsbD_oneHot {w i k : Nat} (hi : i < w) : ((1 <<< k : Nat) : BitVec w).getLsbD i = decide (i = k) := by
  have hpow : 1 <<< k = 2 ^ k := Nat.one_shiftLeft k
  rw [hpow, BitVec.natCast_eq_ofNat, BitVec.getLsbD_ofNat, Nat.testBit_two_pow, decide_eq_true hi, Bool.true_and]
  exact decide_eq_decide.2 eq_comm

/-- A fold whose turns leave the state alone but for one element takes that element's turn. -/
theorem foldl_only {α : Type} {f : State → α → State} {k : α} (hf : ∀ s x, x ≠ k → f s x = s) {xs : List α} (hnodup : xs.Nodup)
    (hk : k ∈ xs) (s : State) : xs.foldl f s = f s k := by
  have hrest : ∀ (ys : List α) (u : State), k ∉ ys → ys.foldl f u = u := by
    intro ys
    induction ys with
    | nil => exact fun _ _ => rfl
    | cons y ys ih =>
      intro u hys
      rw [List.mem_cons, not_or] at hys
      rw [List.foldl_cons, hf u y fun h => hys.1 h.symm, ih u hys.2]
  induction xs generalizing s with
  | nil => cases hk
  | cons x xs ih =>
    obtain ⟨hx, hxs⟩ := List.nodup_cons.1 hnodup
    rw [List.foldl_cons]
    by_cases h : x = k
    · subst h
      exact hrest xs _ hx
    · rw [hf s x h]
      exact ih hxs (List.mem_of_ne_of_mem (Ne.symm h) hk) s

/-- A register command on a register that acts has its effect. -/
theorem regCmd_acts {s : State} {a : Accessor} {off : Nat} (h : RegActs s a off) (act : State → State) :
    regCmd s a off act = .next (act s) := by
  obtain ⟨hvf, hreach, hheld⟩ := h
  unfold regCmd regWrite
  split
  · exact absurd rfl (hvf _)
  · rw [hreach, hheld]
    rfl

/-! ### Block resets (R343) -/

/-- A block resets and is held from then on. -/
def resetAndHold (s : State) (k : Nat) : State :=
  { blockReset s k with sta := { (blockReset s k).sta with blockHeld := (blockReset s k).sta.blockHeld ||| (1 <<< k) } }

/-- A write of one bit resets and holds that block alone. -/
theorem blockWrite_oneHot (s : State) (k : Fin 10) :
    blockWrite s (1 <<< k.val) = if s.sta.blockHeld.getLsbD k.val then s else resetAndHold s k.val := by
  have hk : ((1 <<< k.val : Nat) : Word).getLsbD k.val = true := by
    rw [getLsbD_oneHot (by omega), decide_eq_true rfl]
  unfold blockWrite
  rw [foldl_only (k := k.val) (fun u j hj => ?_) List.nodup_range (List.mem_range.2 k.isLt)]
  · rw [hk]
    cases s.sta.blockHeld.getLsbD k.val <;> rfl
  · by_cases hw : j < 32
    · rw [getLsbD_oneHot hw, decide_eq_false hj]
      rfl
    · rw [BitVec.getLsbD_of_ge _ _ (by omega)]
      rfl

theorem exec_blockSoftwareReset {s : State} {a : Accessor} (h : RegActs s a 0x00010010) (v : Word) :
    exec (.blockSoftwareReset a v) s = .next (blockWrite s v) :=
  regCmd_acts h _

theorem exec_blockSoftwareReset_free {s : State} {a : Accessor} (h : RegActs s a 0x00010010) {k : Fin 10}
    (hfree : s.sta.blockHeld.getLsbD k.val = false) :
    exec (.blockSoftwareReset a (1 <<< k.val)) s = .next (resetAndHold s k.val) := by
  rw [exec_blockSoftwareReset h, blockWrite_oneHot, hfree]
  rfl

theorem exec_blockSoftwareReset_held {s : State} {a : Accessor} (h : RegActs s a 0x00010010) {k : Fin 10}
    (hheld : s.sta.blockHeld.getLsbD k.val = true) : exec (.blockSoftwareReset a (1 <<< k.val)) s = .next s := by
  rw [exec_blockSoftwareReset h, blockWrite_oneHot, if_pos hheld]

theorem exec_blockResetRelease {s : State} {b : Fin 10} (hheld : s.sta.blockHeld.getLsbD b.val = true) :
    exec (.blockResetRelease b) s =
      .next (pumpAll { s with sta := { s.sta with blockHeld := s.sta.blockHeld &&& ~~~((1 : BitVec 10) <<< b.val) } }) :=
  if_pos hheld

/-! ### What ends before a lane starts again -/

/-- What a lane reset reads and keeps stands as it was: memory, requests, time, STA, every other lane, and of the lane itself its
state, its cause and its pages. -/
structure LaneKept (n : LaneNo) (s t : State) : Prop where
  mem : t.mem = s.mem
  reqs : t.reqs = s.reqs
  clk : t.clk = s.clk
  sta : t.sta = s.sta
  others : ∀ k, k ≠ n → laneOf t k = laneOf s k
  ctl : (laneOf t n).ctl = (laneOf s n).ctl
  cause : (laneOf t n).cause = (laneOf s n).cause
  kv : (laneOf t n).kv = (laneOf s n).kv

namespace LaneKept

variable {n : LaneNo} {s t : State}

theorem refl (n : LaneNo) (s : State) : LaneKept n s s := ⟨rfl, rfl, rfl, rfl, fun _ _ => rfl, rfl, rfl, rfl⟩

theorem modLane {f : Lane → Lane} (h : LaneKept n s t)
    (hf : ∀ l, (f l).ctl = l.ctl ∧ (f l).cause = l.cause ∧ (f l).kv = l.kv := by exact fun _ => ⟨rfl, rfl, rfl⟩) :
    LaneKept n s (modLane t n f) where
  mem := h.mem
  reqs := h.reqs
  clk := h.clk
  sta := h.sta
  others k hk := (laneOf_modLane_ne t n k f hk).trans (h.others k hk)
  ctl := by rw [laneOf_modLane_self, (hf _).1, h.ctl]
  cause := by rw [laneOf_modLane_self, (hf _).2.1, h.cause]
  kv := by rw [laneOf_modLane_self, (hf _).2.2, h.kv]

/-- An update of none of the parts named keeps them. -/
theorem of_parts {u : State} (h : LaneKept n s t) (hmem : u.mem = t.mem) (hreqs : u.reqs = t.reqs) (hclk : u.clk = t.clk)
    (hsta : u.sta = t.sta) (hlanes : u.lanes = t.lanes) : LaneKept n s u := by
  have hlane : ∀ k, laneOf u k = laneOf t k := fun k => congrArg (fun v : Vector Lane 12 => v.get k) hlanes
  exact ⟨hmem.trans h.mem, hreqs.trans h.reqs, hclk.trans h.clk, hsta.trans h.sta, fun k hk => (hlane k).trans (h.others k hk),
    by rw [hlane, h.ctl], by rw [hlane, h.cause], by rw [hlane, h.kv]⟩

theorem emit (h : LaneKept n s t) (o : Out) : LaneKept n s (emit t o) := h.of_parts rfl rfl rfl rfl rfl

theorem complete (h : LaneKept n s t) (hdr : HostHdr) (op : Byte) (c : Finish) : LaneKept n s (complete t hdr op c) :=
  h.of_parts (complete_mem ..) (complete_reqs ..) (complete_clk ..) (complete_sta ..) (complete_lanes ..)

theorem completeB (h : LaneKept n s t) (hdr : HostHdr) (op : Byte) (c : Finish) (r : Byte) (ws : List Word) :
    LaneKept n s (completeB t hdr op c r ws) :=
  h.of_parts (completeB_mem ..) (completeB_reqs ..) (completeB_clk ..) (completeB_sta ..) (completeB_lanes ..)

theorem completeAll (h : LaneKept n s t) (hs : List HostHdr) (op : Byte) (c : Finish) :
    LaneKept n s (completeAll t hs op c) := by
  unfold Machine.completeAll
  induction hs generalizing t with
  | nil => exact h
  | cons hdr hs ih => exact ih (h.complete hdr op c)

theorem returnSpares (h : LaneKept n s t) : LaneKept n s (returnSpares t n) := by
  unfold Machine.returnSpares
  have hmar : ∀ m : Mar, LaneKept n s { t with mar := m } := fun _ => h.of_parts rfl rfl rfl rfl rfl
  exact modLane (hmar _)

theorem dropReplacement (h : LaneKept n s t) : LaneKept n s (dropReplacement t n) := by
  unfold Machine.dropReplacement
  split
  · exact emit (modLane h) _
  · exact h

theorem failLaneCmds (h : LaneKept n s t) (code : Finish) : LaneKept n s (failLaneCmds t n code) := by
  unfold Machine.failLaneCmds
  dsimp only
  split <;> split
  · exact complete (completeB (completeAll (modLane h) ..) ..) ..
  · exact complete (completeAll (modLane h) ..) ..
  · exact completeB (completeAll (modLane h) ..) ..
  · exact completeAll (modLane h) ..

/-- Spares, replacement and commands of a lane that resets go first. -/
theorem beforeReset (s : State) (n : LaneNo) :
    LaneKept n s (Machine.failLaneCmds (Machine.dropReplacement (Machine.returnSpares s n) n) n .discarded) :=
  (refl n s).returnSpares.dropReplacement.failLaneCmds _

end LaneKept

theorem laneHold_eq_of_sta {s t : State} (h : t.sta = s.sta) (n : LaneNo) : laneHold t n = laneHold s n := by
  rw [laneHold, laneHold, dieLevel, dieLevel, h]

/-! ### Lane resets (R344) -/

theorem laneOf_setRefused (s : State) (n : LaneNo) (on : Bool) (k : LaneNo) : laneOf (setRefused s n on) k = laneOf s k := rfl

theorem setRefused_getLsbD (s : State) (n : LaneNo) (on : Bool) :
    (setRefused s n on).sta.laneRefused.getLsbD n.val = on := by
  unfold setRefused
  cases on
  · change (_ &&& ~~~((1 : BitVec 12) <<< n.val)).getLsbD n.val = false
    simp
  · change (_ ||| ((1 <<< n.val : Nat) : BitVec 12)).getLsbD n.val = true
    rw [BitVec.getLsbD_or, getLsbD_oneHot n.isLt, decide_eq_true rfl, Bool.or_true]

/-- A lane reset that its lane allows starts the lane again on a state that keeps what the reset reads. -/
theorem laneResetOne_ok {s : State} {n : LaneNo} (hok : laneResetOk s n = true) :
    ∃ u, LaneKept n s u ∧ laneResetOne s n =
      setRefused (modLane u n fun l => { laneStart n l with heldUntil := s.clk.now + laneHold s n }) n false := by
  refine ⟨_, LaneKept.beforeReset s n, ?_⟩
  rw [← (LaneKept.beforeReset s n).clk, ← laneHold_eq_of_sta (LaneKept.beforeReset s n).sta]
  exact if_pos hok

theorem laneResetOne_refused {s : State} {n : LaneNo} (hbusy : laneResetOk s n = false) :
    laneResetOne s n = setRefused s n true := by
  rw [laneResetOne, hbusy]
  rfl

theorem laneResetOk_of_serving {s : State} {n : LaneNo} (h : (laneOf s n).ctl = .serving) : laneResetOk s n = false := by
  rw [laneResetOk, h]
  rfl

/-- A lane's bit of STA_LANE_RESET lies below the REFUSED bits that the same write clears. -/
theorem refusedBits_oneHot : ∀ n : LaneNo, ((1 <<< n.val : Nat) : Word).extractLsb' 16 12 = 0 := by decide

/-- A write of one bit resets that lane alone, unless a reset holds it. -/
theorem laneResetWrite_oneHot (s : State) (n : LaneNo) :
    laneResetWrite s (1 <<< n.val) = if laneHeld s n then s else laneResetOne s n := by
  have hclear : s.sta.laneRefused &&& ~~~(0 : BitVec 12) = s.sta.laneRefused := BitVec.and_allOnes
  have hn : ((1 <<< n.val : Nat) : Word).getLsbD n.val = true := by
    rw [getLsbD_oneHot (by omega), decide_eq_true rfl]
  unfold laneResetWrite
  rw [refusedBits_oneHot, hclear]
  change (List.finRange 12).foldl _ s = _
  rw [foldl_only (k := n) (fun u k hk => ?_) (List.nodup_finRange 12) (List.mem_finRange n)]
  · rw [hn]
    cases laneHeld s n <;> rfl
  · rw [getLsbD_oneHot (by omega), decide_eq_false fun h => hk (Fin.ext h)]
    rfl

theorem exec_laneReset {s : State} {a : Accessor} (h : RegActs s a 0x00010014) (n : LaneNo) :
    exec (.laneReset a (1 <<< n.val)) s = .next (if laneHeld s n then s else laneResetOne s n) :=
  (regCmd_acts h _).trans (congrArg _ (laneResetWrite_oneHot s n))

/-- Settles O21: a write of one bit comes to `resetAndHold` of its block or `laneResetOne` of its lane. The hold of 64 cycles of the
lane's clock is the model's choice (log 45). -/
theorem partialResets : Obligations.PartialResets := by
  refine ⟨fun s a h => ⟨fun hfree => exec_blockSoftwareReset_free h (k := 0) hfree,
    fun hfree => exec_blockSoftwareReset_free h (k := 1) hfree, fun hfree => exec_blockSoftwareReset_free h (k := 5) hfree,
    fun hheld => exec_blockSoftwareReset_held h (k := 5) hheld, fun _ => exec_blockResetRelease⟩, fun s a n h => ?_⟩
  have hexec := exec_laneReset h n
  refine ⟨fun hfree hok => ?_, fun hheld => ?_, fun hfree hserving => ?_⟩
  · obtain ⟨u, hkept, hreset⟩ := laneResetOne_ok hok
    rw [hfree] at hexec
    refine ⟨_, hexec.trans (congrArg _ hreset), ?_⟩
    rw [laneOf_setRefused, laneOf_modLane_self]
    refine ⟨?_, hkept.cause, ?_, ?_, rfl, rfl, setRefused_getLsbD _ n false, hkept.mem, hkept.reqs, fun k hk => ?_⟩
    · exact congrArg (fun c => if c = .retired then LaneCtl.retired else .unassigned) hkept.ctl
    · exact (congrArg LaneKv.reserveFree hkept.kv :)
    · exact (congrArg LaneKv.sharedFree hkept.kv :)
    · rw [laneOf_setRefused, laneOf_modLane_ne u n k _ hk, hkept.others k hk]
  · rw [hexec, if_pos hheld]
  · rw [hfree, laneResetOne_refused (laneResetOk_of_serving hserving)] at hexec
    exact ⟨_, hexec, rfl, rfl, rfl, setRefused_getLsbD s n true⟩

end Sys2Proof.Machine
end

section
/-! PROOFS. The time stamp of a frame (R267): a frame leaves with PTP time, which stands still while ETHCLK fails (R425) though the
device's own time runs on. -/

namespace Sys2Proof.Machine

open Sys2Proof

theorem pumpAll_out (s : State) : (pumpAll s).out = s.out :=
  (congrArg State.out (pumpAll_sansTransport s) :)

/-- R212, R267 and R268: the head of a queue leaves with PTP time as its TX_TIME. -/
theorem startFrame_out {s : State} {port q : Nat} {f : TxFrame} {rest : List TxFrame}
    (hq : (pacQueue s port q).frames = f :: rest) :
    (startFrame s port q).out = s.out ++ [.frame port (framePcp s port f.cls) (lo32 (ptpTime s)) f
      (wireBytes s port (framePcp s port f.cls) (lo32 (ptpTime s)) f)] := by
  unfold startFrame
  simp only [hq, pumpAll_out]
  split <;> rfl

/-- The stamp of the frame that a queue's head is seen to leave as. -/
theorem stamp_of_startFrame_out {s : State} {port q : Nat} {f : TxFrame} {rest : List TxFrame} {pcp : BitVec 3} {time : Word}
    {bytes : List Byte} (hq : (pacQueue s port q).frames = f :: rest)
    (hout : (startFrame s port q).out = s.out ++ [.frame port pcp time f bytes]) : time = lo32 (ptpTime s) := by
  rw [startFrame_out hq, List.append_cancel_left_eq, List.cons.injEq, Out.frame.injEq] at hout
  obtain ⟨⟨-, -, htime, -⟩, -⟩ := hout
  exact htime.symm

/-! ### A frame that leaves while PTP time is held -/

/-- The Pacer's turn at a port: what it makes of the state before a frame starts, and the queue that it chooses. -/
def pacerTurn (s : State) (k : Fin 19) : State × Option Nat := chooseQueue (holdHeads (fillPort s k.val) k.val) k.val

/-- The clause on the Pacer's choice makes the clock's time the stamp of every frame. -/
theorem stamp_of_portEvents (h : Obligations.PortEvents) {s : State} {k : Fin 19} {q : Nat} {f : TxFrame} {rest : List TxFrame}
    (hheld : pacHeld s = false) (husable : portUsable s k.val = true) (hidle : (s.pac.ports.get k).busyUntil ≤ s.clk.now)
    (hqueue : (pacerTurn s k).2 = some q) (hframes : (pacQueue (pacerTurn s k).1 k.val q).frames = f :: rest) :
    lo32 s.clk.now = lo32 (ptpTime (pacerTurn s k).1) := by
  obtain ⟨-, -, -, -, -, -, -, -, -, hchoose, -⟩ := h s 0
  obtain ⟨-, hkept, -, hstart⟩ := hchoose k hheld husable hidle
  obtain ⟨t, -, rfl, -, hout⟩ := hstart q f rest hqueue hframes
  rw [← hkept] at hout
  exact stamp_of_startFrame_out hframes hout

/-- A MARSHAL frame without payload. -/
def idleFrame : TxFrame :=
  { op := opMarshal, cls := clsMarshal, flags := 0, dst := 6, path := 0, dstCh := sysCh, psn := 0, planTag := 0, tenant := 0
    kgen := 0, rkey := 0, aux := 0, addr := 0, payload := [], vlan := 0, sq := none, rt := Retx.new }

/-- Port 0 is up with one frame in its first strict queue; PTP time is held at 0 and the device's own time has come to 1. -/
def heldTimeDev : State :=
  { State.reset with
    clk := { Clk.reset with now := 1, ptpHold := some 0 }
    te := { Te.reset with portUp := 1 }
    pac := { ports := vset Pac.reset.ports 0 { PacP.reset with
      queues := vset PacP.reset.queues 0 { PacQ.reset with frames := [idleFrame] } } } }

theorem heldTimeDev_ready : pacHeld heldTimeDev = false ∧ portUsable heldTimeDev (0 : Fin 19).val = true ∧
    (heldTimeDev.pac.ports.get 0).busyUntil ≤ heldTimeDev.clk.now := by
  decide +kernel

theorem heldTimeDev_turn : (pacerTurn heldTimeDev 0).2 = some 0 ∧
    (pacQueue (pacerTurn heldTimeDev 0).1 (0 : Fin 19).val 0).frames = [idleFrame] := by
  decide +kernel

/-- The clock says 1; the stamp is the held time 0. -/
theorem heldTimeDev_stamp : lo32 heldTimeDev.clk.now = 1 ∧ lo32 (ptpTime (pacerTurn heldTimeDev 0).1) = 0 := by
  decide +kernel

/-- Refutes O47: the clause on the Pacer's choice gives every frame the clock's time as TX_TIME. The model stamps PTP time, which is
another while ETHCLK fails (R425): in `heldTimeDev` the frame leaves with 0 where the clause says 1. The clause has no premise that
PTP time runs, and none that ties a port that is up to ETHCLK. -/
theorem not_portEvents : ¬ Obligations.PortEvents := by
  intro h
  obtain ⟨hheld, husable, hidle⟩ := heldTimeDev_ready
  obtain ⟨hqueue, hframes⟩ := heldTimeDev_turn
  obtain ⟨hclock, hheldTime⟩ := heldTimeDev_stamp
  have hstamp := stamp_of_portEvents h hheld husable hidle hqueue hframes
  rw [hclock, hheldTime] at hstamp
  exact absurd hstamp (by decide)

end Sys2Proof.Machine
end

section
/-! PROOFS. The beginning of an audit (R206): taking slots changes no more of a request than its pages, so the request that the checks
passed is there when the replay begins. -/

namespace Sys2Proof.Machine

open Sys2Proof

/-! ### What taking slots leaves of a request (R143) -/

/-- A request without its pages: what reclaim by age leaves of it. -/
def sansPages (r : Req) : Req := { r with pages := [] }

theorem findReq_sansPages {s t : State} (h : t.reqs.map sansPages = s.reqs.map sansPages) (b : BatonId) :
    (findReq t b).map sansPages = (findReq s b).map sansPages := by
  have hfind : ∀ u : State, (findReq u b).map sansPages = (u.reqs.map sansPages).find? fun r => r.id == b := by
    intro u
    rw [List.find?_map]
    rfl
  rw [hfind, hfind, h]

theorem freeSlots_reqs (s : State) (n : LaneNo) (ks : List Nat) : (freeSlots s n ks).reqs = s.reqs :=
  foldl_keeps State.reqs _ (fun s _ => modLane_reqs s ..) ks s

theorem reclaim_sansPages {s u : State} {n : LaneNo} {t : Tenant} (h : reclaim s n t = some u) :
    u.reqs.map sansPages = s.reqs.map sansPages := by
  unfold reclaim at h
  split at h
  · cases h
  · cases h
    rw [countReclaim, modLane_reqs, freeSlots_reqs, modReq_reqs, List.map_map]
    refine List.map_congr_left fun r _ => ?_
    simp only [Function.comp]
    split <;> rfl
  · cases h
    rfl

theorem takeFreeSlot_reqs {s u : State} {n : LaneNo} {t : Tenant} {k : Nat} (h : takeFreeSlot s n t = some (k, u)) :
    u.reqs = s.reqs := by
  simp only [takeFreeSlot] at h
  (repeat' split at h) <;> cases h <;> rfl

theorem takeOrReclaim_sansPages (fuel : Nat) (s : State) (n : LaneNo) (t : Tenant) :
    (takeOrReclaim fuel s n t).1.reqs.map sansPages = s.reqs.map sansPages := by
  induction fuel generalizing s with
  | zero => rfl
  | succ fuel ih =>
    unfold takeOrReclaim
    split
    · next h => rw [takeFreeSlot_reqs h]
    · split
      · rfl
      · next h => exact (ih _).trans (reclaim_sansPages h)

theorem takeSlot_sansPages (s : State) (n : LaneNo) (t : Tenant) :
    (takeSlot s n t).1.reqs.map sansPages = s.reqs.map sansPages := by
  unfold takeSlot
  split
  · exact takeOrReclaim_sansPages ..
  · rfl

theorem takeSlots_sansPages (s : State) (n : LaneNo) (t : Tenant) (k : Nat) :
    (takeSlots s n t k).1.reqs.map sansPages = s.reqs.map sansPages := by
  fun_induction takeSlots s n t k with
  | case1 => rfl
  | case2 s k u h => simpa [h] using takeSlot_sansPages s n t
  | case3 s k u a h r ih => exact ih.trans (by simpa [h] using takeSlot_sansPages s n t)

/-- A request that is here is here after slots were taken, and only its pages may differ. -/
theorem findReq_takeSlots {s : State} {b : BatonId} {r : Req} (h : findReq s b = some r) (n : LaneNo) (t : Tenant) (k : Nat) :
    ∃ q, findReq (takeSlots s n t k).1 b = some q ∧ sansPages q = sansPages r := by
  have hview := findReq_sansPages (takeSlots_sansPages s n t k) b
  rw [h, Option.map_some] at hview
  exact Option.map_eq_some_iff.1 hview

/-! ### The audit -/

/-- Settles O5: past its checks the command is `takeSlots`, the record of the run in the request, and `openReplayLeg`. That the
replay runs in the first lane that a resume could take, and what its scratch slots are, is the model's choice (logs 25, 26, 57). -/
theorem auditBegins : Obligations.AuditBegins := by
  intro s h b fromPos toPos rep r m n ns hserved htenant hreq hlost hmodel hrest haudit hrange hopen hlegs hlanes hhere need x hneed u
  constructor
  · have hfind : findReq (fetched s h) b = some r := hreq
    have hmodel' : modelOf (fetched s h) r.model = some m := hmodel
    have hopen' : btnOpen (fetched s h) = true := hopen
    have hlanes' : resumeLanes (fetched s h) r = n :: ns := hlanes
    have hlegs' : ¬ 4096 < (fetched s h).btn.legs.length + (if fromPos = 0 then 0 else 1) := Nat.not_lt.2 hlegs
    show Host.Outcome.next (hostCmd s h 0x07 false _) = _
    rw [hostCmd_served hserved]
    simp only [hfind, htenant, ne_eq, not_true_eq_false, if_false, hlost, hmodel', hrest, haudit, hrange, hopen', hlanes', hlegs',
      hhere, Bool.not_true, Option.isSome_none, Bool.or_self, decide_false, Bool.false_eq_true]
    refine (congrArg Host.Outcome.next (if_pos hneed)).trans ?_
    cases r.lane <;> rfl
  · obtain ⟨q, hq, hview⟩ := findReq_takeSlots (s := fetched s h) hreq n h.tenant need
    have hlog : q.log = r.log := (congrArg Req.log hview :)
    have hphase : q.phase = r.phase := (congrArg Req.phase hview :)
    exact ⟨_, findReq_modReq_self (fun _ => by rfl) hq, rfl, hlog, hphase⟩

end Sys2Proof.Machine
end

section
/-! PROOFS. Frames of system contexts (R232, R238): what sending leaves of BTN and the exchange zone, and what an accepted frame comes
to. -/

namespace Sys2Proof.Machine

open Sys2Proof

/-! ### Sending reaches Track and the Pacer alone -/

/-- The state with Track and the Pacer blank: what a frame that is formed or sent does not reach. Other than `sansTransport`, which
clearance keeps too, it holds the legs and the exchange zone. -/
def sansTrack (s : State) : State := { s with te := State.reset.te, pac := State.reset.pac }

theorem btn_of_sansTrack {s t : State} (h : sansTrack t = sansTrack s) : t.btn = s.btn := (congrArg State.btn h :)

theorem xz_of_sansTrack {s t : State} (h : sansTrack t = sansTrack s) : t.xz = s.xz := (congrArg State.xz h :)

theorem enqueue_sansTrack {s t : State} {port : Nat} {f : TxFrame} (h : enqueue s port f = some t) : sansTrack t = sansTrack s := by
  simp only [enqueue] at h
  split at h <;> cases h
  rfl

theorem sendOn_sansTrack {s t : State} {table rot r : Nat} {f g : TxFrame} (h : sendOn s table rot f = some (t, g, r)) :
    sansTrack t = sansTrack s := by
  simp only [sendOn] at h
  (repeat' split at h) <;> cases h
  exact enqueue_sansTrack ‹_›

theorem formSys_sansTrack {s t : State} {d : DevId} {leg : Bool} (h : formSys s d leg = some t) : sansTrack t = sansTrack s := by
  simp only [formSys] at h
  (repeat' split at h) <;> cases h
  all_goals exact (sendOn_sansTrack ‹_› :)

theorem resendSys_sansTrack {s t : State} {d : DevId} {psn : Word} (h : resendSys s d psn = some t) : sansTrack t = sansTrack s := by
  simp only [resendSys] at h
  (repeat' split at h) <;> cases h
  all_goals exact (sendOn_sansTrack ‹_› :)

theorem trySend_sansTrack {s t : State} {x : Option Nat × TxFrame} (h : trySend s x = some t) : sansTrack t = sansTrack s := by
  unfold trySend at h
  (repeat' split at h)
  · exact enqueue_sansTrack h
  · cases h
  · cases h
    exact (sendOn_sansTrack ‹_› :)
  · cases h

theorem formAll_sansTrack (s : State) (d : DevId) (leg : Bool) (n : Nat) : sansTrack (formAll s d leg n) = sansTrack s := by
  induction n generalizing s with
  | zero => rfl
  | succ n ih =>
    unfold formAll
    split
    · next h => rw [ih, formSys_sansTrack h]
    · rfl

theorem resendWaiting_sansTrack (s : State) (d : DevId) (leg : Bool) : sansTrack (resendWaiting s d leg) = sansTrack s := by
  unfold resendWaiting
  split
  · rfl
  · refine foldl_keeps sansTrack _ (fun s psn => ?_) _ _
    split
    · next h => exact (resendSys_sansTrack h :)
    · rfl

theorem sysGive_sansTrack (s : State) (f : TxFrame) : sansTrack (sysGive s f) = sansTrack s := by
  have hpump : ∀ u d leg, sansTrack (pumpSys u d leg 4096) = sansTrack u := fun u d leg => by
    rw [pumpSys, formAll_sansTrack, resendWaiting_sansTrack]
  unfold sysGive
  split
  · exact hpump ..
  · split
    · exact hpump ..
    · rfl

theorem sendLoose_sansTrack (s : State) (port : Option Nat) (f : TxFrame) : sansTrack (sendLoose s port f) = sansTrack s := by
  refine foldl_fst_keeps sansTrack _ (fun y x => ?_) _ _
  split
  · next h => exact trySend_sansTrack h
  · rfl

theorem legMsg_sansTrack (s : State) (g : Leg) (kind a b c : Nat) : sansTrack (legMsg s g kind a b c) = sansTrack s := by
  unfold legMsg
  split
  · rfl
  · exact sysGive_sansTrack ..

/-! ### An accepted frame -/

theorem taken_frame (s : State) (f : Frame) : ∃ o, taken s f = { s with out := o } := by
  unfold taken
  split
  · exact ⟨_, rfl⟩
  · exact ⟨s.out, rfl⟩

/-- A frame that TE takes goes on in the state after its credits went back. -/
theorem arrive_taken {s : State} {f : Frame} (h : Arrives s f) (k : State → State) : arrive s f k = k (taken s f) := by
  obtain ⟨hheld, hport, hsound⟩ := h
  have hopen : (teHeld s || !portUsable s f.port.val) = false := by simp [hheld, hport]
  unfold arrive taken
  rw [hopen, if_neg Bool.false_ne_true]
  by_cases hrelay : isRelay f.port.val = true
  · rw [if_pos hrelay] at hsound
    simp only [hrelay, if_true, hsound]
  · rw [if_neg hrelay] at hsound
    obtain ⟨hfcs, hmac, htype, hlen⟩ := hsound
    simp [hrelay, hfcs, hmac, Nat.not_lt.2 htype, Nat.not_lt.2 hlen]

theorem headCheck_taken (s : State) (f : Frame) (h : Hdr) (op : Byte) : headCheck (taken s f) h f op = headCheck s h f op := by
  obtain ⟨o, ho⟩ := taken_frame s f
  exact (congrArg (headCheck · h f op) ho :)

theorem parseHdr_taken (s : State) (f : Frame) : parseHdr (taken s f) f = parseHdr s f := by
  obtain ⟨o, ho⟩ := taken_frame s f
  exact (congrArg (parseHdr · f) ho :)

theorem te_taken (s : State) (f : Frame) : (taken s f).te = s.te := by
  obtain ⟨o, ho⟩ := taken_frame s f
  exact (congrArg State.te ho :)

/-- A frame that passes the checks of its system context has its effect once, and then the context is acknowledged. -/
theorem rxSystem_runs {s : State} {f : Frame} {op : Byte} {x : SysRx} (h : RunsSystem s f op x) (k : State → State) :
    rxSystem s f op k = sysEnd s f x (k (sysTaken s f x)) := by
  obtain ⟨⟨harrives, hhead⟩, hch, hctx, ⟨hnear, hnew⟩, hkey⟩ := h
  have hctx' : tblGet (taken s f).te.sysRx (parseHdr s f).src.toNat = some x := by rw [te_taken, hctx]
  have hkey' : (!isRelay f.port.val && f.kgen != (taken s f).te.sysKgen) = false := by
    rw [te_taken]
    rcases hkey with hrelay | hgen
    · simp [hrelay]
    · simp [hgen]
  have hpast : ¬ 2147483648 ≤ ((parseHdr s f).psn - x.expected).toNat := by omega
  have hwin : ¬ 4096 ≤ ((parseHdr s f).psn - x.expected).toNat := Nat.not_le.2 hnear
  have hin : rxSysIn (taken s f) f (parseHdr s f) k = sysEnd s f x (k (sysTaken s f x)) := by
    simp only [rxSysIn, hctx', hpast, hnew, hwin, hkey', decide_false, Bool.or_self, Bool.false_eq_true, if_false]
    rfl
  unfold rxSystem
  rw [arrive_taken harrives]
  simp only [headCheck_taken, hhead, parseHdr_taken, hch, ne_eq, not_true_eq_false, if_false, hctx', Option.isSome_some, if_true, hin]

/-! ### What an accepted frame leaves beside its effect -/

/-- Memory, requests and lanes. -/
def workView (s : State) : Mems × List Req × Vector Lane 12 := (s.mem, s.reqs, s.lanes)

theorem workView_eq_iff {s t : State} : workView t = workView s ↔ t.mem = s.mem ∧ t.reqs = s.reqs ∧ t.lanes = s.lanes := by
  simp [workView]

theorem workView_of_sansTransport {s t : State} (h : sansTransport t = sansTransport s) : workView t = workView s :=
  (congrArg workView h :)

theorem sysTaken_workView (s : State) (f : Frame) (x : SysRx) : workView (sysTaken s f x) = workView s := by
  obtain ⟨o, ho⟩ := taken_frame s f
  exact (congrArg workView ho :)

theorem runRing_workView (s : State) (f : Frame) : workView (runRing s f) = workView s := by
  unfold runRing
  split
  · rfl
  · dsimp only
    split
    · simp [workView]
    · rfl

theorem runRings_workView (s : State) (d : DevId) : workView (runRings s d) = workView s := by
  unfold runRings
  split
  · rfl
  · dsimp only
    split
    · rfl
    · exact foldl_keeps workView _ runRing_workView _ _

theorem ackSys_workView (s : State) (d : DevId) : workView (ackSys s d) = workView s := by
  unfold ackSys
  split
  · rfl
  · exact workView_of_sansTransport (sendLoose_sansTransport ..)

theorem sysEnd_workView (s : State) (f : Frame) (x : SysRx) (t : State) : workView (sysEnd s f x t) = workView t := by
  unfold sysEnd sysAfter
  dsimp only
  split
  · rw [ackSys_workView, runRings_workView]
  · exact runRings_workView ..

end Sys2Proof.Machine
end

section
/-! PROOFS. The opening of legs and their control parts (R180, R183, R195, R197 to R199). -/

namespace Sys2Proof.Machine

open Sys2Proof

/-! ### The leg of an entry -/

/-- The open leg of an entry. -/
abbrev legAt (s : State) (i : Nat) : Option Leg := s.btn.legs.find? fun g => g.index == i

theorem legAt_modLeg {f : Leg → Leg} (hidx : ∀ g, (f g).index = g.index) {s : State} {i : Nat} {g : Leg} (h : legAt s i = some g) :
    legAt (modLeg s i f) i = some (f g) := by
  have hkey : ((fun g : Leg => g.index == i) ∘ fun g => if g.index = i then f g else g) = fun g => g.index == i := by
    funext g
    by_cases hg : g.index = i <;> simp [hg, hidx]
  have hg : g.index = i := by simpa using List.find?_some h
  calc legAt (modLeg s i f) i = (legAt s i).map fun g => if g.index = i then f g else g := by
        rw [legAt, modLeg, List.find?_map, hkey]
    _ = some (f g) := by rw [h, Option.map_some, if_pos hg]

theorem legAt_eq_of_btn {s t : State} (h : t.btn = s.btn) (i : Nat) : legAt t i = legAt s i := by rw [legAt, h]

theorem lowestFree_notMem {used : List Nat} {fuel k i : Nat} (h : lowestFree used fuel k = some i) : i ∉ used := by
  induction fuel generalizing k with
  | zero => cases h
  | succ fuel ih =>
    unfold lowestFree at h
    split at h
    · exact ih h
    · next hfree =>
      cases h
      simpa using hfree

theorem find_append_new {gs : List Leg} {g : Leg} {i : Nat} (hidx : g.index = i) (hnew : ∀ x ∈ gs, ¬ (x.index == i) = true) :
    (gs ++ [g]).find? (fun x => x.index == i) = some g := by
  rw [List.find?_append, List.find?_eq_none.2 hnew, Option.none_or, List.find?_cons_of_pos (by simp [hidx])]

/-- A new leg stands at the entry that it took. -/
theorem legAt_openEntry {s t : State} {mk : Nat → BitVec 16 → Leg} {i : Nat} (hidx : ∀ i g, (mk i g).index = i)
    (h : openEntry s mk = some (i, t)) : ∃ gen, legAt t i = some (mk i gen) := by
  unfold openEntry at h
  split at h
  · cases h
  · next k hfree =>
    cases h
    have hnew : ∀ g ∈ s.btn.legs, ¬ (g.index == i) = true := fun g hg heq =>
      lowestFree_notMem hfree (List.mem_map.2 ⟨g, hg, by simpa using heq⟩)
    exact ⟨_, find_append_new (hidx ..) hnew⟩

/-- Giving a leg its control blocks changes no more of it than their number. -/
theorem legAt_giveBlocks {s : State} {i : Nat} {g : Leg} (h : legAt s i = some g) :
    ∃ n, legAt (giveBlocks s i) i = some { g with ctlBlocks := n } := by
  unfold giveBlocks
  simp only [h]
  split
  · refine ⟨(takeBlocks s).1, ?_⟩
    rw [clearControl, legAt_eq_of_btn (btn_of_sansTrack (legMsg_sansTrack ..))]
    exact legAt_modLeg (s := (takeBlocks s).2) (fun _ => by rfl) h
  · exact ⟨g.ctlBlocks, h⟩

/-! ### Places for the items (R193, R195) -/

theorem packItems_length (S : Nat) (ks : List Nat) (o : Nat) (its : List LegItem) : (packItems S ks o its).length = its.length := by
  fun_induction packItems S ks o its <;> simp_all

theorem allocEach_length {s t : State} {n : LaneNo} {m : ModelSec} {its : List LegItem} {places : List (List Nat × Nat)}
    (h : allocEach s n m its = (t, some places)) : places.length = its.length := by
  induction its generalizing s t places with
  | nil =>
    cases h
    rfl
  | cons it its ih =>
    unfold allocEach at h
    split at h
    · cases h
    · split at h
      · next hrest =>
        cases h
        rw [List.length_cons, List.length_cons, ih hrest]
      · cases h

/-- Space for the items of a leg is a place for each of them. -/
theorem allocItems_length {s t : State} {n : LaneNo} {m : ModelSec} {its : List LegItem} {places : List (List Nat × Nat)}
    (h : allocItems s n m its = (t, some places)) : places.length = its.length := by
  unfold allocItems at h
  dsimp only at h
  split at h
  · split at h
    · cases h
      rfl
    · split at h <;> cases h
      exact packItems_length ..
  · exact allocEach_length h

/-- What an accepted leg is at its target. -/
theorem legAt_acceptLeg {s t : State} {a : LegAccept} {m : ModelSec} {i : Nat} (h : acceptLeg s a m = (t, some i)) :
    ∃ g, legAt t i = some g ∧ g.state = .opened ∧ g.atTarget = true ∧ g.localLeg = a.localLeg ∧ g.type = a.type ∧
      g.peer = a.peer ∧ g.peerId = a.peerId ∧ g.batons = a.batons ∧ g.partsLeft = legParts a.type a.lead a.batons.length ∧
      g.pages.map (·.item) = a.items := by
  unfold acceptLeg at h
  dsimp only at h
  split at h
  · cases h
  · split at h
    · cases h
    · next hitems =>
      split at h
      · cases h
      · split at h
        · next hopen =>
          cases h
          obtain ⟨gen, hleg⟩ := legAt_openEntry (fun _ _ => by rfl) hopen
          obtain ⟨n, hgiven⟩ := legAt_giveBlocks hleg
          refine ⟨_, hgiven, rfl, rfl, rfl, rfl, rfl, rfl, rfl, rfl, ?_⟩
          rw [List.map_map]
          exact List.map_fst_zip (Nat.le_of_eq (allocItems_length hitems).symm)
        · cases h

/-! ### A request at the target (R180, R195, R199) -/

/-- A leg that names its lane is tried there alone. -/
theorem inboundOpen_lane (s : State) {r : LegReq} (htype : r.type ≠ legResume) :
    inboundOpen s r = if (tryInbound s r r.dstLane).2 then (tryInbound s r r.dstLane).1
      else refuseAsk (tryInbound s r r.dstLane).1 r.src r.entry (r.batons.headD 0) .refused := by
  have hlanes : tryInboundLanes s r [r.dstLane] = tryInbound s r r.dstLane := by
    rcases h : tryInbound s r r.dstLane with ⟨t, _ | _⟩ <;> simp only [tryInboundLanes, h]
  simp only [inboundOpen, if_neg htype, hlanes]

theorem tryInbound_refused {s : State} {r : LegReq} {n : LaneNo}
    (h : inboundModel s n r.digest = none ∨ inboundSound s r n = false) : tryInbound s r n = (s, false) := by
  unfold tryInbound
  rcases h with h | h
  · simp only [h]
  · split
    · rfl
    · simp [h]

/-- Heat directory places that the batons of a request need in a lane. -/
def dirsAsked (s : State) (r : LegReq) (n : LaneNo) (m : ModelSec) : Nat :=
  if (laneOf s n).role == roleGen && m.retrieve != 0 then r.batons.length else 0

/-- What a request from another device takes in a lane. -/
def askedOf (s : State) (r : LegReq) (n : LaneNo) (m : ModelSec) : LegAccept :=
  ⟨r.type, false, r.src, some r.entry, r.srcLane, n, r.batons, r.lead, r.items, r.states, none, inboundTier r, dirsAsked s r n m⟩

/-- A lane that accepts gives the leg its entry, and its batons their places in the heat directory. -/
theorem tryInbound_accepted {s t : State} {r : LegReq} {n : LaneNo} {m : ModelSec} {i : Nat} (hmodel : inboundModel s n r.digest = some m)
    (hsound : inboundSound s r n = true) (hitems : itemsOk m r.items = true) (h : acceptLeg s (askedOf s r n m) m = (t, some i)) :
    tryInbound s r n = (if dirsAsked s r n m = 0 then t else r.batons.foldl (fun s b => dirChange s n true b) t, true) := by
  unfold askedOf dirsAsked at h
  unfold tryInbound dirsAsked
  simp only [hmodel, hsound, hitems, Bool.not_true, Bool.or_self, Bool.false_eq_true, if_false, h]

theorem parseHdr_sysTaken (s : State) (f : Frame) (x : SysRx) : parseHdr (sysTaken s f x) f = parseHdr s f := parseHdr_taken s f

theorem exec_legRequest_opens {s : State} {f : Frame} {r : LegReq} {x : SysRx} (hruns : RunsSystem s f opLegCtl x)
    (hask : r.ask = .opens) : exec (.legRequest (some f) r) s =
      .next (sysEnd s f x (inboundOpen (sysTaken s f x) { r with src := (parseHdr s f).src })) := by
  cases r
  cases hask
  exact congrArg Host.Outcome.next ((rxSystem_runs hruns _).trans (by rw [parseHdr_sysTaken]))

/-! ### Control parts inside the device (R183, R197, R198) -/

/-- A part that its leg at this end awaits is checked against the part as it stands. -/
theorem partHere_awaited {s : State} {l : LegId} {p : CtlKind} {g : Leg} {b : BatonId} {r : Req} (bs : List Byte)
    (hleg : findLeg s l = some g) (htarget : g.atTarget = true) (hlocal : g.localLeg = true)
    (hstate : g.state = .opened ∨ g.state = .clearing) (hblocks : g.ctlBlocks ≠ 0) (hpart : g.partsLeft.contains (partNum 0 p) = true)
    (hbaton : g.batons.head? = some b) (hreq : findReq s b = some r) :
    partHere s l p bs = if crc32c bs = crc32c (ctlBytes s r p) then partsDone (passPart s g (partNum 0 p) bs) g.index
      else failPart s g (partNum 0 p) := by
  have hopen : (g.state != .opened && g.state != .clearing) = false := by rcases hstate with h | h <;> rw [h] <;> rfl
  simp only [partHere, hleg, htarget, hopen, hblocks, hpart, hlocal, hbaton, hreq, Bool.not_true, decide_false, Bool.or_self,
    Bool.false_eq_true, if_false, Option.bind_some]

theorem failPart_third (s : State) {g : Leg} {part : Nat} (h : 2 ≤ failsOf g part) :
    failPart s g part = abortLeg { s with btn := { s.btn with crcFail := satInc s.btn.crcFail } } g .discarded true := by
  unfold failPart
  exact if_pos (by omega)

/-- A failure before the third is counted; the part of a leg inside the device is asked for again without a message. -/
theorem failPart_again (s : State) {g : Leg} {part : Nat} (hlocal : g.localLeg = true) (h : failsOf g part < 2) :
    (failPart s g part).btn.crcFail = satInc s.btn.crcFail ∧ (failPart s g part).btn.legs.length = s.btn.legs.length ∧
      (failPart s g part).mem = s.mem ∧ (failPart s g part).reqs = s.reqs := by
  have hfew : ¬ 3 ≤ failsOf g part + 1 := by omega
  simp only [failPart, if_neg hfew, clearAgain, legMsg, hlocal, if_true]
  exact ⟨rfl, List.length_map .., rfl, rfl⟩

/-! ### Control parts from another device (R186, R189) -/

theorem partFrameIn_noLeg {s : State} {f : Frame} (hleg : findLeg s (f.aux.setWidth 28) = none) : partFrameIn s f = lateDrop s := by
  simp only [partFrameIn, hleg]

/-- A frame of a part that its leg at this end awaits is a piece of the part. -/
theorem partFrameIn_awaited {s : State} {f : Frame} {g : Leg} (hleg : findLeg s (f.aux.setWidth 28) = some g)
    (htarget : g.atTarget = true) (hremote : g.localLeg = false) (hpeer : g.peer = (parseHdr s f).src)
    (hstate : g.state = .opened ∨ g.state = .clearing) (hblocks : g.ctlBlocks ≠ 0)
    (hpart : g.partsLeft.contains (f.addr.extractLsb' 32 32).toNat = true) :
    partFrameIn s f = takeChunk s g (f.addr.extractLsb' 32 32).toNat (f.addr.extractLsb' 0 32).toNat ((parseHdr s f).flags.getLsbD 1)
      f.payload := by
  have hopen : (g.state != .opened && g.state != .clearing) = false := by rcases hstate with h | h <;> rw [h] <;> rfl
  simp only [partFrameIn, hleg, htarget, hremote, hpeer, hopen, hblocks, hpart, Bool.not_true, decide_false, Bool.or_self,
    Bool.false_eq_true, if_false, ne_eq, not_true_eq_false]

theorem exec_legControlPartRx_track {s : State} {f : Frame} {x : SysRx} (hruns : RunsSystem s f opLegCtl x) :
    exec (.legControlPartRx (.track f)) s = .next (sysEnd s f x (partFrameIn (sysTaken s f x) f)) :=
  congrArg Host.Outcome.next (rxSystem_runs hruns _)

/-! ### The statement -/

/-- Settles O37: a request from another device is tried in its lane, whose acceptance gives the entry; a part inside the device
comes to `partHere`, one from another device to `takeChunk`. That a part goes by the upper word of ADDR, that a request without a frame
is this device's own, and that a part for no leg counts as a late frame is the model's choice (logs 17, 31). -/
theorem legOpening : Obligations.LegOpening := by
  refine ⟨fun s f r x hruns hask => ?_, fun s r b hask hbatons => ?_, fun s l p bs => ⟨fun hleg => ?_, ?_⟩, fun s f x hruns => ?_⟩
  · intro u q
    refine ⟨exec_legRequest_opens hruns hask, fun htype hrefused => ?_, fun m v i htype hmodel hsound hitems => ?_⟩
    · rw [inboundOpen_lane u htype, tryInbound_refused hrefused]
      rfl
    · intro dirs haccept
      obtain ⟨g, hleg, hstate, htarget, hlocal, hkind, hpeer, hid, hbatons, hparts, hpages⟩ := legAt_acceptLeg haccept
      refine ⟨g, hleg, hstate, htarget, hlocal, hkind, hpeer, hid, hbatons, hparts, hpages, ?_⟩
      rw [inboundOpen_lane u htype, tryInbound_accepted hmodel hsound hitems haccept]
      rfl
  · show Host.Outcome.next (match r.ask, r.batons with | .opens, [b] => (openLocal s r.type b r.dstLane).1 | _, _ => s) = _
    rw [hask, hbatons]
  · show Host.Outcome.next (partHere s l p bs) = _
    simp only [partHere, hleg]
  · intro g b r hleg htarget hlocal hstate hblocks hpart hbaton hreq
    have hhere : exec (.legControlPartRx (.here l p bs)) s = .next (partHere s l p bs) := rfl
    rw [hhere, partHere_awaited bs hleg htarget hlocal hstate hblocks hpart hbaton hreq]
    refine ⟨fun hcrc => ?_, fun hcrc hfails => ?_, fun hcrc hfails => ?_⟩
    · rw [if_pos hcrc]
      rfl
    · rw [if_neg hcrc, failPart_third s hfails]
    · rw [if_neg hcrc]
      exact ⟨_, rfl, failPart_again s hlocal hfails⟩
  · intro u pn
    refine ⟨fun hleg => ?_, fun g hleg htarget hremote hpeer hstate hblocks hpart => ?_⟩
    · rw [exec_legControlPartRx_track hruns, partFrameIn_noLeg hleg]
    · have hsrc : parseHdr u f = parseHdr s f := parseHdr_sysTaken s f x
      rw [exec_legControlPartRx_track hruns,
        partFrameIn_awaited hleg htarget hremote (hpeer.trans (by rw [hsrc])) hstate hblocks hpart, parseHdr_sysTaken]

end Sys2Proof.Machine
end

section
/-! PROOFS. The pages of legs (R187 to R193, R197): what a clearance sends, and what a page frame and a whole page write. -/

namespace Sys2Proof.Machine

open Sys2Proof

theorem workView_of_sansTrack {s t : State} (h : sansTrack t = sansTrack s) : workView t = workView s := (congrArg workView h :)

/-! ### At the source -/

theorem setPrecopy_btn (s : State) : (setPrecopy s).btn = s.btn := by
  unfold setPrecopy
  split <;> rfl

theorem setPrecopy_workView (s : State) : workView (setPrecopy s) = workView s := by
  unfold setPrecopy
  split <;> rfl

/-- Whether a source holds its mutable parts back depends on the plan's epoch and the swap alone. -/
theorem swapHeld_of_sansTrack {s t : State} (h : sansTrack t = sansTrack s) (g : Leg) : swapHeld t g = swapHeld s g := by
  have hmar : t.mar = s.mar := (congrArg State.mar h :)
  have hmpl : t.mpl = s.mpl := (congrArg State.mpl h :)
  rw [swapHeld, swapHeld, hmar, hmpl]

/-- A source leg after the check for its end. -/
def sourceAfter (held : Bool) (g : Leg) : Leg :=
  if !g.atTarget && g.state = .sending && g.partsLeft.isEmpty && decide (g.sent = g.pages.length) && !held then
    { g with state := .releasing }
  else g

theorem sourceAfter_keeps (held : Bool) (g : Leg) :
    (sourceAfter held g).index = g.index ∧ (sourceAfter held g).sent = g.sent ∧ (sourceAfter held g).peerId = g.peerId := by
  unfold sourceAfter
  split <;> exact ⟨rfl, rfl, rfl⟩

theorem sourceAfter_releasing {g : Leg} (hsource : g.atTarget = false) (hstate : g.state = .sending) (hparts : g.partsLeft = [])
    (hsent : g.sent = g.pages.length) : (sourceAfter false g).state = .releasing := by
  simp [sourceAfter, hsource, hstate, hparts, hsent]

theorem legAt_sourceDone {s : State} {i : Nat} {g : Leg} (h : legAt s i = some g) :
    legAt (sourceDone s i) i = some (sourceAfter (swapHeld s g) g) :=
  legAt_modLeg (f := fun g => sourceAfter (swapHeld s g) g) (fun g => (sourceAfter_keeps _ g).1) h

theorem sendPage_sansTrack (s : State) (g : Leg) (k : Nat) (it : LegItem) (image : List Byte) :
    sansTrack (sendPage s g k it image) = sansTrack s :=
  foldl_keeps sansTrack _ (fun _ _ => sysGive_sansTrack ..) _ _

/-- The pages of a leg that a clearance of a number of pages covers, in leg order. -/
def coveredPages (g : Leg) (pages : Nat) : List (LegPage × Nat) := (g.pages.zipIdx.drop g.sent).take pages

theorem coveredPages_length (g : Leg) (pages : Nat) : (coveredPages g pages).length = min pages (g.pages.length - g.sent) := by
  simp [coveredPages]

/-- The state in which the pages that a clearance covers have been sent. -/
def pagesSent (s : State) (g : Leg) (pages : Nat) : State :=
  (coveredPages g pages).foldl (fun s p =>
    match findReq s p.1.item.baton with
    | some r => sendPage s g p.2 p.1.item (itemImage s r p.1.item)
    | none => s) s

theorem pagesSent_sansTrack (s : State) (g : Leg) (pages : Nat) : sansTrack (pagesSent s g pages) = sansTrack s := by
  refine foldl_keeps sansTrack _ (fun s p => ?_) _ _
  split
  · exact sendPage_sansTrack ..
  · rfl

theorem sendCleared_eq (s : State) (g : Leg) (pages : Nat) :
    sendCleared s g pages = setPrecopy (sourceDone (modLeg (pagesSent s g pages) g.index fun x =>
      { x with sent := x.sent + (coveredPages g pages).length }) g.index) := rfl

theorem sendCleared_workView (s : State) (g : Leg) (pages : Nat) : workView (sendCleared s g pages) = workView s := by
  rw [sendCleared_eq, setPrecopy_workView]
  show workView (pagesSent s g pages) = workView s
  exact workView_of_sansTrack (pagesSent_sansTrack s g pages)

/-- A source that has sent what it was cleared to send. -/
theorem legAt_sendCleared {s : State} {g : Leg} (h : legAt s g.index = some g) (pages : Nat) :
    legAt (sendCleared s g pages) g.index =
      some (sourceAfter (swapHeld s g) { g with sent := g.sent + min pages (g.pages.length - g.sent) }) := by
  have hsent : legAt (pagesSent s g pages) g.index = some g :=
    (legAt_eq_of_btn (btn_of_sansTrack (pagesSent_sansTrack ..)) _).trans h
  have hheld := swapHeld_of_sansTrack (pagesSent_sansTrack s g pages) g
  rw [sendCleared_eq, legAt_eq_of_btn (setPrecopy_btn _), ← coveredPages_length, ← hheld]
  exact legAt_sourceDone (legAt_modLeg (f := fun x => { x with sent := x.sent + (coveredPages g pages).length }) (fun _ => by rfl) hsent)

/-- A source leg that has learned its leg ID at the target from a frame. -/
def namedBy (f : Frame) (g : Leg) : Leg := { g with peerId := some (f.aux.setWidth 28) }

/-- A data clearance sends pages of the leg, which has its name at the target from then on. -/
theorem takeClear_data {s : State} {f : Frame} {g : Leg} (h : legAt s g.index = some g) (hkind : msgWord f 0 = 1) :
    takeClear s f g = sendCleared (modLeg s g.index (namedBy f)) (namedBy f g) (msgWord f 1).toNat := by
  have hnamed : (modLeg s g.index fun g => { g with peerId := some (f.aux.setWidth 28) }).btn.legs.find? (fun y => y.index == g.index)
      = some (namedBy f g) := legAt_modLeg (f := namedBy f) (fun _ => by rfl) h
  have hone : (msgWord f 0).toNat = 1 := by
    rw [hkind]
    rfl
  simp only [takeClear, hnamed, hone]
  rfl

theorem findSource_atSource {s : State} {f : Frame} {g : Leg} (h : findSource s f = some g) : g.atTarget = false := by
  have hends := List.find?_some h
  simp only [Bool.and_eq_true, Bool.not_eq_true'] at hends
  obtain ⟨⟨⟨⟨hsource, -⟩, -⟩, -⟩, -⟩ := hends
  exact hsource

/-- A source takes a CLEAR that names its leg. -/
theorem exec_clearRx_source {s : State} {f : Frame} {x : SysRx} {g : Leg} (hruns : RunsSystem s f opLegCtl x)
    (hsource : findSource (sysTaken s f x) f = some g) (hkind : msgKind f = some msgClear)
    (hstate : g.state = .sending ∨ g.state = .releasing) :
    exec (.clearRx f) s = .next (sysEnd s f x (takeClear (sysTaken s f x) f g)) := by
  refine congrArg Host.Outcome.next ((rxSystem_runs hruns _).trans (congrArg (sysEnd s f x) ?_))
  simp only [hsource]
  exact if_pos (by simpa [hkind] using hstate)

/-! ### Page frames at the target -/

theorem exec_legPageRx_noLeg {s : State} {f : Frame} {x : SysRx} (hruns : RunsSystem s f opLegPage x)
    (hleg : findLeg (sysTaken s f x) (f.aux.setWidth 28) = none) :
    exec (.legPageRx f) s = .next (sysEnd s f x (lateDrop (sysTaken s f x))) := by
  refine congrArg Host.Outcome.next ((rxSystem_runs hruns _).trans (congrArg (sysEnd s f x) ?_))
  simp only [hleg]

/-- The state with bytes of a page of a leg in the exchange zone. -/
def pageStored (s : State) (g : Leg) (k off : Nat) (bs : List Byte) : State :=
  { s with mem := { s.mem with xz := memStore s.mem.xz (xzKey g.index k off) bs } }

/-- A leg with the arrival of a page frame noted. -/
def arrivalNoted (f : Frame) (k off : Nat) (g : Leg) : Leg :=
  setPage g k fun p => { p with arrived := p.arrived + f.payload.length, head := if off = 0 then some f else p.head }

/-- The bytes of a page frame within the clearance of its page land at their offset. -/
theorem exec_legPageRx_cleared {s : State} {f : Frame} {x : SysRx} {g : Leg} {p : LegPage} (hruns : RunsSystem s f opLegPage x)
    (hleg : findLeg (sysTaken s f x) (f.aux.setWidth 28) = some g) (htarget : g.atTarget = true) (hremote : g.localLeg = false)
    (hpeer : g.peer = (parseHdr s f).src) (hstate : g.state = .clearing) (hpage : g.pages[(f.addr.extractLsb' 32 32).toNat]? = some p)
    (hcleared : p.cleared = true) (hwritten : p.written = false)
    (hroom : (f.addr.extractLsb' 0 32).toNat + f.payload.length ≤ 32 + p.item.bytes) :
    let k := (f.addr.extractLsb' 32 32).toNat
    let off := (f.addr.extractLsb' 0 32).toNat
    exec (.legPageRx f) s =
      .next (sysEnd s f x (modLeg (pageStored (sysTaken s f x) g k off f.payload) g.index (arrivalNoted f k off))) := by
  refine congrArg Host.Outcome.next ((rxSystem_runs hruns _).trans (congrArg (sysEnd s f x) ?_))
  simp only [hleg, hpage, htarget, hremote, hpeer, hstate, hcleared, hwritten, parseHdr_sysTaken, Nat.not_lt.2 hroom, Bool.not_true,
    decide_false, Bool.or_self, Bool.false_eq_true, if_false, ne_eq, not_true_eq_false]
  rfl

/-! ### Whole pages at the target -/

theorem falseStart_sansTrack (s : State) (f : Frame) (h : Hdr) (code : Byte) : sansTrack (falseStart s f h code) = sansTrack s := by
  have hnack : ∀ u c us, sansTrack (sendNack u h c us) = sansTrack u := fun _ _ _ => sendLoose_sansTrack ..
  unfold falseStart
  dsimp only
  rw [apply_ite sansTrack, hnack]
  exact ite_self (sansTrack s)

theorem exec_xzPageWritten_sound {s : State} {l : LegId} {g : Leg} {k : Nat} {p : LegPage} {h : PageHdr} (hleg : findLeg s l = some g)
    (hpage : g.pages[k]? = some p) (harrived : pageArrived s g k p h = true) (hsound : hdrSound l k p.item h = true) :
    exec (.xzPageWritten l k h) s = .next (pageDone (writeImage s g k p) g k) := by
  show execXzPageWritten l k h s = _
  simp only [execXzPageWritten, hleg, hpage, harrived, hsound, Bool.not_true, Bool.false_eq_true, if_false, if_true]

/-- The state in which a failing page header has been counted. -/
def hdrCounted (s : State) : State := { s with xz := { s.xz with hdrBad := satInc s.xz.hdrBad } }

/-- The state in which a page with a failing header has been counted, and logged as a false start where a frame brought it. -/
def hdrLogged (s : State) (p : LegPage) : State :=
  match p.head with
  | some f => falseStart (hdrCounted s) f (parseHdr (hdrCounted s) f) 0x09
  | none => hdrCounted s

theorem hdrLogged_sansTrack (s : State) (p : LegPage) : sansTrack (hdrLogged s p) = sansTrack (hdrCounted s) := by
  unfold hdrLogged
  split
  · exact falseStart_sansTrack ..
  · rfl

theorem exec_xzPageWritten_bad {s : State} {l : LegId} {g : Leg} {k : Nat} {p : LegPage} {h : PageHdr} (hleg : findLeg s l = some g)
    (hpage : g.pages[k]? = some p) (harrived : pageArrived s g k p h = true) (hbad : hdrSound l k p.item h = false) :
    exec (.xzPageWritten l k h) s = .next (abortLeg (hdrLogged s p) g .falseStart true) := by
  show execXzPageWritten l k h s = _
  simp only [execXzPageWritten, hleg, hpage, harrived, hbad, Bool.not_true, Bool.false_eq_true, if_false]
  rfl

/-! ### The statement -/

/-- Settles O38: a data clearance comes to `sendCleared`, whose sends reach Track alone; a page frame comes to one store in the
exchange zone, and a whole page to `pageDone` or, where its header fails, to `abortLeg`. What the words of a CLEAR mean is the
model's choice (log 17). -/
theorem legPages : Obligations.LegPages := by
  refine ⟨fun s f x g hruns => ?_, fun s f x hruns => ?_, fun s l g k p h hleg hpage harrived =>
    ⟨exec_xzPageWritten_sound hleg hpage harrived, fun hbad => ?_⟩⟩
  · intro u hsource hkind hstate
    refine ⟨exec_clearRx_source hruns hsource hkind hstate, fun hleg hdata hsending => ?_⟩
    intro k
    have hafter : legAt (takeClear u f g) g.index = some (sourceAfter (swapHeld u g) { namedBy f g with sent := g.sent + k }) := by
      rw [takeClear_data hleg hdata]
      exact legAt_sendCleared (g := namedBy f g) (legAt_modLeg (f := namedBy f) (fun _ => by rfl) hleg) _
    obtain ⟨-, hsent, hid⟩ := sourceAfter_keeps (swapHeld u g) { namedBy f g with sent := g.sent + k }
    have hview : workView (takeClear u f g) = workView s := by
      rw [takeClear_data hleg hdata, sendCleared_workView]
      exact sysTaken_workView s f x
    obtain ⟨hmem, hreqs, -⟩ := workView_eq_iff.1 hview
    refine ⟨_, hafter, hsent, hid, hmem, hreqs, fun hall hparts hheld => ?_⟩
    have hatSource : g.atTarget = false := findSource_atSource hsource
    rw [hheld]
    exact sourceAfter_releasing hatSource hsending hparts hall
  · intro u k off
    refine ⟨exec_legPageRx_noLeg hruns, fun g p hleg htarget hremote hpeer hstate hpage hcleared hwritten hroom => ?_⟩
    have hexec := exec_legPageRx_cleared hruns hleg htarget hremote hpeer hstate hpage hcleared hwritten hroom
    obtain ⟨hmem, hreqs, hlanes⟩ := workView_eq_iff.1
      (sysEnd_workView s f x (modLeg (pageStored u g k off f.payload) g.index (arrivalNoted f k off)))
    obtain ⟨hmem', hreqs', hlanes'⟩ := workView_eq_iff.1 (sysTaken_workView s f x)
    refine ⟨_, hexec, hmem.trans ?_, hreqs.trans hreqs', hlanes.trans hlanes'⟩
    show { u.mem with xz := memStore u.mem.xz (xzKey g.index k off) f.payload } = _
    rw [hmem']
  · have hframe := hdrLogged_sansTrack s p
    obtain ⟨hmem, hreqs, hlanes⟩ := workView_eq_iff.1 (workView_of_sansTrack hframe)
    exact ⟨_, exec_xzPageWritten_bad hleg hpage harrived hbad, congrArg Xz.hdrBad (xz_of_sansTrack hframe), hmem, hreqs,
      (btn_of_sansTrack hframe :), hlanes⟩

end Sys2Proof.Machine
end

section
/-! PROOFS. The ends of legs (R184, R196): what freeing a baton and aborting a leg leave of the memories and of the batons here. -/

namespace Sys2Proof.Machine

open Sys2Proof

/-! ### Memory and the batons that are here -/

/-- The memories, and the batons whose requests are here. -/
def heldView (s : State) : Mems × List BatonId := (s.mem, s.reqs.map (·.id))

theorem mem_of_heldView {s t : State} (h : heldView t = heldView s) : t.mem = s.mem := congrArg Prod.fst h

theorem findReq_eq_none_iff {s : State} {b : BatonId} : findReq s b = none ↔ b ∉ (heldView s).2 := by
  simp [findReq, heldView]

theorem heldView_of_sansTransport {s t : State} (h : sansTransport t = sansTransport s) : heldView t = heldView s :=
  (congrArg heldView h :)

@[simp] theorem ite_heldView (c : Prop) [Decidable c] (s t : State) :
    heldView (if c then s else t) = if c then heldView s else heldView t :=
  apply_ite ..

@[simp] theorem foldl_heldView {α : Type} (f : State → α → State) (xs : List α) (s : State)
    (h : ∀ s x, heldView (f s x) = heldView s) : heldView (xs.foldl f s) = heldView s :=
  foldl_keeps heldView f h xs s

@[simp] theorem modReq_heldView (s : State) (b : BatonId) (f : Req → Req) (h : ∀ r, (f r).id = r.id) :
    heldView (modReq s b f) = heldView s := by
  simp only [heldView, modReq_mem, modReq_reqs, List.map_map, Prod.mk.injEq, true_and]
  refine List.map_congr_left fun r _ => ?_
  simp only [Function.comp]
  split
  · exact h r
  · rfl

section
variable (s : State)

@[simp] theorem modLane_heldView (n : LaneNo) (f : Lane → Lane) : heldView (modLane s n f) = heldView s := (rfl)
@[simp] theorem modLeg_heldView (i : Nat) (f : Leg → Leg) : heldView (modLeg s i f) = heldView s := (rfl)
@[simp] theorem dropLeg_heldView (i : Nat) : heldView (dropLeg s i) = heldView s := (rfl)
@[simp] theorem dropReplay_heldView (b : BatonId) : heldView (dropReplay s b) = heldView s := (rfl)
@[simp] theorem ungrant_heldView (n : LaneNo) (a b : Nat) : heldView (ungrant s n a b) = heldView s := (rfl)
@[simp] theorem stpGive_heldView (n : Nat) : heldView (stpGive s n) = heldView s := (rfl)
@[simp] theorem dirChange_heldView (n : LaneNo) (add : Bool) (b : BatonId) : heldView (dirChange s n add b) = heldView s := (rfl)
@[simp] theorem dropStaleFetches_heldView (b : BatonId) : heldView (dropStaleFetches s b) = heldView s := (rfl)
@[simp] theorem freeSlot_heldView (n : LaneNo) (k : Nat) : heldView (freeSlot s n k) = heldView s := (rfl)
@[simp] theorem freeCell_heldView (n : LaneNo) (k : Nat) : heldView (freeCell s n k) = heldView s := (rfl)

@[simp] theorem complete_heldView (h : HostHdr) (op : Byte) (c : Finish) : heldView (complete s h op c) = heldView s := by
  simp [heldView]

@[simp] theorem completeB_heldView (h : HostHdr) (op : Byte) (c : Finish) (r : Byte) (ws : List Word) :
    heldView (completeB s h op c r ws) = heldView s := by
  simp [heldView]

@[simp] theorem legMsg_heldView (g : Leg) (kind a b c : Nat) : heldView (legMsg s g kind a b c) = heldView s :=
  heldView_of_sansTransport (legMsg_sansTransport ..)

@[simp] theorem retest_heldView : heldView (retest s) = heldView s := heldView_of_sansTransport (retest_sansTransport s)

/-! ### Slots, commands and audits -/

@[simp] theorem freeSlots_heldView (n : LaneNo) (ks : List Nat) : heldView (freeSlots s n ks) = heldView s := by simp [freeSlots]
@[simp] theorem freeEnt_heldView (n : LaneNo) (e : PageEnt) : heldView (freeEnt s n e) = heldView s := by simp [freeEnt]

@[simp] theorem freeHbm_heldView (b : BatonId) : heldView (freeHbm s b) = heldView s := by
  unfold freeHbm
  (repeat' split) <;> simp

@[simp] theorem freeTier_heldView (b : BatonId) : heldView (freeTier s b) = heldView s := by
  unfold freeTier
  (repeat' split) <;> simp
  rfl

@[simp] theorem freePages_heldView (b : BatonId) : heldView (freePages s b) = heldView s := by simp [freePages]

@[simp] theorem completeCmd_heldView (b : BatonId) (op : Byte) (h : HostHdr) (c : Finish) :
    heldView (completeCmd s b op h c) = heldView s := by
  simp [completeCmd]

@[simp] theorem completeEach_heldView (b : BatonId) (xs : List (Byte × HostHdr)) (c : Finish) :
    heldView (completeEach s b xs c) = heldView s := by
  simp [completeEach]

@[simp] theorem endCmds_heldView (b : BatonId) (c : Finish) : heldView (endCmds s b c) = heldView s := by
  unfold endCmds
  split <;> simp

@[simp] theorem dropReplayLegs_heldView (b : BatonId) : heldView (dropReplayLegs s b) = heldView s := by
  refine foldl_heldView _ _ _ fun s g => ?_
  exact foldl_heldView _ g.pages s fun s p => ungrant_heldView s ..

@[simp] theorem endAudit_heldView (b : BatonId) (c : Finish) : heldView (endAudit s b c) = heldView s := by
  unfold endAudit
  split
  · rfl
  · split
    · rfl
    · rw [completeB_heldView, freeSlots_heldView]
      exact (modReq_heldView _ _ _ fun _ => by rfl).trans (dropReplayLegs_heldView s b)

@[simp] theorem unqueue_heldView (b : BatonId) : heldView (unqueue s b) = heldView s := by
  unfold unqueue
  (repeat' split) <;> simp

@[simp] theorem bumpSlot_heldView (b : BatonId) : heldView (bumpSlot s b) = heldView s := by
  unfold bumpSlot
  split <;> rfl

@[simp] theorem setPhase_heldView (b : BatonId) (p : ReqPhase) : heldView (setPhase s b p) = heldView s :=
  modReq_heldView _ _ _ fun r => by
    split <;> rfl

/-! ### A baton leaves the device -/

theorem dropReq_heldView (b : BatonId) : heldView (dropReq s b) = ((heldView s).1, (heldView s).2.filter (· != b)) := by
  rw [heldView, dropReq_mem, dropReq_reqs, heldView, List.filter_map]
  rfl

/-- A request that is freed leaves the memories and every other baton. -/
theorem freeReq_heldView (b : BatonId) (rest : Finish) :
    heldView (freeReq s b rest) = ((heldView s).1, (heldView s).2.filter (· != b)) := by
  cases h : findReq s b with
  | none =>
    have hgone : (heldView s).2.filter (· != b) = (heldView s).2 :=
      List.filter_eq_self.2 fun c hc => bne_iff_ne.2 fun heq => findReq_eq_none_iff.1 h (heq ▸ hc)
    simp only [freeReq, h, hgone]
  | some r =>
    simp only [freeReq, h]
    rw [bumpSlot_heldView, dropReq_heldView, stpGive_heldView, freePages_heldView]
    cases r.lane <;> simp

theorem leaveDevice_heldView (d : DevId) (b : BatonId) :
    heldView (leaveDevice d s b) = ((heldView s).1, (heldView s).2.filter (· != b)) := by
  cases h : findReq s b with
  | none => simpa only [freeReq, leaveDevice, h] using freeReq_heldView s b .refused
  | some r =>
    simp only [leaveDevice, h]
    refine (freeReq_heldView _ b .refused).trans ?_
    rw [completeEach_heldView, modReq_heldView _ _ _ fun _ => by rfl]

/-- The batons of a leg leave, and nothing of the memories. -/
theorem leaveDevices_heldView (d : DevId) (bs : List BatonId) :
    heldView (bs.foldl (leaveDevice d) s) = ((heldView s).1, (heldView s).2.filter fun c => !bs.contains c) := by
  induction bs generalizing s with
  | nil => exact Prod.ext rfl (List.filter_eq_self.2 fun _ _ => rfl).symm
  | cons b bs ih =>
    rw [List.foldl_cons, ih, leaveDevice_heldView]
    simp only [List.filter_filter, Prod.mk.injEq, true_and]
    refine List.filter_congr fun c _ => ?_
    rw [List.contains_cons, Bool.not_or, Bool.and_comm]
    rfl

/-! ### Swaps -/

@[simp] theorem msix_heldView (func vector : Nat) : heldView (msix s func vector) = heldView s := by simp [heldView]

@[simp] theorem marSend_heldView (dst : DevId) (m : MarMsg) (entry : List Word) : heldView (marSend s dst m entry) = heldView s := by
  unfold marSend
  split
  · exact foldl_heldView _ _ _ fun s p => heldView_of_sansTransport (sendLoose_sansTransport ..)
  · rfl

@[simp] theorem marLog_heldView (ev lane : Nat) (subject : DevId) (core : Nat) (detail : Word) :
    heldView (marLog s ev lane subject core detail) = heldView s := by
  unfold marLog
  dsimp only
  rw [ite_heldView, ite_heldView, marSend_heldView, msix_heldView]
  exact (ite_congr rfl (fun _ => rfl) fun _ => ite_self _).trans (ite_self _)

@[simp] theorem swapEnd_heldView : heldView (swapEnd s) = heldView s := by
  unfold swapEnd
  split
  · dsimp only
    split
    · rfl
    · exact marLog_heldView ..
  · rfl

@[simp] theorem swapLost_heldView (g : Leg) (code : Finish) : heldView (swapLost s g code) = heldView s := by
  unfold swapLost
  split
  · exact swapEnd_heldView _
  · rfl

/-! ### What a leg holds at its target -/

@[simp] theorem freeItem_heldView (n : LaneNo) (it : LegItem) (ks : List Nat) : heldView (freeItem s n it ks) = heldView s := by
  simp [freeItem]

@[simp] theorem freeTierSpace_heldView (t : Option (Fin 4 × Nat × Nat)) : heldView (freeTierSpace s t) = heldView s := by
  unfold freeTierSpace
  split <;> rfl

@[simp] theorem dirDrop_heldView (n : LaneNo) (b : BatonId) : heldView (dirDrop s n b) = heldView s := by simp [dirDrop]

@[simp] theorem giveBlocks_heldView (i : Nat) : heldView (giveBlocks s i) = heldView s := by
  unfold giveBlocks
  split
  · rfl
  · dsimp only
    split
    · exact legMsg_heldView ..
    · rfl

@[simp] theorem freeBlocks_heldView (g : Leg) : heldView (freeBlocks s g) = heldView s :=
  foldl_heldView _ _ _ fun s g => giveBlocks_heldView s g.index

theorem withXz_heldView (x : Xz) : heldView { s with xz := x } = heldView s := rfl

/-- Of the memories, freeing a leg's space reaches the exchange zone at the leg's own keys. -/
theorem freeLegSpace_mem (g : Leg) : (freeLegSpace s g).mem = (clearStaged s g.index).mem := by
  have hmem : ∀ u, heldView u = heldView s → (clearStaged u g.index).mem = (clearStaged s g.index).mem := fun u hu => by
    rw [clearStaged, clearStaged, mem_of_heldView hu]
  refine hmem _ ((freeBlocks_heldView _ g).trans ((withXz_heldView _ _).trans ?_))
  simp

/-! ### Aborts -/

@[simp] theorem legCpl_heldView (b : BatonId) (code : Finish) : heldView (legCpl s b code) = heldView s := by simp [legCpl]

@[simp] theorem takeUp_heldView (b : BatonId) : heldView (takeUp s b) = heldView s := by
  unfold takeUp
  (repeat' split) <;> simp

@[simp] theorem afterAbort_heldView (g : Leg) (code : Finish) (b : BatonId) : heldView (afterAbort s g code b) = heldView s := by
  unfold afterAbort
  split <;> simp

@[simp] theorem endPull_heldView (p : Pull) (code : Finish) : heldView (endPull s p code) = heldView s := by
  unfold endPull
  dsimp only
  rw [foldl_heldView _ _ _ fun s c => completeCmd_heldView s .., foldl_heldView _ _ _ fun s h => complete_heldView s ..,
    completeB_heldView]
  rfl

@[simp] theorem afterRemoteAbort_heldView (g : Leg) (code : Finish) : heldView (afterRemoteAbort s g code) = heldView s := by
  simp [afterRemoteAbort]

/-- Of the memories, an abort reaches the exchange zone at the leg's own keys, and that at the target alone. -/
theorem abortLeg_mem (g : Leg) (code : Finish) (tell : Bool) :
    (abortLeg s g code tell).mem = if g.atTarget then (clearStaged s g.index).mem else s.mem := by
  have htold : heldView (if tell then legMsg s g msgAbort (finishCode code).toNat 0 0 else s) = heldView s := by simp
  have hfreed : heldView (abortLeg s g code tell) = heldView
      (if g.atTarget then freeLegSpace (if tell then legMsg s g msgAbort (finishCode code).toNat 0 0 else s) g
        else if tell then legMsg s g msgAbort (finishCode code).toNat 0 0 else s) := by
    simp [abortLeg]
  rw [mem_of_heldView hfreed]
  split
  · rw [freeLegSpace_mem, clearStaged, clearStaged, mem_of_heldView htold]
  · exact mem_of_heldView htold

end

/-! ### Bytes of the exchange zone outside a leg -/

/-- Leaving out bytes leaves what is read at an address that is kept. -/
theorem memRead_filter {p : Host.Cell → Bool} {a : Nat} (h : ∀ b, p (a, b) = true) (m : Mem) :
    memRead (m.filter p) a = memRead m a := by
  induction m with
  | nil => rfl
  | cons c m ih =>
    obtain ⟨k, b⟩ := c
    by_cases hk : k = a
    · subst hk
      rw [List.filter_cons_of_pos (h b), memRead, memRead, if_pos rfl, if_pos rfl]
    · by_cases hp : p (k, b) = true
      · rw [List.filter_cons_of_pos hp, memRead, memRead, if_neg hk, if_neg hk, ih]
      · rw [List.filter_cons_of_neg hp, memRead, if_neg hk, ih]

theorem memRead_clearStaged (s : State) {i a : Nat} (h : a < xzKey i 0 0 ∨ xzKey (i + 1) 0 0 ≤ a) :
    memRead (clearStaged s i).mem.xz a = memRead s.mem.xz a := by
  refine memRead_filter (fun b => ?_) s.mem.xz
  rcases h with h | h
  · simp [Nat.not_le.2 h]
  · simp [Nat.not_lt.2 h]

/-! ### Commit and abort frames -/

theorem heldView_of_workView {s t : State} (h : workView t = workView s) : heldView t = heldView s := by
  obtain ⟨hmem, hreqs, -⟩ := workView_eq_iff.1 h
  rw [heldView, heldView, hmem, hreqs]

/-- What a commit frame at its RELEASING source leaves of memory and batons. -/
theorem commitEnd_heldView (s : State) (f : Frame) (x : SysRx) (g : Leg) :
    heldView (sysEnd s f x (swapEnd (g.batons.foldl (leaveDevice g.peer) (dropLeg (sysTaken s f x) g.index)))) =
      ((heldView s).1, (heldView s).2.filter fun c => !g.batons.contains c) := by
  rw [heldView_of_workView (sysEnd_workView ..), swapEnd_heldView, leaveDevices_heldView, dropLeg_heldView,
    heldView_of_workView (sysTaken_workView ..)]

/-- A commit frame at the source that it names: the batons leave, or nothing happens. -/
theorem exec_legCommitRx_leg {s : State} {f : Frame} {x : SysRx} {g : Leg} (hruns : RunsSystem s f opLegCtl x)
    (hsource : findSource (sysTaken s f x) f = some g) :
    exec (.legCommitRx f) s = .next (sysEnd s f x (if msgKind f ≠ some msgCommit || g.state ≠ .releasing then sysTaken s f x
      else swapEnd (g.batons.foldl (leaveDevice g.peer) (dropLeg (sysTaken s f x) g.index)))) := by
  refine congrArg Host.Outcome.next ((rxSystem_runs hruns _).trans (congrArg (sysEnd s f x) ?_))
  simp only [hsource]

theorem exec_legCommitRx_noLeg {s : State} {f : Frame} {x : SysRx} (hruns : RunsSystem s f opLegCtl x)
    (hnone : findSource (sysTaken s f x) f = none) :
    exec (.legCommitRx f) s = .next (sysEnd s f x (lateDrop (sysTaken s f x))) := by
  refine congrArg Host.Outcome.next ((rxSystem_runs hruns _).trans (congrArg (sysEnd s f x) ?_))
  simp only [hnone]

/-- An abort frame ends the leg that it names, at its source or, where it names none, at its target. -/
theorem exec_legAbortRx_leg {s : State} {f : Frame} {x : SysRx} {g : Leg} (hruns : RunsSystem s f opLegCtl x)
    (hleg : findSource (sysTaken s f x) f = some g ∨
      findSource (sysTaken s f x) f = none ∧ findTarget (sysTaken s f x) f = some g)
    (hkind : msgKind f = some msgAbort) :
    exec (.legAbortRx f) s =
      .next (sysEnd s f x (abortLeg (sysTaken s f x) g (finishOfByte ((msgWord f 0).setWidth 8)) false)) := by
  refine congrArg Host.Outcome.next ((rxSystem_runs hruns _).trans (congrArg (sysEnd s f x) ?_))
  rcases hleg with hsource | ⟨hnone, htarget⟩
  · simp only [hkind, hsource, ne_eq, not_true_eq_false, if_false]
  · simp only [hkind, hnone, htarget, ne_eq, not_true_eq_false, if_false]

/-! ### The statement -/

/-- Settles O39: a commit comes to `leaveDevice` for each baton, and every other end of a leg to `abortLeg`, which reaches the memories
through `clearStaged` alone. The code in word 0 of an abort message is the model's choice (log 17), and so is the idle time, which is
the event's own word (log 31). -/
theorem legEnds : Obligations.LegEnds := by
  refine ⟨fun s f x hruns => ?_, fun s l g hleg => ⟨fun htarget hstate hidle => ?_, fun hsource hstate => ?_, fun hsource hstate => ?_,
    fun code tell => ?_⟩⟩
  · intro u
    refine ⟨fun g hsource hkind hstate => ?_, fun g hsource hstate => ?_, exec_legCommitRx_noLeg hruns,
      fun g hsource hkind => exec_legAbortRx_leg hruns (.inl hsource) hkind,
      fun g hnone htarget hkind => exec_legAbortRx_leg hruns (.inr ⟨hnone, htarget⟩) hkind⟩
    · have hview := commitEnd_heldView s f x g
      refine ⟨_, ?_, rfl, fun b hb => findReq_eq_none_iff.2 ?_, congrArg Prod.fst hview⟩
      · rw [exec_legCommitRx_leg hruns hsource, if_neg (by simp [hkind, hstate])]
      · rw [hview]
        simp [hb]
    · rw [exec_legCommitRx_leg hruns hsource, if_pos (by simp [hstate])]
  · show execLegIdleTimeout l s = _
    simp only [execLegIdleTimeout, hleg, htarget, hstate, hidle]
    rfl
  · show execLegSourceTimeout l s = _
    simp only [execLegSourceTimeout, hleg, hsource, hstate]
    rfl
  · show execLegSourceTimeout l s = _
    simp only [execLegSourceTimeout, hleg, hsource, hstate]
    rfl
  · rw [abortLeg_mem]
    split
    · exact ⟨rfl, fun a ha => memRead_clearStaged s ha⟩
    · exact ⟨rfl, fun _ _ => rfl⟩

end Sys2Proof.Machine
end

section
/-! PROOFS. Batons at rest (R201 to R203, R207, R208): the ends of a SPILL and of a RECALL, the scrub, and the end of an audit. -/

namespace Sys2Proof.Machine

open Sys2Proof

/-! ### A baton whose SPILL ends (R201) -/

/-- Of a request at rest: where it stands, its copies and pages, its log, and who waits for it. -/
def restView (r : Req) : ReqPhase × Option (Fin 4) × List CtlCopy × List PageEnt × List Word × Option (DevId × Bool) :=
  (r.phase, r.capPort, r.copies, r.pages, r.log, r.pulledBy)

theorem restView_modReq {f : Req → Req} (hid : ∀ r, (f r).id = r.id) (hview : ∀ r, restView (f r) = restView r) (s : State)
    (k b : BatonId) : (findReq (modReq s k f) b).map restView = (findReq s b).map restView := by
  rw [findReq_modReq hid, Option.map_map]
  congr 1
  funext r
  simp only [Function.comp]
  split
  · exact hview r
  · rfl

theorem restView_pushNotice (s : State) (k b : BatonId) (code : Byte) :
    (findReq (pushNotice s k code) b).map restView = (findReq s b).map restView := by
  refine restView_modReq (fun r => pushEntry_id ..) (fun r => ?_) s k b
  unfold pushEntry
  split <;> rfl

theorem restView_finalCpl (s : State) (r : Req) (code : Finish) (reason : Byte) (pos : Nat) (b : BatonId) :
    (findReq (finalCpl s r code reason pos) b).map restView = (findReq s b).map restView := by
  unfold finalCpl
  split
  · rw [findReq_eq_of_reqs (postCpl_reqs ..)]
    exact restView_modReq (fun _ => by rfl) (fun _ => by rfl) ..
  · rfl

theorem completeCmd_reqs (s : State) (b : BatonId) (op : Byte) (h : HostHdr) (c : Finish) : (completeCmd s b op h c).reqs = s.reqs := by
  unfold completeCmd
  split
  · exact completeB_reqs ..
  · exact complete_reqs ..

theorem completeEach_reqs (s : State) (b : BatonId) (xs : List (Byte × HostHdr)) (c : Finish) : (completeEach s b xs c).reqs = s.reqs := by
  unfold completeEach
  exact foldl_keeps State.reqs _ (fun s x => completeCmd_reqs s b x.1 x.2 c) xs s

@[simp] theorem finalCpl_heldView (s : State) (r : Req) (code : Finish) (reason : Byte) (pos : Nat) :
    heldView (finalCpl s r code reason pos) = heldView s := by
  unfold finalCpl
  split
  · rw [heldView, postCpl_mem, postCpl_reqs]
    exact modReq_heldView _ _ _ fun _ => by rfl
  · rfl

@[simp] theorem pushNotice_heldView (s : State) (b : BatonId) (code : Byte) : heldView (pushNotice s b code) = heldView s :=
  modReq_heldView _ _ _ fun _ => pushEntry_id ..

/-- Entries that a SPILL leaves have a copy in the capacity tier, or lie there. -/
theorem spillEnts_copied (s : State) (r : Req) (m : ModelSec) (S a : Nat) (mem : Mem) (es : List PageEnt) :
    ∀ e ∈ (spillEnts s r m S a mem es).1, e.copy = true ∨ e.state = pFar := by
  fun_induction spillEnts s r m S a mem es with
  | case1 => simp
  | case2 a mem e es hthere x ih => 
    intro e' he'
    rcases List.mem_cons.1 he' with rfl | he'
    · simpa using hthere
    · exact ih e' he'
  | case3 a mem e es hthere bs x ih => 
    intro e' he'
    rcases List.mem_cons.1 he' with rfl | he'
    · exact .inl rfl
    · exact ih e' he'

/-- The end of a SPILL once the request rests: its NOTICE, the leg's entry, and the completions of what waited. -/
def spillFinish (s : State) (b : BatonId) (g : Leg) (r : Req) : State :=
  let s := pushNotice s b (if r.parkWhy = .heldNoPage then noticeHeldParked else noticeParked)
  let s := dropLeg { s with btn := { s.btn with uncounted := s.btn.uncounted.filter (· != b) } } g.index
  let s := completeEach s b r.waitPark (if r.parkWhy = .deadTarget then .deadTarget else .ok)
  let s := modReq s b fun r => { r with parkWhy := .ok }
  if r.cancelled && r.endReason = 0 then finalCpl s r .cancelledDropped reasonCancelled (lastPos r) else s

theorem restView_spillFinish (s : State) (b : BatonId) (g : Leg) (r : Req) :
    (findReq (spillFinish s b g r) b).map restView = (findReq s b).map restView := by
  have hended : ∀ u : State, (findReq (if r.cancelled && r.endReason = 0 then
      finalCpl u r .cancelledDropped reasonCancelled (lastPos r) else u) b).map restView = (findReq u b).map restView := fun u => by
    split
    · exact restView_finalCpl ..
    · rfl
  unfold spillFinish
  dsimp only
  rw [hended, restView_modReq (fun _ => by rfl) (fun _ => by rfl), findReq_eq_of_reqs (completeEach_reqs ..)]
  exact restView_pushNotice ..

theorem spillFinish_heldView (s : State) (b : BatonId) (g : Leg) (r : Req) : heldView (spillFinish s b g r) = heldView s := by
  unfold spillFinish
  dsimp only
  rw [ite_heldView, finalCpl_heldView, modReq_heldView _ _ _ fun _ => by rfl, completeEach_heldView, dropLeg_heldView]
  refine (ite_self _).trans ?_
  show heldView (pushNotice s b _) = heldView s
  exact pushNotice_heldView ..

/-- A SPILL that commits stores in its port of the capacity tier, puts the request at rest, and finishes. -/
theorem spillCommit_eq {s : State} {b : BatonId} {r : Req} {g : Leg} {t : Fin 4 × Nat × Nat} {m : ModelSec}
    (hreq : findReq s b = some r) (htier : g.tier = some t) (hmodel : modelOf s r.model = some m) :
    ∃ u mem f, spillCommit s b g = spillFinish (modReq u b f) b g r ∧ u.reqs = s.reqs ∧
      u.mem = { s.mem with cap := vset s.mem.cap t.1 mem } ∧ (∀ q, (f q).id = q.id) ∧
      restView (f r) = (if r.endReason = 0 then .parked else .ended, some t.1, restCopies s r,
        (spillEnts s r m (slotBytes (laneOf s g.dstLane)) t.2.1 (s.mem.cap.get t.1) r.pages).1, r.log, r.pulledBy) := by
  obtain ⟨p, base, bytes⟩ := t
  unfold spillCommit
  simp only [hreq, htier, hmodel]
  exact ⟨_, _, _, rfl, rfl, rfl, fun _ => by rfl, rfl⟩

/-- The baton of a SPILL that commits is at rest, and of the memories its port of the capacity tier alone has changed. -/
theorem spillCommit_rests {s : State} {b : BatonId} {r : Req} {g : Leg} {t : Fin 4 × Nat × Nat} {m : ModelSec}
    (hreq : findReq s b = some r) (htier : g.tier = some t) (hmodel : modelOf s r.model = some m) :
    (∃ q pages, findReq (spillCommit s b g) b = some q ∧ (∀ e ∈ pages, e.copy = true ∨ e.state = pFar) ∧
      restView q = (if r.endReason = 0 then .parked else .ended, some t.1, restCopies s r, pages, r.log, r.pulledBy)) ∧
    ∃ mem, (spillCommit s b g).mem = { s.mem with cap := vset s.mem.cap t.1 mem } := by
  obtain ⟨u, mem, f, hcommit, hreqs, hmem, hid, hview⟩ := spillCommit_eq hreq htier hmodel
  have hrest := restView_spillFinish (modReq u b f) b g r
  rw [findReq_modReq_self hid ((findReq_eq_of_reqs hreqs b).trans hreq), Option.map_some, hview, ← hcommit] at hrest
  obtain ⟨q, hq, hqview⟩ := Option.map_eq_some_iff.1 hrest
  refine ⟨⟨q, _, hq, fun e he => spillEnts_copied _ _ _ _ _ _ _ e he, hqview⟩, mem, ?_⟩
  rw [hcommit, mem_of_heldView (spillFinish_heldView ..), modReq_mem, hmem]

theorem serveWaiting_none {s : State} {b : BatonId} {r : Req} (hreq : findReq s b = some r) (hpull : r.pulledBy = none) :
    serveWaiting s b = s := by
  simp only [serveWaiting, hreq, hpull]

/-! ### The scrub (R202) -/

/-- A copy after the scrub of a request's copies. -/
def scrubbedCopy (cs : List CtlCopy) (c : CtlCopy) : CtlCopy :=
  if goodCopy c then c
  else match cs.find? fun d => d.part == c.part && goodCopy d with
    | some d => { c with bytes := d.bytes, crc := d.crc }
    | none => c

theorem goodCopy_scrubbedCopy {cs : List CtlCopy} {c : CtlCopy} (hc : c ∈ cs) (hhold : copiesHold cs = true) :
    goodCopy (scrubbedCopy cs c) = true := by
  unfold scrubbedCopy
  split
  · next hgood => exact hgood
  · split
    · next d hd =>
      have hfound := List.find?_some hd
      simp only [Bool.and_eq_true] at hfound
      exact hfound.2
    · next hnone =>
      have hsome := List.any_eq_true.1 (List.all_eq_true.1 hhold c hc)
      obtain ⟨d, hd, hgood⟩ := hsome
      exact absurd hgood (List.find?_eq_none.1 hnone d hd)

/-- A scrub finds the control state of a request lost. -/
def scrubLoses (r : Req) : Bool := !copiesHold r.copies && r.lost.isNone

/-- What a scrub leaves of a request. -/
def scrubbedReq (r : Req) : Req :=
  { r with copies := r.copies.map (scrubbedCopy r.copies), lost := if scrubLoses r then some .control else r.lost }

theorem findReq_scrub {s : State} {b : BatonId} {r : Req} (hreq : findReq s b = some r) :
    findReq (scrub s b) b = some (scrubbedReq r) := by
  have hmod : ∀ f : Req → Req, (∀ q, (f q).id = q.id) → f r = scrubbedReq r → findReq (modReq s b f) b = some (scrubbedReq r) :=
    fun f hid hf => hf ▸ findReq_modReq_self hid hreq
  unfold scrub
  simp only [hreq]
  exact hmod _ (fun _ => by rfl) rfl

theorem scrub_ctlLost {s : State} {b : BatonId} {r : Req} (hreq : findReq s b = some r) :
    (scrub s b).btn.ctlLost = if scrubLoses r then satInc s.btn.ctlLost else s.btn.ctlLost := by
  unfold scrub
  simp only [hreq]
  rfl

theorem scrub_mem_lanes (s : State) (b : BatonId) : (scrub s b).mem = s.mem ∧ (scrub s b).lanes = s.lanes := by
  unfold scrub
  split <;> exact ⟨rfl, rfl⟩

/-! ### The end of an audit (R207, R208) -/

/-- The state after the repairs that an audit asked for. -/
def repaired (s : State) (r : Req) (m : ModelSec) (a : AuditRun) (bad : List (PageEnt × PageEnt)) : State :=
  if a.repair then bad.foldl (fun s p =>
    repairPage s r p.2 (scratchImage s a.lane p.1 (comparedBytes m p.1 a.toPos.toNat))) s
  else s

theorem repairPage_keeps (s : State) (r : Req) (e : PageEnt) (bs : List Byte) :
    ((repairPage s r e bs).reqs, (repairPage s r e bs).btn) = (s.reqs, s.btn) := by
  unfold repairPage
  (repeat' split) <;> rfl

/-- A repair writes images alone. -/
theorem repaired_keeps (s : State) (r : Req) (m : ModelSec) (a : AuditRun) (bad : List (PageEnt × PageEnt)) :
    (repaired s r m a bad).reqs = s.reqs ∧ (repaired s r m a bad).btn = s.btn := by
  refine Prod.mk.inj (?_ : ((repaired s r m a bad).reqs, (repaired s r m a bad).btn) = (s.reqs, s.btn))
  unfold repaired
  split
  · exact foldl_keeps (fun s : State => (s.reqs, s.btn)) _ (fun s p => repairPage_keeps s ..) bad s
  · rfl

theorem repaired_mem {s : State} {a : AuditRun} {bad : List (PageEnt × PageEnt)} (h : a.repair = false ∨ bad = []) (r : Req)
    (m : ModelSec) : (repaired s r m a bad).mem = s.mem := by
  unfold repaired
  rcases h with h | h <;> simp [h]

/-- What the end of an audit leaves of its request; `clean`: no image differed. -/
def auditedReq (clean : Bool) (r : Req) : Req := { r with audit := none, auditFail := r.auditFail || !clean }

/-- An audit's scratch slots and scratch sequence go, the request is marked and a mismatch counted. -/
def auditClosed (s : State) (b : BatonId) (a : AuditRun) (clean : Bool) : State :=
  let s := modReq (dropReplay (freeSlots s a.lane a.scratch) b) b (auditedReq clean)
  if clean then s else { s with btn := { s.btn with auditMismatch := satInc s.btn.auditMismatch } }

theorem freeSlots_btn (s : State) (n : LaneNo) (ks : List Nat) : (freeSlots s n ks).btn = s.btn :=
  foldl_keeps State.btn _ (fun s _ => modLane_btn s ..) ks s

theorem findReq_auditClosed {s : State} {b : BatonId} {r : Req} (hreq : findReq s b = some r) (a : AuditRun) (clean : Bool) :
    findReq (auditClosed s b a clean) b = some (auditedReq clean r) := by
  have hmod : findReq (modReq (dropReplay (freeSlots s a.lane a.scratch) b) b (auditedReq clean)) b = some (auditedReq clean r) :=
    findReq_modReq_self (fun _ => by rfl) ((findReq_eq_of_reqs (freeSlots_reqs ..) b).trans hreq)
  cases clean <;> exact hmod

theorem auditClosed_btn (s : State) (b : BatonId) (a : AuditRun) (clean : Bool) :
    (auditClosed s b a clean).btn.replays = s.btn.replays.filter (fun q => q.id != b) ∧
      (auditClosed s b a clean).btn.auditMismatch = if clean then s.btn.auditMismatch else satInc s.btn.auditMismatch := by
  have hbtn := freeSlots_btn s a.lane a.scratch
  cases clean
  · exact ⟨by simp [auditClosed, dropReplay, hbtn], by simp [auditClosed, dropReplay, hbtn]⟩
  · exact ⟨by simp [auditClosed, dropReplay, hbtn], by simp [auditClosed, dropReplay, hbtn]⟩

theorem auditClosed_mem (s : State) (b : BatonId) (a : AuditRun) (clean : Bool) : (auditClosed s b a clean).mem = s.mem := by
  have hslots := mem_of_heldView (freeSlots_heldView s a.lane a.scratch)
  cases clean <;> exact hslots

/-! ### The statement -/

/-- Settles O40: each event comes to its operation, `spillCommit`, `recallLand`, `scrub` or the comparison of the replay's images,
and the lemmas above say what that leaves. What an audit compares and repairs, and the order in which a resume tries the lanes, is the
model's choice (logs 25, 57). -/
theorem batonsAtRest : Obligations.BatonsAtRest := by
  intro s b r hreq
  refine ⟨fun g t m hleg htier hmodel hpull => ?_, fun g hleg => ?_,
    fun g q u hleg hreplay hq hpull => ⟨fun hopens => ?_, fun hopens => ?_⟩, fun g hleg hreplay => ?_, fun hphase => ?_,
    fun hparked hended => ?_, fun a q m haudit hq hmodel => ⟨fun hdone => ?_, fun hdone => ?_⟩⟩
  · obtain ⟨⟨q, pages, hq, hpages, hview⟩, mem, hmem⟩ := spillCommit_rests hreq htier hmodel
    simp only [restView, Prod.mk.injEq] at hview
    obtain ⟨hphase, hport, hcopies, rfl, hlog, hwaits⟩ := hview
    refine ⟨spillCommit s b g, q, ?_, hq, hphase, hport, hcopies, hpages, hlog, fun k hk => ?_, ?_, ?_⟩
    · show execSpillDone b s = _
      simp only [execSpillDone, hleg]
      rw [serveWaiting_none hq (hwaits.trans hpull)]
    · rw [hmem]
      exact vset_get_ne _ _ _ _ hk
    · rw [hmem]
    · rw [hmem]
  · show execSpillDone b s = _
    simp only [execSpillDone, hleg]
  · show execRecallDone b s = _
    simp only [execRecallDone, hleg, hreplay, hq, hpull, hopens]
    rfl
  · show execRecallDone b s = _
    simp only [execRecallDone, hleg, hreplay, hq, hpull, hopens]
    rfl
  · show execRecallDone b s = _
    simp only [execRecallDone, hleg, hreplay, if_true]
  · obtain ⟨hmem, hlanes⟩ := scrub_mem_lanes s b
    refine ⟨scrub s b, scrubbedReq r, ?_, findReq_scrub hreq, fun hhold => ⟨fun c hc => ?_, ?_⟩, fun hlose hlost => ⟨?_, ?_⟩,
      hmem, hlanes⟩
    · show execControlScrub b s = _
      simp only [execControlScrub, hreq]
      rw [if_pos (by simpa using hphase)]
    · obtain ⟨d, hd, rfl⟩ := List.mem_map.1 hc
      exact goodCopy_scrubbedCopy hd hhold
    · simp [scrubbedReq, scrubLoses, hhold]
    · simp [scrubbedReq, scrubLoses, hlose, hlost]
    · rw [scrub_ctlLost hreq]
      simp [scrubLoses, hlose, hlost]
  · show execControlScrub b s = _
    simp only [execControlScrub, hreq, hparked, hended]
    rfl
  · show execAuditDone b s = _
    simp only [execAuditDone, hreq, hq, haudit, hmodel, if_pos hdone]
  · intro ps bad
    obtain ⟨hreqs, hbtn⟩ := repaired_keeps s r m a bad
    obtain ⟨hreplays, hcount⟩ := auditClosed_btn (repaired s r m a bad) b a bad.isEmpty
    rw [hbtn] at hreplays hcount
    refine ⟨auditClosed (repaired s r m a bad) b a bad.isEmpty, auditedReq bad.isEmpty r, ?_,
      findReq_auditClosed ((findReq_eq_of_reqs hreqs b).trans hreq) a _, rfl, rfl, rfl, rfl, hcount, fun x hx => ?_, fun hclean => ?_⟩
    · show execAuditDone b s = _
      simp only [execAuditDone, hreq, hq, haudit, hmodel, if_neg (Nat.not_lt.2 hdone)]
      rfl
    · rw [hreplays] at hx
      simpa using (List.mem_filter.1 hx).2
    · rw [auditClosed_mem, repaired_mem hclean]

end Sys2Proof.Machine
end

section
/-! PROOFS. Bib (R273 to R290): when an entry matches, what the host commands and the update engine come to, and what the cascade
ring does with a packet. -/

namespace Sys2Proof.Machine

open Sys2Proof

/-! ### Matching (R274) -/

theorem bibMatches_iff {k : BitVec 128} {e : BibEntry} : bibMatches k e = true ↔ (k ^^^ e.key) &&& e.care = 0 := beq_iff_eq

/-- A difference under a mask is zero exactly when the words agree in the bits of the mask. -/
theorem xor_and_eq_zero_iff {n : Nat} {x y mask : BitVec n} :
    (x ^^^ y) &&& mask = 0 ↔ ∀ i, i < n → mask.getLsbD i = true → x.getLsbD i = y.getLsbD i := by
  constructor
  · intro hzero i _ hmask
    have hbit : ((x ^^^ y) &&& mask).getLsbD i = false := by rw [hzero]; exact BitVec.getLsbD_zero
    simpa [hmask] using hbit
  · intro hagree
    refine BitVec.eq_of_getLsbD_eq fun i hi => ?_
    have hbit := hagree i hi
    cases hmask : mask.getLsbD i with
    | false => simp [hmask]
    | true => simp [hmask, hbit hmask]

/-- Settles O59: a match is a zero difference under CARE, which is read bit by bit. -/
theorem entriesMatch : Obligations.EntriesMatch := by
  refine fun k e => ⟨bibMatches_iff, bibMatches_iff.trans xor_and_eq_zero_iff, fun hcare => bibMatches_iff.2 ?_⟩
  rw [hcare]
  exact BitVec.and_zero

/-! ### The copies (R284) -/

@[simp] theorem bibBg_setBg (b : Bib) (t : Tbl BibEntry) : bibBg (setBg b t) = t := by
  unfold bibBg setBg; cases b.fg <;> rfl

@[simp] theorem bibFg_setBg (b : Bib) (t : Tbl BibEntry) : bibFg (setBg b t) = bibFg b := by
  unfold bibFg setBg; cases b.fg <;> rfl

@[simp] theorem setBg_engine (b : Bib) (t : Tbl BibEntry) : (setBg b t).engine = b.engine := by
  unfold setBg; split <;> rfl

@[simp] theorem setBg_queue (b : Bib) (t : Tbl BibEntry) : (setBg b t).queue = b.queue := by
  unfold setBg; split <;> rfl

/-! ### Host commands (R275, R276, R278, R281) -/

theorem partMine_iff {h : HostHdr} {p : BibPart} : partMine h p = true ↔ h.func = 0 ∨ h.tenant = p.tenant := by
  simp [partMine]

theorem findIdx?_recordOk_none {part : Nat} {p : BibPart} {rs : List BibRecord} (h : rs.all (recordOk part p) = true) :
    rs.findIdx? (fun r => !recordOk part p r) = none := by
  simpa using h

/-- A batch of 1 to 256 sound records, of a function that may update the partition, joins the queue while it has room. -/
theorem exec_bibUpdate_queued {s : State} {h : HostHdr} {p : BibPart} {part : BitVec 4} {rs : List BibRecord}
    (hserved : HostServed s h false) (hheld : bibHeld s = false) (hpart : bibPart s part.toNat = some p) (hne : rs ≠ [])
    (hlen : rs.length ≤ 256) (hmay : if p.priv then h.func = 0 else (h.func = 0 ∨ h.tenant = p.tenant))
    (hroom : s.bib.queue.length < 16) (hok : rs.all (recordOk part.toNat p) = true) :
    exec (.bibUpdate h part rs) s =
      .next { fetched s h with bib := { s.bib with queue := s.bib.queue ++ [⟨h, part.toNat, rs⟩] } } := by
  have hpart' : bibPart (fetched s h) part.toNat = some p := hpart
  have hheld' : bibHeld (fetched s h) = false := hheld
  have hmay' : (if p.priv then h.func.val != 0 else !partMine h p) = false := by
    cases hpriv : p.priv with
    | true => simpa [hpriv] using hmay
    | false => simpa [hpriv] using partMine_iff.2 (by simpa [hpriv] using hmay)
  have hroom' : decide (16 ≤ (fetched s h).bib.queue.length) = false := decide_eq_false (Nat.not_le.2 hroom)
  have hsome : rs.isEmpty = false := List.isEmpty_eq_false_iff.2 hne
  have hfits : decide (256 < rs.length) = false := decide_eq_false (Nat.not_lt.2 hlen)
  show execBibUpdate h part rs s = _
  unfold execBibUpdate
  rw [hostCmd_served hserved]
  simp only [hpart', hsome, hfits, hheld', hmay', hroom', findIdx?_recordOk_none hok]
  rfl

/-- The place, address and result of an entry of this device, as a lookup's answer carries them. -/
def foundHere (s : State) (e : Nat × BibEntry) : Nat × Nat × BitVec 64 := (trayPos s, e.1, e.2.result)

/-- A partition outside the cascade is searched here alone. -/
theorem lookup_here {s : State} {q : BibReq} {p : BibPart} (hpart : bibPart s q.part = some p) (hcasc : p.casc = false) :
    lookup s q = (some (.ok, (firstMatch (bibFg s.bib) p q.key).map (foundHere s)), s) := by
  simp only [lookup, hpart, hcasc, Bool.false_and, Bool.false_eq_true, if_false]
  rfl

/-- A lookup of a function that may use the partition, outside the cascade, is answered at once. -/
theorem exec_bibLookup_here {s : State} {h : HostHdr} {p : BibPart} {part : Byte} {key : BitVec 128}
    (hserved : HostServed s h false) (hheld : bibHeld s = false) (hpart : bibPart s part.toNat = some p) (hbtn : p.userBtn = false)
    (hmay : p.priv = true ∨ h.func = 0 ∨ h.tenant = p.tenant) (hcasc : p.casc = false) :
    exec (.bibLookup h part key) s = .next (answerLookup (fetched s h) h s.bib.gen
      (.ok, (firstMatch (bibFg s.bib) p key).map (foundHere s))) := by
  have hpart' : bibPart (fetched s h) part.toNat = some p := hpart
  have hheld' : bibHeld (fetched s h) = false := hheld
  have hmay' : (!p.priv && !partMine h p) = false := by
    rw [← partMine_iff] at hmay
    rcases hmay with hpriv | hmine <;> simp [*]
  have hhere := lookup_here (q := ⟨h, part.toNat, key, none⟩) hpart' hcasc
  show execBibLookup h part key s = _
  unfold execBibLookup
  rw [hostCmd_served hserved]
  simp only [hpart', hbtn, hheld', hmay', hhere]
  rfl

/-! ### The engine (R281 to R285) -/

/-- The index that names no record. -/
theorem updateBody_noRecord : updateBody 0xFFFF = [0xFFFF] := rfl

section
variable {s : State} {since : BitVec 48} {b : BibBatch} {bs : List BibBatch} {p : BibPart}

theorem exec_bibEngineDone_applied {t : Tbl BibEntry} (hengine : s.bib.engine = .running since) (hqueue : s.bib.queue = b :: bs)
    (hpart : bibPart s b.part = some p) (happly : applyRecords p 0 (bibBg s.bib) b.records = .ok t) :
    exec .bibEngineDone s = .next { s with bib := setBg { s.bib with engine := .ready } (compact p t) } := by
  show execBibEngineDone s = _
  simp only [execBibEngineDone, hengine, hqueue, hpart, happly]

theorem exec_bibEngineDone_failed {i : Nat} (hengine : s.bib.engine = .running since) (hqueue : s.bib.queue = b :: bs)
    (hpart : bibPart s b.part = some p) (happly : applyRecords p 0 (bibBg s.bib) b.records = .error i) :
    exec .bibEngineDone s =
      .next (completeB { s with bib := { s.bib with engine := .idle, queue := bs } } b.h 0x18 .refused 0 (updateBody i)) := by
  show execBibEngineDone s = _
  simp only [execBibEngineDone, hengine, hqueue, hpart, happly, endBatch, List.tail_cons]

theorem exec_bibBatchLate_late (hengine : s.bib.engine = .running since) (hqueue : s.bib.queue = b :: bs)
    (hlate : bibDeadline s ≤ (s.lap.count - since).toNat) :
    exec .bibBatchLate s =
      .next (raiseEvt (completeB { s with bib := { s.bib with engine := .idle, late := true, queue := bs } } b.h 0x18 .refused 0
        [0xFFFF]) 4) := by
  show execBibBatchLate s = _
  simp only [execBibBatchLate, hengine, hqueue, if_pos hlate, endBatch, List.tail_cons, updateBody_noRecord]

theorem exec_bibBatchLate_early (hengine : s.bib.engine = .running since) (hqueue : s.bib.queue = b :: bs)
    (hearly : (s.lap.count - since).toNat < bibDeadline s) : exec .bibBatchLate s = .next s := by
  show execBibBatchLate s = _
  simp only [execBibBatchLate, hengine, hqueue, if_neg (Nat.not_le.2 hearly)]

end

/-- Settles O8: a served update joins the queue and a served lookup is answered from the copy in use; the engine writes the copy
that is not in use, or the batch ends. That a privileged partition answers every owner, that one of BTN's answers no host and whose
records a batch may hold are the model's choices (log 29). -/
theorem bibCommandsAndEngine : Obligations.BibCommandsAndEngine := by
  refine ⟨fun s h p hserved hheld => ⟨fun part rs hpart hne hlen hmay hroom hok => ?_, fun part key hpart hbtn hmay hcasc => ?_⟩,
    fun s since b bs p hengine hqueue hpart => ⟨fun t happly => ?_, fun i happly => ?_, fun hlate => ?_, fun hearly => ?_⟩⟩
  · exact exec_bibUpdate_queued hserved hheld hpart hne hlen hmay hroom hok
  · rw [exec_bibLookup_here hserved hheld hpart hbtn hmay hcasc]
    cases firstMatch (bibFg s.bib) p key with
    | some e => rfl
    | none => rfl
  · exact ⟨_, exec_bibEngineDone_applied hengine hqueue hpart happly, setBg_engine .., bibBg_setBg .., bibFg_setBg ..,
      setBg_queue .., rfl⟩
  · exact exec_bibEngineDone_failed hengine hqueue hpart happly
  · exact exec_bibBatchLate_late hengine hqueue hlate
  · exact exec_bibBatchLate_early hengine hqueue hearly

/-! ### Packets on the ring (R286 to R288) -/

/-- The bytes that a packet's CRC covers do not hold the CRC. -/
theorem packetHead_sealPacket (p : RingPacket) : packetHead (sealPacket p) = packetHead p := rfl

theorem packetCrc_sealPacket (p : RingPacket) : packetCrc (sealPacket p) = (sealPacket p).crc :=
  congrArg crc8 (packetHead_sealPacket p)

/-- A packet without a match, or with one of a later tray position, takes this member's match. -/
theorem searchPacket_improved {s : State} {p : RingPacket} {part : BibPart} {e : Nat × BibEntry}
    (hpart : bibPart s p.part.toNat = some part) (hmatch : firstMatch (bibFg s.bib) part p.key = some e)
    (hbetter : p.hit = false ∨ trayPos s < p.pos.toNat) :
    searchPacket s p =
      sealPacket { p with hit := true, pos := s.sta.pos, addr := BitVec.ofNat 16 e.1, result := e.2.result } := by
  have hbetter' : (!p.hit || decide (trayPos s < p.pos.toNat)) = true := by simpa using hbetter
  simp only [searchPacket, hpart, hmatch, if_pos hbetter']

section
variable {s : State} {p : RingPacket}

theorem exec_bibRingPacket_outside (hheld : bibHeld s = false) (hup : s.sta.boot.fabricUp = true) (hmember : isMember s = false) :
    exec (.bibRingPacket p) s = .next (forwardPacket s p) := by
  show execBibRingPacket p s = _
  simp [execBibRingPacket, hheld, hup, hmember]

theorem exec_bibRingPacket_badCrc (hheld : bibHeld s = false) (hup : s.sta.boot.fabricUp = true) (hmember : isMember s = true)
    (hcrc : packetCrc p ≠ p.crc) :
    exec (.bibRingPacket p) s = .next { s with bib := { s.bib with ringCrc := satInc s.bib.ringCrc } } := by
  show execBibRingPacket p s = _
  simp [execBibRingPacket, hheld, hup, hmember, hcrc]

theorem exec_bibRingPacket_own (hheld : bibHeld s = false) (hup : s.sta.boot.fabricUp = true) (hmember : isMember s = true)
    (hcrc : packetCrc p = p.crc) (hown : p.tag.toNat / 64 = trayPos s) :
    exec (.bibRingPacket p) s = .next (packetHome s p) := by
  show execBibRingPacket p s = _
  simp [execBibRingPacket, hheld, hup, hmember, hcrc, hown]

theorem exec_bibRingPacket_passing (hheld : bibHeld s = false) (hup : s.sta.boot.fabricUp = true) (hmember : isMember s = true)
    (hcrc : packetCrc p = p.crc) (hother : p.tag.toNat / 64 ≠ trayPos s) :
    exec (.bibRingPacket p) s = .next (forwardPacket s (searchPacket s p)) := by
  show execBibRingPacket p s = _
  simp [execBibRingPacket, hheld, hup, hmember, hcrc, hother]

end

/-- A packet that comes back ends the lookup that waits for it. -/
theorem packetHome_waited {s : State} {p : RingPacket} {w : BibWait}
    (hwait : s.bib.waits.find? (fun w => w.tag == p.tag.toNat) = some w) :
    packetHome s p = pumpLookups 64 (answerReq
      { s with bib := { s.bib with waits := s.bib.waits.filter fun x => x.tag != w.tag } } w.req w.gen
      (.ok, if p.hit then some (p.pos.toNat, p.addr.toNat, p.result) else none)) := by
  simp only [packetHome, hwait]

/-! ### Time on the ring (R288 to R290) -/

/-- A lookup whose packet is lost waits no more; its tag rests for 16 us, and the loss is counted. -/
def cascadeLost (s : State) (w : BibWait) : State :=
  { s with bib := { s.bib with
      waits := s.bib.waits.filter fun x => x.tag != w.tag
      resting := s.bib.resting ++ [(w.tag, s.clk.now + 16000)]
      cascTimeout := satInc s.bib.cascTimeout } }

theorem tag_ne_of_mem_cascadeLost {s : State} {w x : BibWait} (hx : x ∈ (cascadeLost s w).bib.waits) : x.tag ≠ w.tag :=
  bne_iff_ne.1 (List.mem_filter.1 hx).2

theorem resting_cascadeLost (s : State) (w : BibWait) : (w.tag, s.clk.now + 16000) ∈ (cascadeLost s w).bib.resting :=
  List.mem_append_right _ List.mem_cons_self

section
variable {s : State} {tag : Byte} {w : BibWait} {t : Nat}

theorem exec_bibCascadeTimeout_late (hwait : s.bib.waits.find? (fun w => w.tag == tag.toNat) = some w) (hsent : w.sentAt = some t)
    (hlate : t + 4000 ≤ s.clk.now) :
    exec (.bibCascadeTimeout tag) s =
      .next (pumpLookups 64 (answerReq (cascadeLost s w) w.req w.gen (.discarded, none))) := by
  show execBibCascadeTimeout tag s = _
  simp only [execBibCascadeTimeout, hwait, hsent, decide_eq_true_eq, if_neg (Nat.not_lt.2 hlate)]
  rfl

theorem exec_bibCascadeTimeout_early (hwait : s.bib.waits.find? (fun w => w.tag == tag.toNat) = some w)
    (hsent : w.sentAt = some t) (hearly : s.clk.now < t + 4000) : exec (.bibCascadeTimeout tag) s = .next s := by
  show execBibCascadeTimeout tag s = _
  simp only [execBibCascadeTimeout, hwait, hsent, decide_eq_true_eq, if_pos hearly]

end

section
variable {s : State} {p : RingPacket × Nat} {ps : List (RingPacket × Nat)}

theorem dropHeld_late (hhold : s.bib.hold = p :: ps) (hlate : p.2 + 2000 < s.clk.now) :
    dropHeld s = { s with bib := { s.bib with hold := ps, ringDrop := satInc s.bib.ringDrop } } := by
  simp only [dropHeld, hhold, if_pos hlate, ringDropped]

theorem dropHeld_early (hhold : s.bib.hold = p :: ps) (hearly : s.clk.now ≤ p.2 + 2000) : dropHeld s = s := by
  simp only [dropHeld, hhold, if_neg (Nat.not_lt.2 hearly)]

end

/-- Settles O48: each clause is one branch of the ring's three commands. That a device outside the cascade forwards a packet
unchecked, and the instants of the timeout and of the drop, are the model's choices (log 30). -/
theorem bibRing : Obligations.BibRing := by
  refine fun s => ⟨fun p => exec_bibRingPacket_badCrc, fun p w hheld hup hmember hcrc hown hwait => ?_,
    fun p hheld hup hmember hcrc hother => ⟨exec_bibRingPacket_passing hheld hup hmember hcrc hother,
      fun part e hpart hmatch hbetter => ?_⟩,
    fun p => exec_bibRingPacket_outside,
    fun tag w t hwait hsent => ⟨fun hlate => ?_, exec_bibCascadeTimeout_early hwait hsent⟩,
    fun p ps hhold => ⟨fun hlate => congrArg Host.Outcome.next (dropHeld_late hhold hlate),
      fun hearly => congrArg Host.Outcome.next (dropHeld_early hhold hearly)⟩⟩
  · rw [exec_bibRingPacket_own hheld hup hmember hcrc hown, packetHome_waited hwait]
  · rw [searchPacket_improved hpart hmatch hbetter]
    exact ⟨rfl, rfl, rfl, rfl, packetCrc_sealPacket _⟩
  · exact ⟨cascadeLost s w, exec_bibCascadeTimeout_late hwait hsent hlate, fun x hx => tag_ne_of_mem_cascadeLost hx,
      resting_cascadeLost s w, rfl, rfl⟩

end Sys2Proof.Machine
end

section
/-! PROOFS. The Meet plan before its switch (R305 to R313): what a load, its image, its check, a withdrawal and the deadline come to,
each with the staged plan dropped or put in place in one update of MPL. -/

namespace Sys2Proof.Machine

open Sys2Proof

@[simp] theorem fetched_mpl (s : State) (h : HostHdr) : (fetched s h).mpl = s.mpl := rfl
@[simp] theorem mplHeld_fetched (s : State) (h : HostHdr) : mplHeld (fetched s h) = mplHeld s := rfl
@[simp] theorem cxlWorks_fetched (s : State) (h : HostHdr) : cxlWorks (fetched s h) = cxlWorks s := rfl

/-! ### The staged plan goes (R310, R313) -/

/-- The state with nothing staged and the reason recorded: what a dropped plan leaves before its load's completion is posted. -/
def unstaged (s : State) (reason : Byte) : State :=
  { s with mpl := { s.mpl with
    staged := none, stagedCmd := none, tagNext := 0, laneClass := 0xFFFFFF, due := false, firstLap := 0
    refuseReason := reason, refuseSection := 0xFF, refuseLane := 0xF } }

theorem dropStaged_of_stagedCmd {s : State} {c : HostHdr} (hcmd : s.mpl.stagedCmd = some c) (reason : Byte) :
    dropStaged s reason = planCpl (unstaged s reason) c .refused true reason := by
  simp only [dropStaged, hcmd]
  rfl

section
variable {s : State} {h c : HostHdr} {p : PlanImage}

theorem exec_planWithdraw_staged (hserved : HostServed s h true) (hstaged : s.mpl.staged = some p) (hcmd : s.mpl.stagedCmd = some c) :
    exec (.planWithdraw h) s =
      .next (complete (planCpl (unstaged (fetched s h) 0x16) c .refused true 0x16) h opPlanWithdraw .ok) := by
  show execPlanWithdraw h s = _
  rw [execPlanWithdraw, hostCmd_served hserved, ← dropStaged_of_stagedCmd (s := fetched s h) hcmd]
  simp only [fetched_mpl, hstaged, Option.isSome_some, if_true]

theorem exec_planWithdraw_nothingStaged (hserved : HostServed s h true) (hstaged : s.mpl.staged = none) :
    exec (.planWithdraw h) s = .next (complete (fetched s h) h opPlanWithdraw .refused) := by
  show execPlanWithdraw h s = _
  rw [execPlanWithdraw, hostCmd_served hserved]
  simp only [fetched_mpl, hstaged, Option.isSome_none, Bool.false_eq_true, if_false]

theorem exec_planDeadlinePassed_over (hstaged : s.mpl.staged = some p) (hcmd : s.mpl.stagedCmd = some c)
    (hover : deadlineOver s p = true) :
    exec .planDeadlinePassed s =
      .next (raiseEvt (planCpl (unstaged { s with mpl := { s.mpl with late := true } } 0x15) c .refused true 0x15) 5) := by
  show execPlanDeadlinePassed s = _
  rw [← dropStaged_of_stagedCmd (s := { s with mpl := { s.mpl with late := true } }) hcmd]
  simp only [execPlanDeadlinePassed, hstaged, if_pos hover]

theorem exec_planDeadlinePassed_within (hstaged : s.mpl.staged = some p) (hwithin : deadlineOver s p = false) :
    exec .planDeadlinePassed s = .next s := by
  show execPlanDeadlinePassed s = _
  simp only [execPlanDeadlinePassed, hstaged, hwithin, Bool.false_eq_true, if_false]

end

/-! ### A refused image (R307) -/

/-- Noting a table's reason writes lanes alone. -/
theorem exists_noteTable_lanes (s : State) (p : PlanImage) (x : Refuse) : ∃ l, noteTable s p x = { s with lanes := l } := by
  unfold noteTable
  split
  · split
    · exact ⟨_, rfl⟩
    · exact ⟨s.lanes, rfl⟩
  · exact ⟨s.lanes, rfl⟩

/-- The state with the failing check recorded and nothing loading: what a refused load leaves before its completion is posted. -/
def loadRefused (s : State) (x : Refuse) : State := { noteRefuse s x with mpl := { (noteRefuse s x).mpl with load := .idle } }

theorem refuseLoad_eq (s : State) (h : HostHdr) (x : Refuse) :
    refuseLoad s h x = planCpl (loadRefused s x) h .refused false x.reason := rfl

theorem loadRefused_noteTable (s : State) (p : PlanImage) (x : Refuse) :
    (loadRefused (noteTable s p x) x).mpl =
      { s.mpl with load := .idle, refuseReason := x.reason, refuseSection := x.sect, refuseLane := x.lane } ∧
    { loadRefused (noteTable s p x) x with mpl := s.mpl, lanes := s.lanes } = s := by
  obtain ⟨l, hnote⟩ := exists_noteTable_lanes s p x
  rw [hnote]
  exact ⟨rfl, rfl⟩

/-! ### A load and its image (R305 to R309) -/

section
variable {s : State} {h : HostHdr} {n : Word} {p : PlanImage}

/-- A load with no work of a plan in hand, and with a port to stage on, begins its fetch. -/
theorem exec_planLoad_begins (hserved : HostServed s h true) (hheld : mplHeld s = false) (hidle : s.mpl.load = .idle)
    (hstaged : s.mpl.staged = none) (hgrace : s.mpl.grace = false) (hport : cxlWorks s = true) :
    exec (.planLoad h n) s = .next { fetched s h with mpl := { s.mpl with load := .fetching h n } } := by
  show execPlanLoad h n s = _
  rw [execPlanLoad, hostCmd_served hserved]
  simp [hheld, hidle, hstaged, hgrace, hport]

theorem exec_planImageFetched_fetching (hload : s.mpl.load = .fetching h n) :
    exec (.planImageFetched p) s = .next { s with mpl := { s.mpl with load := .fetched h n p } } := by
  show execPlanImageFetched p s = _
  simp only [execPlanImageFetched, hload]

theorem exec_planChecked_passed (hload : s.mpl.load = .fetched h n p) (hpass : checkPlan s p n.toNat = none) :
    exec .planChecked s = .next (stagePlan s h p) := by
  show execPlanChecked s = _
  simp only [execPlanChecked, hload, hpass]

theorem exec_planChecked_failed {x : Refuse} (hload : s.mpl.load = .fetched h n p) (hfail : checkPlan s p n.toNat = some x) :
    exec .planChecked s = .next (planCpl (loadRefused (noteTable s p x) x) h .refused false x.reason) := by
  show execPlanChecked s = _
  simp only [execPlanChecked, hload, hfail, refuseLoad_eq]

end

/-! ### The obligations -/

/-- Settles O60: a withdrawal either drops the staged plan, which reaches MPL alone, or finds none and is refused. -/
theorem planWithdrawal : Obligations.PlanWithdrawal := fun s h hserved =>
  ⟨fun _ _ hstaged hcmd => ⟨unstaged (fetched s h) 0x16, exec_planWithdraw_staged hserved hstaged hcmd, rfl, rfl, rfl, rfl⟩,
    exec_planWithdraw_nothingStaged hserved⟩

/-- Settles O9: each clause is one branch of the commands that load, check, withdraw or time out a plan. The lane classes and the
first lap of a staged plan are those that `stagePlan` computes; of a failed image, beside MPL only the table reason of a lane
may be noted. -/
theorem planLoading : Obligations.PlanLoading := by
  refine ⟨fun s h hserved => ⟨fun n => exec_planLoad_begins hserved, fun p c => exec_planWithdraw_staged hserved⟩,
    fun s h n p => ⟨exec_planImageFetched_fetching, fun hload hpass => ?passed, fun x hload hfail => ?failed,
      fun c => exec_planDeadlinePassed_over, exec_planDeadlinePassed_within⟩⟩
  case passed => exact ⟨_, _, exec_planChecked_passed hload hpass⟩
  case failed =>
    exact ⟨loadRefused (noteTable s p x) x, exec_planChecked_failed hload hfail, loadRefused_noteTable s p x⟩

end Sys2Proof.Machine
end

section
/-! PROOFS. MARSHAL messages (R317 to R322, R324, R327, R338): what a frame that passes its checks comes to, and what each message
leaves in the watch of the rounds. -/

namespace Sys2Proof.Machine

open Sys2Proof

/-! ### A message that TE takes (R232, R324) -/

theorem malformed_of_headCheck {s : State} {h : Hdr} {f : Frame} {op : Byte} (hhead : headCheck s h f op = none) :
    malformed h f op = false := by
  rw [headCheck] at hhead
  split at hhead
  · cases hhead
  · exact Bool.eq_false_iff.2 ‹_›

/-- A taken frame changes the outputs alone: what does not read them is as before. -/
theorem taken_keeps {α : Sort _} (g : State → α) (hg : ∀ s o, g { s with out := o } = g s) (s : State) (f : Frame) :
    g (taken s f) = g s := by
  obtain ⟨o, ho⟩ := taken_frame s f
  rw [ho, hg]

section
variable (s : State) (f : Frame)

@[simp] theorem mar_taken : (taken s f).mar = s.mar := taken_keeps State.mar (fun _ _ => rfl) s f
@[simp] theorem clk_taken : (taken s f).clk = s.clk := taken_keeps State.clk (fun _ _ => rfl) s f
@[simp] theorem mpl_taken : (taken s f).mpl = s.mpl := taken_keeps State.mpl (fun _ _ => rfl) s f
@[simp] theorem mem_taken : (taken s f).mem = s.mem := taken_keeps State.mem (fun _ _ => rfl) s f
@[simp] theorem reqs_taken : (taken s f).reqs = s.reqs := taken_keeps State.reqs (fun _ _ => rfl) s f
@[simp] theorem marHeld_taken : marHeld (taken s f) = marHeld s := taken_keeps marHeld (fun _ _ => rfl) s f
@[simp] theorem roundStart_taken : roundStart (taken s f) = roundStart s := taken_keeps roundStart (fun _ _ => rfl) s f
@[simp] theorem expectsHb_taken : expectsHb (taken s f) = expectsHb s := taken_keeps expectsHb (fun _ _ => rfl) s f
@[simp] theorem watchedPlace_taken : watchedPlace (taken s f) = watchedPlace s := taken_keeps watchedPlace (fun _ _ => rfl) s f
@[simp] theorem watcherPlace_taken : watcherPlace (taken s f) = watcherPlace s := taken_keeps watcherPlace (fun _ _ => rfl) s f
@[simp] theorem coWatchers_taken : coWatchers (taken s f) = coWatchers s := taken_keeps coWatchers (fun _ _ => rfl) s f

end

/-- A sound message has its effect in the state after the frame's credits went back. -/
theorem rxMarshal_runs {s : State} {f : Frame} {m : MarMsg} {mtype : Byte} (h : RunsMarshal s f m mtype)
    (k : State → DevId → State) : rxMarshal s f m mtype k = k (taken s f) (parseHdr s f).src := by
  obtain ⟨⟨harrives, hhead⟩, hsound, hkey, hopen⟩ := h
  have hkey' : (!isRelay f.port.val && f.kgen != (taken s f).te.sysKgen) = false := by
    rw [te_taken]
    rcases hkey with hrelay | hgen
    · simp [hrelay]
    · simp [hgen]
  unfold rxMarshal
  rw [arrive_taken harrives]
  simp only [parseHdr_taken, headCheck_taken, hhead, malformed_of_headCheck hhead, hsound, hkey', marHeld_taken, hopen, Bool.not_true,
    Bool.or_self, Bool.false_eq_true, if_false]

section
variable {s : State} {f : Frame} {m : MarMsg}

theorem exec_heartbeat_runs (h : RunsMarshal s f m mtHeartbeat) :
    exec (.heartbeat f m) s = .next (takeHeartbeat (taken s f) m) :=
  congrArg Host.Outcome.next (rxMarshal_runs h _)

theorem exec_echo_runs (h : RunsMarshal s f m mtEcho) : exec (.echo f m) s = .next (takeEcho (taken s f) m) :=
  congrArg Host.Outcome.next (rxMarshal_runs h _)

theorem exec_suspect_runs (h : RunsMarshal s f m mtSuspect) : exec (.suspect f m) s = .next (takeSuspect (taken s f) m) :=
  congrArg Host.Outcome.next (rxMarshal_runs h _)

/-- A FENCE of a known kind and of a source that is not fenced is taken up (R322). -/
theorem exec_fence_runs (h : RunsMarshal s f m mtFence) (hfree : s.te.fenced.contains (parseHdr s f).src = false)
    (hkind : m.kind.toNat ≤ 1) :
    exec (.fence f m) s = .next (fenceIn (taken s f) m.subject m.epoch (m.kind == 0) true m.round) := by
  have hfree' : (taken s f).te.fenced.contains (parseHdr s f).src = false := by rw [te_taken, hfree]
  refine congrArg Host.Outcome.next ((rxMarshal_runs h _).trans (if_neg ?_))
  simp only [hfree', Nat.not_lt.2 hkind, decide_false, Bool.or_self, Bool.false_eq_true, not_false_eq_true]

/-- A READMIT of a source that is not fenced is taken up (R327). -/
theorem exec_readmit_runs (h : RunsMarshal s f m mtReadmit) (hfree : s.te.fenced.contains (parseHdr s f).src = false) :
    exec (.readmit f m) s = .next (readmitIn (taken s f) m.subject m.epoch m.round) := by
  have hfree' : (taken s f).te.fenced.contains (parseHdr s f).src = false := by rw [te_taken, hfree]
  exact congrArg Host.Outcome.next ((rxMarshal_runs h _).trans (if_neg (by rw [hfree']; exact Bool.false_ne_true)))

theorem exec_report_runs (e : List Word) (h : RunsMarshal s f m mtReport) : exec (.report f m e) s = .next (taken s f) :=
  congrArg Host.Outcome.next (rxMarshal_runs h _)

end

section
variable {s : State} {m : MarMsg}

/-! ### Stray messages (R317) -/

theorem strayMsg_new (hnew : s.mar.rounds.strays.contains m = false) :
    (strayMsg s m).mar.stray = satInc s.mar.stray ∧ m ∈ (strayMsg s m).mar.rounds.strays ∧
      { strayMsg s m with mar := s.mar } = s := by
  rw [strayMsg, if_neg (by rw [hnew]; exact Bool.false_ne_true)]
  exact ⟨rfl, List.mem_append_right _ (List.mem_singleton_self m), rfl⟩

theorem strayMsg_again (hagain : s.mar.rounds.strays.contains m = true) : strayMsg s m = s := if_pos hagain

theorem takeHeartbeat_unwatched (hplace : watchedPlace s m.sender = none) : takeHeartbeat s m = strayMsg s m :=
  if_pos (by rw [hplace]; rfl)

theorem takeSuspect_stranger (hstranger : (coWatchers s m.subject).contains m.sender = false) :
    takeSuspect s m = strayMsg s m :=
  if_pos (by rw [hstranger]; rfl)

/-! ### Heartbeats of watched devices (R318, R319) -/

/-- An active device awaits this heartbeat: its sender is watched and expected in the round, and none of the round has come. -/
def AwaitsHb (s : State) (m : MarMsg) : Prop :=
  (watchedPlace s m.sender).isSome = true ∧ expectsHb s m.sender m.round = true ∧ s.mar.state ≠ .inactive ∧
  s.mar.rounds.got.contains (m.sender, m.round) = false ∧ s.mar.rounds.late.contains (m.sender, m.round) = false

/-- The sender's epoch is noted: what every heartbeat of a watched device leaves. -/
def hbHeard (s : State) (m : MarMsg) : State :=
  modRounds s fun x => { x with epochs := tblSet x.epochs m.sender.toNat m.epoch }

/-- A heartbeat in time is kept. -/
def hbKept (s : State) (m : MarMsg) : State :=
  modRounds (hbHeard s m) fun x => { x with got := x.got ++ [(m.sender, m.round)] }

/-- A late heartbeat is counted. -/
def hbLate (s : State) (m : MarMsg) : State :=
  let s := modRounds (hbHeard s m) fun x => { x with late := x.late ++ [(m.sender, m.round)] }
  { s with mar := { s.mar with lateHb := satInc s.mar.lateHb } }

/-- The echo of a heartbeat and the state that forms it: its EPOCH field is free (R324). -/
def hbEcho (s : State) (m : MarMsg) : MarMsg × State := openMsg (hbKept s m) mtEcho m.sender m.round

theorem awaitsHb_taken {f : Frame} : AwaitsHb (taken s f) m ↔ AwaitsHb s m := by simp [AwaitsHb]

theorem awaitsHb_hbHeard : AwaitsHb (hbHeard s m) m ↔ AwaitsHb s m := Iff.rfl

/-- An awaited heartbeat is kept and echoed by the due time, and counted after it. -/
theorem takeHeartbeat_awaited (h : AwaitsHb s m) :
    takeHeartbeat s m = if s.clk.now ≤ roundStart s m.round + 1246000
      then marSend (hbEcho s m).2 m.sender (hbEcho s m).1 [] else hbLate s m := by
  have ⟨hplace, _⟩ := h
  have hwatched : ¬ (watchedPlace s m.sender).isNone = true := by simpa using Option.isSome_iff_ne_none.1 hplace
  obtain ⟨-, hexpected, hactive, hgot, hlate⟩ := awaitsHb_hbHeard.2 h
  rw [takeHeartbeat, if_neg hwatched]
  refine if_neg ?_
  show ¬ (decide ((hbHeard s m).mar.state = .inactive) || !expectsHb (hbHeard s m) m.sender m.round ||
    (hbHeard s m).mar.rounds.got.contains (m.sender, m.round) ||
    (hbHeard s m).mar.rounds.late.contains (m.sender, m.round)) = true
  rw [hexpected, hgot, hlate, decide_eq_false hactive]
  exact Bool.false_ne_true

theorem takeHeartbeat_inTime (h : AwaitsHb s m) (htime : s.clk.now ≤ roundStart s m.round + 1246000) :
    takeHeartbeat s m = marSend (hbEcho s m).2 m.sender (hbEcho s m).1 [] := (takeHeartbeat_awaited h).trans (if_pos htime)

theorem takeHeartbeat_late (h : AwaitsHb s m) (hpast : roundStart s m.round + 1246000 < s.clk.now) :
    takeHeartbeat s m = hbLate s m := (takeHeartbeat_awaited h).trans (if_neg (Nat.not_le.2 hpast))

/-- The state that forms the echo holds the heartbeat, and counts none late. -/
theorem hbEcho_frame (s : State) (m : MarMsg) :
    (m.sender, m.round) ∈ (hbEcho s m).2.mar.rounds.got ∧ (hbEcho s m).2.mar.lateHb = s.mar.lateHb ∧
      (hbEcho s m).2.mem = s.mem ∧ (hbEcho s m).2.reqs = s.reqs :=
  ⟨List.mem_append_right _ (List.mem_singleton_self _), rfl, rfl, rfl⟩

theorem hbLate_frame (s : State) (m : MarMsg) :
    (hbLate s m).mar.rounds.got = s.mar.rounds.got ∧ (hbLate s m).mar.lateHb = satInc s.mar.lateHb ∧
      { hbLate s m with mar := s.mar } = s := by
  unfold hbLate hbHeard modRounds
  exact ⟨rfl, rfl, rfl⟩

/-! ### Echoes and suspicions (R320, R321) -/

/-- An echo of a watcher to this device that comes in time is kept unless it is there. -/
theorem takeEcho_inTime {k : Nat} (hplace : watcherPlace s m.sender = some k) (hmine : m.subject = s.mpl.devId)
    (htime : s.clk.now ≤ roundStart s m.round + 1496000) :
    takeEcho s m = if s.mar.rounds.echoes.contains (k, m.round) then s
      else modRounds s fun x => { x with echoes := x.echoes ++ [(k, m.round)] } := by
  simp only [takeEcho, hplace, hmine, htime, decide_true, Bool.true_and]
  cases s.mar.rounds.echoes.contains (k, m.round) <;> rfl

/-- A co-watcher's suspicion before its tally closes is kept unless it is there. -/
theorem takeSuspect_inTime (hfellow : (coWatchers s m.subject).contains m.sender = true)
    (htime : s.clk.now < roundStart s m.round + 1996000) :
    takeSuspect s m = if s.mar.rounds.suspects.contains (m.subject, m.round, m.sender) then s
      else modRounds s fun x => { x with suspects := x.suspects ++ [(m.subject, m.round, m.sender)] } := by
  simp only [takeSuspect, hfellow, htime, decide_true, Bool.true_and, Bool.not_true, Bool.false_eq_true, if_false]
  cases s.mar.rounds.suspects.contains (m.subject, m.round, m.sender) <;> rfl

end

/-- Settles O50: a sound message has its effect in `taken s f`, which differs from `s` in its outputs alone, so that the state there
awaits, expects and watches as `s` does. That a late heartbeat only counts, a stray one counts once and a REPORT does nothing where it
arrives, and which side of a deadline its instant is on, are the model's choices (log 33). -/
theorem marshalMessages : Obligations.MarshalMessages := by
  intro s f m u
  refine ⟨?watched, ?unwatched, ?echo, ?suspect, ?stranger, exec_fence_runs, exec_readmit_runs, exec_report_runs⟩
  case watched =>
    intro k h hplace hexpected hactive hgot hlate
    have hawaited : AwaitsHb u m := awaitsHb_taken.2 ⟨Option.isSome_iff_exists.2 ⟨k, hplace⟩, hexpected, hactive, hgot, hlate⟩
    rw [exec_heartbeat_runs h, ← mar_taken s f, ← mem_taken s f, ← reqs_taken s f]
    refine ⟨fun htime => ⟨(hbEcho u m).2, (hbEcho u m).1, congrArg Host.Outcome.next ?_, rfl, rfl, rfl, hbEcho_frame u m⟩,
      fun hpast => ⟨hbLate u m, congrArg Host.Outcome.next ?_, hbLate_frame u m⟩⟩
    · exact takeHeartbeat_inTime hawaited (by simpa [u] using htime)
    · exact takeHeartbeat_late hawaited (by simpa [u] using hpast)
  case unwatched =>
    intro h hplace
    rw [exec_heartbeat_runs h, takeHeartbeat_unwatched (by rw [watchedPlace_taken, hplace]), ← mar_taken s f]
    exact ⟨fun hnew => ⟨_, rfl, strayMsg_new hnew⟩, fun hagain => congrArg Host.Outcome.next (strayMsg_again hagain)⟩
  case echo =>
    intro k h hplace hmine htime
    rw [exec_echo_runs h, takeEcho_inTime (k := k) (by simpa using hplace) (by simpa using hmine) (by simpa using htime), mar_taken]
    exact ⟨fun hnew => congrArg Host.Outcome.next (if_neg (ne_true_of_eq_false hnew)),
      fun hagain => congrArg Host.Outcome.next (if_pos hagain)⟩
  case suspect =>
    intro h hfellow htime
    rw [exec_suspect_runs h, takeSuspect_inTime (by rw [coWatchers_taken, hfellow]) (by simpa using htime), mar_taken]
    exact ⟨fun hnew => congrArg Host.Outcome.next (if_neg (ne_true_of_eq_false hnew)),
      fun hagain => congrArg Host.Outcome.next (if_pos hagain)⟩
  case stranger =>
    intro h hstranger
    rw [exec_suspect_runs h, takeSuspect_stranger (by rw [coWatchers_taken, hstranger]), ← mar_taken s f]
    exact fun hnew => ⟨_, rfl, strayMsg_new hnew⟩

end Sys2Proof.Machine
end

section
/-! PROOFS. The step and reset (logs 1, 3, 5; R380, R406, R407): what a step runs, that every command answers a next state, and that
reset memories are canonical. -/

namespace Sys2Proof.Machine

open Sys2Proof

/-! ### Reset -/

/-- Settles O54: reset leaves every memory empty, the images saved of a lane too, and an empty memory is canonical (the model's
choice, log 5). -/
theorem resetMemoryIsCanonical : Obligations.ResetMemoryIsCanonical := by
  have hstack : ∀ n, State.reset.mem.stack.get n = [] := by decide
  have hcap : ∀ p, State.reset.mem.cap.get p = [] := by decide
  have hsave : ∀ l, (State.reset.lanes.get l).sramSave = [] := fun l => by rw [State.reset, ofFn_get, Lane.reset]
  refine ⟨fun n => ?_, rfl, rfl, fun p => ?_, rfl, rfl, fun l e he => ?_⟩
  · rw [hstack]; rfl
  · rw [hcap]; rfl
  · rw [hsave] at he
    exact absurd he List.not_mem_nil

/-! ### The ring line and the running of time -/

/-- The state with Bib and the outputs blank: what Bib's ring line does not reach. -/
def sansBibOut (s : State) : State := { s with bib := State.reset.bib, out := [] }

theorem dropHeld_sansBibOut (s : State) : sansBibOut (dropHeld s) = sansBibOut s := by
  unfold dropHeld
  split
  · rfl
  · split <;> rfl

theorem pumpRing_sansBibOut (s : State) : sansBibOut (pumpRing s) = sansBibOut s := by
  have hdrop : sansBibOut ((List.range s.bib.hold.length).foldl (fun s _ => dropHeld s) s) = sansBibOut s :=
    foldl_keeps sansBibOut _ (fun s _ => dropHeld_sansBibOut s) _ _
  unfold pumpRing
  split
  · rfl
  · dsimp only
    split
    · exact hdrop
    · exact hdrop
    · exact hdrop
    · split <;> exact hdrop

/-- Time runs on by one nanosecond, and Track's and Bib's sending leave the clock and the memories. -/
theorem tick_clk_mem (s : State) : (tick s).clk = { s.clk with now := s.clk.now + 1 } ∧ (tick s).mem = s.mem := by
  have hring : sansBibOut (tick s) = sansBibOut (pumpAll { s with clk := { s.clk with now := s.clk.now + 1 } }) :=
    pumpRing_sansBibOut _
  have hall := pumpAll_sansTransport { s with clk := { s.clk with now := s.clk.now + 1 } }
  exact ⟨(congrArg State.clk hring :).trans (congrArg State.clk hall :),
    (congrArg State.mem hring :).trans (congrArg State.mem hall :)⟩

/-- Settles O52: the two equations of `step`; what an empty queue lets happen is `tick` (log 3). -/
theorem stepRunsFrontCommand : Obligations.StepRunsFrontCommand := by
  refine ⟨fun c s => rfl, fun s hnil => ⟨tick s, ?_, ?_, (tick_clk_mem s).2, ?_⟩⟩
  · unfold step
    rw [hnil]
  · rw [(tick_clk_mem s).1]
  · rw [tick_pending, hnil]

/-! ### Every command answers a next state (R380, R406, R407) -/

/-- The outcome is a next state, neither a fault nor a refusal. -/
def AnswersNext (r : Res) : Prop := ∃ t, r = .next t

@[simp] theorem answersNext_next (t : State) : AnswersNext (.next t) := ⟨t, rfl⟩

@[simp] theorem answersNext_ite (c : Prop) [Decidable c] (r u : Res) :
    AnswersNext (if c then r else u) ↔ (c → AnswersNext r) ∧ (¬ c → AnswersNext u) := by
  split <;> simp [*]

/-! The commands that look up a part of the state answer whether it is there or not. -/

@[simp] theorem execBibCascadeTimeout_answersNext (tag s) : AnswersNext (execBibCascadeTimeout tag s) := by
  unfold execBibCascadeTimeout
  split <;> simp

@[simp] theorem execPlanImageFetched_answersNext (img s) : AnswersNext (execPlanImageFetched img s) := by
  unfold execPlanImageFetched
  split <;> simp

@[simp] theorem execPlanChecked_answersNext (s) : AnswersNext (execPlanChecked s) := by
  unfold execPlanChecked
  (repeat' split) <;> simp

@[simp] theorem execPlanDeadlinePassed_answersNext (s) : AnswersNext (execPlanDeadlinePassed s) := by
  unfold execPlanDeadlinePassed
  split <;> simp

@[simp] theorem execLaneBuildDone_answersNext (lane digest s) : AnswersNext (execLaneBuildDone lane digest s) := by
  unfold execLaneBuildDone
  dsimp only
  split <;> simp

@[simp] theorem execVariantLanded_answersNext (lane digest s) : AnswersNext (execVariantLanded lane digest s) := by
  unfold execVariantLanded
  dsimp only
  (repeat' split) <;> simp

@[simp] theorem execLapTableReady_answersNext (lane s) : AnswersNext (execLapTableReady lane s) := by
  unfold execLapTableReady
  dsimp only
  split <;> simp

@[simp] theorem execLapTableLate_answersNext (lane s) : AnswersNext (execLapTableLate lane s) := by
  unfold execLapTableLate
  split <;> simp

@[simp] theorem execCoachWatchdog_answersNext (s) : AnswersNext (execCoachWatchdog s) := by
  unfold execCoachWatchdog
  dsimp only
  (repeat' split) <;> simp

@[simp] theorem execFwuStageDone_answersNext (img s) : AnswersNext (execFwuStageDone img s) := by
  unfold execFwuStageDone
  split <;> simp

@[simp] theorem execConfirmWindowExpired_answersNext (s) : AnswersNext (execConfirmWindowExpired s) := by
  unfold execConfirmWindowExpired
  split <;> simp

@[simp] theorem execCapCopyDone_answersNext (baton layer index s) : AnswersNext (execCapCopyDone baton layer index s) := by
  unfold execCapCopyDone
  (repeat' split) <;> simp

@[simp] theorem execPageFetchDone_answersNext (baton layer index s) : AnswersNext (execPageFetchDone baton layer index s) := by
  unfold execPageFetchDone
  (repeat' split) <;> simp

@[simp] theorem execHeatDirLate_answersNext (lane s) : AnswersNext (execHeatDirLate lane s) := by
  unfold execHeatDirLate
  split <;> simp

@[simp] theorem execBatonResident_answersNext (baton s) : AnswersNext (execBatonResident baton s) := by
  unfold execBatonResident
  (repeat' split) <;> simp

@[simp] theorem execHoldLimitPark_answersNext (baton s) : AnswersNext (execHoldLimitPark baton s) := by
  unfold execHoldLimitPark
  (repeat' split) <;> simp

@[simp] theorem execHandoffWaitExpired_answersNext (baton s) : AnswersNext (execHandoffWaitExpired baton s) := by
  unfold execHandoffWaitExpired
  split <;> simp

@[simp] theorem execSlotStart_answersNext (lane slot work s) : AnswersNext (execSlotStart lane slot work s) := by
  unfold execSlotStart
  dsimp only
  split <;> simp

@[simp] theorem execSlotComplete_answersNext (lane slot cycles source s) :
    AnswersNext (execSlotComplete lane slot cycles source s) := by
  unfold execSlotComplete
  dsimp only
  split <;> simp

@[simp] theorem execJudgeReturn_answersNext (lane baton s) : AnswersNext (execJudgeReturn lane baton s) := by
  unfold execJudgeReturn
  (repeat' split) <;> simp

@[simp] theorem execLapBoundary_answersNext (s) : AnswersNext (execLapBoundary s) := by
  unfold execLapBoundary
  (repeat' split) <;> simp

@[simp] theorem execLegRequest_answersNext (f r s) : AnswersNext (execLegRequest f r s) := by
  unfold execLegRequest
  split <;> simp

@[simp] theorem execXzPageWritten_answersNext (leg ordinal hdr s) : AnswersNext (execXzPageWritten leg ordinal hdr s) := by
  unfold execXzPageWritten
  (repeat' split) <;> simp

@[simp] theorem execLegIdleTimeout_answersNext (leg s) : AnswersNext (execLegIdleTimeout leg s) := by
  unfold execLegIdleTimeout
  split <;> simp

@[simp] theorem execLegSourceTimeout_answersNext (leg s) : AnswersNext (execLegSourceTimeout leg s) := by
  unfold execLegSourceTimeout
  split <;> simp

@[simp] theorem execSpillDone_answersNext (baton s) : AnswersNext (execSpillDone baton s) := by
  unfold execSpillDone
  split <;> simp

@[simp] theorem execRecallDone_answersNext (baton s) : AnswersNext (execRecallDone baton s) := by
  unfold execRecallDone
  dsimp only
  (repeat' split) <;> simp

@[simp] theorem execControlScrub_answersNext (baton s) : AnswersNext (execControlScrub baton s) := by
  unfold execControlScrub
  split <;> simp

@[simp] theorem execAuditDone_answersNext (baton s) : AnswersNext (execAuditDone baton s) := by
  unfold execAuditDone
  (repeat' split) <;> simp

@[simp] theorem execLcIntentBurned_answersNext (readBack s) : AnswersNext (execLcIntentBurned readBack s) := by
  unfold execLcIntentBurned
  split <;> simp

@[simp] theorem execLcWorkDone_answersNext (s) : AnswersNext (execLcWorkDone s) := by
  unfold execLcWorkDone
  split <;> simp

@[simp] theorem execClockRecovered_answersNext (c s) : AnswersNext (execClockRecovered c s) := by
  unfold execClockRecovered
  split <;> simp

@[simp] theorem execThermalSample_answersNext (r s) : AnswersNext (execThermalSample r s) := by
  unfold execThermalSample
  dsimp only
  split <;> simp

/-- Each command answers `.next`: most by their definition, the others in every branch of their conditions. -/
theorem exec_answersNext (i : Instr) (s : State) : AnswersNext (exec i s) := by
  cases i with
  | bibCascadeTimeout | planImageFetched | planChecked | planDeadlinePassed | laneBuildDone | variantLanded | lapTableReady
  | lapTableLate | coachWatchdog | fwuStageDone | confirmWindowExpired | capCopyDone | pageFetchDone | heatDirLate
  | batonResident | holdLimitPark | handoffWaitExpired | slotStart | slotComplete | judgeReturn | lapBoundary | legRequest
  | xzPageWritten | legIdleTimeout | legSourceTimeout | spillDone | recallDone | controlScrub | auditDone | lcIntentBurned
  | lcWorkDone | clockRecovered | thermalSample =>
    simp [exec]
  | bibRingPacket | mchTestDone | lapTableReplacement | coachServesAgain | echoDue | weightHalfFull | lapSyncEdge | syncLost
  | syncRegained | ptpLockLost | commandRingTail | completionRingHead | contextMsiXHoldoff | evtMsiHoldoff | pcieLinkUp
  | capPortTrained | mainBrownout | blockResetRelease | fuseLoadDone | strapSampled | pllLock | bolzilMarchDone
  | coreMarchDone | stackTrainingDone | startupStackTestDone | bootImageChecked =>
    simp [exec, execBibRingPacket, execMchTestDone, execLapTableReplacement, execCoachServesAgain, execEchoDue,
      execWeightHalfFull, execLapSyncEdge, execSyncLost, execSyncRegained, execPtpLockLost, execCommandRingTail,
      execCompletionRingHead, execContextMsiXHoldoff, execEvtMsiHoldoff, execPcieLinkUp, execCapPortTrained,
      execMainBrownout, execBlockResetRelease, execFuseLoadDone, execStrapSampled, execPllLock, execBolzilMarchDone,
      execCoreMarchDone, execStackTrainingDone, execStartupStackTestDone, execBootImageChecked]
  | _ => exact answersNext_next _

/-- Settles O53: a step is `tick` or the command at the front, and both answer a next state, whatever the state. -/
theorem everyStepRuns : Obligations.EveryStepRuns := by
  intro s
  unfold Runs step
  split
  · exact ⟨_, rfl⟩
  · exact exec_answersNext _ _

end Sys2Proof.Machine
end

section
/-! PROOFS. Register accesses (R405 to R410): what a write and a read at an offset come to, by the register that the offset lies in,
and that taking an RC field by 0 leaves it. -/

namespace Sys2Proof.Machine

open Sys2Proof

/-! ### Writes (R405 to R407, R411) -/

section
variable {s t : State} {a : Accessor} {off : Nat} {v w : Word} {full : Bool}

theorem word_of_aligned (h : off % 4 = 0) : 4 * (off / 4) = off := by omega

theorem writeAccess_unmapped (hbar : inBar s a off = true) (hreg : regAt s a (4 * (off / 4)) = none) :
    writeAccess s a off v full = recordAccess s a kindUnmapped (4 * (off / 4)) := by
  simp [writeAccess, hbar, hreg]

theorem writeAccess_held (hbar : inBar s a off = true) (hreg : regAt s a (4 * (off / 4)) = some (w, true)) :
    writeAccess s a off v full = s := by
  simp [writeAccess, hbar, hreg]

theorem writeAccess_partial (hbar : inBar s a off = true) (hreg : regAt s a (4 * (off / 4)) = some (w, false))
    (hpart : full = false ∨ off % 4 ≠ 0) : writeAccess s a off v full = recordAccess s a kindPartial (4 * (off / 4)) := by
  have hword : (full && off % 4 == 0) = false := by
    rcases hpart with h | h <;> simp [h]
  simp [writeAccess, hbar, hreg, hword]

theorem writeAccess_outOfRange (hbar : inBar s a off = true) (hreg : regAt s a off = some (w, false)) (halign : off % 4 = 0)
    (hwrite : writeAt s a off v = none) : writeAccess s a off v true = recordAccess s a kindRange off := by
  simp [writeAccess, hbar, word_of_aligned halign, hreg, halign, hwrite]

theorem writeAccess_done (hbar : inBar s a off = true) (hreg : regAt s a off = some (w, false)) (halign : off % 4 = 0)
    (hwrite : writeAt s a off v = some t) : writeAccess s a off v true = t := by
  simp [writeAccess, hbar, word_of_aligned halign, hreg, halign, hwrite]

/-- R407: a recorded access changes GLB's access error record and counter alone. -/
theorem recordAccess_frame (s : State) (a : Accessor) (k : BitVec 2) (o : Nat) :
    { recordAccess s a k o with glb := s.glb } = s ∧ { (recordAccess s a k o).glb with
      errKind := s.glb.errKind, errPath := s.glb.errPath, errOffset := s.glb.errOffset, errCnt := s.glb.errCnt } = s.glb := by
  unfold recordAccess
  split <;> exact ⟨rfl, rfl⟩

end

/-- Settles O12: each clause is one branch of `writeAccess`. That a held or an unrecorded write changes nothing more is also the
model's choice (log 47). -/
theorem registerWriteOutcomes : Obligations.RegisterWriteOutcomes := by
  intro s a off v full hbar
  refine ⟨fun hreg => congrArg _ (writeAccess_unmapped hbar hreg), fun w hreg => congrArg _ (writeAccess_held hbar hreg),
    fun w hreg hpart => congrArg _ (writeAccess_partial hbar hreg hpart), ?range, ?done, recordAccess_frame s a⟩
  case range =>
    rintro w hreg rfl halign hwrite
    exact congrArg _ (writeAccess_outOfRange hbar hreg halign hwrite)
  case done =>
    rintro w t hreg rfl halign hwrite
    exact congrArg _ (writeAccess_done hbar hreg halign hwrite)

/-! ### Registers of the physical function that act (R405, R411) -/

section
variable {s t : State} {a : Accessor} {off : Nat} {v w : Word}

theorem inBar_of_regActs (h : RegActs s a off) (hoff : off < 0x4000000) : inBar s a off = true := by
  obtain ⟨hvf, hreach, -⟩ := h
  cases a with
  | vf n => exact absurd rfl (hvf n)
  | pf | spi | uart | jtag => simp [inBar, hreach, hoff]

theorem regAt_of_regActs (h : RegActs s a off) (hread : readReg s a off = some w) : regAt s a off = some (w, false) := by
  obtain ⟨hvf, -, hheld⟩ := h
  cases a with
  | vf n => exact absurd rfl (hvf n)
  | pf | spi | uart | jtag => simp [regAt, hread, hheld]

theorem writeAt_eq_writeReg (hvf : ∀ n, a ≠ .vf n) : writeAt s a off v = writeReg s a off v := by
  cases a with
  | vf n => exact absurd rfl (hvf n)
  | pf | spi | uart | jtag => rfl

/-- A whole word written to a register that acts has the register's own effect. -/
theorem writeAccess_regActs (h : RegActs s a off) (hoff : off < 0x4000000) (halign : off % 4 = 0)
    (hread : readReg s a off = some w) (hwrite : writeReg s a off v = some t) : writeAccess s a off v true = t :=
  writeAccess_done (inBar_of_regActs h hoff) (regAt_of_regActs h hread) halign ((writeAt_eq_writeReg h.1).trans hwrite)

end

/-! ### Reads (R405, R406, R409, R410) -/

section
variable {s : State} {a : Accessor} {off : Nat} {v : Word}

theorem readOne_eq_takeRc (hvf : ∀ n, a ≠ .vf n) (hfree : (capture s a off).2.1 = false) :
    readOne s a off = ((capture s a off).1, takeRc (capture s a off).2.2 a off (capture s a off).1) := by
  cases a with
  | vf n => exact absurd rfl (hvf n)
  | pf | spi | uart | jtag => simp [readOne, hfree]

/-- A read within one word answers the bytes asked for of that register. -/
theorem readAccess_word {len : Nat} (hbar : inBar s a off = true) (hlen : off % 4 + len ≤ 4) :
    readAccess s a off len = emit (readOne s a (4 * (off / 4))).2
      (.regValue a off (lowBytes ((readOne s a (4 * (off / 4))).1 >>> (8 * (off % 4))) len)) := by
  simp [readAccess, readBytes, hbar, hlen]

/-- Only a lane's MCH_STATUS takes a free value. -/
theorem usesFree_global (s : State) (hglobal : laneWindow off = none) : usesFree s off = false := by
  simp [usesFree, hglobal]

/-- A read of a whole global register that acts: its value goes out, the high half of a pair is latched, and what the field counted
is taken from it. -/
theorem readAccess_regActs (h : RegActs s a off) (hoff : off < 0x4000000) (halign : off % 4 = 0)
    (hglobal : laneWindow off = none) (hread : readReg s a off = some v) :
    readAccess s a off 4 = emit (takeRc (latchHi s a off) a off v) (.regValue a off v) := by
  have hcap : capture s a off = (v, false, latchHi s a off) := by
    simp [capture, regAt_of_regActs h hread, usesFree_global _ hglobal]
  rw [readAccess_word (inBar_of_regActs h hoff) (by omega), word_of_aligned halign,
    readOne_eq_takeRc h.1 (by rw [hcap]), hcap, halign]
  simp [lowBytes]

end

/-! ### Taking 0 from a field (R410) -/

theorem vmod_same {α : Type} {n : Nat} (v : Vector α n) (i : Fin n) {f : α → α} (h : ∀ x, f x = x) : vmod v i f = v := by
  unfold vmod vset
  rw [h]
  exact Vector.set_getElem_self i.isLt

theorem vmodN_same {α : Type} {n : Nat} (v : Vector α n) (k : Nat) {f : α → α} (h : ∀ x, f x = x) : vmodN v k f = v := by
  unfold vmodN
  split
  · exact vmod_same v _ h
  · rfl

theorem modLane_same (s : State) (n : LaneNo) {f : Lane → Lane} (h : ∀ l, f l = l) : modLane s n f = s := by
  have hlanes : (modLane s n f).lanes = s.lanes := vmod_same s.lanes n h
  exact congrArg (fun l => { s with lanes := l }) hlanes

/-- What an access error must leave, beside the access error record itself. -/
def accessView (s : State) : Glb × Mems × Te × Vector Lane 12 × List Req × Sta := (s.glb, s.mem, s.te, s.lanes, s.reqs, s.sta)

theorem rcLane_id (s : State) (n : LaneNo) (o : Nat) : rcLane s n o id = s := by
  unfold rcLane
  split
  case h_13 => rfl
  all_goals exact modLane_same s n fun _ => rfl

theorem rcTe_id (s : State) (o : Nat) : rcTe s o id = s := by
  have hcnt : ∀ (c : TeCnt) (k : Nat), setTeCount c k id = c := by
    intro c k
    unfold setTeCount
    split <;> rfl
  unfold rcTe
  split
  · rw [hcnt]
  · split
    · next k _ =>
      exact congrArg (fun fs => { s with te := { s.te with fs := fs } }) (vmodN_same s.te.fs k fun _ => rfl)
    · rfl

theorem rcGlb_id (s : State) (o : Nat) : accessView (rcGlb s o id) = accessView s := by
  unfold rcGlb
  split <;> rfl

theorem rcSrg_accessView (s : State) (a : Accessor) (o : Nat) (f : Word → Word) : accessView (rcSrg s a o f) = accessView s := by
  unfold rcSrg
  dsimp only
  (repeat' split) <;> rfl

theorem rcPac_accessView (s : State) (a : Accessor) (o : Nat) (f : Word → Word) : accessView (rcPac s a o f) = accessView s := by
  unfold rcPac
  split <;> rfl

theorem rcSmall_accessView (s : State) (w o : Nat) (f : Word → Word) : accessView (rcSmall s w o f) = accessView s := by
  unfold rcSmall
  split <;> rfl

/-- A field that keeps its count leaves the memories, Track, the lanes, the requests and the registers of GLB and STA. -/
theorem rcMod_id_accessView (s : State) (a : Accessor) (off : Nat) : accessView (rcMod s a off id) = accessView s := by
  unfold rcMod
  split
  · rw [rcLane_id]
  · dsimp only
    split
    · exact rcGlb_id s _
    · split <;> rfl
    · split <;> rfl
    · split <;> rfl
    · exact rcSrg_accessView s a _ id
    · rw [rcTe_id]
    · exact rcPac_accessView s a _ id
    · split <;> rfl
    · split <;> rfl
    · exact rcSmall_accessView s _ _ id

theorem takeRc_zero (s : State) (a : Accessor) (off : Nat) : takeRc s a off 0 = rcMod s a off id := by
  have hfield : rcField off 0 = 0 := by
    unfold rcField
    split <;> rfl
  have hid : (fun c : Word => lo32 (c.toNat - (0 : Word).toNat)) = id := funext fun c => by simp [lo32]
  rw [takeRc, hfield, hid]

/-- R406: a read within an unmapped word answers zero and is recorded. -/
theorem readAccess_unmapped {s : State} {a : Accessor} {off len : Nat} (hvf : ∀ n, a ≠ .vf n) (hbar : inBar s a off = true)
    (hlen : off % 4 + len ≤ 4) (hreg : regAt s a (4 * (off / 4)) = none) :
    readAccess s a off len =
      emit (rcMod (recordAccess s a kindUnmapped (4 * (off / 4))) a (4 * (off / 4)) id) (.regValue a off 0) := by
  have hcap : capture s a (4 * (off / 4)) = (0, false, recordAccess s a kindUnmapped (4 * (off / 4))) := by
    simp [capture, hreg]
  have hzero : lowBytes ((0 : Word) >>> (8 * (off % 4))) len = 0 := by
    unfold lowBytes
    split <;> simp [lo32]
  rw [readAccess_word hbar hlen, readOne_eq_takeRc hvf (by rw [hcap]), hcap]
  dsimp only
  rw [takeRc_zero, hzero]

/-! ### Latched pairs (R409) -/

theorem accSel_modSel_self (s : State) (a : Accessor) (f : Sel → Sel) : accSel (modSel s a f) a = f (accSel s a) := by
  have hnone : (s.sel.filter fun e => e.1 != a).find? (fun e => e.1 == a) = none := by
    simp [List.find?_eq_none]
  simp [accSel, modSel, List.find?_append, hnone]

/-! ### The statement on reads -/

theorem exec_scratchWrite {s : State} {a : Accessor} (h : RegActs s a 0x48) (v : Word) :
    exec (.registerWrite a 0x48 v true) s = .next { s with glb := { s.glb with scratch := v } } :=
  congrArg Host.Outcome.next (writeAccess_regActs (w := s.glb.scratch) h (by decide) (by decide) rfl rfl)

/-- Settles O13: the scratch word and the counter are registers that act, an unmapped read takes 0 from no field, and only the
latching accessor's own copy changes. -/
theorem registerReads : Obligations.RegisterReads := by
  refine ⟨fun s a v h => ⟨exec_scratchWrite h v, rfl⟩, ?unmapped, ?counter, ?latch⟩
  case unmapped =>
    intro s a off len hbar _ hlen hvf hreg hup
    have hview := rcMod_id_accessView (recordAccess s a kindUnmapped (4 * (off / 4))) a (4 * (off / 4))
    simp only [accessView, Prod.mk.injEq] at hview
    obtain ⟨hglb, hmem, hte, hlanes, hreqs, hsta⟩ := hview
    refine ⟨_, congrArg _ (readAccess_unmapped hvf hbar hlen hreg), ?_⟩
    rw [hglb, hmem, hte, hlanes, hreqs, hsta]
    simp [recordAccess, hup, kindUnmapped]
  case counter =>
    intro s a h
    refine congrArg Host.Outcome.next ((readAccess_regActs (v := s.te.cnt.retx) h (by decide) (by decide) rfl rfl).trans ?_)
    have hzero : lo32 (s.te.cnt.retx.toNat - s.te.cnt.retx.toNat) = 0 := by simp [lo32]
    exact congrArg (fun c => emit { s with te := { s.te with cnt := { s.te.cnt with retx := c } } }
      (.regValue a 0x000C0024 s.te.cnt.retx)) hzero
  case latch =>
    intro s a h
    refine ⟨latchHi s a 0x00040008, congrArg Host.Outcome.next
      (readAccess_regActs (v := s.lap.count.setWidth 32) h (by decide) (by decide) rfl rfl), rfl, fun c => ?_⟩
    exact congrArg (fun x => some x.lapCountHi)
      (accSel_modSel_self s a fun x => { x with lapCountHi := (s.lap.count >>> 32).setWidth 32 })

end Sys2Proof.Machine
end

section
/-! PROOFS. Interrupts and completions (R383 to R385, R415): when a message goes, and when a ring takes an entry. -/

namespace Sys2Proof.Machine

open Sys2Proof

/-! ### Events (R415, R385) -/

theorem exec_glbEvtWrite {s : State} {a : Accessor} (h : RegActs s a 0x20) (enable : Bool) (v : Word) :
    exec (.glbEvtWrite a enable v) s = .next (writeEvt s enable v) := by
  cases enable with
  | false => exact congrArg Host.Outcome.next (writeAccess_regActs (w := s.glb.evt.setWidth 32) h (by decide) (by decide) rfl rfl)
  | true =>
    have h24 : RegActs s a 0x24 := h
    exact congrArg Host.Outcome.next (writeAccess_regActs (w := s.glb.evtEn.setWidth 32) h24 (by decide) (by decide) rfl rfl)

/-- The state with other outputs and another HIF: what a signal leaves. -/
def withHost (s : State) (o : List Out) (h : Hif) : State := { s with out := o, hif := h }

theorem withHost_emit (s : State) (x : Out) (o : List Out) (h : Hif) : withHost (emit s x) o h = withHost s o h := rfl

theorem withHost_setCtx (s : State) (t : Tenant) (c : Ctx) (o : List Out) (h : Hif) :
    withHost (setCtx s t c) o h = withHost s o h := rfl

theorem withHost_self (s : State) : withHost s s.out s.hif = s := rfl

theorem msix_hostUp {s : State} (hup : hostUp s = true) (f v : Nat) : msix s f v = emit s (.msix f v) := if_pos hup

/-- Where no holdoff runs, the event message goes at once and starts one. -/
theorem sendEvt_atOnce {s : State} (hhold : s.glb.evtHold = false) (hup : hostUp s = true) : sendEvt s =
    emit { s with glb := { s.glb with evtHold := true, evtLater := false } } (.msix 0 s.glb.evtVector.toNat) := by
  have hup' : hostUp { s with glb := { s.glb with evtHold := true, evtLater := false } } = true := hup
  simp [sendEvt, hhold, msix_hostUp hup']

/-- Where no holdoff runs, a context's vector is signalled at once and a holdoff starts. -/
theorem signalCtx_atOnce {s : State} {t : Tenant} (hhold : (ctxOf s t).msiHold = false) (hup : hostUp s = true) : signalCtx s t =
    emit (setCtx s t { ctxOf s t with msiHold := true, msiLater := false }) (.msix (tenantFunc s t) (ctxOf s t).vector.toNat) := by
  have hup' : hostUp (setCtx s t { ctxOf s t with msiHold := true, msiLater := false }) = true := hup
  simp [signalCtx, hhold, msix_hostUp hup']

section
variable {s : State} {t : Tenant}

/-- GLB once the event message's holdoff has ended. -/
def evtHoldEnded (s : State) : State := { s with glb := { s.glb with evtHold := false, evtLater := false } }

theorem exec_evtMsiHoldoff (hhold : s.glb.evtHold = true) : exec .evtMsiHoldoff s =
    .next (if s.glb.evtLater && s.glb.evt &&& s.glb.evtEn != 0 then sendEvt (evtHoldEnded s) else evtHoldEnded s) := by
  unfold exec execEvtMsiHoldoff
  rw [hhold]
  rfl

theorem exec_evtMsiHoldoff_quiet (hhold : s.glb.evtHold = true) (hlater : s.glb.evtLater = false) :
    exec .evtMsiHoldoff s = .next { s with glb := { s.glb with evtHold := false, evtLater := false } } := by
  rw [exec_evtMsiHoldoff hhold, hlater]
  rfl

theorem exec_evtMsiHoldoff_signals (hhold : s.glb.evtHold = true) (hlater : s.glb.evtLater = true)
    (hpend : s.glb.evt &&& s.glb.evtEn ≠ 0) (hup : hostUp s = true) : exec .evtMsiHoldoff s = .next { s with
      glb := { s.glb with evtHold := true, evtLater := false }, out := s.out ++ [.msix 0 s.glb.evtVector.toNat] } := by
  have hsend := sendEvt_atOnce (s := evtHoldEnded s) rfl hup
  rw [exec_evtMsiHoldoff hhold, hlater, if_pos (by simpa using hpend), hsend]
  rfl

/-- The state once a context's holdoff has ended. -/
def ctxHoldEnded (s : State) (t : Tenant) : State := setCtx s t { ctxOf s t with msiHold := false, msiLater := false }

theorem exec_contextMsiXHoldoff (hhold : (ctxOf s t).msiHold = true) : exec (.contextMsiXHoldoff t) s =
    .next (if (ctxOf s t).msiLater then signalCtx (ctxHoldEnded s t) t else ctxHoldEnded s t) := by
  unfold exec execContextMsiXHoldoff
  dsimp only
  rw [hhold]
  rfl

theorem exec_contextMsiXHoldoff_quiet (hhold : (ctxOf s t).msiHold = true) (hlater : (ctxOf s t).msiLater = false) :
    exec (.contextMsiXHoldoff t) s = .next (setCtx s t { ctxOf s t with msiHold := false }) := by
  rw [exec_contextMsiXHoldoff hhold, if_neg (ne_true_of_eq_false hlater)]
  exact congrArg (fun l => Host.Outcome.next (setCtx s t { ctxOf s t with msiHold := false, msiLater := l })) hlater.symm

theorem exec_contextMsiXHoldoff_signals (hhold : (ctxOf s t).msiHold = true) (hlater : (ctxOf s t).msiLater = true)
    (hup : hostUp s = true) : exec (.contextMsiXHoldoff t) s =
      .next (emit (setCtx (ctxHoldEnded s t) t { ctxOf s t with msiHold := true, msiLater := false })
        (.msix (tenantFunc s t) (ctxOf s t).vector.toNat)) := by
  have hended : ctxOf (ctxHoldEnded s t) t = { ctxOf s t with msiHold := false, msiLater := false } := ctxOf_setCtx_self ..
  rw [exec_contextMsiXHoldoff hhold, hlater, if_pos rfl, signalCtx_atOnce (by rw [hended]) (by exact hup), hended]
  rfl

end

/-- Settles O15: a write of GLB_EVT comes to `writeEvt`, which sends where an enabled condition is left; the end of a holdoff is one
of two branches, and with something new it signals as from no holdoff. -/
theorem eventInterrupts : Obligations.EventInterrupts := by
  refine ⟨fun s a v h => ⟨?status, ?enable⟩, fun s => ⟨exec_evtMsiHoldoff_quiet, exec_evtMsiHoldoff_signals,
    fun t => exec_contextMsiXHoldoff_quiet, fun t hhold hlater hup => ?later⟩⟩
  case status =>
    rw [exec_glbEvtWrite h]
    simp [writeEvt]
  case enable =>
    rw [exec_glbEvtWrite h]
    simp [writeEvt]
  case later =>
    refine ⟨_, exec_contextMsiXHoldoff_signals hhold hlater hup, rfl, ctxOf_setCtx_self .., ?_⟩
    change withHost _ s.out s.hif = s
    rw [withHost_emit, withHost_setCtx, ctxHoldEnded, withHost_setCtx, withHost_self]

/-! ### Completions (R383, R384) -/

section
variable {s : State} {x : Cpl}

theorem ctxOf_emit (s : State) (o : Out) (t : Tenant) : ctxOf (emit s o) t = ctxOf s t := rfl

theorem flushHeld_one {c : Ctx} (func : Nat) (x : Cpl) (hroom : cplRoom c = true) : flushHeld func c [x] =
    ([.hostWrite func (cplAddr c) (cplWords x (ringPhase c.cplIdx c.cplLog2.toNat))],
      { c with cplIdx := c.cplIdx + 1, heldCpl := [] }) := by
  simp [flushHeld, hroom]

theorem flushHeld_full {c : Ctx} (func : Nat) (hroom : cplRoom c = false) (xs : List Cpl) :
    flushHeld func c xs = ([], { c with heldCpl := xs }) := by
  cases xs with
  | nil => rfl
  | cons x xs => simp [flushHeld, hroom]

/-- A completion of an open context joins what its ring has to take. -/
theorem postCpl_open (hphase : s.coach.phase ≠ .restarting) (henable : (ctxOf s x.tenant).enable = true) (hup : hostUp s = true) :
    postCpl s x =
      pumpCpl (setCtx s x.tenant { ctxOf s x.tenant with heldCpl := (ctxOf s x.tenant).heldCpl ++ [x] }) x.tenant := by
  simp [postCpl, hphase, deliverCpl, henable, hup]

/-- The context once its ring's next entry is written. -/
def cplWritten (c : Ctx) : Ctx := { c with cplIdx := c.cplIdx + 1, heldCpl := [] }

/-- A ring with room takes the one completion that waits, and the context's vector is signalled. -/
theorem pumpCpl_one {t : Tenant} (hheld : (ctxOf s t).heldCpl = [x]) (hroom : cplRoom (ctxOf s t) = true) :
    pumpCpl s t = signalCtx (emit (setCtx s t (cplWritten (ctxOf s t))) (.hostWrite (tenantFunc s t) (cplAddr (ctxOf s t))
      (cplWords x (ringPhase (ctxOf s t).cplIdx (ctxOf s t).cplLog2.toNat)))) t := by
  unfold pumpCpl
  dsimp only
  rw [hheld, flushHeld_one _ x hroom]
  rfl

/-- A full ring takes nothing. -/
theorem pumpCpl_full {t : Tenant} (hroom : cplRoom (ctxOf s t) = false) : pumpCpl s t = setCtx s t (ctxOf s t) := by
  unfold pumpCpl
  dsimp only
  rw [flushHeld_full _ hroom]
  exact congrArg (fun os => ({ setCtx s t (ctxOf s t) with out := os } : State)) (List.append_nil s.out)

end

/-- Settles O2: a completion of an open context joins what waits for its ring; a ring with room takes it and signals, a full one
leaves it waiting. -/
theorem completionRing : Obligations.CompletionRing := by
  refine ⟨fun s x hphase henable hup hheld hroom hhold => ?written, fun s x hphase henable hup hroom => ?held⟩
  case written =>
    have hpost : postCpl s x = pumpCpl (setCtx s x.tenant { ctxOf s x.tenant with heldCpl := [x] }) x.tenant := by
      rw [postCpl_open hphase henable hup, hheld]
      rfl
    rw [pumpCpl_one (by rw [ctxOf_setCtx_self]) (by rw [ctxOf_setCtx_self]; exact hroom), ctxOf_setCtx_self,
      signalCtx_atOnce (by rw [ctxOf_emit, ctxOf_setCtx_self]; exact hhold) (by exact hup), ctxOf_emit, ctxOf_setCtx_self] at hpost
    refine ⟨_, hpost, List.append_assoc .., ?_, fun k hk => ?_, ?_, rfl⟩
    · rw [ctxOf_emit, ctxOf_setCtx_self]
      exact congrArg (fun h => { ctxOf s x.tenant with
        cplIdx := (ctxOf s x.tenant).cplIdx + 1, heldCpl := h, msiHold := true, msiLater := false }) hheld.symm
    · simp only [ctxOf_emit, ctxOf_setCtx_ne _ _ _ _ hk]
    · change withHost _ s.out s.hif = s
      simp only [withHost_emit, withHost_setCtx, withHost_self]
  case held =>
    rw [postCpl_open hphase henable hup, pumpCpl_full (by rw [ctxOf_setCtx_self]; exact hroom), ctxOf_setCtx_self]
    refine ⟨ctxOf_setCtx_self .., rfl, fun k hk => ?_⟩
    rw [ctxOf_setCtx_ne _ _ _ _ hk, ctxOf_setCtx_ne _ _ _ _ hk]

end Sys2Proof.Machine
end

section
/-! PROOFS. I2C telemetry and the TAP (R399 to R401, R358): what an update leaves to be read, and what each instruction selects. -/

namespace Sys2Proof.Machine

open Sys2Proof

/-! ### I2C (R399, R400) -/

section
variable {s : State}

theorem exec_i2cReadByte_status (hserves : mgmtServes s = true) :
    exec (.i2cReadByte 0x00) s = .next (emit s (.i2cData (withPec s (readLead s 0x00) [s.i2c.status]))) := by
  unfold exec execI2cReadByte
  rw [hserves]
  rfl

theorem exec_i2cReadWord_value {code : Byte} (hserves : mgmtServes s = true) (hcode : wordCode code.toNat = true) (hne : code ≠ 0) :
    exec (.i2cReadWord code) s = .next (emit s (.i2cData (withPec s (readLead s code)
      [(telemOf s code.toNat).setWidth 8, (telemOf s code.toNat).extractLsb' 8 8]))) := by
  change execI2cReadWord code s = _
  rw [execI2cReadWord, hserves, if_neg (by decide), if_neg hne, if_pos hcode]
  rfl

theorem exec_i2cReadWord_noCode {code : Byte} (hserves : mgmtServes s = true) (hcode : wordCode code.toNat = false) (hne : code ≠ 0) :
    exec (.i2cReadWord code) s = .next (emit s .i2cNack) := by
  change execI2cReadWord code s = _
  rw [execI2cReadWord, hserves, if_neg (by decide), if_neg hne, if_neg (ne_true_of_eq_false hcode)]

/-- An alert that is out and still wanted stays as it is. -/
theorem alertUpdate_wanted (halert : s.i2c.alert = true) (hwanted : alertWanted s = true) : alertUpdate s = s := by
  simp [alertUpdate, halert, hwanted]

/-- ALERT_N changes the outputs and the alert's own two bits. -/
theorem alertUpdate_frame (s : State) : ∃ o a r,
    alertUpdate s = { s with out := o, i2c := { s.i2c with alert := a, alertRead := r } } := by
  unfold alertUpdate
  split
  · split
    · exact ⟨_, _, _, rfl⟩
    · exact ⟨_, _, _, rfl⟩
  · split
    · exact ⟨_, _, _, rfl⟩
    · exact ⟨_, _, _, rfl⟩

/-- R400: the alert response carries the device's own address; with its condition still there ALERT_N stays low. -/
theorem exec_alertResponse_low (hserves : mgmtServes s = true) (halert : s.i2c.alert = true) (hwanted : alertWanted s = true) :
    exec .alertResponse s = .next { s with
      out := s.out ++ [.i2cData (withPec s [0x19] [BitVec.ofNat 8 (2 * (0x58 + s.sta.pos.toNat))])]
      i2c := { s.i2c with alertRead := true } } := by
  unfold exec execAlertResponse
  rw [hserves, halert]
  exact congrArg Host.Outcome.next (alertUpdate_wanted halert hwanted)

end

/-- The values of an update by command code: the dies, Bolzil, the stacks, the rails' voltages and currents, and the power. -/
theorem tblGetD_telemList (s : State) (r : RailReading) :
    tblGetD (telemList s r) 0x7F 0 = r.power ∧
    (∀ k : Fin 8, tblGetD (telemList s r) (0x40 + k.val) 0 = r.mv.get k ∧ tblGetD (telemList s r) (0x60 + k.val) 0 = r.da.get k) ∧
    tblGetD (telemList s r) 0x14 0 = BitVec.ofInt 16 s.sta.bolzilTemp ∧
    (∀ k : Fin 12, tblGetD (telemList s r) (0x18 + k.val) 0 = BitVec.ofInt 16 (s.sta.stackTemp.get k)) ∧
    (∀ d : Fin 4, tblGetD (telemList s r) (0x10 + d.val) 0 = BitVec.ofInt 16 (s.sta.dieTemp.get d)) := by
  refine ⟨rfl, fun k => ?_, rfl, fun k => ?_, fun d => ?_⟩
  · match k with
    | 0 | 1 | 2 | 3 | 4 | 5 | 6 | 7 => exact ⟨rfl, rfl⟩
  · match k with
    | 0 | 1 | 2 | 3 | 4 | 5 | 6 | 7 | 8 | 9 | 10 | 11 => rfl
  · match d with
    | 0 | 1 | 2 | 3 => rfl

/-! ### The TAP (R401) -/

theorem tapCode_eq_false {code : Byte} (hpast : 5 ≤ code.toNat) (hdebug : code ≠ 0x10) : tapCode code = false := by
  have hlow : ¬ code.toNat ≤ 4 := by omega
  rw [tapCode, decide_eq_false hlow, beq_eq_false_iff_ne.2 hdebug]
  rfl

section
variable {s : State}

theorem exec_debug_closed (hclosed : debugOpen s = false) : exec .debug s =
    .next (emit { s with jtg := { s.jtg with ir := 0xFF, driven := false, hiZ := false } } (.jtag 0xFF 0)) :=
  congrArg Host.Outcome.next (if_neg (ne_true_of_eq_false hclosed))

theorem exec_debug_open (hopen : debugOpen s = true) : ∃ v, exec .debug s = .next (emit { s with
    free := s.free + 1, jtg := { s.jtg with ir := 0x10, driven := false, hiZ := false } } (.jtag 0x10 v)) :=
  ⟨(takeFree s).1, congrArg Host.Outcome.next (if_pos hopen)⟩

theorem exec_bypass_noCode {code : Byte} (hpast : 5 ≤ code.toNat) (hdebug : code ≠ 0x10) : exec (.bypass code) s =
    .next (emit { s with jtg := { s.jtg with ir := 0xFF, driven := false, hiZ := false } } (.jtag 0xFF 0)) :=
  congrArg Host.Outcome.next (if_neg (ne_true_of_eq_false (tapCode_eq_false hpast hdebug)))

end

/-- Settles O26: each I2C and TAP command is one branch of its definition, and an update's values stand in its table of codes. The
packet error code's bytes, the alert response's further bit, the timeout without effect and what BYPASS shifts are the model's choices
(logs 49 and 50). -/
theorem telemetryAndTap : Obligations.TelemetryAndTap := by
  refine ⟨fun s hstrap => ⟨exec_i2cReadByte_status hstrap, fun _ => exec_i2cReadWord_value hstrap,
    fun _ => exec_i2cReadWord_noCode hstrap, exec_alertResponse_low hstrap, rfl, fun r => ?update⟩, fun s => ?tap⟩
  case update =>
    refine ⟨_, rfl, ?_⟩
    obtain ⟨o, a, b, hframe⟩ := alertUpdate_frame { s with i2c := { s.i2c with
      telem := telemList s r, status := statusByte s r.outOfWindow, railOut := r.outOfWindow } }
    rw [hframe]
    obtain ⟨hpower, hrails, hbolzil, hstacks, hdies⟩ := tblGetD_telemList s r
    exact ⟨rfl, hpower, hrails, hbolzil, hstacks, hdies, rfl, rfl⟩
  case tap =>
    exact ⟨rfl, fun _ => ⟨_, rfl⟩, fun _ => ⟨_, rfl⟩, rfl, rfl, exec_debug_closed, exec_debug_open, fun _ => exec_bypass_noCode, rfl⟩

end Sys2Proof.Machine
end

section
/-! PROOFS. The life cycle (R348, R358 to R362): what a request, a burned INTENT and the end of the work come to, and that burning
clears no bit. -/

namespace Sys2Proof.Machine

open Sys2Proof

/-! ### Requests (R360) -/

theorem bits_unlock (v : Word) : bits v.toNat 31 16 = 0x4C43 ↔ v >>> 16 = 0x4C43 := by
  have hlt : v.toNat < 2 ^ 32 := v.isLt
  rw [bits, ← BitVec.toNat_inj, BitVec.toNat_ushiftRight, Nat.shiftRight_eq_div_pow, show (0x4C43 : Word).toNat = 0x4C43 from rfl]
  omega

theorem bits_state (v : Word) : bits v.toNat 2 0 = v.toNat % 8 := by simp [bits]

section
variable {s : State} {v : Word} {ok : Bool}

theorem exec_lcTransitionRequest {a : Accessor} (h : RegActs s a 0x00020004) :
    exec (.lcTransitionRequest a v ok) s = .next (lcRequest s v ok) :=
  regCmd_acts h _

theorem lcRequest_locked (hlock : v >>> 16 ≠ 0x4C43) : lcRequest s v ok = s := by
  have hkeyless : ¬ bits v.toNat 31 16 = 0x4C43 := fun h => hlock ((bits_unlock v).1 h)
  rw [lcRequest, if_pos (by rw [decide_eq_true hkeyless, Bool.true_or])]

theorem lcRequest_starts {k : Fin 4} (hunlock : v >>> 16 = 0x4C43) (hidle : s.fus.lcRun = .idle)
    (hstate : lcIndex s.fus.lc = some k.val) (hnext : v.toNat % 8 = k.val + 1) (hallowed : lcAllowed s k.val ok = true) :
    lcRequest s v ok = { s with fus := { s.fus with lcRun := .intent k } } := by
  simp [lcRequest, (bits_unlock v).2 hunlock, hidle, hstate, bits_state, hnext, hallowed]

/-! ### INTENT (R361) -/

/-- The state once INTENT of a transition has read back set. -/
def intentSet (s : State) (k : Fin 4) (v : Word) : State :=
  { s with fus := { s.fus with intent := vset s.fus.intent k (s.fus.intent.get k ||| v), lcRun := .work k } }

theorem exec_lcIntentBurned_set {k : Fin 4} (hrun : s.fus.lcRun = .intent k) (hset : lcRead (s.fus.intent.get k ||| v) = .set) :
    exec (.lcIntentBurned v) s = .next (intentSet s k v) := by
  change execLcIntentBurned v s = _
  rw [execLcIntentBurned, hrun]
  dsimp only
  rw [if_pos hset]
  rfl

end

/-! ### The work and its commit (R362, R372) -/

section
variable {s : State} {k : Fin 4}

/-- The commit of a transition whose work stands. -/
def lcCommit (s : State) (k : Fin 4) : State :=
  { s with fus := { s.fus with
      commit := vset s.fus.commit k (BitVec.allOnes 32), lc := lcOf (k.val + 1), pending := false, pendingTo := 0
      keyData := Vector.replicate 52 0, lcResult := finishCode .ok, lcRun := .idle } }

/-- The commit of transition 4 empties the image store (R372). -/
def storeEmptied (s : State) (k : Fin 4) : State :=
  if k.val = 3 then { s with fwu := { s.fwu with slotA := FwSlot.empty, slotB := FwSlot.empty } } else s

theorem exec_lcWorkDone_work (hrun : s.fus.lcRun = .work k) :
    exec .lcWorkDone s = .next (storeEmptied (lcCommit (lcWork s k.val) k) k) := by
  change execLcWorkDone s = _
  rw [execLcWorkDone, hrun]
  rfl

/-- The work of the transitions other than the third burns key groups and does nothing else. -/
theorem lcWork_burnsKeys (hk : k ≠ 2) : ∃ p w f r, lcWork s k.val =
    { s with fus := { s.fus with planKey := p, fwKey := w, family := f, returnKey := r } } := by
  match k with
  | 0 => exact ⟨_, _, _, _, rfl⟩
  | 1 => exact ⟨_, _, _, _, rfl⟩
  | 2 => exact absurd rfl hk
  | 3 => exact ⟨_, _, _, _, rfl⟩

theorem storeEmptied_fus (s : State) (k : Fin 4) : (storeEmptied s k).fus = s.fus := by
  unfold storeEmptied
  split <;> rfl

theorem storeEmptied_mem_lanes (s : State) (k : Fin 4) : (storeEmptied s k).mem = s.mem ∧ (storeEmptied s k).lanes = s.lanes := by
  unfold storeEmptied
  split <;> exact ⟨rfl, rfl⟩

theorem fwuSlot_storeEmptied_last (s : State) (b : Bool) : (fwuSlot (storeEmptied s 3) b).state = .empty := by
  cases b <;> rfl

/-! ### Fuses only go from 0 to 1 (R348) -/

theorem and_not_or_left {n : Nat} (x y : BitVec n) : x &&& ~~~(x ||| y) = 0 := by
  ext i hi
  cases hx : x[i] <;> simp [hx]

theorem and_not_or_right {n : Nat} (x y : BitVec n) : y &&& ~~~(x ||| y) = 0 := by
  rw [BitVec.or_comm]
  exact and_not_or_left y x

theorem and_not_self {n : Nat} (x : BitVec n) : x &&& ~~~x = 0 := by simp

theorem and_not_allOnes {n : Nat} (x : BitVec n) : x &&& ~~~(BitVec.allOnes n) = 0 := by simp

/-- The work clears no bit of a key group, and that of the first transition burns the key data. -/
theorem lcWork_keepsKeys (hk : k ≠ 2) :
    s.fus.planKey.value &&& ~~~(lcWork s k.val).fus.planKey.value = 0 ∧
    s.fus.fwKey.value &&& ~~~(lcWork s k.val).fus.fwKey.value = 0 ∧
    s.fus.family.value &&& ~~~(lcWork s k.val).fus.family.value = 0 ∧
    s.fus.returnKey.value &&& ~~~(lcWork s k.val).fus.returnKey.value = 0 ∧
    (k = 0 → keyBits s.fus 0 48 &&& ~~~(lcWork s k.val).fus.planKey.value = 0 ∧
      keyBits s.fus 48 48 &&& ~~~(lcWork s k.val).fus.fwKey.value = 0) := by
  match k with
  | 0 => exact ⟨and_not_or_left .., and_not_or_left .., and_not_or_left .., and_not_or_left ..,
      fun _ => ⟨and_not_or_right .., and_not_or_right ..⟩⟩
  | 1 => exact ⟨and_not_self _, and_not_self _, and_not_self _, and_not_self _, nofun⟩
  | 2 => exact absurd rfl hk
  | 3 => exact ⟨and_not_self _, and_not_self _, and_not_allOnes _, and_not_self _, nofun⟩

end

/-- Settles O19: a request, INTENT's read-back and the end of the work each come to one update of the fuse block; what the work burns
is an OR with the old bits. -/
theorem lifeCycle : Obligations.LifeCycle := by
  refine ⟨fun s a v ok h => ⟨?locked, ?starts, ?intent, ?done⟩, fun s k hrun hk => ?keys⟩
  case locked =>
    intro hlock
    rw [exec_lcTransitionRequest h, lcRequest_locked hlock]
  case starts =>
    intro k hunlock hidle hstate hnext hallowed
    rw [exec_lcTransitionRequest h, lcRequest_starts hunlock hidle hstate hnext hallowed]
  case intent =>
    intro k hrun hset
    exact ⟨_, exec_lcIntentBurned_set hrun hset, rfl, vset_get_self .., fun j hj => vset_get_ne _ _ _ _ hj, rfl⟩
  case done =>
    intro k hrun hk
    refine ⟨_, exec_lcWorkDone_work hrun, ?_⟩
    rw [storeEmptied_fus, (storeEmptied_mem_lanes ..).1, (storeEmptied_mem_lanes ..).2]
    obtain ⟨p, w, f, r, hwork⟩ := lcWork_burnsKeys (s := s) hk
    refine ⟨rfl, vset_get_self .., fun j hj => ?_, rfl, rfl, fun j => ?_, ?_, ?_, ?_⟩
    · rw [hwork]
      exact vset_get_ne _ _ _ _ hj
    · simp [lcCommit, get_eq_getElem]
    · rw [hwork]; rfl
    · rw [hwork]; rfl
    · rintro rfl
      exact ⟨rfl, fwuSlot_storeEmptied_last _⟩
  case keys =>
    refine ⟨_, exec_lcWorkDone_work hrun, ?_⟩
    rw [storeEmptied_fus]
    exact lcWork_keepsKeys hk

end Sys2Proof.Machine
end

section
/-! PROOFS. Firmware update (R366 to R370): what each command of FWU_CMD comes to once its checks pass, and how a trial goes on and
ends. -/

namespace Sys2Proof.Machine

open Sys2Proof

/-! ### STAGE (R366, R367) -/

section
variable {s : State}

theorem fwuStage_begins (hfree : fwuBlocked s = false) (hlc : lcTakesImage s = true)
    (hslots : ∀ b, (fwuSlot s b).state ≠ .trial ∧ (fwuSlot s b).state ≠ .staging) :
    fwuStage s = { setFwuSlot s (stageSlot s) ⟨.staging, none⟩ with
      fwu := { (setFwuSlot s (stageSlot s) ⟨.staging, none⟩).fwu with op := .stage (stageSlot s) s.fwu.len } } := by
  obtain ⟨htrialA, hstagingA⟩ := hslots false
  obtain ⟨htrialB, hstagingB⟩ := hslots true
  have hbusy : (inTrial s false || inTrial s true || s.fwu.slotA.state = .staging || s.fwu.slotB.state = .staging) = false := by
    have hA : ¬ s.fwu.slotA.state = .staging := hstagingA
    have hB : ¬ s.fwu.slotB.state = .staging := hstagingB
    simp [inTrial, htrialA, htrialB, hA, hB]
  unfold fwuStage
  rw [hfree, hlc, hbusy]
  cases stageSlot s <;> rfl

/-- The end of a STAGE: the slot that it leaves, and its result and reason. -/
def stageEnded (s : State) (b : Bool) (x : FwSlot) (code : Finish) (reason : Byte) : State :=
  fwuResult (setFwuSlot { s with fwu := { s.fwu with op := .none } } b x) code reason

theorem exec_fwuStageDone_passed {img : FwImage} {b : Bool} {n : BitVec 24} (hop : s.fwu.op = .stage b n)
    (hpass : imageReason s img n.toNat = 0) : exec (.fwuStageDone img) s = .next (stageEnded s b ⟨.staged, some img⟩ .ok 0) := by
  change execFwuStageDone img s = _
  rw [execFwuStageDone, hop]
  exact if_pos hpass

theorem exec_fwuStageDone_failed {img : FwImage} {b : Bool} {n : BitVec 24} (hop : s.fwu.op = .stage b n)
    (hfail : imageReason s img n.toNat ≠ 0) :
    exec (.fwuStageDone img) s = .next (stageEnded s b FwSlot.empty .refused (imageReason s img n.toNat)) := by
  change execFwuStageDone img s = _
  rw [execFwuStageDone, hop]
  exact if_neg hfail

theorem stageEnded_effect (s : State) (b : Bool) (x : FwSlot) (code : Finish) (reason : Byte) :
    fwuSlot (stageEnded s b x code reason) b = x ∧ fwuSlot (stageEnded s b x code reason) (!b) = fwuSlot s (!b) ∧
      (stageEnded s b x code reason).fwu.op = .none ∧ (stageEnded s b x code reason).fwu.result = finishCode code ∧
      (stageEnded s b x code reason).fwu.reason = reason ∧ { stageEnded s b x code reason with fwu := s.fwu } = s := by
  cases b <;> exact ⟨rfl, rfl, rfl, rfl, rfl, rfl⟩

/-! ### ACTIVATE, ROM and CONFIRM (R368, R369) -/

/-- With a plan current Coach stops at a lap boundary alone. -/
theorem pauseAtOnce_planned {p : Plan} (hplan : s.mpl.current = some p) : pauseAtOnce s = s := by
  simp [pauseAtOnce, hplan]

theorem fwuActivate_waits {p : Plan} {b : Bool} (hplan : s.mpl.current = some p) (hfree : fwuBlocked s = false)
    (hlc : lcTakesImage s = true) (hslot : slotRunnable s b = true) (hmode : modeTakesImage s = true) (hpause : pauseAllowed s = true) :
    fwuActivate s b = { s with fwu := { s.fwu with op := .activate b } } := by
  unfold fwuActivate
  rw [hfree, hlc, hslot, hmode, hpause]
  exact pauseAtOnce_planned hplan

theorem fwuRom_waits {p : Plan} {b : Bool} (hplan : s.mpl.current = some p) (hfree : fwuBlocked s = false)
    (hrun : runningSlot s = some b) (hA : inTrial s false = false) (hB : inTrial s true = false) (hmode : modeTakesImage s = true)
    (hpause : pauseAllowed s = true) : fwuRom s = { s with fwu := { s.fwu with op := .rom } } := by
  unfold fwuRom
  rw [hfree, hrun, hA, hB, hmode, hpause]
  exact pauseAtOnce_planned hplan

theorem fwuConfirm_good {b : Bool} (hfree : fwuBlocked s = false) (hrun : runningSlot s = some b) (htrial : inTrial s b = true)
    (hhealthy : s.fwu.healthy = true) : fwuConfirm s = fwuResult (setSlotState s b .good) .ok 0 := by
  unfold fwuConfirm
  rw [hfree, hrun]
  dsimp only
  rw [htrial, hhealthy]
  rfl

theorem confirmed_effect (s : State) (b : Bool) :
    (fwuSlot (fwuResult (setSlotState s b .good) .ok 0) b).state = .good ∧
      (fwuSlot (fwuResult (setSlotState s b .good) .ok 0) b).image = (fwuSlot s b).image ∧
      fwuSlot (fwuResult (setSlotState s b .good) .ok 0) (!b) = fwuSlot s (!b) ∧
      (fwuResult (setSlotState s b .good) .ok 0).fwu.result = 0 ∧
      { fwuResult (setSlotState s b .good) .ok 0 with fwu := s.fwu } = s := by
  cases b <;> exact ⟨rfl, rfl, rfl, rfl, rfl⟩

/-! ### The trial (R370) -/

theorem exec_healthyTimer_serves (htrial : onTrial s = true) (hruns : coachRuns s = true) :
    exec .healthyTimer s = .next { s with fwu := { s.fwu with healthy := true } } := by
  change execHealthyTimer s = _
  rw [execHealthyTimer, htrial, hruns]
  rfl

/-- A trial that fell back outside a restart: its slot is REJECTED, and a service pause is asked for. -/
def fellBack (s : State) (b : Bool) : State := { rejectTrial s b with fwu := { (rejectTrial s b).fwu with fallback := true } }

theorem rejectTrial_mpl (s : State) (b : Bool) : (rejectTrial s b).mpl = s.mpl := by
  simp [rejectTrial, setSlotState, setFwuSlot]

theorem exec_confirmWindowExpired_fallsBack {p : Plan} {b : Bool} (hplan : s.mpl.current = some p) (hrun : runningSlot s = some b)
    (htrial : inTrial s b = true) (hruns : coachRuns s = true) : exec .confirmWindowExpired s = .next (fellBack s b) := by
  have hplan' : (fellBack s b).mpl.current = some p := (congrArg Mpl.current (rejectTrial_mpl s b)).trans hplan
  change execConfirmWindowExpired s = _
  rw [execConfirmWindowExpired, hrun]
  dsimp only
  rw [htrial, hruns]
  exact congrArg Host.Outcome.next (pauseAtOnce_planned hplan')

theorem fellBack_fwu (s : State) (b : Bool) : (fellBack s b).fwu = { (setSlotState s b .rejected).fwu with
    fellBack := true, healthy := false, fallbackCnt := satInc (setSlotState s b .rejected).fwu.fallbackCnt, fallback := true } :=
  congrArg (fun f : Fwu => { f with fallback := true }) (raiseEvt_fwu ..)

theorem fellBack_effect (s : State) (b : Bool) :
    (fwuSlot (fellBack s b) b).state = .rejected ∧ (fellBack s b).fwu.fellBack = true ∧ (fellBack s b).fwu.healthy = false ∧
      (fellBack s b).fwu.fallback = true ∧ (fellBack s b).fwu.fallbackCnt = satInc s.fwu.fallbackCnt ∧
      (fellBack s b).fwu.running = s.fwu.running ∧ (fellBack s b).glb.evt = s.glb.evt ||| (1 <<< 8) ∧
      (fellBack s b).mem = s.mem ∧ (fellBack s b).lanes = s.lanes := by
  have hevt : (fellBack s b).glb.evt = s.glb.evt ||| (1 <<< 8) := raiseEvt_evt ..
  have hmem : (fellBack s b).mem = s.mem := raiseEvt_mem ..
  have hlanes : (fellBack s b).lanes = s.lanes := raiseEvt_lanes ..
  rw [fwuSlot, fellBack_fwu]
  cases b <;> exact ⟨rfl, rfl, rfl, rfl, rfl, rfl, hevt, hmem, hlanes⟩

end

/-- Settles O17: each command is the last branch of its checks; with a plan current a pause waits for the lap boundary, so that the
state is the one asked for. That an image is checked again before it runs is the model's choice (log 39). -/
theorem firmwareUpdate : Obligations.FirmwareUpdate := by
  refine ⟨fun s a img h => ⟨?stage, ?passed, ?failed⟩,
    fun s a p h hplan => ⟨?activate, ?rom, ?confirm, exec_healthyTimer_serves, ?window⟩⟩
  case stage =>
    intro hfree hlc hslots
    exact (regCmd_acts h _).trans (congrArg _ (fwuStage_begins hfree hlc hslots))
  case passed =>
    intro b n hop hpass
    exact ⟨_, exec_fwuStageDone_passed hop hpass, stageEnded_effect s b _ .ok 0⟩
  case failed =>
    intro b n hop hfail
    exact ⟨_, exec_fwuStageDone_failed hop hfail, stageEnded_effect s b _ .refused _⟩
  case activate =>
    intro b hfree hlc hslot hmode hpause
    exact (regCmd_acts h _).trans (congrArg _ (fwuActivate_waits hplan hfree hlc hslot hmode hpause))
  case rom =>
    intro b hfree hrun hA hB hmode hpause
    exact (regCmd_acts h _).trans (congrArg _ (fwuRom_waits hplan hfree hrun hA hB hmode hpause))
  case confirm =>
    intro b hfree hrun htrial hhealthy
    exact ⟨_, (regCmd_acts h _).trans (congrArg _ (fwuConfirm_good hfree hrun htrial hhealthy)), confirmed_effect s b⟩
  case window =>
    intro b hrun htrial hruns
    exact ⟨_, exec_confirmWindowExpired_fallsBack hplan hrun htrial hruns, fellBack_effect s b⟩

end Sys2Proof.Machine
end

section
/-! PROOFS. Start-up (R346, R350 to R352): what each milestone sets, and when Coach waits for a plan. -/

namespace Sys2Proof.Machine

open Sys2Proof

/-! ### The standby and main start (R346, R350, R351) -/

section
variable {s : State}

/-- The state once the fuses are loaded. -/
def fusesRead (s : State) : State :=
  { s with
    sta := { s.sta with boot := { s.sta.boot with fusesLoaded := true } }
    fus := { s.fus with
      lc := (lcDecode s.fus).1, pending := (lcDecode s.fus).2
      pendingTo := if (lcDecode s.fus).2 then BitVec.ofNat 3 (lcHighest s.fus + 1) else 0
      crcBad := crcBits s.fus, lcPartial := lcAnyPartial s.fus, pinActive := true } }

theorem exec_fuseLoadDone_loads (hreleased : s.sta.boot.stbyReleased = true) (hfirst : s.sta.boot.fusesLoaded = false) :
    exec .fuseLoadDone s = .next (fusesRead s) := by
  change execFuseLoadDone s = _
  rw [execFuseLoadDone, hreleased, hfirst]
  rfl

/-- CHOICE in two fields is the code's two upper fields. -/
theorem choice_fields (c : Byte) : BitVec.ofNat 2 (c.toNat / 16 % 4) = BitVec.ofNat 2 (c.toNat / 16) ∧
    BitVec.ofNat 2 (c.toNat / 16 / 4) = BitVec.ofNat 2 (c.toNat / 64) := by
  refine ⟨BitVec.eq_of_toNat_eq ?_, ?_⟩
  · simp
  · rw [Nat.div_div_eq_div_mul]

/-- The state once the strap is sampled. -/
def strapTaken (s : State) (codes : Vector Byte 9) : State :=
  { s with sta := { s.sta with
    code := medianCode codes
    pos := BitVec.ofNat 2 ((medianCode codes).toNat / 16 % 4), mode := BitVec.ofNat 2 ((medianCode codes).toNat / 16 / 4)
    unstable := (codes.toList.map fun x => x.toNat / 16).any fun x => x != (codes.toList.map fun x => x.toNat / 16).headD 0
    boot := { s.sta.boot with strapDue := false, strapDone := true } } }

theorem exec_strapSampled_takes {codes : Vector Byte 9} (hloaded : s.sta.boot.fusesLoaded = true) (hdue : s.sta.boot.strapDue = true) :
    exec (.strapSampled codes) s = .next (strapTaken s codes) := by
  change execStrapSampled codes s = _
  rw [execStrapSampled, hloaded, hdue]
  rfl

theorem exec_pllLock_trains (hstart : s.sta.boot.mainStart = true) (hstrap : s.sta.boot.strapDone = true)
    (hfirst : s.sta.boot.fabricUp = false) (hclock : sysclkGone s = false) :
    exec .pllLock s = .next (startTraining (modBoot s fun b => { b with fabricUp := true })) := by
  change execPllLock s = _
  rw [execPllLock, hstart, hstrap, hfirst, hclock]
  rfl

theorem startTraining_training (hup : s.sta.boot.fabricUp = true) : (startTraining s).hif.training =
    (s.sta.boot.perstN && !s.glb.fatal && !(s.clk.refFail && !s.clk.refOk) && !s.hif.linkUp) := by
  simp only [startTraining, hup, Bool.and_true]

theorem exec_bolzilMarchDone {ok : Bool} (hup : s.sta.boot.fabricUp = true) (hfirst : s.sta.boot.coachUp = false) :
    exec (.bolzilMarchDone ok) s = .next (if ok then modBoot s fun b => { b with coachUp := true } else failStage s 4) := by
  change execBolzilMarchDone ok s = _
  rw [execBolzilMarchDone, hup, hfirst]
  cases ok <;> rfl

theorem exec_dieLinksTrained_coachUp (hup : s.sta.boot.coachUp = true) :
    exec .dieLinksTrained s = .next (modBoot s fun b => { b with dieLinksUp := true }) := by
  change execDieLinksTrained s = _
  rw [execDieLinksTrained, hup]
  rfl

/-! ### The rows of R350, and Coach -/

/-- Coach's phase is all that the last row of start-up changes. -/
theorem reachAwaiting_frame (s : State) : { reachAwaiting s with coach := s.coach } = s ∧
    { (reachAwaiting s).coach with phase := s.coach.phase } = s.coach := by
  unfold reachAwaiting
  split <;> exact ⟨rfl, rfl⟩

theorem reachAwaiting_sta (s : State) : (reachAwaiting s).sta = s.sta :=
  (congrArg State.sta (reachAwaiting_frame s).1 :)

theorem reachAwaiting_mem (s : State) : (reachAwaiting s).mem = s.mem := (congrArg State.mem (reachAwaiting_frame s).1 :)
theorem reachAwaiting_reqs (s : State) : (reachAwaiting s).reqs = s.reqs := (congrArg State.reqs (reachAwaiting_frame s).1 :)
theorem reachAwaiting_lanes (s : State) : (reachAwaiting s).lanes = s.lanes := (congrArg State.lanes (reachAwaiting_frame s).1 :)
theorem reachAwaiting_cap (s : State) : (reachAwaiting s).cap = s.cap := (congrArg State.cap (reachAwaiting_frame s).1 :)
theorem reachAwaiting_fwu (s : State) : (reachAwaiting s).fwu = s.fwu := (congrArg State.fwu (reachAwaiting_frame s).1 :)

theorem reachAwaiting_phase (hphase : s.coach.phase = .booting) : (reachAwaiting s).coach.phase = .awaiting ↔ bootDone s = true := by
  cases hdone : bootDone s <;> simp [reachAwaiting, hdone, hphase]

theorem exec_coreMarchDone {failed : List (Fin 4 × Nat)} (hlinks : s.sta.boot.dieLinksUp = true)
    (hfirst : s.sta.boot.coreMarch = false) : exec (.coreMarchDone failed) s =
      .next (reachAwaiting (modBoot (failed.foldl (fun s x => coreFails s x.1 x.2) s) fun b => { b with coreMarch := true })) := by
  change execCoreMarchDone failed s = _
  rw [execCoreMarchDone, hlinks, hfirst]
  rfl

theorem exec_startupStackTestDone {failed : List LaneNo} (hmode : modeFull s = true) (htrained : s.sta.boot.stacksTrained = true)
    (hfirst : s.sta.boot.stackTest = false) : exec (.startupStackTestDone failed) s =
      .next (reachAwaiting (modBoot (failed.foldl (fun s n => retireLane s n 0x04 false) s) fun b => { b with stackTest := true })) := by
  change execStartupStackTestDone failed s = _
  rw [execStartupStackTestDone, hmode, htrained, hfirst]
  rfl

/-! ### The training of stacks and ports (R389, R52) -/

/-- The ports as their training left them. -/
def portsTrained (s : State) (cap : Vector CapTrain 4) : State :=
  { s with cap := { s.cap with ports := Vector.ofFn fun p => capTrained (cap.get p) } }

/-- The stacks trained, the ports enumerated, and the milestone set. -/
def trainingDone (s : State) (failed : List (LaneNo × Bool)) (cap : Vector CapTrain 4) : State :=
  reachAwaiting (modBoot (portsTrained (laneNos.foldl (fun s n => trainStack s failed n) s) cap)
    fun b => { b with stacksTrained := true })

theorem exec_stackTrainingDone {failed : List (LaneNo × Bool)} {cap : Vector CapTrain 4} (hlinks : s.sta.boot.dieLinksUp = true)
    (hfirst : s.sta.boot.stacksTrained = false) : exec (.stackTrainingDone failed cap) s = .next (trainingDone s failed cap) := by
  change execStackTrainingDone failed cap s = _
  rw [execStackTrainingDone, hlinks, hfirst]
  rfl

theorem trainingDone_boot_ports (s : State) (failed : List (LaneNo × Bool)) (cap : Vector CapTrain 4) :
    (trainingDone s failed cap).sta.boot.stacksTrained = true ∧
      ∀ p, (trainingDone s failed cap).cap.ports.get p = capTrained (cap.get p) := by
  refine ⟨by rw [trainingDone, reachAwaiting_sta]; rfl, fun p => ?_⟩
  rw [trainingDone, reachAwaiting_cap]
  exact ofFn_get _ p

/-- A lane changed once by a walk over lanes that name it once. -/
theorem laneOf_foldl_modLane (f : Lane → Lane) {xs : List LaneNo} (hnodup : xs.Nodup) (s : State) (n : LaneNo) :
    laneOf (xs.foldl (fun s k => modLane s k f) s) n = if n ∈ xs then f (laneOf s n) else laneOf s n := by
  induction xs generalizing s with
  | nil => rfl
  | cons k xs ih =>
    obtain ⟨hk, hxs⟩ := List.nodup_cons.1 hnodup
    rw [List.foldl_cons, ih hxs]
    by_cases hn : n = k
    · subst hn
      simp [hk]
    · simp [hn, laneOf_modLane_ne _ _ _ _ hn]

/-- A lane whose stack trained. -/
def stackTrained (l : Lane) : Lane := { l with dataOpen := stackOpens l, hbc := { l.hbc with trained := true } }

theorem laneOf_trainingDone (s : State) (cap : Vector CapTrain 4) (n : LaneNo) :
    laneOf (trainingDone s [] cap) n = stackTrained (laneOf s n) := by
  have hports : ∀ u, (modBoot (portsTrained u cap) fun b => { b with stacksTrained := true }).lanes = u.lanes := fun _ => rfl
  have hall := laneOf_foldl_modLane stackTrained (List.nodup_finRange 12) s n
  rw [if_pos (List.mem_finRange n)] at hall
  rw [laneOf, trainingDone, reachAwaiting_lanes, hports]
  exact hall

theorem trainingDone_mem_reqs (s : State) (cap : Vector CapTrain 4) :
    (trainingDone s [] cap).mem = s.mem ∧ (trainingDone s [] cap).reqs = s.reqs := by
  have hports : ∀ u, (modBoot (portsTrained u cap) fun b => { b with stacksTrained := true }).mem = u.mem ∧
      (modBoot (portsTrained u cap) fun b => { b with stacksTrained := true }).reqs = u.reqs := fun _ => ⟨rfl, rfl⟩
  rw [trainingDone, reachAwaiting_mem, reachAwaiting_reqs, (hports _).1, (hports _).2]
  exact ⟨foldl_keeps State.mem _ (fun s n => modLane_mem s n stackTrained) _ _,
    foldl_keeps State.reqs _ (fun s n => modLane_reqs s n stackTrained) _ _⟩

/-! ### The boot image (R366, R371) -/

/-- The state once the boot image is checked. -/
def imageChosen (s : State) (ms : BitVec 16) : State :=
  let u := { s with fwu := { s.fwu with running := bootRunning s } }
  { u with
    fwu := { u.fwu with rev := runningRev u }
    coach := { u.coach with imageActive := u.fwu.running != .rom }
    sta := { u.sta with bootMs := ms } }

theorem exec_bootImageChecked {ms : BitVec 16} (hup : s.sta.boot.coachUp = true) (hfirst : s.sta.boot.imageChecked = false) :
    exec (.bootImageChecked ms) s = .next (reachAwaiting (modBoot (imageChosen s ms) fun b => { b with imageChecked := true })) := by
  change execBootImageChecked ms s = _
  rw [execBootImageChecked, hup, hfirst]
  rfl

theorem reachAwaiting_imageActive (s : State) : (reachAwaiting s).coach.imageActive = s.coach.imageActive :=
  (congrArg Coach.imageActive (reachAwaiting_frame s).2 :)

end

/-- Settles O22: each event sets its own bit of the boot record once its conditions hold; Coach's phase moves with the last of them. -/
theorem startUp : Obligations.StartUp := by
  refine ⟨fun s => ⟨rfl, ?fuses, ?strap, ?pll, ?march, exec_dieLinksTrained_coachUp⟩,
    fun s => ⟨?cores, ?trained, ?trainedAny, ?stackTest, ?image, reachAwaiting_phase⟩⟩
  case fuses =>
    intro hreleased hfirst
    exact ⟨_, exec_fuseLoadDone_loads hreleased hfirst, rfl, rfl, rfl, rfl, rfl, rfl⟩
  case strap =>
    intro codes hloaded hdue
    obtain ⟨hpos, hmode⟩ := choice_fields (medianCode codes)
    exact ⟨_, exec_strapSampled_takes hloaded hdue, rfl, hpos, hmode, rfl, rfl⟩
  case pll =>
    intro hstart hstrap hfirst hclock
    exact ⟨_, exec_pllLock_trains hstart hstrap hfirst hclock, rfl, rfl, rfl, startTraining_training rfl⟩
  case march =>
    intro hup hfirst
    exact ⟨exec_bolzilMarchDone hup hfirst, exec_bolzilMarchDone hup hfirst⟩
  case cores =>
    intro hlinks hfirst
    exact ⟨exec_coreMarchDone hlinks hfirst,
      fun failed => ⟨_, exec_coreMarchDone hlinks hfirst, by rw [reachAwaiting_sta]; rfl⟩⟩
  case trained =>
    intro hlinks hfirst cap
    obtain ⟨hboot, hports⟩ := trainingDone_boot_ports s [] cap
    refine ⟨_, exec_stackTrainingDone hlinks hfirst, hboot, fun n => ?_, hports, trainingDone_mem_reqs s cap⟩
    rw [laneOf_trainingDone]
    exact ⟨rfl, rfl, rfl⟩
  case trainedAny =>
    intro hlinks hfirst failed cap
    exact ⟨_, exec_stackTrainingDone hlinks hfirst, trainingDone_boot_ports s failed cap⟩
  case stackTest =>
    intro hmode htrained hfirst
    exact ⟨exec_startupStackTestDone hmode htrained hfirst,
      fun failed => ⟨_, exec_startupStackTestDone hmode htrained hfirst, by rw [reachAwaiting_sta]; rfl⟩⟩
  case image =>
    intro ms hup hfirst
    refine ⟨_, exec_bootImageChecked hup hfirst, ?_⟩
    rw [reachAwaiting_sta, reachAwaiting_fwu, reachAwaiting_imageActive, reachAwaiting_mem, reachAwaiting_lanes]
    exact ⟨rfl, rfl, rfl, rfl, rfl, rfl⟩

end Sys2Proof.Machine
end

section
/-! PROOFS. The host link (R374, R386, R387, R402): what the reset of a function and of the link closes, and what a link that comes up
sends without changing more. -/

namespace Sys2Proof.Machine

open Sys2Proof

/-! ### Tables from which a walk erases -/

theorem tblErase_of_tblGet_none {α : Type} {t : Tbl α} {i : Nat} (h : tblGet t i = none) : tblErase t i = t := by
  induction t with
  | nil => rfl
  | cons e t ih =>
    obtain ⟨k, x⟩ := e
    have hk : ¬ k = i := by
      rintro rfl
      simp [tblGet] at h
    have hrest : tblGet t i = none := by simpa [tblGet, hk] using h
    simp only [tblErase, List.filter_cons, bne_iff_ne, ne_eq, hk, not_false_eq_true, if_true]
    exact congrArg _ (ih hrest)

/-- What a walk that erases the keys of the entries it picks leaves: entries that were there, of no picked key. -/
theorem mem_foldl_erase {α β : Type} {tbl : State → Tbl α} {f : State → Nat × β → State} {p : Nat × β → Prop}
    [DecidablePred p] (hf : ∀ s x, tbl (f s x) = if p x then tblErase (tbl s) x.1 else tbl s)
    {e : Nat × α} {xs : List (Nat × β)} {s : State} (he : e ∈ tbl (xs.foldl f s)) : e ∈ tbl s ∧ ∀ x ∈ xs, p x → e.1 ≠ x.1 := by
  induction xs generalizing s with
  | nil => exact ⟨he, fun x hx => absurd hx List.not_mem_nil⟩
  | cons y ys ih =>
    obtain ⟨hmem, hys⟩ := ih he
    rw [hf] at hmem
    split at hmem
    · next hy =>
      obtain ⟨hold, hkey⟩ := List.mem_filter.1 hmem
      refine ⟨hold, List.forall_mem_cons.2 ⟨fun _ => ?_, hys⟩⟩
      simpa using hkey
    · next hy => exact ⟨hmem, List.forall_mem_cons.2 ⟨fun h => absurd h hy, hys⟩⟩

/-! ### The parts of a function's state (R386) -/

/-- The function's send queues go. -/
def closeSqs (s : State) (f : Nat) : State := s.te.sqs.foldl (fun s e => if e.2.func.val = f then dropSq s e.1 else s) s

/-- The function's receive queues go. -/
def closeRqs (s : State) (f : Nat) : State := s.te.rqs.foldl (fun s e => if e.2.func.val = f then dropRq s e.1 else s) s

/-- A context goes, and what it held is counted. -/
def dropCtx (s : State) (e : Nat × Ctx) : State :=
  dropCpls { s with hif := { s.hif with ctxs := tblErase s.hif.ctxs e.1 } } e.2.heldCpl.length

/-- The contexts that a function owns. -/
def ownCtxs (s : State) (f : Nat) : Tbl Ctx := s.hif.ctxs.filter fun e => decide (tblGetD s.hif.funcOf e.1 0 = f)

/-- The function's contexts go. -/
def closeCtxs (s : State) (f : Nat) : State := (ownCtxs s f).foldl dropCtx s

theorem closeFunc_eq_pauses (s : State) (f : Nat) : closeFunc s f =
    ((closeCtxs (closeRqs (closeSqs s f) f) f).reqs.map (·.id)).foldl (fun s b => pauseRing s f b)
      (closeCtxs (closeRqs (closeSqs s f) f) f) := rfl

/-- The state without Track's queues and the host's contexts: what closing them does not reach. -/
def sansHostWork (s : State) : State :=
  { s with
    te := { s.te with sqs := [], rqs := [], rxs := [] }
    hif := { s.hif with ctxs := [], cplDrop := 0 } }

theorem dropSq_sansHostWork (s : State) (q : Nat) : sansHostWork (dropSq s q) = sansHostWork s := by
  unfold dropSq
  split <;> rfl

theorem closeRq_sansHostWork (s : State) (q : Nat) : sansHostWork (closeRq s q) = sansHostWork s := by
  unfold closeRq
  split <;> rfl

theorem dropRq_sansHostWork (s : State) (q : Nat) : sansHostWork (dropRq s q) = sansHostWork s := by
  unfold dropRq
  split
  · rfl
  · exact closeRq_sansHostWork s q

theorem ite_sansHostWork (c : Prop) [Decidable c] {s t : State} (h : sansHostWork t = sansHostWork s) :
    sansHostWork (if c then t else s) = sansHostWork s := by
  split
  · exact h
  · rfl

theorem closeSqs_sansHostWork (s : State) (f : Nat) : sansHostWork (closeSqs s f) = sansHostWork s := by
  unfold closeSqs
  exact foldl_keeps sansHostWork _ (fun s (e : Nat × SendQ) => ite_sansHostWork (e.2.func.val = f) (dropSq_sansHostWork s e.1)) _ _

theorem closeRqs_sansHostWork (s : State) (f : Nat) : sansHostWork (closeRqs s f) = sansHostWork s := by
  unfold closeRqs
  exact foldl_keeps sansHostWork _ (fun s (e : Nat × RecvQ) => ite_sansHostWork (e.2.func.val = f) (dropRq_sansHostWork s e.1)) _ _

theorem closeCtxs_sansHostWork (s : State) (f : Nat) : sansHostWork (closeCtxs s f) = sansHostWork s := by
  unfold closeCtxs
  exact foldl_keeps sansHostWork dropCtx (fun _ _ => rfl) _ _

theorem closed_sansHostWork (s : State) (f : Nat) :
    sansHostWork (closeCtxs (closeRqs (closeSqs s f) f) f) = sansHostWork s := by
  rw [closeCtxs_sansHostWork, closeRqs_sansHostWork, closeSqs_sansHostWork]

theorem closeFunc_noReqs {s : State} (hreqs : s.reqs = []) (f : Nat) : closeFunc s f = closeCtxs (closeRqs (closeSqs s f) f) f := by
  have hnone : (closeCtxs (closeRqs (closeSqs s f) f) f).reqs = [] :=
    (congrArg State.reqs (closed_sansHostWork s f) :).trans hreqs
  rw [closeFunc_eq_pauses, hnone]
  rfl

/-! ### What is gone -/

theorem dropSq_sqs (s : State) (q : Nat) : (dropSq s q).te.sqs = tblErase s.te.sqs q := by
  unfold dropSq
  split
  · next h => exact (tblErase_of_tblGet_none h).symm
  · rfl

/-- A receive queue that closes goes from the table of receive queues, and the send queues stay. -/
theorem closeRq_queues (s : State) (q : Nat) :
    (closeRq s q).te.rqs = tblErase s.te.rqs q ∧ (closeRq s q).te.sqs = s.te.sqs := by
  unfold closeRq
  split
  · next h => exact ⟨(tblErase_of_tblGet_none h).symm, rfl⟩
  · exact ⟨rfl, rfl⟩

theorem dropRq_rqs (s : State) (q : Nat) : (dropRq s q).te.rqs = tblErase s.te.rqs q := by
  unfold dropRq
  split
  · next h => exact (tblErase_of_tblGet_none h).symm
  · exact (closeRq_queues s q).1

theorem dropRq_sqs (s : State) (q : Nat) : (dropRq s q).te.sqs = s.te.sqs := by
  unfold dropRq
  split
  · rfl
  · exact (closeRq_queues s q).2

theorem closeSqs_gone {s : State} {f : Nat} {e : Nat × SendQ} (he : e ∈ (closeSqs s f).te.sqs) : e.2.func.val ≠ f := by
  have hwalk := mem_foldl_erase (tbl := fun s => s.te.sqs) (p := fun e : Nat × SendQ => e.2.func.val = f)
    (fun s x => by split <;> simp [dropSq_sqs]) he
  exact fun hf => hwalk.2 e hwalk.1 hf rfl

theorem closeRqs_gone {s : State} {f : Nat} {e : Nat × RecvQ} (he : e ∈ (closeRqs s f).te.rqs) : e.2.func.val ≠ f := by
  have hwalk := mem_foldl_erase (tbl := fun s => s.te.rqs) (p := fun e : Nat × RecvQ => e.2.func.val = f)
    (fun s x => by split <;> simp [dropRq_rqs]) he
  exact fun hf => hwalk.2 e hwalk.1 hf rfl

theorem closeRqs_sqs (s : State) (f : Nat) : (closeRqs s f).te.sqs = s.te.sqs :=
  foldl_keeps (fun s : State => s.te.sqs) _ (fun s e => by split <;> simp [dropRq_sqs]) _ _

theorem closeCtxs_te (s : State) (f : Nat) : (closeCtxs s f).te = s.te := foldl_keeps State.te dropCtx (fun _ _ => rfl) _ _

theorem closeCtxs_gone {s : State} {f : Nat} {e : Nat × Ctx} (he : e ∈ (closeCtxs s f).hif.ctxs) :
    tblGetD s.hif.funcOf e.1 0 ≠ f := by
  have hwalk := mem_foldl_erase (tbl := fun s => s.hif.ctxs) (p := fun _ : Nat × Ctx => True)
    (fun s x => by simp [dropCtx, dropCpls]) he
  exact fun hf => hwalk.2 e (List.mem_filter.2 ⟨hwalk.1, decide_eq_true hf⟩) trivial rfl

/-- R386: after the reset of a function without requests, no context and no queue of it is left. -/
theorem closeFunc_gone {s : State} (hreqs : s.reqs = []) (f : Func) :
    (∀ e ∈ (closeFunc s f.val).hif.ctxs, tblGetD s.hif.funcOf e.1 0 ≠ f.val) ∧
      (∀ e ∈ (closeFunc s f.val).te.sqs, e.2.func ≠ f) ∧ ∀ e ∈ (closeFunc s f.val).te.rqs, e.2.func ≠ f := by
  have hfuncOf : (closeRqs (closeSqs s f.val) f.val).hif.funcOf = s.hif.funcOf :=
    (congrArg (fun u => u.hif.funcOf) ((closeRqs_sansHostWork _ f.val).trans (closeSqs_sansHostWork s f.val)) :)
  rw [closeFunc_noReqs hreqs, closeCtxs_te, closeRqs_sqs]
  refine ⟨fun e he => ?_, fun e he hf => closeSqs_gone he (congrArg Fin.val hf),
    fun e he hf => closeRqs_gone he (congrArg Fin.val hf)⟩
  rw [← hfuncOf]
  exact closeCtxs_gone he

theorem closeFunc_sansHostWork {s : State} (hreqs : s.reqs = []) (f : Nat) : sansHostWork (closeFunc s f) = sansHostWork s := by
  rw [closeFunc_noReqs hreqs, closed_sansHostWork]

/-! ### PERST_N (R386, R402) -/

/-- The state once PERST_N is low, from one whose functions are closed. -/
def linkReset (s : State) : State :=
  { s with
    hif := Hif.reset, sel := s.sel.filter fun e => !hostAccessor e.1
    sta := { s.sta with boot := { s.sta.boot with perstN := false } } }

theorem exec_pcieFundamentalReset (s : State) : exec .pcieFundamentalReset s = .next (linkReset (allFuncs.foldl closeFunc s)) := rfl

theorem linkReset_sel (s : State) : ∀ e ∈ (linkReset s).sel, hostAccessor e.1 = false := by
  intro e he
  simpa using (List.mem_filter.1 he).2

/-- Where there is nothing to close, the reset of a function changes HIF alone. -/
def sansHif (s : State) : State := { s with hif := Hif.reset }

theorem closeFunc_idle {s : State} (hreqs : s.reqs = []) (hsqs : s.te.sqs = []) (hrqs : s.te.rqs = []) (f : Nat) :
    sansHif (closeFunc s f) = sansHif s := by
  have hnoSqs : closeSqs s f = s := by rw [closeSqs, hsqs]; rfl
  have hnoRqs : closeRqs s f = s := by rw [closeRqs, hrqs]; rfl
  rw [closeFunc_noReqs hreqs, hnoSqs, hnoRqs]
  exact foldl_keeps sansHif dropCtx (fun _ _ => rfl) _ _

theorem closeFuncs_idle {s : State} (hreqs : s.reqs = []) (hsqs : s.te.sqs = []) (hrqs : s.te.rqs = []) (fs : List Nat) :
    sansHif (fs.foldl closeFunc s) = sansHif s := by
  induction fs generalizing s with
  | nil => rfl
  | cons f fs ih =>
    have hone := closeFunc_idle hreqs hsqs hrqs f
    have hreqs' : (closeFunc s f).reqs = [] := (congrArg State.reqs hone :).trans hreqs
    have hte : (closeFunc s f).te = s.te := (congrArg State.te hone :)
    rw [List.foldl_cons, ih hreqs' (by rw [hte, hsqs]) (by rw [hte, hrqs]), hone]

theorem linkReset_sansHif (s : State) : linkReset (sansHif s) = linkReset s := rfl

/-! ### The link (R374, R387) -/

section
variable {s : State} {w : Byte} {sp : BitVec 4} {fl : Bool}

/-- The state without what goes out to the host and Track's queues: what sending what waited leaves. -/
def sansPosts (s : State) : State := { s with out := [], te := State.reset.te, hif := { s.hif with ctxs := [] } }

theorem pumpCpl_sansPosts (s : State) (t : Tenant) : sansPosts (pumpCpl s t) = sansPosts s := by
  obtain ⟨o, c, h⟩ := pumpCpl_frame s t
  rw [h]
  rfl

theorem pumpTrackCpl_sansPosts (s : State) (q : Nat) : sansPosts (pumpTrackCpl s q) = sansPosts s := by
  unfold pumpTrackCpl
  split
  · rfl
  · split
    · dsimp only
      split
      · rfl
      · next x _ _ _ =>
        obtain ⟨o, h⟩ := msix_frame (emitAll (putSq s q (flushTrack x x.heldCpl).2) (flushTrack x x.heldCpl).1) x.func.val x.vector
        rw [h]
        rfl
    · rfl

theorem pumpHost_sansPosts (s : State) : sansPosts (pumpHost s) = sansPosts s := by
  unfold pumpHost
  exact (foldl_keeps sansPosts _ (fun s e => pumpTrackCpl_sansPosts s _) _ _).trans
    (foldl_keeps sansPosts _ (fun s e => pumpCpl_sansPosts s _) _ _)

/-- The link has come up. -/
def linkRaised (s : State) (w : Byte) (sp : BitVec 4) (fl : Bool) : State :=
  { s with hif := { s.hif with linkUp := true, width := w, speed := sp, flit := fl, training := false } }

theorem exec_pcieLinkUp_legal (htraining : s.hif.training = true) (hfatal : s.glb.fatal = false) (hlegal : linkOk w sp fl = true) :
    exec (.pcieLinkUp w sp fl) s = .next (pumpHost (linkRaised s w sp fl)) := by
  change execPcieLinkUp w sp fl s = _
  rw [execPcieLinkUp, htraining, hfatal, hlegal]
  rfl

theorem exec_pcieLinkUp_fatal (hfatal : s.glb.fatal = true) : exec (.pcieLinkUp w sp fl) s = .next s := by
  change execPcieLinkUp w sp fl s = _
  rw [execPcieLinkUp, hfatal]
  simp

theorem exec_pcieLinkDownAfterFatal_up (hfatal : s.glb.fatal = true) (hup : s.hif.linkUp = true) :
    exec .pcieLinkDownAfterFatal s = .next (linkDetect s) := by
  change execPcieLinkDownAfterFatal s = _
  rw [execPcieLinkDownAfterFatal, hfatal, hup]
  rfl

theorem exec_pcieConfigRequest_up {f : Func} (hup : s.hif.linkUp = true) : exec (.pcieConfigRequest f) s =
    .next (emit s (if s.sta.boot.imageChecked && s.coach.phase != .booting then .configServed f else .configRetry f)) := by
  change execPcieConfigRequest f s = _
  rw [execPcieConfigRequest, hup]
  exact congrArg Host.Outcome.next (apply_ite (emit s) _ _ _).symm

end

/-- Settles O24: without requests the reset of a function is three walks that erase what it owns; a link that comes up sends what
waited, which leaves the link, the memories, the requests and the lanes. Which widths and rates are legal is the model's choice
(log 40). -/
theorem hostLink : Obligations.HostLink := by
  intro s
  refine ⟨?idle, ?perst, ?release, ?linkUp, fun _ _ _ => exec_pcieLinkUp_fatal, exec_pcieLinkDownAfterFatal_up,
    fun _ => exec_pcieConfigRequest_up, fun f => ?flr⟩
  case idle =>
    intro hreqs hsqs hrqs
    rw [exec_pcieFundamentalReset, ← linkReset_sansHif, closeFuncs_idle hreqs hsqs hrqs]
    rfl
  case perst => exact ⟨_, exec_pcieFundamentalReset s, rfl, rfl, linkReset_sel _⟩
  case release => exact ⟨_, rfl, rfl, rfl, rfl⟩
  case linkUp =>
    intro w sp fl htraining hfatal hlegal
    have hsent := pumpHost_sansPosts (linkRaised s w sp fl)
    exact ⟨_, exec_pcieLinkUp_legal htraining hfatal hlegal, (congrArg (fun u => u.hif.linkUp) hsent :),
      (congrArg (fun u => u.hif.width) hsent :), (congrArg (fun u => u.hif.speed) hsent :), (congrArg (fun u => u.hif.flit) hsent :),
      (congrArg (fun u => u.hif.training) hsent :), (congrArg State.mem hsent :), (congrArg State.reqs hsent :),
      (congrArg State.lanes hsent :)⟩
  case flr =>
    refine ⟨_, rfl, fun e he => ?_, fun hreqs => ?_⟩
    · simpa using (List.mem_filter.1 he).2
    · have hkept := closeFunc_sansHostWork hreqs f.val
      obtain ⟨hctxs, hsqs, hrqs⟩ := closeFunc_gone hreqs f
      exact ⟨hctxs, hsqs, hrqs, (congrArg State.mem hkept :), (congrArg State.lanes hkept :), (congrArg State.mpl hkept :),
        (congrArg State.btn hkept :)⟩

end Sys2Proof.Machine
end

section

/-!
PROOFS. Every step keeps every memory of the block canonical. Most functions of the model leave the memories and the images of
operand SRAM that the lanes have saved as they were (`f_mems`); the others put in their place an image that `Memory` keeps
canonical (`f_fine`). Each is said once, in the order of the model's files; a command's own lemma (`f_answersFine`) follows from those
of the functions that it calls.
-/

namespace Sys2Proof.Machine

open Sys2Proof


/-- The images of operand SRAM that each lane has saved. -/
def saves (v : Vector Lane 12) (n : LaneNo) : Tbl Mem := (v.get n).sramSave

/-- `MemsOk`, of the memories and the saved images alone. -/
def Canonical (m : Mems) (v : LaneNo → Tbl Mem) : Prop :=
  (∀ n, Memory.wf (m.stack.get n) = true) ∧ Memory.wf m.xz = true ∧ Memory.wf m.ctl = true ∧
  (∀ p, Memory.wf (m.cap.get p) = true) ∧ Memory.wf m.data = true ∧ Memory.wf m.sram = true ∧ ∀ l, ∀ e ∈ v l, Memory.wf e.2 = true

/-- Every memory of the state is canonical: `MemsOk`, in the form that `simp` rewrites. -/
@[simp] abbrev Fine (s : State) : Prop := Canonical s.mem (saves s.lanes)

/-- Two states have the same memories and saved images. -/
@[simp] abbrev SameMems (s t : State) : Prop := t.mem = s.mem ∧ saves t.lanes = saves s.lanes

/-- A command's answer, where it is a next state, has canonical memories. -/
def AnswersFine (r : Res) : Prop := ∀ t, r = .next t → Fine t

@[simp] theorem answersFine_next (t : State) : AnswersFine (.next t) ↔ Fine t := by
  simp [AnswersFine]

@[simp] theorem canonical_ite_both (c : Prop) [Decidable c] (m k : Mems) (v w : LaneNo → Tbl Mem) :
    Canonical (if c then m else k) (if c then v else w) = if c then Canonical m v else Canonical k w := by
  split <;> rfl

theorem canonical_ite (c : Prop) [Decidable c] (m k : Mems) (v : LaneNo → Tbl Mem) :
    Canonical (if c then m else k) v = if c then Canonical m v else Canonical k v :=
  apply_ite (fun m => Canonical m v) ..

theorem memsOk_iff_fine (s : State) : MemsOk s ↔ Fine s := Iff.rfl

theorem sameMems_of_sansTransport {s t : State} (h : sansTransport t = sansTransport s) : SameMems s t :=
  ⟨(congrArg State.mem h :), (congrArg (fun u => saves u.lanes) h :)⟩

@[simp] theorem ite_mem (c : Prop) [Decidable c] (s t : State) : (if c then s else t).mem = if c then s.mem else t.mem :=
  apply_ite ..

@[simp] theorem saves_ite_lanes (c : Prop) [Decidable c] (s t : State) :
    saves (if c then s else t).lanes = if c then saves s.lanes else saves t.lanes :=
  apply_ite (fun u : State => saves u.lanes) ..

@[simp] theorem foldl_mems {α : Type} (f : State → α → State) (xs : List α) (s : State) (hmem : ∀ s x, (f s x).mem = s.mem)
    (hsaves : ∀ s x, saves (f s x).lanes = saves s.lanes) : SameMems s (xs.foldl f s) :=
  ⟨foldl_keeps State.mem f hmem xs s, foldl_keeps (fun s => saves s.lanes) f hsaves xs s⟩

theorem foldl_fine {α : Type} (f : State → α → State) (h : ∀ s x, Fine s → Fine (f s x)) (xs : List α) {s : State} (hs : Fine s) :
    Fine (xs.foldl f s) := by
  induction xs generalizing s with
  | nil => exact hs
  | cons x xs ih => exact ih (h s x hs)

theorem foldl_fst_fine {α β : Type} (f : State × β → α → State × β) (h : ∀ y x, Fine y.1 → Fine (f y x).1) (xs : List α)
    {y : State × β} (hy : Fine y.1) : Fine (xs.foldl f y).1 := by
  induction xs generalizing y with
  | nil => exact hy
  | cons x xs ih => exact ih (h y x hy)

theorem saves_vset {v : Vector Lane 12} {n : LaneNo} {l : Lane} (h : l.sramSave = (v.get n).sramSave) :
    saves (vset v n l) = saves v := by
  funext k
  by_cases hk : k = n
  · rw [hk, saves, saves, vset_get_self, h]
  · rw [saves, saves, vset_get_ne _ _ _ _ hk]

@[simp] theorem setLane_mems (s : State) (n : LaneNo) (l : Lane) (h : l.sramSave = (laneOf s n).sramSave) :
    SameMems s (setLane s n l) :=
  ⟨rfl, saves_vset h⟩

@[simp] theorem modLane_mems (s : State) (n : LaneNo) (f : Lane → Lane) (h : (f (laneOf s n)).sramSave = (laneOf s n).sramSave) :
    SameMems s (modLane s n f) :=
  ⟨rfl, saves_vset h⟩

/-! ### One memory of a canonical state -/

section
variable {m : Mems} {v : LaneNo → Tbl Mem}

theorem Canonical.stack (h : Canonical m v) (n : LaneNo) : Memory.wf (m.stack.get n) = true := h.1 n
theorem Canonical.xz (h : Canonical m v) : Memory.wf m.xz = true := h.2.1
theorem Canonical.ctl (h : Canonical m v) : Memory.wf m.ctl = true := h.2.2.1
theorem Canonical.cap (h : Canonical m v) (p : Fin 4) : Memory.wf (m.cap.get p) = true := h.2.2.2.1 p
theorem Canonical.data (h : Canonical m v) : Memory.wf m.data = true := h.2.2.2.2.1
theorem Canonical.sram (h : Canonical m v) : Memory.wf m.sram = true := h.2.2.2.2.2.1
theorem Canonical.saved (h : Canonical m v) (l : LaneNo) : ∀ e ∈ v l, Memory.wf e.2 = true := h.2.2.2.2.2.2 l

theorem vset_wf {k : Nat} {ms : Vector Mem k} (h : ∀ i,
    Memory.wf (ms.get i) = true) (i : Fin k) {x : Mem} (hx : Memory.wf x = true)
    (j : Fin k) : Memory.wf ((vset ms i x).get j) = true := by
  by_cases hj : j = i
  · rw [hj, vset_get_self, hx]
  · rw [vset_get_ne _ _ _ _ hj, h]

theorem Canonical.withStack (h : Canonical m v) (n : LaneNo) {x : Mem} (hx : Memory.wf x = true) :
    Canonical { m with stack := vset m.stack n x } v :=
  ⟨vset_wf h.stack n hx, h.xz, h.ctl, h.cap, h.data, h.sram, h.saved⟩

theorem Canonical.withCap (h : Canonical m v) (p : Fin 4) {x : Mem} (hx : Memory.wf x = true) :
    Canonical { m with cap := vset m.cap p x } v :=
  ⟨h.stack, h.xz, h.ctl, vset_wf h.cap p hx, h.data, h.sram, h.saved⟩

theorem Canonical.withXz (h : Canonical m v) {x : Mem} (hx : Memory.wf x = true) : Canonical { m with xz := x } v :=
  ⟨h.stack, hx, h.ctl, h.cap, h.data, h.sram, h.saved⟩

theorem Canonical.withData (h : Canonical m v) {x : Mem} (hx : Memory.wf x = true) : Canonical { m with data := x } v :=
  ⟨h.stack, h.xz, h.ctl, h.cap, hx, h.sram, h.saved⟩

theorem Canonical.withSram (h : Canonical m v) {x : Mem} (hx : Memory.wf x = true) : Canonical { m with sram := x } v :=
  ⟨h.stack, h.xz, h.ctl, h.cap, h.data, hx, h.saved⟩

end

@[simp] theorem clearStaged_lanes (s : State) (i : Nat) : (clearStaged s i).lanes = s.lanes := (rfl)

section
variable {v : LaneNo → Tbl Mem} {s : State}

@[simp] theorem setStack_fine (n : LaneNo) {x : Mem} (hx : Memory.wf x = true) (h : Canonical s.mem v) :
    Canonical (setStack s n x).mem v :=
  h.withStack n hx

@[simp] theorem Canonical.stored {m : Mems} (a : Nat) (bs : List Byte) (h : Canonical m v) :
    Canonical { m with data := memStore m.data a bs } v :=
  h.withData (memStore_wf bs _ a h.data)

@[simp] theorem sramWrite_fine (n : LaneNo) (pos a : Nat) (bs : List Byte) (h : Canonical s.mem v) :
    Canonical (sramWrite s n pos a bs).mem v :=
  h.withSram (sramWrite_wf n pos a bs h.sram)

@[simp] theorem setLaneSram_fine (n : LaneNo) (img : Mem) (h : Canonical s.mem v) : Canonical (setLaneSram s n img).mem v :=
  h.withSram (setLaneSram_wf n img h.sram)

@[simp] theorem clearStaged_fine (i : Nat) (h : Canonical s.mem v) : Canonical (clearStaged s i).mem v :=
  h.withXz (filter_wf _ h.xz)

end

/-! ### The images that a lane has saved -/

theorem Canonical.withSaves {m : Mems} {v w : LaneNo → Tbl Mem} (h : Canonical m v) (hw : ∀ l, ∀ e ∈ w l, Memory.wf e.2 = true) :
    Canonical m w :=
  ⟨h.stack, h.xz, h.ctl, h.cap, h.data, h.sram, hw⟩

@[simp] theorem Canonical.setLane {m : Mems} {s : State} (n : LaneNo) (l : Lane) (hl : ∀ e ∈ l.sramSave, Memory.wf e.2 = true)
    (hs : Canonical m (saves s.lanes)) : Canonical m (saves (setLane s n l).lanes) := by
  refine hs.withSaves fun k => ?_
  by_cases hk : k = n
  · simpa [hk, saves, Machine.setLane] using hl
  · simpa [saves, Machine.setLane, vset_get_ne _ _ _ _ hk] using hs.saved k

@[simp] theorem Canonical.modLane {m : Mems} {s : State} (n : LaneNo) (f : Lane → Lane)
    (hl : ∀ e ∈ (f (laneOf s n)).sramSave, Memory.wf e.2 = true) (hs : Canonical m (saves s.lanes)) :
    Canonical m (saves (modLane s n f).lanes) :=
  hs.setLane n _ hl

theorem mem_tblSet {t : Tbl Mem} {k : Nat} {x : Mem} {e : Nat × Mem} (he : e ∈ tblSet t k x) : e ∈ t ∨ e = (k, x) := by
  fun_induction tblSet t k x <;> grind

theorem foldl_wf {α : Type} (f : Mem → α → Mem) (h : ∀ m x, Memory.wf m = true → Memory.wf (f m x) = true) (xs : List α) {m : Mem}
    (hm : Memory.wf m = true) : Memory.wf (xs.foldl f m) = true := by
  induction xs generalizing m with
  | nil => exact hm
  | cons x xs ih => exact ih (h m x hm)

theorem foldl_fst_wf {α β : Type} (f : Mem × β → α → Mem × β) (h : ∀ y x,
    Memory.wf y.1 = true → Memory.wf (f y x).1 = true) (xs : List α)
    {y : Mem × β} (hy : Memory.wf y.1 = true) : Memory.wf (xs.foldl f y).1 = true := by
  induction xs generalizing y with
  | nil => exact hy
  | cons x xs ih => exact ih (h y x hy)

@[simp] theorem saves_vmap (v : Vector Lane 12) (f : Lane → Lane) (h : ∀ l, (f l).sramSave = l.sramSave) :
    saves (vmap v f) = saves v := by
  funext n
  simp [saves, h]

@[simp] theorem ite_sramSave (c : Prop) [Decidable c] (l k : Lane) :
    (if c then l else k).sramSave = if c then l.sramSave else k.sramSave :=
  apply_ite ..

@[simp] theorem stopLane_sramSave (l : Lane) : (stopLane l).sramSave = l.sramSave := by unfold stopLane; split <;> rfl
@[simp] theorem swapCopies_sramSave (l : Lane) (t : LapTable) : (swapCopies l t).sramSave = l.sramSave := (rfl)
@[simp] theorem setSlot_sramSave (l : Lane) (i : Nat) (f : SlotRun → SlotRun) : (setSlot l i f).sramSave = l.sramSave := (rfl)
@[simp] theorem laneStart_sramSave (n : LaneNo) (l : Lane) : (laneStart n l).sramSave = [] := (rfl)
@[simp] theorem unbuiltLane_sramSave (n : LaneNo) (l : Lane) (x : Option LaneSec) (b : Build) :
    (unbuiltLane n l x b).sramSave = [] :=
  (rfl)

@[simp] theorem streamStarts_sramSave (l : Lane) (i : Nat) : (streamStarts l i).sramSave = l.sramSave := (rfl)
@[simp] theorem softOverrun_sramSave (l : Lane) (i k : Nat) : (softOverrun l i k).sramSave = l.sramSave := (rfl)

@[simp] theorem completeSlot_sramSave (l : Lane) (i : Nat) : (completeSlot l i).sramSave = l.sramSave := by
  unfold completeSlot
  dsimp only
  split <;> rfl

@[simp] theorem halfFills_sramSave (l : Lane) : (halfFills l).sramSave = l.sramSave := by
  unfold halfFills
  dsimp only
  split <;> rfl

/-! ### Images written in parts -/

theorem sealImage_wf {m : ModelSec} {l : Lane} {e : PageEnt} {k : Nat} {basis : List (List (List F32))} {mem : Mem}
    (h : Memory.wf mem = true) : Memory.wf (sealImage m l e k basis mem).1 = true :=
  foldl_fst_wf _ (fun _ _ h => storeImage_wf _ _ _ _ h) _ h

theorem spillEnts_wf (s : State) (r : Req) (m : ModelSec) (S a : Nat) (mem : Mem) (es : List PageEnt) (h : Memory.wf mem = true) :
    Memory.wf (spillEnts s r m S a mem es).2.1 = true := by
  induction es generalizing a mem with
  | nil => exact h
  | cons e es ih =>
    unfold spillEnts
    dsimp only
    split
    · exact ih _ _ h
    · exact ih _ _ (memStore_wf _ _ _ h)

/-! ### The operations on parts of the state -/

theorem completeB_mems (s : State) (h op c r b) : SameMems s (completeB s h op c r b) := by simp
theorem dropLeg_mems (s : State) (i) : SameMems s (dropLeg s i) := ⟨rfl, rfl⟩
theorem modLeg_mems (s : State) (i f) : SameMems s (modLeg s i f) := ⟨rfl, rfl⟩
theorem modPacQ_mems (s : State) (p q f) : SameMems s (modPacQ s p q f) := ⟨rfl, rfl⟩
theorem modReplay_mems (s : State) (b f) : SameMems s (modReplay s b f) := ⟨rfl, rfl⟩
theorem modReq_mems (s : State) (b f) : SameMems s (modReq s b f) := ⟨rfl, rfl⟩
theorem putRx_mems (s : State) (n x) : SameMems s (putRx s n x) := ⟨rfl, rfl⟩
theorem queuePull_mems (s : State) (b c) : SameMems s (queuePull s b c) := ⟨rfl, rfl⟩
theorem setCtr_mems (s : State) (c v) : SameMems s (setCtr s c v) := ⟨rfl, rfl⟩
theorem setCtx_mems (s : State) (t c) : SameMems s (setCtx s t c) := ⟨rfl, rfl⟩
theorem stpTake_mems (s : State) (n) : SameMems s (stpTake s n) := ⟨rfl, rfl⟩

@[simp] theorem placeData_fine (s : State) (a bs) (hs : Fine s) : Fine (placeData s a bs) := Canonical.stored a bs hs

/-! ### Machine/Ops -/

@[simp] theorem raiseArith_mems (s n fl) : SameMems s (raiseArith s n fl) := by simp [raiseArith]
@[simp] theorem deliverCpl_mems (s x) : SameMems s (deliverCpl s x) := by simp [deliverCpl]
@[simp] theorem completeAll_mems (s hs op code) : SameMems s (completeAll s hs op code) := by simp [completeAll]

@[simp] theorem hostCmd_fine (s h op pfOnly serve) (hserve : ∀ u, Fine u → Fine (serve u)) (hs : Fine s) :
    Fine (hostCmd s h op pfOnly serve) := by
  unfold hostCmd
  dsimp only
  (repeat' split) <;> first | simpa using hs | exact hserve _ hs

theorem hostCmd_answersFine {s : State} {h : HostHdr} {op : Byte} {pf : Bool} {serve : State → State}
    (hserve : ∀ u, Fine u → Fine (serve u)) (hs : Fine s) : AnswersFine (.next (hostCmd s h op pf serve)) :=
  (answersFine_next _).2 (hostCmd_fine _ _ _ _ _ hserve hs)

@[simp] theorem drivePin_mems (s p low) : SameMems s (drivePin s p low) := ⟨rfl, rfl⟩

/-! ### Machine/Wire -/

@[simp] theorem pumpLoose_mems (s) : SameMems s (pumpLoose s) := sameMems_of_sansTransport (pumpLoose_sansTransport ..)

@[simp] theorem sendLoose_mems (s port f) : SameMems s (sendLoose s port f) :=
  sameMems_of_sansTransport (sendLoose_sansTransport ..)

@[simp] theorem countRetx_mems (s) : SameMems s (countRetx s) := ⟨rfl, rfl⟩
@[simp] theorem countPf_mems (s) : SameMems s (countPf s) := ⟨rfl, rfl⟩
@[simp] theorem pumpSq_mems (s q n) : SameMems s (pumpSq s q n) := sameMems_of_sansTransport (pumpSq_sansTransport ..)

@[simp] theorem resendWaiting_mems (s d leg) : SameMems s (resendWaiting s d leg) :=
  sameMems_of_sansTransport (resendWaiting_sansTransport ..)

@[simp] theorem formAll_mems (s d leg n) : SameMems s (formAll s d leg n) :=
  sameMems_of_sansTransport (formAll_sansTransport ..)

@[simp] theorem pumpSys_mems (s d leg n) : SameMems s (pumpSys s d leg n) :=
  sameMems_of_sansTransport (pumpSys_sansTransport ..)

@[simp] theorem sysGive_mems (s f) : SameMems s (sysGive s f) := sameMems_of_sansTransport (sysGive_sansTransport ..)

@[simp] theorem sysSendF_mems (s dst op flags aux addr payload) : SameMems s (sysSendF s dst op flags aux addr payload) :=
  sameMems_of_sansTransport (sysSendF_sansTransport ..)

@[simp] theorem closeSysTx_mems (s d) : SameMems s (closeSysTx s d) :=
  sameMems_of_sansTransport (closeSysTx_sansTransport ..)

@[simp] theorem sysSend_mems (s dst op aux addr payload) : SameMems s (sysSend s dst op aux addr payload) :=
  sameMems_of_sansTransport (sysSend_sansTransport ..)

@[simp] theorem pumpAll_mems (s) : SameMems s (pumpAll s) := sameMems_of_sansTransport (pumpAll_sansTransport ..)

/-! ### Machine/MarLog -/

@[simp] theorem marSend_mems (s dst m entry) : SameMems s (marSend s dst m entry) := by simp [marSend]

@[simp] theorem marLog_mems (s ev lane subject core detail) : SameMems s (marLog s ev lane subject core detail) := by
  simp [marLog]

@[simp] theorem fatalError_mems (s) : SameMems s (fatalError s) := by simp [fatalError]
@[simp] theorem reportFreeRun_mems (s) : SameMems s (reportFreeRun s) := by simp [reportFreeRun]
@[simp] theorem setSource_mems (s src) : SameMems s (setSource s src) := by simp [setSource]

/-! ### Machine/BibOps -/

@[simp] theorem endBatch_mems (s b code failing) : SameMems s (endBatch s b code failing) := by simp [endBatch]

@[simp] theorem bibBoundary_mems (s) : SameMems s (bibBoundary s) := by
  unfold bibBoundary
  dsimp only
  (repeat' split) <;> simp

@[simp] theorem lookupCpl_mems (s h gen code hit pos addr result) : SameMems s (lookupCpl s h gen code hit pos addr result) := by
  simp [lookupCpl]

@[simp] theorem ringDropped_mems (s) : SameMems s (ringDropped s) := ⟨rfl, rfl⟩
@[simp] theorem dropHeld_mems (s) : SameMems s (dropHeld s) := by unfold dropHeld; split <;> simp
@[simp] theorem pumpRing_mems (s) : SameMems s (pumpRing s) := by unfold pumpRing; dsimp only; (repeat' split) <;> simp
@[simp] theorem cascade_mems (s q p i) : SameMems s (cascade s q p i) := by simp [cascade]
@[simp] theorem lookup_mems (s q) : SameMems s (lookup s q).2 := by unfold lookup; (repeat' split) <;> simp

@[simp] theorem answerLookup_mems (s h gen r) : SameMems s (answerLookup s h gen r) := by
  unfold answerLookup
  split <;> simp

@[simp] theorem forwardPacket_mems (s p) : SameMems s (forwardPacket s p) := by simp [forwardPacket]

@[simp] theorem bibReset_mems (s) : SameMems s (bibReset s) := by
  unfold bibReset
  grind [foldl_mems, completeB_mems, answerLookup_mems]
/-! ### Machine/Bib -/

@[simp] theorem execBibUpdate_answersFine (h part records s) (hs : Fine s) : AnswersFine (execBibUpdate h part records s) := by
  refine hostCmd_answersFine (fun s hs => ?_) hs
  dsimp only
  (repeat' split) <;> simp [hs]

@[simp] theorem execBibLookup_answersFine (h part key s) (hs : Fine s) : AnswersFine (execBibLookup h part key s) := by
  refine hostCmd_answersFine (fun s hs => ?_) hs
  (repeat' split) <;> grind [answerLookup_mems, lookup_mems]

@[simp] theorem execBibEngineDone_answersFine (s) (hs : Fine s) : AnswersFine (execBibEngineDone s) := by
  unfold execBibEngineDone
  (repeat' split) <;> simp [hs]

@[simp] theorem execBibBatchLate_answersFine (s) (hs : Fine s) : AnswersFine (execBibBatchLate s) := by
  unfold execBibBatchLate
  split <;> simp [hs]

@[simp] theorem execBibRingHoldDrop_answersFine (s) (hs : Fine s) : AnswersFine (execBibRingHoldDrop s) := by
  simp [hs, execBibRingHoldDrop]

/-! ### Machine/Sram -/

@[simp] theorem putDst_fine (s n d bs) (hs : Fine s) : Fine (putDst s n d bs) := sramWrite_fine _ _ _ _ hs
@[simp] theorem withFlags_mems {α : Type} (s n) (x : Fx α) : SameMems s (withFlags s n x).2 := by simp [withFlags]
@[simp] theorem putFx_fine (s n d x) (hs : Fine s) : Fine (putFx s n d x) := by simp [hs, putFx]

/-! ### Machine/Kv -/

@[simp] theorem freeSlot_mems (s n k) : SameMems s (freeSlot s n k) := by
  unfold freeSlot
  exact modLane_mems _ _ _ (by split <;> rfl)

@[simp] theorem freeSlots_mems (s n ks) : SameMems s (freeSlots s n ks) := by simp [freeSlots]
@[simp] theorem freeCell_mems (s n k) : SameMems s (freeCell s n k) := by
  unfold freeCell
  exact modLane_mems _ _ _ (by split <;> rfl)

@[simp] theorem freeEnt_mems (s n e) : SameMems s (freeEnt s n e) := by simp [freeEnt]
@[simp] theorem countReclaim_mems (s n) : SameMems s (countReclaim s n) := by simp [countReclaim]

theorem reclaim_mems (s n t) {u} (h : reclaim s n t = some u) : SameMems s u := by
  simp only [reclaim] at h
  split at h <;> cases h <;> simp

theorem takeFreeSlot_mems (s n t) {a' u} (h : takeFreeSlot s n t = some (a', u)) : SameMems s u := by
  simp only [takeFreeSlot] at h
  (repeat' split at h) <;> cases h <;> simp

@[simp] theorem takeOrReclaim_mems (n s k t) : SameMems s (takeOrReclaim n s k t).1 := by
  fun_induction takeOrReclaim n s k t <;> grind [takeFreeSlot_mems, reclaim_mems]

@[simp] theorem takeSlot_mems (s n t) : SameMems s (takeSlot s n t).1 := by unfold takeSlot; split <;> simp

@[simp] theorem takeSlots_mems (s n t m) : SameMems s (takeSlots s n t m).1 := by
  fun_induction takeSlots s n t m <;> grind [takeSlot_mems]

theorem openEntry_mems (s mk) {a' u} (h : openEntry s mk = some (a', u)) : SameMems s u := by
  simp only [openEntry] at h
  split at h <;> cases h
  simp

@[simp] theorem dropStaleFetches_mems (s b) : SameMems s (dropStaleFetches s b) := ⟨rfl, rfl⟩

@[simp] theorem meetNeed_mems (s n b m x) : SameMems s (meetNeed s n b m x).1 := by
  unfold meetNeed
  grind [foldl_mems, takeSlot_mems, openEntry_mems, modReq_mems, freeSlot_mems, modLane_mems, takeSlots_mems,
    freeSlots_mems]

@[simp] theorem meetNeeds_mems (s n b m xs) : SameMems s (meetNeeds s n b m xs).1 := by
  fun_induction meetNeeds s n b m xs <;> grind [meetNeed_mems]

@[simp] theorem modWork_mems (s n b f) : SameMems s (modWork s n b f) := by unfold modWork; split <;> simp

@[simp] theorem undoNeeds_mems (s n b before) : SameMems s (undoNeeds s n b before) := by
  unfold undoNeeds
  split <;> simp

@[simp] theorem missReq_mems (s b c) : SameMems s (missReq s b c) := ⟨rfl, rfl⟩
@[simp] theorem holdReq_mems (s n b c) : SameMems s (holdReq s n b c) := by simp [holdReq]

@[simp] theorem serveSeq_mems (s n b work) : SameMems s (serveSeq s n b work) := by
  unfold serveSeq
  dsimp only
  (repeat' split) <;> simp

@[simp] theorem storeProbe_fine (s n m r) (hs : Fine s) : Fine (storeProbe s n m r) :=
  setStack_fine _ (foldl_wf _ (fun _ _ h => storeImage_wf _ _ _ _ h) _ (hs.stack n)) hs

@[simp] theorem commitPages_fine (s n b) (hs : Fine s) : Fine (commitPages s n b) := by
  unfold commitPages
  (repeat' split) <;> simp [hs]

@[simp] theorem discardPages_mems (s n b) : SameMems s (discardPages s n b) := by unfold discardPages; split <;> simp
@[simp] theorem freeHbm_mems (s b) : SameMems s (freeHbm s b) := by unfold freeHbm; (repeat' split) <;> simp
@[simp] theorem freeTier_mems (s b) : SameMems s (freeTier s b) := by unfold freeTier; (repeat' split) <;> simp
@[simp] theorem freePages_mems (s b) : SameMems s (freePages s b) := by simp [freePages]

@[simp] theorem startFetches_mems (s n b) : SameMems s (startFetches s n b) := by
  unfold startFetches
  (repeat' split) <;> simp

@[simp] theorem capTake_mems (s p bytes) : SameMems s (capTake s p bytes).2 := ⟨rfl, rfl⟩

/-! ### Machine/Streams -/

@[simp] theorem sendEntries_mems (s st xs irq) : SameMems s (sendEntries s st xs irq) := by simp [sendEntries]

@[simp] theorem ringTaken_mems (s serve payload) : SameMems s (ringTaken s serve payload) := by
  unfold ringTaken
  dsimp only
  split <;> simp

@[simp] theorem readCons_mems (s st) : SameMems s (readCons s st).2 := by unfold readCons; split <;> simp

@[simp] theorem flushRing_mems (s b) : SameMems s (flushRing s b) := by
  unfold flushRing
  dsimp only
  (repeat' split) <;> simp

@[simp] theorem flushRings_mems (s) : SameMems s (flushRings s) := by simp [flushRings]
@[simp] theorem pushNotice_mems (s b code) : SameMems s (pushNotice s b code) := ⟨rfl, rfl⟩
@[simp] theorem setSrgTenant_mems (s t x) : SameMems s (setSrgTenant s t x) := ⟨rfl, rfl⟩
@[simp] theorem recordTtft_mems (s t target us) : SameMems s (recordTtft s t target us) := by simp [recordTtft]
@[simp] theorem recordTbt_mems (s t target us) : SameMems s (recordTbt s t target us) := by simp [recordTbt]

@[simp] theorem streamToken_mems (s b tok pos) : SameMems s (streamToken s b tok pos) := by
  unfold streamToken
  split <;> simp

@[simp] theorem finalCpl_mems (s r code reason pos) : SameMems s (finalCpl s r code reason pos) := by simp [finalCpl]
@[simp] theorem streamResume_mems (s b ring) : SameMems s (streamResume s b ring) := ⟨rfl, rfl⟩

/-! ### Machine/ReqOps -/

@[simp] theorem unqueue_mems (s b) : SameMems s (unqueue s b) := by unfold unqueue; (repeat' split) <;> simp
@[simp] theorem dirChange_mems (s n add b) : SameMems s (dirChange s n add b) := by simp [dirChange]

@[simp] theorem endRequest_mems (s b reason pattern) : SameMems s (endRequest s b reason pattern) := by
  unfold endRequest
  split <;> simp

@[simp] theorem completeCmd_mems (s b op h code) : SameMems s (completeCmd s b op h code) := by simp [completeCmd]
@[simp] theorem completeEach_mems (s b xs code) : SameMems s (completeEach s b xs code) := by simp [completeEach]
@[simp] theorem endCmds_mems (s b code) : SameMems s (endCmds s b code) := by unfold endCmds; split <;> simp
@[simp] theorem ungrant_mems (s n a b) : SameMems s (ungrant s n a b) := ⟨rfl, rfl⟩

@[simp] theorem dropReplayLegs_mems (s b) : SameMems s (dropReplayLegs s b) := by
  unfold dropReplayLegs
  grind [foldl_mems, ungrant_mems, dropLeg_mems]

@[simp] theorem endAudit_mems (s b code) : SameMems s (endAudit s b code) := by
  unfold endAudit
  (repeat' split) <;> simp

@[simp] theorem bumpSlot_mems (s b) : SameMems s (bumpSlot s b) := by simp [bumpSlot]
@[simp] theorem freeReq_mems (s b rest) : SameMems s (freeReq s b rest) := by unfold freeReq; (repeat' split) <;> simp
@[simp] theorem abortReq_mems (s b code) : SameMems s (abortReq s b code) := by unfold abortReq; split <;> simp
@[simp] theorem scrub_mems (s b) : SameMems s (scrub s b) := by unfold scrub; split <;> simp
@[simp] theorem setPhase_mems (s b p) : SameMems s (setPhase s b p) := ⟨rfl, rfl⟩

/-! ### Machine/LegOps -/

@[simp] theorem allocItem_mems (s n m it) : SameMems s (allocItem s n m it).1 := by
  unfold allocItem
  dsimp only
  (repeat' split) <;> simp

@[simp] theorem freeItem_mems (s n it ks) : SameMems s (freeItem s n it ks) := by simp [freeItem]

@[simp] theorem allocEach_mems (s n m xs) : SameMems s (allocEach s n m xs).1 := by
  fun_induction allocEach s n m xs <;> grind [allocItem_mems, freeItem_mems]

@[simp] theorem allocItems_mems (s n m its) : SameMems s (allocItems s n m its).1 := by
  unfold allocItems
  dsimp only
  (repeat' split) <;> simp

@[simp] theorem allocTier_mems (s port bytes) : SameMems s (allocTier s port bytes).1 := by
  unfold allocTier
  dsimp only
  (repeat' split) <;> simp

@[simp] theorem freeTierSpace_mems (s t) : SameMems s (freeTierSpace s t) := by unfold freeTierSpace; split <;> simp

@[simp] theorem btnMsg_mems (s dst leg kind ws) : SameMems s (btnMsg s dst leg kind ws) :=
  sameMems_of_sansTransport (btnMsg_sansTransport ..)

@[simp] theorem legMsg_mems (s g kind a b c) : SameMems s (legMsg s g kind a b c) :=
  sameMems_of_sansTransport (legMsg_sansTransport ..)

@[simp] theorem clearControl_mems (s g blocks) : SameMems s (clearControl s g blocks) := by simp [clearControl]
@[simp] theorem clearData_mems (s g pages grans) : SameMems s (clearData s g pages grans) := by simp [clearData]
@[simp] theorem clearAgain_mems (s g part) : SameMems s (clearAgain s g part) := by simp [clearAgain]
@[simp] theorem refuseAsk_mems (s dst entry b code) : SameMems s (refuseAsk s dst entry b code) := by simp [refuseAsk]
@[simp] theorem sendAsk_mems (s dst r) : SameMems s (sendAsk s dst r) := by simp [sendAsk]

@[simp] theorem clearPage_mems (s g k a b) : SameMems s (clearPage s g k a b) :=
  sameMems_of_sansTransport (clearPage_sansTransport ..)

@[simp] theorem clearLeg_mems (n s m) : SameMems s (clearLeg n s m) :=
  sameMems_of_sansTransport (clearLeg_sansTransport ..)

@[simp] theorem testWaiting_mems (s xs ys) : SameMems s (testWaiting s xs ys).1 :=
  sameMems_of_sansTransport (testWaiting_sansTransport ..)

@[simp] theorem retest_mems (s) : SameMems s (retest s) := sameMems_of_sansTransport (retest_sansTransport ..)
@[simp] theorem takeBlocks_mems (s) : SameMems s (takeBlocks s).2 := ⟨rfl, rfl⟩
@[simp] theorem giveBlocks_mems (s i) : SameMems s (giveBlocks s i) := by unfold giveBlocks; split <;> simp
@[simp] theorem regrantBlocks_mems (s) : SameMems s (regrantBlocks s) := by simp [regrantBlocks]
@[simp] theorem freeBlocks_mems (s g) : SameMems s (freeBlocks s g) := by simp [freeBlocks]
@[simp] theorem freeOneBlock_mems (s g) : SameMems s (freeOneBlock s g) := by simp [freeOneBlock]

@[simp] theorem acceptLeg_mems (s a m) : SameMems s (acceptLeg s a m).1 := by
  unfold acceptLeg
  grind [foldl_mems, allocItems_mems, allocTier_mems, freeItem_mems, openEntry_mems, stpTake_mems,
    giveBlocks_mems]

@[simp] theorem checkRest_mems (s b) : SameMems s (checkRest s b) := by unfold checkRest; split <;> simp
@[simp] theorem legPhase_mems (s type b) : SameMems s (legPhase s type b) := by simp [legPhase]

@[simp] theorem openLocal_mems (s type b dst) : SameMems s (openLocal s type b dst).1 := by
  grind [openLocal, checkRest_mems, acceptLeg_mems, dirChange_mems, legPhase_mems, dropStaleFetches_mems,
    unqueue_mems]

@[simp] theorem sourceDone_mems (s i) : SameMems s (sourceDone s i) := ⟨rfl, rfl⟩

@[simp] theorem sendParts_mems (n s m) : SameMems s (sendParts n s m) := by
  fun_induction sendParts n s m <;> grind [sourceDone_mems, sysSendF_mems, modLeg_mems]

@[simp] theorem openRemote_mems (s type b dev dst) : SameMems s (openRemote s type b dev dst).1 := by
  unfold openRemote
  dsimp only
  (repeat' split) <;> grind [openEntry_mems, checkRest_mems, sendAsk_mems, legPhase_mems, dropStaleFetches_mems,
    unqueue_mems]

@[simp] theorem tryTargets_mems (s type b ok xs) : SameMems s (tryTargets s type b ok xs).1 := by
  fun_induction tryTargets s type b ok xs <;> grind [openLocal_mems, openRemote_mems]

@[simp] theorem setTried_mems (s b k) : SameMems s (setTried s b k) := ⟨rfl, rfl⟩
@[simp] theorem tryPark_mems (s b) : SameMems s (tryPark s b) := by unfold tryPark; split <;> simp
@[simp] theorem tryHandoff_mems (s b) : SameMems s (tryHandoff s b) := by unfold tryHandoff; (repeat' split) <;> simp
@[simp] theorem dirDrop_mems (s n b) : SameMems s (dirDrop s n b) := by simp [dirDrop]
@[simp] theorem freeLegSpace_fine (s g) (hs : Fine s) : Fine (freeLegSpace s g) := by simp [hs, freeLegSpace]
@[simp] theorem legCpl_mems (s b code) : SameMems s (legCpl s b code) := by simp [legCpl]
@[simp] theorem takeUp_mems (s b) : SameMems s (takeUp s b) := by unfold takeUp; (repeat' split) <;> simp

@[simp] theorem afterAbort_mems (s g code b) : SameMems s (afterAbort s g code b) := by
  unfold afterAbort
  split <;> simp

@[simp] theorem setPrecopy_mems (s) : SameMems s (setPrecopy s) := by simp [setPrecopy]
@[simp] theorem swapEnd_mems (s) : SameMems s (swapEnd s) := by simp [swapEnd]
@[simp] theorem swapLost_mems (s g code) : SameMems s (swapLost s g code) := by simp [swapLost]
@[simp] theorem endPull_mems (s p code) : SameMems s (endPull s p code) := by simp [endPull]
@[simp] theorem afterRemoteAbort_mems (s g code) : SameMems s (afterRemoteAbort s g code) := by simp [afterRemoteAbort]
@[simp] theorem abortLeg_fine (s g code tell) (hs : Fine s) : Fine (abortLeg s g code tell) := by
  unfold abortLeg
  simp [hs]

@[simp] theorem landIfDone_mems (s i) : SameMems s (landIfDone s i) := ⟨rfl, rfl⟩
@[simp] theorem partsDone_mems (s i) : SameMems s (partsDone s i) := by unfold partsDone; split <;> simp
@[simp] theorem passPart_mems (s g part bs) : SameMems s (passPart s g part bs) := ⟨rfl, rfl⟩
@[simp] theorem failPart_fine (s g part) (hs : Fine s) : Fine (failPart s g part) := by simp [hs, failPart]

@[simp] theorem settleParts_fine (n s m) (hs : Fine s) : Fine (settleParts n s m) := by
  fun_induction settleParts n s m <;> simp_all

@[simp] theorem takeChunk_fine (s g part off last bs) (hs : Fine s) : Fine (takeChunk s g part off last bs) := by
  simp [hs, takeChunk]

@[simp] theorem pageDone_mems (s g k) : SameMems s (pageDone s g k) := by unfold pageDone; split <;> simp
@[simp] theorem queueExt_mems (s n b) : SameMems s (queueExt s n b) := by unfold queueExt; split <;> simp
@[simp] theorem takeLanding_mems (s b) : SameMems s (takeLanding s b) := by unfold takeLanding; (repeat' split) <;> simp
@[simp] theorem commitLocal_mems (s g b) : SameMems s (commitLocal s g b) := by unfold commitLocal; split <;> simp

@[simp] theorem openSpill_mems (s b n tier) : SameMems s (openSpill s b n tier) := by
  grind [openSpill, openEntry_mems, modReq_mems]

@[simp] theorem spillCommit_fine (s b g) (hs : Fine s) : Fine (spillCommit s b g) := by
  have h (p : Fin 4) (r : Req) (m : ModelSec) (a k : Nat) (bss : List (List Byte)) : Memory.wf (bss.foldl
      (fun (acc : Mem × Nat) bs => (memStore acc.1 acc.2 bs, acc.2 + packed bs.length))
      ((spillEnts s r m (slotBytes (laneOf s g.dstLane)) a (s.mem.cap.get p) r.pages).2.1, k)).1 = true :=
    foldl_fst_wf _ (fun y bs h => memStore_wf bs _ y.2 h) bss (spillEnts_wf _ _ _ _ _ _ _ (hs.cap p))
  unfold spillCommit
  (repeat' split) <;> simp [hs, hs.withCap, h]

@[simp] theorem afterLanding_mems (s g b) : SameMems s (afterLanding s g b) := by unfold afterLanding; split <;> simp
@[simp] theorem commitHere_mems (s g) : SameMems s (commitHere s g) := by simp [commitHere]
@[simp] theorem takePull_mems (s b n) : SameMems s (takePull s b n) := by unfold takePull; split <;> simp

@[simp] theorem commitRemote_mems (s g b k) : SameMems s (commitRemote s g b k) := by
  unfold commitRemote
  dsimp only
  split <;> simp

@[simp] theorem commitReplay_mems (s g b) : SameMems s (commitReplay s g b) := ⟨rfl, rfl⟩
@[simp] theorem commitLeg_fine (s g) (hs : Fine s) : Fine (commitLeg s g) := by
  unfold commitLeg
  (repeat' split) <;> simp [hs]

@[simp] theorem commitLegs_fine (s) (hs : Fine s) : Fine (commitLegs s) := by
  unfold commitLegs
  exact foldl_fine _ (fun s g hs => commitLeg_fine s g hs) _ hs

@[simp] theorem openRecall_mems (s b n) : SameMems s (openRecall s b n).1 := by
  unfold openRecall
  dsimp only
  (repeat' split) <;> grind [allocItems_mems, openEntry_mems, setPhase_mems]

@[simp] theorem recallLand_fine (s g b) (hs : Fine s) : Fine (recallLand s g b) := by
  unfold recallLand
  split
  · simpa using hs
  · refine setStack_fine _ (foldl_wf _ (fun mem p h => ?_) _ (hs.stack _)) hs
    split <;> simp [h, storeImage_wf]

@[simp] theorem openReplayLeg_mems (s b) : SameMems s (openReplayLeg s b) := by
  unfold openReplayLeg
  grind [modReplay_mems, openEntry_mems, clearLeg_mems, endAudit_mems]

@[simp] theorem tryResumeLanes_mems (s b xs) : SameMems s (tryResumeLanes s b xs).1 := by
  fun_induction tryResumeLanes s b xs <;> grind [openLocal_mems]

/-! ### Machine/LaneOps -/

@[simp] theorem failQueued_mems (s code b) : SameMems s (failQueued s code b) := by unfold failQueued; split <;> simp
@[simp] theorem failQueues_mems (s n code) : SameMems s (failQueues s n code) := by simp [failQueues]
@[simp] theorem missLap_mems (s n b) : SameMems s (missLap s n b) := by simp [missLap]

@[simp] theorem clearMiss_mems (s bs) : SameMems s (clearMiss s bs) := by
  unfold clearMiss
  grind [foldl_mems, modReq_mems]

@[simp] theorem discardReplays_mems (s n) : SameMems s (discardReplays s n) := ⟨rfl, rfl⟩
@[simp] theorem missAll_mems (s n) : SameMems s (missAll s n) := by simp [missAll]
@[simp] theorem loseLap_mems (s n) : SameMems s (loseLap s n) := by simp [loseLap]
@[simp] theorem enterStopped_mems (s n) : SameMems s (enterStopped s n) := by simp [enterStopped]
@[simp] theorem overrunStop_mems (s n) : SameMems s (overrunStop s n) := by simp [overrunStop]
@[simp] theorem loseShare_mems (s b) : SameMems s (loseShare s b) := by unfold loseShare; split <;> simp
@[simp] theorem loseShares_mems (s n) : SameMems s (loseShares s n) := by simp [loseShares]
@[simp] theorem abortLaneLegs_fine (s n code) (hs : Fine s) : Fine (abortLaneLegs s n code) := by
  unfold abortLaneLegs
  exact foldl_fine _ (fun s g hs => abortLeg_fine s g code true hs) _ hs

@[simp] theorem failLaneCmds_mems (s n code) : SameMems s (failLaneCmds s n code) := by
  unfold failLaneCmds
  dsimp only
  (repeat' split) <;> simp

@[simp] theorem returnSpares_mems (s n) : SameMems s (returnSpares s n) := by simp [returnSpares]

@[simp] theorem retireLane_fine (s n cause stackOpen) (hs : Fine s) : Fine (retireLane s n cause stackOpen) := by
  have hopen (s : State) (hs : Fine s) : Fine (loseShares (abortLaneLegs s n .laneRetired) n) := by
    simpa using abortLaneLegs_fine s n .laneRetired hs
  unfold retireLane
  split
  · split
    · exact hs
    · exact hopen _ (by simpa using hs)
  · extract_lets tested s1 s2 s3 s4 s5 s6
    have h1 : Fine s1 := by simpa [s1] using hs
    have h2 : Fine s2 := by simpa [s2] using h1
    have h3 : Fine s3 := by simpa [s3] using h2
    have h4 : Fine s4 := by simpa [s4] using h3
    have h5 : Fine s5 := by simpa [s5] using h4
    have h6 : Fine s6 := by
      simp only [s6]
      split
      · exact h5
      · exact hopen _ h5
    simpa using h6

@[simp] theorem recordCore_mems (s d core) : SameMems s (recordCore s d core) := ⟨rfl, rfl⟩
@[simp] theorem logCore_mems (s n core spare) : SameMems s (logCore s n core spare) := by simp [logCore]

@[simp] theorem substitute_fine (s n i core) (hs : Fine s) : Fine (substitute s n i core) := by
  unfold substitute
  dsimp only
  split <;> simp [hs]

@[simp] theorem coreFails_fine (s d core) (hs : Fine s) : Fine (coreFails s d core) := by
  unfold coreFails
  dsimp only
  (repeat' split) <;> simp [hs]

@[simp] theorem applySubst_mems (s n) : SameMems s (applySubst s n) := by simp [applySubst]

/-! ### Machine/ReqCmds -/

@[simp] theorem execSubmit_answersFine (h blk s) (hs : Fine s) : AnswersFine (execSubmit h blk s) := by
  refine hostCmd_answersFine (fun s hs => ?_) hs
  dsimp only
  (repeat' split) <;> simp [hs]

@[simp] theorem parkRequest_mems (s b) : SameMems s (parkRequest s b) := by simp [parkRequest]
@[simp] theorem holdRemote_mems (s b r) : SameMems s (holdRemote s b r) := by unfold holdRemote; split <;> simp

@[simp] theorem applyPause_mems (s b r h) : SameMems s (applyPause s b r h) := by
  unfold applyPause
  (repeat' split) <;> simp

@[simp] theorem applyCancel_mems (s b r h) : SameMems s (applyCancel s b r h) := by simp [applyCancel]

@[simp] theorem applyRelease_mems (s b r h) : SameMems s (applyRelease s b r h) := by
  unfold applyRelease
  (repeat' split) <;> simp

@[simp] theorem applyExtend_mems (s b r h tokens since) : SameMems s (applyExtend s b r h tokens since) := by
  unfold applyExtend
  (repeat' split) <;> simp

@[simp] theorem resumeCpl_mems (s b h code) : SameMems s (resumeCpl s b h code) := by simp [resumeCpl]

@[simp] theorem resumeLocal_mems (s b h ring ext) : SameMems s (resumeLocal s b h ring ext) := by
  grind [resumeLocal, scrub_mems, retest_mems, endAudit_mems, resumeCpl_mems, modReq_mems, openRecall_mems,
    tryResumeLanes_mems]

@[simp] theorem resumeFrom_mems (s b h ring ext dev) : SameMems s (resumeFrom s b h ring ext dev) := by
  simp [resumeFrom]

@[simp] theorem resumeFound_mems (s b h ring ext x) : SameMems s (resumeFound s b h ring ext x) := by
  unfold resumeFound
  split <;> simp

@[simp] theorem resumeReach_mems (s b h ring ext) : SameMems s (resumeReach s b h ring ext) := by
  grind [resumeReach, lookup_mems, resumeFound_mems, resumeFrom_mems]

theorem applyResume_mems (s b r h ring ext) {u} (h : applyResume s b r h ring ext = some u) : SameMems s u := by
  simp only [applyResume] at h
  (repeat' split at h) <;> cases h <;> simp

theorem applyCmd_mems (s b r c since) {u} (h : applyCmd s b r c since = some u) : SameMems s u := by
  simp only [applyCmd] at h
  (repeat' split at h) <;> grind [applyPause_mems, applyResume_mems, applyCancel_mems, applyRelease_mems,
    applyExtend_mems]

@[simp] theorem applyHead_mems (s b) : SameMems s (applyHead s b) := by
  grind [applyHead, applyCmd_mems, modReq_mems]

@[simp] theorem applyAtBoundary_mems (s b) : SameMems s (applyAtBoundary s b) := by
  unfold applyAtBoundary
  (repeat' split) <;> simp

@[simp] theorem applyPullHead_mems (s b) : SameMems s (applyPullHead s b) := by
  unfold applyPullHead
  (repeat' split) <;> simp

@[simp] theorem queueCmd_mems (s h b c absent) (habsent : ∀ u, SameMems u (absent u)) : SameMems s (queueCmd s h b c absent) := by
  grind [queueCmd, completeCmd_mems, queuePull_mems, modReq_mems, applyHead_mems]

@[simp] theorem execPause_answersFine (h baton s) (hs : Fine s) : AnswersFine (execPause h baton s) := by simp [hs, execPause]
@[simp] theorem execResume_answersFine (h baton ring ext s) (hs : Fine s) : AnswersFine (execResume h baton ring ext s) := by
  simp [hs, execResume]

@[simp] theorem execCancel_answersFine (h baton s) (hs : Fine s) : AnswersFine (execCancel h baton s) := by simp [hs, execCancel]
@[simp] theorem execRelease_answersFine (h baton s) (hs : Fine s) : AnswersFine (execRelease h baton s) := by
  simp [hs, execRelease]

@[simp] theorem execExtend_answersFine (h baton tokens s) (hs : Fine s) : AnswersFine (execExtend h baton tokens s) := by
  simp [hs, execExtend]

@[simp] theorem execAudit_answersFine (h baton fromPos toPos repair s) (hs : Fine s) :
    AnswersFine (execAudit h baton fromPos toPos repair s) := by
  refine hostCmd_answersFine (fun s hs => ?_) hs
  dsimp only
  (repeat' split) <;> try simpa using hs
  all_goals
    next heq =>
      obtain ⟨hm, hl⟩ := openEntry_mems _ _ heq
      simpa [hm, hl] using hs
/-! ### Machine/BibRing -/

@[simp] theorem answerReq_mems (s q gen r) : SameMems s (answerReq s q gen r) := by unfold answerReq; split <;> simp

@[simp] theorem pumpLookups_mems (n s) : SameMems s (pumpLookups n s) := by
  fun_induction pumpLookups n s <;> grind [lookup_mems, answerReq_mems]

@[simp] theorem packetHome_mems (s p) : SameMems s (packetHome s p) := by unfold packetHome; split <;> simp

@[simp] theorem execBibRingPacket_answersFine (p s) (hs : Fine s) : AnswersFine (execBibRingPacket p s) := by
  unfold execBibRingPacket
  (repeat' split) <;> simp [hs]

@[simp] theorem execBibCascadeTimeout_answersFine (tag s) (hs : Fine s) : AnswersFine (execBibCascadeTimeout tag s) := by
  unfold execBibCascadeTimeout
  (repeat' split) <;> simp [hs]

/-! ### Machine/TrackOps -/

@[simp] theorem incCtr_mems (s c) : SameMems s (incCtr s c) := ⟨rfl, rfl⟩
@[simp] theorem pumpTrackCpl_mems (s q) : SameMems s (pumpTrackCpl s q) := by unfold pumpTrackCpl; split <;> simp
@[simp] theorem postTrack_mems (s q w) : SameMems s (postTrack s q w) := by unfold postTrack; split <;> simp
@[simp] theorem endOp_mems (s q o code) : SameMems s (endOp s q o code) := by unfold endOp; split <;> simp
@[simp] theorem endAcked_mems (s q) : SameMems s (endAcked s q) := by unfold endAcked; split <;> simp
@[simp] theorem deadLoad_fine (s x d) (hs : Fine s) : Fine (deadLoad s x d) := by unfold deadLoad; (repeat' split) <;> simp [hs]
@[simp] theorem deadTarget_fine (s d) (hs : Fine s) : Fine (deadTarget s d) := by
  unfold deadTarget
  refine foldl_fine _ (fun s e hs => ?_) _ hs
  split
  · exact foldl_fine _ (fun s o hs => by simp [hs]) _ hs
  · exact hs

@[simp] theorem endAll_mems (s q code) : SameMems s (endAll s q code) := by
  unfold endAll
  dsimp only
  (repeat' split) <;> simp

@[simp] theorem closeSq_mems (s q) : SameMems s (closeSq s q) := by simp [closeSq]
@[simp] theorem closeRq_mems (s q) : SameMems s (closeRq s q) := by unfold closeRq; split <;> simp
@[simp] theorem sendNack_mems (s h code retryUs) : SameMems s (sendNack s h code retryUs) := by simp [sendNack]
@[simp] theorem falseStart_mems (s f h code) : SameMems s (falseStart s f h code) := by simp [falseStart]
@[simp] theorem dropNontrack_mems (s) : SameMems s (dropNontrack s) := ⟨rfl, rfl⟩
@[simp] theorem freeLinkBuffer_mems (s f) : SameMems s (freeLinkBuffer s f) := ⟨rfl, rfl⟩

@[simp] theorem arrive_fine (s f k) (hk : ∀ u, Fine u → Fine (k u)) (hs : Fine s) : Fine (arrive s f k) := by
  grind [arrive, freeLinkBuffer_mems, dropNontrack_mems]

@[simp] theorem sendAckFrame_mems (s dst ch expected payload) : SameMems s (sendAckFrame s dst ch expected payload) := by
  simp [sendAckFrame]

@[simp] theorem ackCtx_mems (s n) : SameMems s (ackCtx s n) := by unfold ackCtx; split <;> simp
@[simp] theorem ackSys_mems (s d) : SameMems s (ackSys s d) := by unfold ackSys; split <;> simp
@[simp] theorem fillPort_mems (s port) : SameMems s (fillPort s port) := by unfold fillPort; split <;> simp

@[simp] theorem meterFrame_mems (s f t) : SameMems s (meterFrame s f t).2 := by
  unfold meterFrame
  (repeat' split) <;> simp

@[simp] theorem checkFail_mems (s f h code) : SameMems s (checkFail s f h code) := by simp [checkFail]
@[simp] theorem teFence_mems (s d) : SameMems s (teFence s d) := ⟨rfl, rfl⟩

@[simp] theorem zeroLapCtrs_mems (s) : SameMems s (zeroLapCtrs s) := by
  unfold zeroLapCtrs
  grind [foldl_mems, setCtr_mems]

/-! ### Machine/MarOps -/

@[simp] theorem openMsg_mems (s mtype subject round) : SameMems s (openMsg s mtype subject round).2 := ⟨rfl, rfl⟩
@[simp] theorem marSendAll_mems (s ds m) : SameMems s (marSendAll s ds m) := by simp [marSendAll]
@[simp] theorem trimRounds_mems (s r) : SameMems s (trimRounds s r) := ⟨rfl, rfl⟩

@[simp] theorem endLookups_mems (s code) : SameMems s (endLookups s code) := by
  unfold endLookups
  refine foldl_mems _ _ _ (fun s x => ?_) fun s x => ?_ <;> split <;> simp

@[simp] theorem fenceMember_mems (s d declared) : SameMems s (fenceMember s d declared) := by
  unfold fenceMember
  split <;> simp

@[simp] theorem fenceLeg_fine (s g declared) (hs : Fine s) : Fine (fenceLeg s g declared) := by
  unfold fenceLeg
  (repeat' split) <;> simp [hs]

@[simp] theorem fencePulls_mems (s d code) : SameMems s (fencePulls s d code) := by simp [fencePulls]
@[simp] theorem loseGroupReq_mems (s b) : SameMems s (loseGroupReq s b) := by unfold loseGroupReq; split <;> simp

@[simp] theorem groupLost_mems (s d) : SameMems s (groupLost s d) := by
  have h (s : State) (ns : List LaneNo) : SameMems s (ns.foldl (fun s n => modLane s n fun l =>
      { l with st := { l.st with stopNext := true, lapLost := l.st.lapLost || !l.st.slots.isEmpty } }) s) :=
    foldl_mems _ _ _ (fun _ _ => rfl) fun s n => (modLane_mems s n _ rfl).2
  unfold groupLost
  dsimp only
  split
  · simpa using h s _
  · simp

@[simp] theorem fenceTarget_mems (s d) : SameMems s (fenceTarget s d) := by simp [fenceTarget]
@[simp] theorem fencePeer_fine (s d epoch declared) (hs : Fine s) : Fine (fencePeer s d epoch declared) := by
  have hlegs (gs : List Leg) {s : State} (hs : Fine s) : Fine (gs.foldl (fun s g => fenceLeg s g declared) s) :=
    foldl_fine _ (fun s g hs => fenceLeg_fine s g declared hs) gs hs
  unfold fencePeer
  dsimp only
  split
  · simpa using hlegs _ (deadTarget_fine _ d (by simpa using hs))
  · simpa using hlegs _ (by simpa using hs)

@[simp] theorem silence_mems (s declared) : SameMems s (silence s declared) := by simp [silence]
@[simp] theorem fenceReq_mems (s declared b) : SameMems s (fenceReq s declared b) := by unfold fenceReq; split <;> simp
@[simp] theorem fenceBib_mems (s) : SameMems s (fenceBib s) := by simp [fenceBib]
@[simp] theorem fencePull_mems (s p) : SameMems s (fencePull s p) := by simp [fencePull]
@[simp] theorem fenceSelf_fine (s epoch declared) (hs : Fine s) : Fine (fenceSelf s epoch declared) := by
  have h (g : Leg) (s : State) (hs : Fine s) :
    Fine (if g.type = legFetch then dropLeg s g.index else abortLeg s g .fenced false) := by
    split <;> simp [hs]
  have h (gs : List Leg) (s : State) (hs : Fine s) :
      Fine (gs.foldl (fun s g => if g.type = legFetch then dropLeg s g.index else abortLeg s g .fenced false) s) :=
    foldl_fine _ (fun s g hs => h g s hs) gs hs
  unfold fenceSelf
  simp [hs, h]

@[simp] theorem fenceIn_fine (s d epoch declared received round) (hs : Fine s) :
    Fine (fenceIn s d epoch declared received round) := by
  simp [hs, fenceIn]

@[simp] theorem clearFence_mems (s d epoch) : SameMems s (clearFence s d epoch) := ⟨rfl, rfl⟩
@[simp] theorem readmitIn_mems (s d epoch round) : SameMems s (readmitIn s d epoch round) := by simp [readmitIn]
@[simp] theorem takeRing_mems (s) : SameMems s (takeRing s) := ⟨rfl, rfl⟩
@[simp] theorem readmitSelf_mems (s epoch) : SameMems s (readmitSelf s epoch) := by simp [readmitSelf]
@[simp] theorem ringState_mems (s) : SameMems s (ringState s) := by unfold ringState; split <;> simp
@[simp] theorem marSwitch_mems (s epoch) : SameMems s (marSwitch s epoch) := by simp [marSwitch]

@[simp] theorem openSwap_mems (s dev n) : SameMems s (openSwap s dev n).1 := by
  grind [openSwap, openEntry_mems, sendAsk_mems]

@[simp] theorem swapAdd_mems (s g early) : SameMems s (swapAdd s g early) := by
  unfold swapAdd
  dsimp only
  split <;> simp

@[simp] theorem swapSealed_mems (s) : SameMems s (swapSealed s) := by simp [swapSealed]
@[simp] theorem leaveBatch_mems (s n) : SameMems s (leaveBatch s n) := by simp [leaveBatch]
@[simp] theorem swapFinal_mems (s g) : SameMems s (swapFinal s g) := by simp [swapFinal]
@[simp] theorem swapSwitch_mems (s before after) : SameMems s (swapSwitch s before after) := by simp [swapSwitch]

/-! ### Machine/Pacer -/

@[simp] theorem holdHeads_mems (s port) : SameMems s (holdHeads s port) := by
  unfold holdHeads
  grind [foldl_mems, modPacQ_mems]

@[simp] theorem weightedPass_mems (s port xs) : SameMems s (weightedPass s port xs).1 := by
  fun_induction weightedPass s port xs <;> simp_all

@[simp] theorem weightedLoop_mems (s port n) : SameMems s (weightedLoop s port n).1 := by
  fun_induction weightedLoop s port n <;> grind [weightedPass_mems]

@[simp] theorem chooseQueue_mems (s port) : SameMems s (chooseQueue s port).1 := by unfold chooseQueue; split <;> simp
@[simp] theorem startFrame_mems (s port q) : SameMems s (startFrame s port q) := by unfold startFrame; split <;> simp

@[simp] theorem execPacerChoose_answersFine (port s) (hs : Fine s) : AnswersFine (execPacerChoose port s) := by
  rw [execPacerChoose, answersFine_next]
  split
  · exact hs
  · have h := chooseQueue_mems (holdHeads (fillPort s port.val) port.val) port.val
    dsimp only
    generalize chooseQueue (holdHeads (fillPort s port.val) port.val) port.val = y at h
    obtain ⟨t, _ | q⟩ := y <;> simpa [show t.mem = s.mem by simpa using h.1,
      show saves t.lanes = saves s.lanes by simpa using h.2]
      using hs

@[simp] theorem setPaused_mems (s port prio p) : SameMems s (setPaused s port prio p) :=
  foldl_mems _ _ _ (fun _ _ => rfl) fun _ _ => rfl

@[simp] theorem execPfcFrameRx_answersFine (port priority pause s) (hs : Fine s) :
    AnswersFine (execPfcFrameRx port priority pause s) := by
  simp [hs, execPfcFrameRx]

@[simp] theorem execPfcPauseEnd_answersFine (port priority s) (hs : Fine s) : AnswersFine (execPfcPauseEnd port priority s) := by
  simp [hs, execPfcPauseEnd]

@[simp] theorem releaseHeads_mems (s) : SameMems s (releaseHeads s) := by simp [releaseHeads]
@[simp] theorem pacRefill_mems (s) : SameMems s (pacRefill s) := by unfold pacRefill; split <;> simp
@[simp] theorem pacReset_mems (s) : SameMems s (pacReset s) := by simp [pacReset]

/-! ### Machine/Track -/

@[simp] theorem sendResponse_mems (s n op flags aux addr payload) : SameMems s (sendResponse s n op flags aux addr payload) := by
  unfold sendResponse
  split <;> simp

@[simp] theorem sendRead_mems (s n h a len) : SameMems s (sendRead s n h a len) := by simp [sendRead]
@[simp] theorem sendOld_mems (s n h old) : SameMems s (sendOld s n h old) := by simp [sendOld]
@[simp] theorem execAtomic_fine (s n x h f) (hs : Fine s) : Fine (execAtomic s n x h f) := by simp [hs, execAtomic]
@[simp] theorem postRq_mems (s q ws) : SameMems s (postRq s q ws) := by unfold postRq; split <;> simp

@[simp] theorem placeMsg_fine (s t xs ys n zs) (hs : Fine s) : Fine (placeMsg s t xs ys n zs).1 := by
  fun_induction placeMsg s t xs ys n zs <;> grind [placeData_fine]

theorem runSend_fine {s t : State} {x : RxCtx} {hd : Hdr} {f : Frame}
    (h : runSend s x hd f = .dropped t ∨ runSend s x hd f = .placed t) (hs : Fine s) : Fine t := by
  simp only [runSend] at h
  (repeat' split at h) <;> rcases h with h | h <;> cases h <;> simp [hs]

theorem runFrame_fine (s n f) {u} (h : runFrame s n f = some u) (hs : Fine s) : Fine u := by
  simp only [runFrame] at h
  (repeat' split at h) <;> grind [runSend_fine, incCtr_mems, placeData_fine, sendRead_mems, sendNack_mems,
    execAtomic_fine]

theorem execWaiting_fine (s n xs) {u} (h : execWaiting s n xs = some u) (hs : Fine s) : Fine u := by
  fun_induction execWaiting s n xs <;> grind [runFrame_fine, putRx_mems]

@[simp] theorem drainCtx_fine (s n m) (hs : Fine s) : Fine (drainCtx s n m) := by
  fun_induction drainCtx s n m <;> grind [execWaiting_fine]

@[simp] theorem acceptReq_fine (s n x h f) (hs : Fine s) : Fine (acceptReq s n x h f) := by simp [hs, acceptReq]

@[simp] theorem duplicate_mems (s n x h f) : SameMems s (duplicate s n x h f) := by
  unfold duplicate
  (repeat' split) <;> simp

@[simp] theorem rxRequest_fine (s f op) (hs : Fine s) : Fine (rxRequest s f op) := by
  grind [rxRequest, arrive_fine, checkFail_mems, duplicate_mems, acceptReq_fine]

@[simp] theorem execWrite_answersFine (f s) (hs : Fine s) : AnswersFine (execWrite f s) := by simp [hs, execWrite]
@[simp] theorem execReadReq_answersFine (f s) (hs : Fine s) : AnswersFine (execReadReq f s) := by simp [hs, execReadReq]
@[simp] theorem execAtomicAdd_answersFine (f s) (hs : Fine s) : AnswersFine (execAtomicAdd f s) := by simp [hs, execAtomicAdd]
@[simp] theorem execFetchAdd_answersFine (f s) (hs : Fine s) : AnswersFine (execFetchAdd f s) := by simp [hs, execFetchAdd]
@[simp] theorem execCmpSwap_answersFine (f s) (hs : Fine s) : AnswersFine (execCmpSwap f s) := by simp [hs, execCmpSwap]
@[simp] theorem execSend_answersFine (f s) (hs : Fine s) : AnswersFine (execSend f s) := by simp [hs, execSend]

@[simp] theorem placeResponse_fine (s q x o f) (hs : Fine s) : Fine (placeResponse s q x o f) := by
  unfold placeResponse
  dsimp only
  (repeat' split) <;> simp [hs]

@[simp] theorem rxResponse_fine (s f op) (hs : Fine s) : Fine (rxResponse s f op) := by
  unfold rxResponse
  refine arrive_fine _ _ _ (fun s hs => ?_) hs
  dsimp only
  (repeat' split) <;> simp [hs]

@[simp] theorem execReadResp_answersFine (f s) (hs : Fine s) : AnswersFine (execReadResp f s) := by simp [hs, execReadResp]
@[simp] theorem execAtomicResp_answersFine (f s) (hs : Fine s) : AnswersFine (execAtomicResp f s) := by simp [hs, execAtomicResp]
@[simp] theorem ringsTaken_mems (s d cum bitmap fs) : SameMems s (ringsTaken s d cum bitmap fs) := by simp [ringsTaken]
@[simp] theorem ackQueue_mems (s q f) : SameMems s (ackQueue s q f) := by unfold ackQueue; split <;> simp
@[simp] theorem ackPeer_mems (s d f) : SameMems s (ackPeer s d f) := by unfold ackPeer; split <;> simp

@[simp] theorem rxAckLike_fine (s f op k) (hk : ∀ u x, Fine u → Fine (k u x)) (hs : Fine s) : Fine (rxAckLike s f op k) := by
  unfold rxAckLike
  refine arrive_fine _ _ _ (fun s hs => ?_) hs
  dsimp only
  (repeat' split) <;> first | exact hk _ _ hs | simpa using hs

theorem rxAckLike_answersFine {s : State} {f : Frame} {op : Byte} {k : State → Hdr → State}
    (hk : ∀ u x, Fine u → Fine (k u x)) (hs : Fine s) : AnswersFine (.next (rxAckLike s f op k)) :=
  (answersFine_next _).2 (rxAckLike_fine _ _ _ _ hk hs)

@[simp] theorem execAck_answersFine (f s) (hs : Fine s) : AnswersFine (execAck f s) := by
  refine rxAckLike_answersFine (fun s h hs => ?_) hs
  (repeat' split) <;> simp [hs]

@[simp] theorem nackQueue_mems (s q psn code retryUs) : SameMems s (nackQueue s q psn code retryUs) := by
  unfold nackQueue
  (repeat' split) <;> simp

@[simp] theorem execSqOpen_answersFine (h a s) (hs : Fine s) : AnswersFine (execSqOpen h a s) := by simp [hs, execSqOpen]
@[simp] theorem execRqOpen_answersFine (h a s) (hs : Fine s) : AnswersFine (execRqOpen h a s) := by simp [hs, execRqOpen]

@[simp] theorem execSqClose_answersFine (h queue s) (hs : Fine s) : AnswersFine (execSqClose h queue s) := by
  refine hostCmd_answersFine (fun s hs => ?_) hs
  split <;> simp [hs]

@[simp] theorem execRqClose_answersFine (h queue s) (hs : Fine s) : AnswersFine (execRqClose h queue s) := by
  refine hostCmd_answersFine (fun s hs => ?_) hs
  (repeat' split) <;> simp [hs]

@[simp] theorem badBell_mems (s) : SameMems s (badBell s) := ⟨rfl, rfl⟩

@[simp] theorem execDescriptorRingTail_answersFine (f queue tail descs s) (hs : Fine s) :
    AnswersFine (execDescriptorRingTail f queue tail descs s) := by
  unfold execDescriptorRingTail
  split <;> simp [hs]

@[simp] theorem execTrackCompletionRingHead_answersFine (f queue head s) (hs : Fine s) :
    AnswersFine (execTrackCompletionRingHead f queue head s) := by
  unfold execTrackCompletionRingHead
  split <;> simp [hs]

@[simp] theorem execBufferRingTail_answersFine (f queue tail bufs s) (hs : Fine s) :
    AnswersFine (execBufferRingTail f queue tail bufs s) := by
  unfold execBufferRingTail
  (repeat' split) <;> simp [hs]

@[simp] theorem dropHead_mems (s q x) : SameMems s (dropHead s q x) := ⟨rfl, rfl⟩
@[simp] theorem endDesc_mems (s q x d code) : SameMems s (endDesc s q x d code) := by simp [endDesc]

@[simp] theorem execDescriptorSplit_answersFine (queue s) (hs : Fine s) : AnswersFine (execDescriptorSplit queue s) := by
  unfold execDescriptorSplit
  dsimp only
  (repeat' split) <;> simp [hs]

@[simp] theorem sendAgain_mems (s q psn pf) : SameMems s (sendAgain s q psn pf) := by
  unfold sendAgain
  split
  · next h => split <;> exact (sameMems_of_sansTransport (resendSq_sansTransport h) :)
  · split <;> simp

@[simp] theorem sendAgainSys_mems (s d psn) : SameMems s (sendAgainSys s d psn) := by
  unfold sendAgainSys
  split
  · next h => exact (sameMems_of_sansTransport (resendSys_sansTransport h) :)
  · split <;> simp

@[simp] theorem execRetxTimeout_answersFine (chan psn s) (hs : Fine s) : AnswersFine (execRetxTimeout chan psn s) := by
  unfold execRetxTimeout
  (repeat' split) <;> simp [hs]

@[simp] theorem execPageFaultRetry_answersFine (queue psn s) (hs : Fine s) : AnswersFine (execPageFaultRetry queue psn s) := by
  unfold execPageFaultRetry
  split <;> simp [hs]

@[simp] theorem execPagePresent_answersFine (tenant page s) (hs : Fine s) : AnswersFine (execPagePresent tenant page s) := by
  simp [hs, execPagePresent]

@[simp] theorem execRxNoBufferRetry_answersFine (queue message s) (hs : Fine s) :
    AnswersFine (execRxNoBufferRetry queue message s) := by
  unfold execRxNoBufferRetry
  split <;> simp [hs]

@[simp] theorem execAckTimer_answersFine (chan s) (hs : Fine s) : AnswersFine (execAckTimer chan s) := by
  unfold execAckTimer
  (repeat' split) <;> simp [hs]

@[simp] theorem execRateIncrease_answersFine (chan s) (hs : Fine s) : AnswersFine (execRateIncrease chan s) := by
  unfold execRateIncrease
  (repeat' split) <;> simp [hs]

@[simp] theorem execSystemContextIdle_answersFine (peer s) (hs : Fine s) : AnswersFine (execSystemContextIdle peer s) := by
  unfold execSystemContextIdle
  split <;> simp [hs]

theorem takeSysRx_mems (s d psn) {u} (h : takeSysRx s d psn = some u) : SameMems s u := by
  simp only [takeSysRx] at h
  (repeat' split at h) <;> cases h <;> simp

@[simp] theorem runRing_mems (s f) : SameMems s (runRing s f) := by unfold runRing; dsimp only; (repeat' split) <;> simp
@[simp] theorem runRings_mems (s d) : SameMems s (runRings s d) := by unfold runRings; split <;> simp
@[simp] theorem sysAfter_mems (s h x y) : SameMems s (sysAfter s h x y) := by simp [sysAfter]

@[simp] theorem rxSysIn_fine (s f h k) (hk : ∀ u, Fine u → Fine (k u)) (hs : Fine s) : Fine (rxSysIn s f h k) := by
  grind [rxSysIn, ackSys_mems, checkFail_mems, sysAfter_mems]

@[simp] theorem rxSystem_fine (s f op k) (hk : ∀ u, Fine u → Fine (k u)) (hs : Fine s) : Fine (rxSystem s f op k) := by
  unfold rxSystem
  refine arrive_fine _ _ _ (fun s hs => ?_) hs
  dsimp only
  (repeat' split)
  · simpa using hs
  · simpa using hs
  · exact rxSysIn_fine _ _ _ _ hk hs
  · next hctx =>
    obtain ⟨hm, hl⟩ := takeSysRx_mems _ _ _ hctx
    exact rxSysIn_fine _ _ _ _ hk (by rwa [Fine, hm, hl])
  · exact hs
  · simpa using hs

theorem rxSystem_answersFine {s : State} {f : Frame} {op : Byte} {k : State → State} (hk : ∀ u,
    Fine u → Fine (k u)) (hs : Fine s) : AnswersFine (.next (rxSystem s f op k)) :=
  (answersFine_next _).2 (rxSystem_fine _ _ _ _ hk hs)

@[simp] theorem execRingRx_answersFine (f s) (hs : Fine s) : AnswersFine (execRingRx f s) := by
  refine rxSystem_answersFine (fun s hs => ?_) hs
  dsimp only
  (repeat' split) <;> simp [hs]

@[simp] theorem execNontrackFrameRx_answersFine (port s) (hs : Fine s) : AnswersFine (execNontrackFrameRx port s) := by
  simp [hs, execNontrackFrameRx]

@[simp] theorem setPtp_mems (s time) : SameMems s (setPtp s time) := ⟨rfl, rfl⟩

@[simp] theorem execPtpFrameRx_answersFine (port m s) (hs : Fine s) : AnswersFine (execPtpFrameRx port m s) := by
  unfold execPtpFrameRx
  (repeat' split) <;> simp [hs]

@[simp] theorem execPortDown_answersFine (port s) (hs : Fine s) : AnswersFine (execPortDown port s) := by simp [hs, execPortDown]
@[simp] theorem execPortUp_answersFine (port s) (hs : Fine s) : AnswersFine (execPortUp port s) := by simp [hs, execPortUp]
@[simp] theorem execRelayLinkDown_answersFine (link s) (hs : Fine s) : AnswersFine (execRelayLinkDown link s) := by
  simp [hs, execRelayLinkDown]

@[simp] theorem execRelayCreditReturn_answersFine (link cls units s) (hs : Fine s) :
    AnswersFine (execRelayCreditReturn link cls units s) := by
  simp [hs, execRelayCreditReturn]

@[simp] theorem takeLanesOut_mems (s link o) : SameMems s (takeLanesOut s link o) := ⟨rfl, rfl⟩
@[simp] theorem execRlyLaneOut_answersFine (link lane s) (hs : Fine s) : AnswersFine (execRlyLaneOut link lane s) := by
  simp [hs, execRlyLaneOut]

@[simp] theorem execRlyLinkTrained_answersFine (link peer tagCur tagNext failed s) (hs : Fine s) :
    AnswersFine (execRlyLinkTrained link peer tagCur tagNext failed s) := by
  simp [hs, execRlyLinkTrained]

/-! ### Machine/Blocks -/

@[simp] theorem endMsgs_mems (s q code) : SameMems s (endMsgs s q code) := by unfold endMsgs; split <;> simp
@[simp] theorem discardRq_mems (s q) : SameMems s (discardRq s q) := by simp [discardRq]
@[simp] theorem closeQueues_mems (s) : SameMems s (closeQueues s) := by simp [closeQueues]
@[simp] theorem teReset_mems (s) : SameMems s (teReset s) := by simp [teReset]
@[simp] theorem rlyReset_mems (s) : SameMems s (rlyReset s) := ⟨rfl, rfl⟩
@[simp] theorem endFetches_mems (s b) : SameMems s (endFetches s b) := by unfold endFetches; (repeat' split) <;> simp
@[simp] theorem btnReset_fine (s) (hs : Fine s) : Fine (btnReset s) := by
  have hlegs (gs : List Leg) {s : State} (hs : Fine s) :
      Fine (gs.foldl (fun s g => if g.type = legFetch then dropLeg s g.index else abortLeg s g .discarded false) s) :=
    foldl_fine _ (fun s g hs => by split <;> simp [hs]) gs hs
  have hclear {m : Mems} {v : LaneNo → Tbl Mem} (h : Canonical m v) : Canonical { m with xz := [], ctl := [] } v :=
    ⟨h.stack, rfl, rfl, h.cap, h.data, h.sram, h.saved⟩
  unfold btnReset
  extract_lets s1 s2 ps s3 btn mem s4
  have h1 : Fine s1 := by simpa [s1] using hs
  have h2 : Fine s2 := hlegs _ h1
  have h3 : Fine s3 := by simpa [s3] using h2
  have h4 : Fine s4 := hclear h3
  simpa using h4

@[simp] theorem jdgReset_mems (s) : SameMems s (jdgReset s) := ⟨rfl, rfl⟩
@[simp] theorem stpReset_mems (s) : SameMems s (stpReset s) := ⟨rfl, rfl⟩
@[simp] theorem srgReset_mems (s) : SameMems s (srgReset s) := ⟨rfl, rfl⟩
@[simp] theorem marReset_mems (s) : SameMems s (marReset s) := ⟨rfl, rfl⟩
@[simp] theorem endLoads_mems (s) : SameMems s (endLoads s) := by unfold endLoads; dsimp only; (repeat' split) <;> simp
@[simp] theorem mplReset_mems (s) : SameMems s (mplReset s) := by simp [mplReset]
@[simp] theorem blockReset_fine (s n) (hs : Fine s) : Fine (blockReset s n) := by unfold blockReset; split <;> simp [hs]

/-! ### Machine/Access -/

@[simp] theorem recordAccess_mems (s a kind off) : SameMems s (recordAccess s a kind off) := by simp [recordAccess]
@[simp] theorem vfOutside_mems (s a off) : SameMems s (vfOutside s a off) := by simp [vfOutside]

@[simp] theorem regWrite_fine (s a off act) (hact : ∀ u, Fine u → Fine (act u)) (hs : Fine s) : Fine (regWrite s a off act) := by
  unfold regWrite
  grind [vfOutside_mems]

@[simp] theorem regCmd_answersFine (s a off act) (hact : ∀ u, Fine u → Fine (act u)) (hs : Fine s) :
    AnswersFine (regCmd s a off act) :=
  (answersFine_next _).2 (regWrite_fine s a off act hact hs)
/-! ### Machine/KvWork -/

@[simp] theorem appendKv_fine (s n b layer pos keys vals) (hs : Fine s) : Fine (appendKv s n b layer pos keys vals) := by
  unfold appendKv
  (repeat' split) <;> simp [hs]
  exact setStack_fine n (foldl_fst_wf _ (fun _ _ h => storeImage_wf _ _ _ _ h) _
    (foldl_fst_wf _ (fun _ _ h => storeImage_wf _ _ _ _ h) _ (hs.stack n))) (by simpa using hs)

@[simp] theorem sealPage_fine (s n b layer page) (hs : Fine s) : Fine (sealPage s n b layer page) := by
  unfold sealPage
  dsimp only
  (repeat' split) <;> simp [hs]
  · exact setStack_fine n (storeImage_wf _ _ _ _ (sealImage_wf (hs.stack n))) hs
  · exact setStack_fine n (sealImage_wf (hs.stack n)) hs

@[simp] theorem attendWork_fine (s n m r layer head t o q dst) (hs : Fine s) :
    Fine (attendWork s n m r layer head t o q dst) := by
  simp [hs, attendWork]

@[simp] theorem probeWork_mems (s n m b layer queries) : SameMems s (probeWork s n m b layer queries) := by
  simp [probeWork]

@[simp] theorem selectLayer_mems (s n m r probe t layer) : SameMems s (selectLayer s n m r probe t layer).1 := by
  simp [selectLayer]

@[simp] theorem selectAll_mems (s n m r probe t) : SameMems s (selectAll s n m r probe t).1 := by
  refine ⟨foldl_fst_keeps State.mem _ (fun y l => ?_) _ _, foldl_fst_keeps (fun s => saves s.lanes) _ (fun y l => ?_) _ _⟩
  · exact (selectLayer_mems y.1 n m r probe t l).1
  · exact (selectLayer_mems y.1 n m r probe t l).2

@[simp] theorem heatNext_mems (s n b) : SameMems s (heatNext s n b) := by unfold heatNext; (repeat' split) <;> simp

@[simp] theorem heatArrived_mems (s n b) : SameMems s (heatArrived s n b) := by
  unfold heatArrived
  (repeat' split) <;> simp

/-! ### Machine/LapOps -/

@[simp] theorem leaveOne_mems (s b) : SameMems s (leaveOne s b) := by unfold leaveOne; split <;> simp

@[simp] theorem joinOne_mems (s n t x) : SameMems s (joinOne s n t x) := by
  unfold joinOne
  dsimp only
  (repeat' split) <;> simp

@[simp] theorem joins_mems (s n) : SameMems s (joins s n) := by unfold joins; dsimp only; split <;> simp

@[simp] theorem serveExt_mems (s n m xs) : SameMems s (serveExt s n m xs) := by
  fun_induction serveExt s n m xs <;> grind [modReq_mems]

@[simp] theorem serveReplays_mems (s n m xs) : SameMems s (serveReplays s n m xs) := by
  fun_induction serveReplays s n m xs <;> simp_all

@[simp] theorem missPreempted_mems (s n) : SameMems s (missPreempted s n) := by
  unfold missPreempted
  refine foldl_mems _ _ _ (fun s x => ?_) fun s x => ?_ <;> split <;> simp

@[simp] theorem preempt_mems (s n) : SameMems s (preempt s n) := by unfold preempt; dsimp only; (repeat' split) <;> simp

@[simp] theorem stepReplays_mems (s n) : SameMems s (stepReplays s n) := by
  unfold stepReplays
  grind [foldl_mems, modReplay_mems]

@[simp] theorem takePrompts_mems (s n m xs) : SameMems s (takePrompts s n m xs) := by
  fun_induction takePrompts s n m xs <;> simp_all

@[simp] theorem holdFetch_mems (s n b) : SameMems s (holdFetch s n b) := by unfold holdFetch; (repeat' split) <;> simp
@[simp] theorem serveWork_mems (s n b) : SameMems s (serveWork s n b) := by unfold serveWork; split <;> simp
@[simp] theorem seqNeeds_mems (s n b) : SameMems s (seqNeeds s n b) := by unfold seqNeeds; split <;> simp

@[simp] theorem clearHeld_mems (s bs) : SameMems s (clearHeld s bs) := foldl_mems _ _ _ (fun _ _ => rfl) fun _ _ => rfl
@[simp] theorem clearRunning_mems (s n bs) : SameMems s (clearRunning s n bs) := foldl_mems _ _ _ (fun _ _ => rfl) fun _ _ => rfl
@[simp] theorem replayNeed_mems (s n q) : SameMems s (replayNeed s n q) := by unfold replayNeed; split <;> simp
@[simp] theorem replayNeeds_mems (s n) : SameMems s (replayNeeds s n) := by simp [replayNeeds]
@[simp] theorem laneNeeds_mems (s n) : SameMems s (laneNeeds s n) := by simp [laneNeeds]

@[simp] theorem writeTable_fine (s n) (hs : Fine s) : Fine (writeTable s n) := by
  unfold writeTable
  dsimp only
  (repeat' split)
  · simpa using hs
  · exact foldl_fine _ (fun s x hs => foldl_fine _ (fun s i hs => sramWrite_fine n _ _ _ hs) _ hs) _ (by simpa using hs)
  · simpa using hs

@[simp] theorem heatBoundary_mems (s n) : SameMems s (heatBoundary s n) := by simp [heatBoundary]
@[simp] theorem heatHold_mems (s n) : SameMems s (heatHold s n) := by simp [heatHold]
@[simp] theorem loadSlots_mems (s n) : SameMems s (loadSlots s n) := by
  unfold loadSlots
  exact modLane_mems _ _ _ (by split <;> rfl)

@[simp] theorem loadSeals_mems (s n) : SameMems s (loadSeals s n) := by simp [loadSeals]
@[simp] theorem countInto_mems (s b toks) : SameMems s (countInto s b toks) := by unfold countInto; split <;> simp
@[simp] theorem stepPatterns_mems (s b tok) : SameMems s (stepPatterns s b tok) := ⟨rfl, rfl⟩
@[simp] theorem stopCheck_mems (s b) : SameMems s (stopCheck s b).1 := by unfold stopCheck; (repeat' split) <;> simp
@[simp] theorem commitDraw_fine (s n b r tok) (hs : Fine s) : Fine (commitDraw s n b r tok) := by simp [hs, commitDraw]
@[simp] theorem commitNone_mems (s n b) : SameMems s (commitNone s n b) := by simp [commitNone]
@[simp] theorem ringMiss_mems (s b) : SameMems s (ringMiss s b) := ⟨rfl, rfl⟩
@[simp] theorem ranOnce_mems (s b) : SameMems s (ranOnce s b) := ⟨rfl, rfl⟩

@[simp] theorem commitMember_fine (s n b) (hs : Fine s) : Fine (commitMember s n b) := by
  unfold commitMember
  (repeat' split) <;> simp [hs]

@[simp] theorem commitPromptTokens_mems (s b r) : SameMems s (commitPromptTokens s b r) := by simp [commitPromptTokens]
@[simp] theorem setPromptLeft_mems (s n b k) : SameMems s (setPromptLeft s n b k) := by simp [setPromptLeft]

@[simp] theorem commitPrompt_fine (s n b) (hs : Fine s) : Fine (commitPrompt s n b) := by
  unfold commitPrompt
  dsimp only
  (repeat' split) <;> simp [hs]

@[simp] theorem appendExt_mems (s b xs) : SameMems s (appendExt s b xs) := by
  fun_induction appendExt s b xs <;> grind [modReq_mems, countInto_mems, stopCheck_mems, stepPatterns_mems]

@[simp] theorem missExt_mems (s n b r) : SameMems s (missExt s n b r) := by simp [missExt]
@[simp] theorem commitExt_fine (s n b) (hs : Fine s) : Fine (commitExt s n b) := by unfold commitExt; split <;> simp [hs]
@[simp] theorem commitScratch_mems (s q) : SameMems s (commitScratch s q) := by unfold commitScratch; split <;> simp
@[simp] theorem recordHard_mems (s n i) : SameMems s (recordHard s n i) := by simp [recordHard]

@[simp] theorem commitLane_fine (s n) (hs : Fine s) : Fine (commitLane s n).1 := by
  have hmembers (bs : List BatonId) {s : State} (hs : Fine s) : Fine (bs.foldl (fun s b => commitMember s n b) s) :=
    foldl_fine _ (fun s b hs => commitMember_fine s n b hs) bs hs
  have hexts (bs : List BatonId) {s : State} (hs : Fine s) : Fine (bs.foldl (fun s b => commitExt s n b) s) :=
    foldl_fine _ (fun s b hs => commitExt_fine s n b hs) bs hs
  have hprompts (bs : List BatonId) {s : State} (hs : Fine s) : Fine (bs.foldl (fun s b => commitPrompt s n b) s) :=
    foldl_fine _ (fun s b hs => commitPrompt_fine s n b hs) bs hs
  unfold commitLane
  dsimp only
  (repeat' split)
  · exact hs
  · simp [hs]
  · simp [hs]
  · simp [hs]
  · simpa using hexts _ (hmembers _ (by simpa using hs))
  · simpa using hprompts _ (by simpa using hs)
/-! ### Machine/Lanes -/

@[simp] theorem laneCmd_answersFine (h lane serve s) (hserve : ∀ n u, Fine u → Fine (serve n u)) (hs : Fine s) :
    AnswersFine (laneCmd h lane serve s) := by
  refine hostCmd_answersFine (fun s hs => ?_) hs
  split <;> simp [hs, hserve]

@[simp] theorem drainLane_mems (h n s) : SameMems s (drainLane h n s) := by unfold drainLane; split <;> simp
@[simp] theorem execLaneDrain_answersFine (h lane s) (hs : Fine s) : AnswersFine (execLaneDrain h lane s) := by
  simp [hs, execLaneDrain]

@[simp] theorem serveLane_mems (h n s) : SameMems s (serveLane h n s) := by unfold serveLane; dsimp only; split <;> simp
@[simp] theorem execLaneServe_answersFine (h lane s) (hs : Fine s) : AnswersFine (execLaneServe h lane s) := by
  simp [hs, execLaneServe]

@[simp] theorem loseRegions_fine (s n) (hs : Fine s) : Fine (loseRegions s n) := Canonical.withData hs (filter_wf _ hs.data)
@[simp] theorem emptyStack_fine (s n) (hs : Fine s) : Fine (emptyStack s n) := by
  have h := setStack_fine n (x := []) rfl (loseRegions_fine _ n (abortLaneLegs_fine
    (modLane s n fun l => { l with dataOpen := false }) n .discarded (by simpa using hs)))
  exact Canonical.modLane n _ (by simp) h

@[simp] theorem saveSram_fine (s n) (hs : Fine s) : Fine (saveSram s n) := by
  unfold saveSram
  refine Canonical.modLane n _ (fun e he => ?_) hs
  rcases mem_tblSet he with he | rfl
  · exact hs.saved n e he
  · exact laneSram_wf s n

@[simp] theorem restoreSram_fine (s n) (hs : Fine s) : Fine (restoreSram s n) := by unfold restoreSram; split <;> simp [hs]
@[simp] theorem startTest_fine (s n mode cmd) (hs : Fine s) : Fine (startTest s n mode cmd) := by simp [hs, startTest]
@[simp] theorem writeMchTest_fine (s n mode) (hs : Fine s) : Fine (writeMchTest s n mode) := by simp [hs, writeMchTest]
@[simp] theorem execMchTestStart_answersFine (a lane v s) (hs : Fine s) : AnswersFine (execMchTestStart a lane v s) :=
  regCmd_answersFine _ _ _ _ (fun _ hu => writeMchTest_fine _ _ _ hu) hs

@[simp] theorem testLane_fine (h mode n s) (hs : Fine s) : Fine (testLane h mode n s) := by simp [hs, testLane]
@[simp] theorem execLaneTest_answersFine (h lane mode s) (hs : Fine s) : AnswersFine (execLaneTest h lane mode s) :=
  laneCmd_answersFine _ _ _ _ (fun _ _ hu => testLane_fine _ _ _ _ hu) hs

@[simp] theorem noteFail_mems (s n first unit pos word) : SameMems s (noteFail s n first unit pos word) := by simp [noteFail]

@[simp] theorem testCores_fine (s n first xs) (hs : Fine s) : Fine (testCores s n first xs) := by
  fun_induction testCores s n first xs <;> grind [noteFail_mems, coreFails_fine]

@[simp] theorem logRow_mems (s n bank what) : SameMems s (logRow s n bank what) := by simp [logRow]
@[simp] theorem listRow_fine (s n bank row) (hs : Fine s) : Fine (listRow s n bank row) := by simp [hs, listRow]

@[simp] theorem testRows_fine (s n first xs) (hs : Fine s) : Fine (testRows s n first xs) := by
  fun_induction testRows s n first xs <;> simp_all

@[simp] theorem repairRows_mems (s n) : SameMems s (repairRows s n) := by simp [repairRows]

@[simp] theorem endStackTest_fine (s n first found) (hs : Fine s) : Fine (endStackTest s n first found) := by
  simp [hs, endStackTest]

@[simp] theorem execMchTestDone_answersFine (lane found s) (hs : Fine s) : AnswersFine (execMchTestDone lane found s) := by
  unfold execMchTestDone
  extract_lets m s1 s2 s3 gone code cmd s4 s5
  have h1 : Fine s1 := by simpa [s1] using hs
  have h2 : Fine s2 := by
    simp only [s2]
    split
    · exact testCores_fine _ _ _ _ (restoreSram_fine _ _ h1)
    · exact h1
  have h3 : Fine s3 := by
    simp only [s3]
    split
    · exact endStackTest_fine _ _ _ _ h2
    · exact h2
  have h4 : Fine s4 := by simpa [s4] using h3
  have h5 : Fine s5 := by
    simp only [s5]
    cases cmd
    · exact h4
    · simpa using h4
  split
  · exact (answersFine_next _).2 hs
  · simpa using h5

@[simp] theorem execCoreFailure_answersFine (die core s) (hs : Fine s) : AnswersFine (execCoreFailure die core s) := by
  simp [hs, execCoreFailure]

@[simp] theorem execCoreStopTimeout_answersFine (lane position s) (hs : Fine s) :
    AnswersFine (execCoreStopTimeout lane position s) := by
  simp [hs, execCoreStopTimeout]

@[simp] theorem execHbmUncorrectable_answersFine (lane bank row s) (hs : Fine s) :
    AnswersFine (execHbmUncorrectable lane bank row s) := by
  unfold execHbmUncorrectable
  dsimp only
  have h := listRow_fine (modLane s lane fun l => { l with
    hbc := { l.hbc with eccUe := satInc l.hbc.eccUe }, st := { l.st with lapLost := l.st.lapLost || !l.st.slots.isEmpty } })
    lane bank row (by simpa using hs)
  (repeat' split) <;> simpa using h

@[simp] theorem execStewardFault_answersFine (lane s) (hs : Fine s) : AnswersFine (execStewardFault lane s) := by
  simp [hs, execStewardFault]

@[simp] theorem execHbcFault_answersFine (lane s) (hs : Fine s) : AnswersFine (execHbcFault lane s) := by simp [hs, execHbcFault]
@[simp] theorem execDieLinkFault_answersFine (die s) (hs : Fine s) : AnswersFine (execDieLinkFault die s) :=
  (answersFine_next _).2 (foldl_fine _ (fun s n hs => retireLane_fine s n 0x05 false hs) _ hs)
/-! ### Machine/Regions -/

@[simp] theorem takeNear_mems (s t x) : SameMems s (takeNear s t x) := by unfold takeNear; split <;> simp
@[simp] theorem takeFar_mems (s p len) : SameMems s (takeFar s p len) := by unfold takeFar; split <;> simp

@[simp] theorem execRegionAlloc_answersFine (h flags len s) (hs : Fine s) : AnswersFine (execRegionAlloc h flags len s) := by
  refine hostCmd_answersFine (fun s hs => ?_) hs
  dsimp only
  (repeat' split) <;> simp [hs]

@[simp] theorem freeRegionSpace_mems (s r) : SameMems s (freeRegionSpace s r) := by
  unfold freeRegionSpace
  split <;> simp

@[simp] theorem execRegionFree_answersFine (h rkey s) (hs : Fine s) : AnswersFine (execRegionFree h rkey s) := by
  refine hostCmd_answersFine (fun s hs => ?_) hs
  split <;> simp [hs]

/-! ### Machine/SlotWork -/

@[simp] theorem assignOne_mems (n slot layer cap s x) : SameMems s (assignOne n slot layer cap s x) := by
  simp [assignOne]

@[simp] theorem assignRoutes_mems (s n slot layer cap routes) : SameMems s (assignRoutes s n slot layer cap routes) := by
  simp [assignRoutes]

@[simp] theorem matrixWork_fine (s n m o a cols dst) (hs : Fine s) : Fine (matrixWork s n m o a cols dst) := by
  simp [hs, matrixWork]

@[simp] theorem logitsWork_mems (s n m o b a cols) : SameMems s (logitsWork s n m o b a cols) := by simp [logitsWork]
@[simp] theorem doWork_fine (s n i x w) (hs : Fine s) : Fine (doWork s n i x w) := by unfold doWork; (repeat' split) <;> simp [hs]

@[simp] theorem runWorks_fine (n i x s xs ys) (hs : Fine s) : Fine (runWorks n i x s xs ys).1 := by
  fun_induction runWorks n i x s xs ys <;> simp_all

@[simp] theorem runSlot_fine (s n i x ws) (hs : Fine s) : Fine (runSlot s n i x ws) := by simp [hs, runSlot]

theorem sealOnce_fine (s n) {u} (h : sealOnce s n = some u) (hs : Fine s) : Fine u := by
  simp only [sealOnce] at h
  split at h <;> cases h
  simp [hs]

@[simp] theorem settle_fine (n s k) (hs : Fine s) : Fine (settle n s k) := by
  fun_induction settle n s k with
  | case1 => exact hs
  | case2 fuel s k t hseal ih => exact ih (sealOnce_fine _ _ hseal hs)
  | case3 fuel s k hseal t hless ih => exact ih (foldl_fine _ (fun s p hs => by split <;> simp [hs]) _ hs)
  | case4 fuel s k hseal t hless => exact foldl_fine _ (fun s p hs => by split <;> simp [hs]) _ hs

@[simp] theorem settleLane_fine (s n) (hs : Fine s) : Fine (settleLane s n) := by simp [hs, settleLane]
@[simp] theorem fetchNext_mems (s n b) : SameMems s (fetchNext s n b) := by unfold fetchNext; (repeat' split) <;> simp
@[simp] theorem fetchArrived_mems (s n) : SameMems s (fetchArrived s n) := by simp [fetchArrived]
@[simp] theorem heatEnd_mems (s n x) : SameMems s (heatEnd s n x) := by simp [heatEnd]

@[simp] theorem stageBytes_fine (s n x) (hs : Fine s) : Fine (stageBytes s n x) := by
  have h (src : Mem) (a k b : Nat) : Canonical (setStack s n (memMove src a k (stackOf s n) b)).mem (saves s.lanes) :=
    setStack_fine n (memMove_wf src a k b (hs.stack n)) hs
  unfold stageBytes
  dsimp only
  (repeat' split) <;> simp [hs, h]

@[simp] theorem switchSram_fine (s n x) (hs : Fine s) : Fine (switchSram s n x) := by
  have h : Fine (modLane s n fun l =>
      { l with sramSave := tblSet l.sramSave l.curModel (laneSram s n), curModel := x.model.toNat }) := by
    refine Canonical.modLane n _ (fun e he => ?_) hs
    rcases mem_tblSet he with he | rfl
    · exact hs.saved n e he
    · exact laneSram_wf s n
  unfold switchSram
  dsimp only
  split
  · exact setLaneSram_fine _ _ h
  · exact h
/-! ### Machine/Plan -/

@[simp] theorem planCpl_mems (s h code second reason) : SameMems s (planCpl s h code second reason) := by simp [planCpl]
@[simp] theorem noteRefuse_mems (s x) : SameMems s (noteRefuse s x) := ⟨rfl, rfl⟩
@[simp] theorem refuseLoad_mems (s h x) : SameMems s (refuseLoad s h x) := by simp [refuseLoad]
@[simp] theorem execPlanLoad_answersFine (h totalBytes s) (hs : Fine s) : AnswersFine (execPlanLoad h totalBytes s) := by
  simp [hs, execPlanLoad]

@[simp] theorem dropStaged_mems (s reason) : SameMems s (dropStaged s reason) := by
  unfold dropStaged
  dsimp only
  split <;> simp

@[simp] theorem execPlanWithdraw_answersFine (h s) (hs : Fine s) : AnswersFine (execPlanWithdraw h s) := by
  simp [hs, execPlanWithdraw]

@[simp] theorem execPlanImageFetched_answersFine (img s) (hs : Fine s) : AnswersFine (execPlanImageFetched img s) := by
  unfold execPlanImageFetched
  split <;> simp [hs]

@[simp] theorem stagePlan_mems (s h p) : SameMems s (stagePlan s h p) := by simp [stagePlan]
@[simp] theorem noteTable_mems (s p x) : SameMems s (noteTable s p x) := by unfold noteTable; (repeat' split) <;> simp

@[simp] theorem execPlanChecked_answersFine (s) (hs : Fine s) : AnswersFine (execPlanChecked s) := by
  unfold execPlanChecked
  (repeat' split) <;> simp [hs]

@[simp] theorem execPlanDeadlinePassed_answersFine (s) (hs : Fine s) : AnswersFine (execPlanDeadlinePassed s) := by
  unfold execPlanDeadlinePassed
  (repeat' split) <;> simp [hs]

@[simp] theorem dropRegionsIn_mems (s n) : SameMems s (dropRegionsIn s n) := by simp [dropRegionsIn]
@[simp] theorem endAuditsIn_mems (s n) : SameMems s (endAuditsIn s n) := by simp [endAuditsIn]
@[simp] theorem dropLost_mems (s n) : SameMems s (dropLost s n) := ⟨rfl, rfl⟩
@[simp] theorem rebuildLane_fine (s p n) (hs : Fine s) : Fine (rebuildLane s p n) := by simp [hs, rebuildLane]
@[simp] theorem dropReplacement_mems (s n) : SameMems s (dropReplacement s n) := by simp [dropReplacement]
@[simp] theorem switchLane_fine (s p n) (hs : Fine s) : Fine (switchLane s p n) := by
  have h : Fine (dropReplacement s n) := by simpa using hs
  unfold switchLane
  extract_lets t x c
  split
  · split
    · exact rebuildLane_fine _ _ _ h
    · exact h
  · split
    · exact rebuildLane_fine _ _ _ h
    · refine Canonical.modLane n _ ?_ h
      simp only []
      (repeat' split) <;> exact h.saved n

@[simp] theorem switchBib_mems (s old new) : SameMems s (switchBib s old new) := by simp [switchBib]
@[simp] theorem trimRegions_mems (s k) : SameMems s (trimRegions s k) := by simp [trimRegions]
@[simp] theorem switchTrack_mems (s old p) : SameMems s (switchTrack s old p) := by unfold switchTrack; split <;> simp
@[simp] theorem switchLap_mems (s p m) : SameMems s (switchLap s p m) := by simp [switchLap]
@[simp] theorem switchModels_mems (s p) : SameMems s (switchModels s p) := ⟨rfl, rfl⟩
@[simp] theorem takePlan_mems (s p) : SameMems s (takePlan s p) := ⟨rfl, rfl⟩

@[simp] theorem planSwitch_fine (s p m) (hs : Fine s) : Fine (planSwitch s p m) := by
  have h : Fine (laneNos.foldl (fun s n => switchLane s p n) s) := foldl_fine _ (fun s n hs => switchLane_fine s p n hs) _ hs
  unfold planSwitch
  dsimp only
  (repeat' split) <;> simpa using h

@[simp] theorem copyWeights_fine (s n x) (hs : Fine s) : Fine (copyWeights s n x) := by
  unfold copyWeights
  refine foldl_fine _ (fun s i hs => ?_) _ hs
  (repeat' split) <;> first | exact hs | exact setStack_fine _ (memMove_wf _ _ _ _ (hs.stack n)) hs

@[simp] theorem finishBuild_fine (s n x) (hs : Fine s) : Fine (finishBuild s n x) := by simp [hs, finishBuild]

@[simp] theorem execLaneBuildDone_answersFine (lane digest s) (hs : Fine s) : AnswersFine (execLaneBuildDone lane digest s) := by
  unfold execLaneBuildDone
  dsimp only
  (repeat' split) <;> simp [hs]

@[simp] theorem execWeightPut_answersFine (h len digest data s) (hs : Fine s) :
    AnswersFine (execWeightPut h len digest data s) := by
  refine hostCmd_answersFine (fun s hs => ?_) hs
  dsimp only
  split
  · simp [hs]
  · simpa using hs.withCap _ (foldl_wf _ (fun _ _ h => memWrite_wf _ _ h) _ (hs.cap _))

@[simp] theorem execStageVariant_answersFine (h lane model s) (hs : Fine s) : AnswersFine (execStageVariant h lane model s) := by
  refine hostCmd_answersFine (fun s hs => ?_) hs
  dsimp only
  (repeat' split) <;> simp [hs]

@[simp] theorem execVariantLanded_answersFine (lane digest s) (hs : Fine s) : AnswersFine (execVariantLanded lane digest s) := by
  unfold execVariantLanded
  dsimp only
  (repeat' split) <;> simp [hs]

@[simp] theorem takeVariant_mems (s n) : SameMems s (takeVariant s n) := by
  unfold takeVariant
  dsimp only
  split <;> simp

@[simp] theorem execLapTableReplacement_answersFine (lane table swapLap deadlineLap s) (hs : Fine s) :
    AnswersFine (execLapTableReplacement lane table swapLap deadlineLap s) := by
  unfold execLapTableReplacement
  dsimp only
  split <;> simp [hs]

@[simp] theorem refuseTable_mems (s n reason) : SameMems s (refuseTable s n reason) := by simp [refuseTable]

@[simp] theorem execLapTableReady_answersFine (lane s) (hs : Fine s) : AnswersFine (execLapTableReady lane s) := by
  unfold execLapTableReady
  dsimp only
  (repeat' split) <;> simp [hs]

@[simp] theorem execLapTableLate_answersFine (lane s) (hs : Fine s) : AnswersFine (execLapTableLate lane s) := by
  unfold execLapTableLate
  (repeat' split) <;> simp [hs]

@[simp] theorem swapTable_mems (s n m) : SameMems s (swapTable s n m) := by unfold swapTable; dsimp only; split <;> simp

/-! ### Machine/Fwu -/

@[simp] theorem setFwuSlot_mems (s b x) : SameMems s (setFwuSlot s b x) := ⟨rfl, rfl⟩
@[simp] theorem setSlotState_mems (s b x) : SameMems s (setSlotState s b x) := ⟨rfl, rfl⟩
@[simp] theorem fwuResult_mems (s code reason) : SameMems s (fwuResult s code reason) := ⟨rfl, rfl⟩
@[simp] theorem fwuRefuse_mems (s reason) : SameMems s (fwuRefuse s reason) := ⟨rfl, rfl⟩
@[simp] theorem rejectTrial_mems (s b) : SameMems s (rejectTrial s b) := by simp [rejectTrial]

@[simp] theorem startPause_mems (s) : SameMems s (startPause s) := by
  unfold startPause
  dsimp only
  (repeat' split) <;> simp

@[simp] theorem recheck_mems (s) : SameMems s (recheck s) := by unfold recheck; split <;> simp
@[simp] theorem pauseAtBoundary_mems (s) : SameMems s (pauseAtBoundary s) := by simp [pauseAtBoundary]
@[simp] theorem pauseAtOnce_mems (s) : SameMems s (pauseAtOnce s) := by simp [pauseAtOnce]
@[simp] theorem flushLate_mems (s) : SameMems s (flushLate s) := by simp [flushLate]

@[simp] theorem execCoachServesAgain_answersFine (s) (hs : Fine s) : AnswersFine (execCoachServesAgain s) := by
  unfold execCoachServesAgain
  dsimp only
  (repeat' split) <;> simp [hs]

@[simp] theorem execCoachWatchdog_answersFine (s) (hs : Fine s) : AnswersFine (execCoachWatchdog s) := by
  unfold execCoachWatchdog
  dsimp only
  (repeat' split) <;> simp [hs]

@[simp] theorem execCoachRestartTimeout_answersFine (s) (hs : Fine s) : AnswersFine (execCoachRestartTimeout s) := by
  simp [hs, execCoachRestartTimeout]

@[simp] theorem fwuStage_mems (s) : SameMems s (fwuStage s) := by simp [fwuStage]
@[simp] theorem fwuActivate_mems (s b) : SameMems s (fwuActivate s b) := by simp [fwuActivate]
@[simp] theorem fwuConfirm_mems (s) : SameMems s (fwuConfirm s) := by unfold fwuConfirm; (repeat' split) <;> simp
@[simp] theorem fwuRom_mems (s) : SameMems s (fwuRom s) := by simp [fwuRom]
@[simp] theorem writeFwuCmd_mems (s v) : SameMems s (writeFwuCmd s v) := by unfold writeFwuCmd; split <;> simp
@[simp] theorem execFwuStage_answersFine (a s) (hs : Fine s) : AnswersFine (execFwuStage a s) := by simp [hs, execFwuStage]
@[simp] theorem execActivate_answersFine (a slotB s) (hs : Fine s) : AnswersFine (execActivate a slotB s) := by
  simp [hs, execActivate]

@[simp] theorem execConfirm_answersFine (a s) (hs : Fine s) : AnswersFine (execConfirm a s) := by simp [hs, execConfirm]
@[simp] theorem execRom_answersFine (a s) (hs : Fine s) : AnswersFine (execRom a s) := by simp [hs, execRom]

@[simp] theorem execFwuStageDone_answersFine (img s) (hs : Fine s) : AnswersFine (execFwuStageDone img s) := by
  unfold execFwuStageDone
  dsimp only
  (repeat' split) <;> simp [hs]

@[simp] theorem execHealthyTimer_answersFine (s) (hs : Fine s) : AnswersFine (execHealthyTimer s) := by
  simp [hs, execHealthyTimer]

@[simp] theorem execConfirmWindowExpired_answersFine (s) (hs : Fine s) : AnswersFine (execConfirmWindowExpired s) := by
  unfold execConfirmWindowExpired
  (repeat' split) <;> simp [hs]

/-! ### Machine/Marshal -/

@[simp] theorem rxMarshal_fine (s f m mtype k) (hk : ∀ u x, Fine u → Fine (k u x)) (hs : Fine s) :
    Fine (rxMarshal s f m mtype k) := by
  grind [rxMarshal, arrive_fine, checkFail_mems]

@[simp] theorem strayMsg_mems (s m) : SameMems s (strayMsg s m) := by simp [strayMsg]

@[simp] theorem takeHeartbeat_mems (s m) : SameMems s (takeHeartbeat s m) := by
  unfold takeHeartbeat
  dsimp only
  (repeat' split) <;> simp

@[simp] theorem execHeartbeat_answersFine (f m s) (hs : Fine s) : AnswersFine (execHeartbeat f m s) := by simp [hs, execHeartbeat]
@[simp] theorem takeEcho_mems (s m) : SameMems s (takeEcho s m) := by unfold takeEcho; split <;> simp
@[simp] theorem execEcho_answersFine (f m s) (hs : Fine s) : AnswersFine (execEcho f m s) := by simp [hs, execEcho]
@[simp] theorem takeSuspect_mems (s m) : SameMems s (takeSuspect s m) := by simp [takeSuspect]
@[simp] theorem execSuspect_answersFine (f m s) (hs : Fine s) : AnswersFine (execSuspect f m s) := by simp [hs, execSuspect]
@[simp] theorem execFence_answersFine (f m s) (hs : Fine s) : AnswersFine (execFence f m s) := by
  refine (answersFine_next _).2 (rxMarshal_fine _ _ _ _ _ (fun s src hs => ?_) hs)
  split
  · exact hs
  · exact fenceIn_fine _ _ _ _ _ _ hs

@[simp] theorem execReadmit_answersFine (f m s) (hs : Fine s) : AnswersFine (execReadmit f m s) := by simp [hs, execReadmit]
@[simp] theorem execReport_answersFine (f m _entry s) (hs : Fine s) : AnswersFine (execReport f m _entry s) := by
  simp [hs, execReport]

@[simp] theorem execHeartbeatSend_answersFine (round s) (hs : Fine s) : AnswersFine (execHeartbeatSend round s) := by
  simp [hs, execHeartbeatSend]

@[simp] theorem suspectDev_mems (s d r) : SameMems s (suspectDev s d r) := by simp [suspectDev]
@[simp] theorem execHeartbeatDue_answersFine (round s) (hs : Fine s) : AnswersFine (execHeartbeatDue round s) := by
  simp [hs, execHeartbeatDue]

@[simp] theorem execEchoDue_answersFine (round s) (hs : Fine s) : AnswersFine (execEchoDue round s) := by
  unfold execEchoDue
  split <;> simp [hs]

@[simp] theorem closeTally_fine (s r d) (hs : Fine s) : Fine (closeTally s r d) := by
  unfold closeTally
  dsimp only
  (repeat' split)
  · exact fenceIn_fine _ _ _ _ _ _ (by simpa using hs)
  · simpa using hs
  · exact hs

@[simp] theorem execTallyClose_answersFine (round s) (hs : Fine s) : AnswersFine (execTallyClose round s) := by
  have h (ds : List DevId) {s : State} (hs : Fine s) : Fine (ds.foldl (fun s d => closeTally s round d) s) :=
    foldl_fine _ (fun s d hs => closeTally_fine s round d hs) ds hs
  unfold execTallyClose
  rw [answersFine_next]
  split
  · simpa using h _ hs
  · exact hs

@[simp] theorem marResult_mems (s code) : SameMems s (marResult s code) := ⟨rfl, rfl⟩
@[simp] theorem marCmdFence_fine (s) (hs : Fine s) : Fine (marCmdFence s) := by simp [hs, marCmdFence]
@[simp] theorem marCmdReadmitNow_mems (s) : SameMems s (marCmdReadmitNow s) := by simp [marCmdReadmitNow]
@[simp] theorem execMarCmdFenceAdmin_answersFine (a s) (hs : Fine s) : AnswersFine (execMarCmdFenceAdmin a s) :=
  regCmd_answersFine _ _ _ _ (fun _ hu => marCmdFence_fine _ hu) hs

@[simp] theorem execMarCmdReadmit_answersFine (a s) (hs : Fine s) : AnswersFine (execMarCmdReadmit a s) := by
  simp [hs, execMarCmdReadmit]

@[simp] theorem marCmdSwapNow_mems (s) : SameMems s (marCmdSwapNow s) := by unfold marCmdSwapNow; split <;> simp
@[simp] theorem execMarCmdSwap_answersFine (a s) (hs : Fine s) : AnswersFine (execMarCmdSwap a s) := by simp [hs, execMarCmdSwap]
@[simp] theorem execPortFenceWrite_answersFine (a v s) (hs : Fine s) : AnswersFine (execPortFenceWrite a v s) := by
  simp [hs, execPortFenceWrite]

@[simp] theorem execStragglerReport_answersFine (dev s) (hs : Fine s) : AnswersFine (execStragglerReport dev s) := by
  simp [hs, execStragglerReport]

@[simp] theorem nackSys_fine (s d psn code) (hs : Fine s) : Fine (nackSys s d psn code) := by
  unfold nackSys
  dsimp only
  (repeat' split)
  all_goals first | exact abortLeg_fine _ _ _ _ (by simpa using hs) | simpa using hs

@[simp] theorem execNack_answersFine (f s) (hs : Fine s) : AnswersFine (execNack f s) := by
  have hself (s : State) (hs : Fine s) (e : BitVec 16) (d : Bool) : Fine (fenceSelf (takeFree s).2 e d) :=
    fenceSelf_fine _ _ _ (by simpa using hs)
  refine rxAckLike_answersFine (fun s h hs => ?_) hs
  extract_lets code s1 x
  have h1 : Fine s1 := by
    simp only [s1]
    split
    · exact nackSys_fine _ _ _ _ hs
    · split
      · simpa using hs
      · exact hs
  split
  · exact hself _ h1 _ _
  · exact h1
/-! ### Machine/Pages -/

theorem tierPlace_mems (s r bytes) {a' b' u} (h : tierPlace s r bytes = some (a', b', u)) : SameMems s u := by
  obtain ⟨k, -, hk⟩ := Option.map_eq_some_iff.1 h
  cases hk
  exact ⟨rfl, rfl⟩

@[simp] theorem copyPage_fine (s b r e) (hs : Fine s) : Fine (copyPage s b r e) := by
  unfold copyPage
  dsimp only
  split
  · exact hs
  · next hplace =>
    obtain ⟨hm, hl⟩ := tierPlace_mems _ _ _ hplace
    simp only [Fine, ← hm, ← hl] at hs
    exact hs.withCap _ (memStore_wf _ _ _ (hs.cap _))

@[simp] theorem execCapCopyDone_answersFine (baton layer index s) (hs : Fine s) :
    AnswersFine (execCapCopyDone baton layer index s) := by
  unfold execCapCopyDone
  (repeat' split) <;> simp [hs]

@[simp] theorem fetchLand_fine (s n b r m p e len) (hs : Fine s) : Fine (fetchLand s n b r m p e len) := by
  have h (bs : List Byte) : Canonical (setStack s n (storeImage (stackOf s n) (laneOf s n) e.slots 0 bs)).mem (saves s.lanes) :=
    setStack_fine n (storeImage_wf _ _ _ bs (hs.stack n)) hs
  unfold fetchLand
  simp [h]

@[simp] theorem execPageFetchDone_answersFine (baton layer index s) (hs : Fine s) :
    AnswersFine (execPageFetchDone baton layer index s) := by
  unfold execPageFetchDone
  (repeat' split) <;> simp [hs]

@[simp] theorem execHeatDirLate_answersFine (lane s) (hs : Fine s) : AnswersFine (execHeatDirLate lane s) := by
  unfold execHeatDirLate
  (repeat' split) <;> simp [hs]

@[simp] theorem execBatonResident_answersFine (baton s) (hs : Fine s) : AnswersFine (execBatonResident baton s) := by
  unfold execBatonResident
  (repeat' split) <;> simp [hs]

@[simp] theorem heldCpl_mems (s r) : SameMems s (heldCpl s r) := by simp [heldCpl]

@[simp] theorem execHoldLimitPark_answersFine (baton s) (hs : Fine s) : AnswersFine (execHoldLimitPark baton s) := by
  unfold execHoldLimitPark
  (repeat' split) <;> simp [hs]

@[simp] theorem execHandoffWaitExpired_answersFine (baton s) (hs : Fine s) : AnswersFine (execHandoffWaitExpired baton s) := by
  unfold execHandoffWaitExpired
  (repeat' split) <;> simp [hs]

/-! ### Machine/Laps -/

@[simp] theorem touchReq_mems (s b) : SameMems s (touchReq s b) := ⟨rfl, rfl⟩

@[simp] theorem execSlotStart_answersFine (lane slot work s) (hs : Fine s) : AnswersFine (execSlotStart lane slot work s) := by
  have h (l : Lane) (hl : l.sramSave = (laneOf s lane).sramSave) (x : Slot) :
      Fine ((slotReaders (setLane s lane l) lane x).foldl touchReq (setLane s lane l)) := by
    simpa [hl] using hs
  unfold execSlotStart
  dsimp only
  (repeat' split)
  · simpa using hs
  · exact (answersFine_next _).2 (settleLane_fine _ _ (runSlot_fine _ _ _ _ _ (h _ (by simp) _)))
  · exact (answersFine_next _).2 (settleLane_fine _ _ (runSlot_fine _ _ _ _ _ (h _ (by simp) _)))
  · simpa using hs

@[simp] theorem execWeightHalfFull_answersFine (lane s) (hs : Fine s) : AnswersFine (execWeightHalfFull lane s) := by
  unfold execWeightHalfFull
  dsimp only
  split <;> simp [hs]

@[simp] theorem slotEnd_fine (s n x) (hs : Fine s) : Fine (slotEnd s n x) := by simp [hs, slotEnd]
@[simp] theorem lateSource_mems (s d) : SameMems s (lateSource s d) := by simp [lateSource]

@[simp] theorem execSlotComplete_answersFine (lane slot cycles source s) (hs : Fine s) :
    AnswersFine (execSlotComplete lane slot cycles source s) := by
  have h (l : Lane) (hl : l.sramSave = (laneOf s lane).sramSave) (x : Slot) : Fine (slotEnd (setLane s lane l) lane x) :=
    slotEnd_fine _ _ _ (by simpa [hl] using hs)
  unfold execSlotComplete
  dsimp only
  (repeat' split)
  all_goals first | simpa using hs | simpa using h _ (by simp) _

@[simp] theorem execJudgeReturn_answersFine (lane baton s) (hs : Fine s) : AnswersFine (execJudgeReturn lane baton s) := by
  unfold execJudgeReturn
  dsimp only
  (repeat' split) <;> simp [hs]

@[simp] theorem countProductive_mems (s done) : SameMems s (countProductive s done) := by simp [countProductive]

@[simp] theorem commitLanes_fine (s) (hs : Fine s) : Fine (commitLanes s).1 := by
  unfold commitLanes
  refine foldl_fst_fine _ (fun y n hy => ?_) _ hs
  exact commitLane_fine y.1 n hy

@[simp] theorem doCommit_fine (s) (hs : Fine s) : Fine (doCommit s) := by simp [hs, doCommit]
@[simp] theorem execCommitPoint_answersFine (s) (hs : Fine s) : AnswersFine (execCommitPoint s) := by simp [hs, execCommitPoint]
@[simp] theorem throttleUpdate_mems (s) : SameMems s (throttleUpdate s) := by simp [throttleUpdate]
@[simp] theorem leaderTakeover_mems (s) : SameMems s (leaderTakeover s) := by simp [leaderTakeover]
@[simp] theorem leadPulse_mems (s) : SameMems s (leadPulse s) := by simp [leadPulse]
@[simp] theorem startDrain_mems (s n) : SameMems s (startDrain s n) := by simp [startDrain]
@[simp] theorem laneCommands_mems (s n) : SameMems s (laneCommands s n) := by simp [laneCommands]
@[simp] theorem boundaryStops_mems (s n) : SameMems s (boundaryStops s n) := by simp [boundaryStops]

@[simp] theorem retrySpill_mems (s b) : SameMems s (retrySpill s b) := by
  unfold retrySpill
  grind [openSpill_mems, allocTier_mems]

@[simp] theorem retryPark_mems (s b) : SameMems s (retryPark s b) := by unfold retryPark; split <;> simp
@[simp] theorem retryHandoff_mems (s b) : SameMems s (retryHandoff s b) := by simp [retryHandoff]
@[simp] theorem boundaryReqs_mems (s) : SameMems s (boundaryReqs s) := by simp [boundaryReqs]
@[simp] theorem drainedLane_mems (s n) : SameMems s (drainedLane s n) := by simp [drainedLane]
@[simp] theorem dirBoundary_mems (s n) : SameMems s (dirBoundary s n) := by simp [dirBoundary]
@[simp] theorem countClean_mems (s n) : SameMems s (countClean s n) := by simp [countClean]

@[simp] theorem startLane_fine (s n) (hs : Fine s) : Fine (startLane s n) := by
  unfold startLane
  dsimp only
  (repeat' split) <;> simp [hs]

@[simp] theorem boundaryWork_fine (s) (hs : Fine s) : Fine (boundaryWork s) := by
  have hlanes {s : State} (hs : Fine s) :
    Fine (laneNos.foldl startLane s) := foldl_fine _ (fun s n hs => startLane_fine s n hs) _ hs
  unfold boundaryWork
  simpa using hlanes (by simpa using hs)

@[simp] theorem endGrace_mems (s) : SameMems s (endGrace s) := by simp [endGrace]
@[simp] theorem stagedAt_fine (s m) (hs : Fine s) : Fine (stagedAt s m) := by unfold stagedAt; split <;> simp [hs]

@[simp] theorem nextLap_fine (s) (hs : Fine s) : Fine (nextLap s) := by
  unfold nextLap
  dsimp only
  split
  · exact boundaryWork_fine _ (stagedAt_fine _ _ (by simpa using hs))
  · exact boundaryWork_fine _ (stagedAt_fine _ _ (by simpa using doCommit_fine s hs))

@[simp] theorem firstLap_fine (s p) (hs : Fine s) : Fine (firstLap s p) := by simp [hs, firstLap]

@[simp] theorem execLapBoundary_answersFine (s) (hs : Fine s) : AnswersFine (execLapBoundary s) := by
  unfold execLapBoundary
  (repeat' split) <;> simp [hs]

@[simp] theorem execLapSyncEdge_answersFine (offset s) (hs : Fine s) : AnswersFine (execLapSyncEdge offset s) := by
  unfold execLapSyncEdge
  split <;> simp [hs]

@[simp] theorem execSyncLost_answersFine (s) (hs : Fine s) : AnswersFine (execSyncLost s) := by
  unfold execSyncLost
  split <;> simp [hs]

@[simp] theorem execSyncRegained_answersFine (s) (hs : Fine s) : AnswersFine (execSyncRegained s) := by
  unfold execSyncRegained
  split <;> simp [hs]

@[simp] theorem execPtpLockLost_answersFine (s) (hs : Fine s) : AnswersFine (execPtpLockLost s) := by
  unfold execPtpLockLost
  dsimp only
  split <;> simp [hs]

/-! ### Machine/HostPort -/

@[simp] theorem execCommandRingTail_answersFine (f tenant tail s) (hs : Fine s) :
    AnswersFine (execCommandRingTail f tenant tail s) := by
  unfold execCommandRingTail
  dsimp only
  split <;> simp [hs]

@[simp] theorem execCompletionRingHead_answersFine (f tenant head s) (hs : Fine s) :
    AnswersFine (execCompletionRingHead f tenant head s) := by
  unfold execCompletionRingHead
  dsimp only
  split <;> simp [hs]

@[simp] theorem execContextMsiXHoldoff_answersFine (tenant s) (hs : Fine s) : AnswersFine (execContextMsiXHoldoff tenant s) := by
  unfold execContextMsiXHoldoff
  dsimp only
  split <;> simp [hs]

@[simp] theorem execEvtMsiHoldoff_answersFine (s) (hs : Fine s) : AnswersFine (execEvtMsiHoldoff s) := by
  unfold execEvtMsiHoldoff
  split <;> simp [hs]

@[simp] theorem dropCpls_mems (s n) : SameMems s (dropCpls s n) := ⟨rfl, rfl⟩
@[simp] theorem dropSq_mems (s q) : SameMems s (dropSq s q) := by unfold dropSq; split <;> simp
@[simp] theorem dropRq_mems (s q) : SameMems s (dropRq s q) := by unfold dropRq; split <;> simp
@[simp] theorem pauseRing_mems (s f b) : SameMems s (pauseRing s f b) := by unfold pauseRing; split <;> simp
@[simp] theorem closeFunc_mems (s f) : SameMems s (closeFunc s f) := by simp [closeFunc]

@[simp] theorem execFunctionLevelReset_answersFine (f s) (hs : Fine s) : AnswersFine (execFunctionLevelReset f s) := by
  simp [hs, execFunctionLevelReset]

@[simp] theorem execPcieFundamentalReset_answersFine (s) (hs : Fine s) : AnswersFine (execPcieFundamentalReset s) := by
  simp [hs, execPcieFundamentalReset]

@[simp] theorem startTraining_mems (s) : SameMems s (startTraining s) := ⟨rfl, rfl⟩
@[simp] theorem execPerstRelease_answersFine (s) (hs : Fine s) : AnswersFine (execPerstRelease s) := by
  simp [hs, execPerstRelease]

@[simp] theorem pumpHost_mems (s) : SameMems s (pumpHost s) := by simp [pumpHost]

@[simp] theorem execPcieLinkUp_answersFine (width speed flit s) (hs : Fine s) :
    AnswersFine (execPcieLinkUp width speed flit s) := by
  unfold execPcieLinkUp
  split <;> simp [hs]

@[simp] theorem linkDetect_mems (s) : SameMems s (linkDetect s) := ⟨rfl, rfl⟩

@[simp] theorem execPcieLinkDownAfterFatal_answersFine (s) (hs : Fine s) : AnswersFine (execPcieLinkDownAfterFatal s) := by
  simp [hs, execPcieLinkDownAfterFatal]

@[simp] theorem execPcieConfigRequest_answersFine (f s) (hs : Fine s) : AnswersFine (execPcieConfigRequest f s) := by
  simp [hs, execPcieConfigRequest]

@[simp] theorem voidCopies_mems (s p b) : SameMems s (voidCopies s p b) := by unfold voidCopies; split <;> simp
@[simp] theorem dropRegionsOn_fine (s p) (hs : Fine s) : Fine (dropRegionsOn s p) := Canonical.withData hs (filter_wf _ hs.data)
@[simp] theorem loseStaging_mems (s p) : SameMems s (loseStaging s p) := by simp [loseStaging]
@[simp] theorem capDown_fine (s p) (hs : Fine s) : Fine (capDown s p) := by
  have hlegs (gs : List Leg) {s : State} (hs : Fine s) : Fine (gs.foldl (fun s g => abortLeg s g .discarded true) s) :=
    foldl_fine _ (fun s g hs => abortLeg_fine s g .discarded true hs) gs hs
  have hempty {s : State} (hs : Fine s) : Canonical { s.mem with cap := vset s.mem.cap p [] } (saves s.lanes) := hs.withCap p rfl
  unfold capDown
  extract_lets up s1 s2 s3 s4 ports cap mem s5
  have h1 : Fine s1 := by simpa [s1] using hs
  have h2 : Fine s2 := hlegs _ h1
  have h3 : Fine s3 := by simpa [s3] using h2
  have h4 : Fine s4 := dropRegionsOn_fine _ _ h3
  have h5 : Fine s5 := hempty h4
  split
  · exact hs
  · split
    · simpa using h5
    · exact h5

@[simp] theorem execCapLinkDown_answersFine (port s) (hs : Fine s) : AnswersFine (execCapLinkDown port s) := by
  simp [hs, execCapLinkDown]

@[simp] theorem retrainCap_fine (s p v) (hs : Fine s) : Fine (retrainCap s p v) := by simp [hs, retrainCap]
@[simp] theorem execCapRetrain_answersFine (a port v s) (hs : Fine s) : AnswersFine (execCapRetrain a port v s) :=
  regCmd_answersFine _ _ _ _ (fun _ hu => retrainCap_fine _ _ _ hu) hs

@[simp] theorem execCapPortTrained_answersFine (port r s) (hs : Fine s) : AnswersFine (execCapPortTrained port r s) := by
  unfold execCapPortTrained
  split <;> simp [hs]

/-! ### Machine/Legs -/

@[simp] theorem lateDrop_mems (s) : SameMems s (lateDrop s) := ⟨rfl, rfl⟩

@[simp] theorem tryInbound_mems (s r n) : SameMems s (tryInbound s r n).1 := by
  unfold tryInbound
  grind [foldl_mems, acceptLeg_mems, dirChange_mems]

@[simp] theorem tryInboundLanes_mems (s r xs) : SameMems s (tryInboundLanes s r xs).1 := by
  fun_induction tryInboundLanes s r xs <;> grind [tryInbound_mems]

@[simp] theorem inboundOpen_mems (s r) : SameMems s (inboundOpen s r) := by simp [inboundOpen]

@[simp] theorem servePull_mems (s b dev ext) : SameMems s (servePull s b dev ext) := by
  grind [servePull, scrub_mems, endAudit_mems, refuseAsk_mems, modReq_mems, openRecall_mems, openRemote_mems]

@[simp] theorem serveWaiting_mems (s b) : SameMems s (serveWaiting s b) := by
  unfold serveWaiting
  (repeat' split) <;> simp

@[simp] theorem inboundAdd_fine (s r) (hs : Fine s) : Fine (inboundAdd s r) := by
  grind [inboundAdd, lateDrop_mems, abortLeg_fine, allocItems_mems, modLeg_mems, clearLeg_mems]

@[simp] theorem execLegRequest_answersFine (f r s) (hs : Fine s) : AnswersFine (execLegRequest f r s) := by
  unfold execLegRequest
  split
  · split <;> simp [hs]
  · refine rxSystem_answersFine (fun s hs => ?_) hs
    cases r.ask <;> simp [hs]

@[simp] theorem partHere_fine (s leg part bytes) (hs : Fine s) : Fine (partHere s leg part bytes) := by
  unfold partHere
  (repeat' split) <;> simp [hs]

@[simp] theorem partFrameIn_fine (s f) (hs : Fine s) : Fine (partFrameIn s f) := by unfold partFrameIn; split <;> simp [hs]

@[simp] theorem execLegControlPartRx_answersFine (x s) (hs : Fine s) : AnswersFine (execLegControlPartRx x s) := by
  unfold execLegControlPartRx
  split
  · simp [hs]
  · exact rxSystem_answersFine (fun s hs => partFrameIn_fine _ _ hs) hs

@[simp] theorem sendPage_mems (s g k it image) : SameMems s (sendPage s g k it image) := by simp [sendPage]

@[simp] theorem sendCleared_mems (s g pages) : SameMems s (sendCleared s g pages) := by
  unfold sendCleared
  grind [foldl_mems, sendPage_mems, setPrecopy_mems, sourceDone_mems, modLeg_mems]

@[simp] theorem takeClear_mems (s f g) : SameMems s (takeClear s f g) := by
  unfold takeClear
  dsimp only
  (repeat' split) <;> simp

@[simp] theorem execClearRx_answersFine (f s) (hs : Fine s) : AnswersFine (execClearRx f s) := by
  refine rxSystem_answersFine (fun s hs => ?_) hs
  split <;> simp [hs]

@[simp] theorem execLegPageRx_answersFine (f s) (hs : Fine s) : AnswersFine (execLegPageRx f s) := by
  refine rxSystem_answersFine (fun s hs => ?_) hs
  have h (k : Nat) (bs : List Byte) : Fine { s with mem := { s.mem with xz := memStore s.mem.xz k bs } } :=
    hs.withXz (memStore_wf _ _ _ hs.xz)
  dsimp only
  (repeat' split)
  all_goals first | exact h _ _ | simpa using hs

@[simp] theorem writeImage_fine (s g k p) (hs : Fine s) : Fine (writeImage s g k p) := by
  unfold writeImage
  dsimp only
  (repeat' split)
  all_goals first
    | exact hs
    | exact hs.withCap _ (memStore_wf _ _ _ (hs.cap _))
    | exact setStack_fine _ (storeImage_wf _ _ _ _ (hs.stack _)) hs

@[simp] theorem execXzPageWritten_answersFine (leg ordinal hdr s) (hs : Fine s) :
    AnswersFine (execXzPageWritten leg ordinal hdr s) := by
  unfold execXzPageWritten
  (repeat' split) <;> simp [hs]

@[simp] theorem leaveDevice_mems (d s b) : SameMems s (leaveDevice d s b) := by unfold leaveDevice; split <;> simp

@[simp] theorem execLegCommitRx_answersFine (f s) (hs : Fine s) : AnswersFine (execLegCommitRx f s) := by
  refine rxSystem_answersFine (fun s hs => ?_) hs
  split <;> simp [hs]

@[simp] theorem execLegAbortRx_answersFine (f s) (hs : Fine s) : AnswersFine (execLegAbortRx f s) := by
  refine rxSystem_answersFine (fun s hs => ?_) hs
  dsimp only
  (repeat' split) <;> simp [hs]

@[simp] theorem execLegIdleTimeout_answersFine (leg s) (hs : Fine s) : AnswersFine (execLegIdleTimeout leg s) := by
  unfold execLegIdleTimeout
  (repeat' split) <;> simp [hs]

@[simp] theorem execLegSourceTimeout_answersFine (leg s) (hs : Fine s) : AnswersFine (execLegSourceTimeout leg s) := by
  unfold execLegSourceTimeout
  (repeat' split) <;> simp [hs]

@[simp] theorem execSpillDone_answersFine (baton s) (hs : Fine s) : AnswersFine (execSpillDone baton s) := by
  unfold execSpillDone
  split <;> simp [hs]

@[simp] theorem resumeFails_mems (s b code) : SameMems s (resumeFails s b code) := by unfold resumeFails; split <;> simp

@[simp] theorem execRecallDone_answersFine (baton s) (hs : Fine s) : AnswersFine (execRecallDone baton s) := by
  unfold execRecallDone
  dsimp only
  (repeat' split) <;> simp [hs]

@[simp] theorem execControlScrub_answersFine (baton s) (hs : Fine s) : AnswersFine (execControlScrub baton s) := by
  unfold execControlScrub
  split <;> simp [hs]

@[simp] theorem repairPage_fine (s r e bs) (hs : Fine s) : Fine (repairPage s r e bs) := by
  have hstack (n : LaneNo) :
    Fine (if e.slots.isEmpty then s else setStack s n (storeImage (stackOf s n) (laneOf s n) e.slots e.off bs)) := by
    split
    · exact hs
    · exact setStack_fine n (storeImage_wf _ _ _ _ (hs.stack n)) hs
  have hcopy (p : Fin 4) {s : State} (hs : Fine s) :
      Fine { s with mem := { s.mem with cap := vmod s.mem.cap p fun mm => memStore mm e.tierAddr bs } } :=
    hs.withCap p (memStore_wf _ _ _ (hs.cap p))
  unfold repairPage
  extract_lets s1
  have h1 : Fine s1 := by
    simp only [s1]
    split
    · exact hstack _
    · exact hs
  (repeat' split)
  · exact hcopy _ h1
  · exact h1
  · exact h1

@[simp] theorem execAuditDone_answersFine (baton s) (hs : Fine s) : AnswersFine (execAuditDone baton s) := by
  have h (r : Req) (a : AuditRun) (m : ModelSec) (ps : List (PageEnt × PageEnt)) : Fine (ps.foldl (fun s p =>
      repairPage s r p.2 (scratchImage s a.lane p.1 (comparedBytes m p.1 a.toPos.toNat))) s) :=
    foldl_fine _ (fun s p hs => repairPage_fine s r p.2 _ hs) ps hs
  unfold execAuditDone
  (repeat' split) <;> simp [hs, h]
/-! ### Machine/Resets -/

@[simp] theorem runAfterReset_mems (s) : SameMems s (runAfterReset s).1 := by
  unfold runAfterReset
  (repeat' split) <;> simp

@[simp] theorem fwuReset_mems (s) : SameMems s (fwuReset s).1 := by unfold fwuReset; split <;> simp
@[simp] theorem deviceReset_fine (s mark) (hs : Fine s) : Fine (deviceReset s mark) := by
  have h (v : LaneNo → Tbl Mem) (hv : ∀ n, v n = []) : Canonical Mems.reset v := by
    obtain ⟨hstack, hxz, hctl, hcap, hdata, hsram, -⟩ := resetMemoryIsCanonical
    exact ⟨hstack, hxz, hctl, hcap, hdata, hsram, by simp [hv]⟩
  unfold deviceReset
  dsimp only
  (repeat' split) <;> simp <;> exact h _ fun n => by simp [saves, laneAgain, Lane.reset]

@[simp] theorem mainStart_mems (s) : SameMems s (mainStart s) := ⟨rfl, rfl⟩
@[simp] theorem execPowerOnReset_answersFine (s) (hs : Fine s) : AnswersFine (execPowerOnReset s) := by
  have h : Fine State.reset := resetMemoryIsCanonical
  unfold execPowerOnReset
  dsimp only
  rw [answersFine_next]
  split <;> simpa using h

@[simp] theorem execMainBrownout_answersFine (rails s) (hs : Fine s) : AnswersFine (execMainBrownout rails s) := by
  unfold execMainBrownout
  split <;> simp [hs]

@[simp] theorem execResetPin_answersFine (s) (hs : Fine s) : AnswersFine (execResetPin s) := by simp [hs, execResetPin]
@[simp] theorem execResetPinRelease_answersFine (s) (hs : Fine s) : AnswersFine (execResetPinRelease s) := by
  simp [hs, execResetPinRelease]

@[simp] theorem execRailGood_answersFine (r s) (hs : Fine s) : AnswersFine (execRailGood r s) := by simp [hs, execRailGood]
@[simp] theorem swReset_fine (s a v) (hs : Fine s) : Fine (swReset s a v) := by simp [hs, swReset]

@[simp] theorem execDeviceSoftwareReset_answersFine (a v s) (hs : Fine s) : AnswersFine (execDeviceSoftwareReset a v s) :=
  regCmd_answersFine _ _ _ _ (fun _ hu => swReset_fine _ _ _ hu) hs

@[simp] theorem blockWrite_fine (s v) (hs : Fine s) : Fine (blockWrite s v) := by
  unfold blockWrite
  refine foldl_fine _ (fun s k hs => ?_) _ hs
  split
  · exact blockReset_fine s k hs
  · exact hs

@[simp] theorem execBlockSoftwareReset_answersFine (a v s) (hs : Fine s) : AnswersFine (execBlockSoftwareReset a v s) :=
  regCmd_answersFine _ _ _ _ (fun _ hu => blockWrite_fine _ _ hu) hs

@[simp] theorem execBlockResetRelease_answersFine (block s) (hs : Fine s) : AnswersFine (execBlockResetRelease block s) := by
  unfold execBlockResetRelease
  split <;> simp [hs]

@[simp] theorem setRefused_mems (s n on) : SameMems s (setRefused s n on) := ⟨rfl, rfl⟩
@[simp] theorem laneResetOne_fine (s n) (hs : Fine s) : Fine (laneResetOne s n) := by
  have h : Fine (failLaneCmds (dropReplacement (returnSpares s n) n) n .discarded) := by simpa using hs
  unfold laneResetOne
  split
  · simpa using Canonical.modLane n _ (by simp) h
  · simpa using hs

@[simp] theorem laneResetWrite_fine (s v) (hs : Fine s) : Fine (laneResetWrite s v) := by
  unfold laneResetWrite
  exact foldl_fine _ (fun s n hs => by split <;> simp [hs]) _ (by simpa using hs)

@[simp] theorem execLaneReset_answersFine (a v s) (hs : Fine s) : AnswersFine (execLaneReset a v s) :=
  regCmd_answersFine _ _ _ _ (fun _ hu => laneResetWrite_fine _ _ hu) hs

@[simp] theorem execTapReset_answersFine (s) (hs : Fine s) : AnswersFine (execTapReset s) := by simp [hs, execTapReset]

/-! ### Machine/LifeCycle -/

@[simp] theorem execFuseLoadDone_answersFine (s) (hs : Fine s) : AnswersFine (execFuseLoadDone s) := by
  unfold execFuseLoadDone
  split <;> simp [hs]

@[simp] theorem lcRequest_mems (s v authOk) : SameMems s (lcRequest s v authOk) := by
  unfold lcRequest
  (repeat' split) <;> simp

@[simp] theorem execLcTransitionRequest_answersFine (a v authOk s) (hs : Fine s) :
    AnswersFine (execLcTransitionRequest a v authOk s) := by
  simp [hs, execLcTransitionRequest]

@[simp] theorem execLcIntentBurned_answersFine (readBack s) (hs : Fine s) : AnswersFine (execLcIntentBurned readBack s) := by
  unfold execLcIntentBurned
  split <;> simp [hs]

@[simp] theorem eraseAll_fine (s) (hs : Fine s) : Fine (eraseAll s) := by
  have hclear {m : Mems} {v : LaneNo → Tbl Mem} (h : Canonical m v) : Canonical { m with xz := [], ctl := [], sram := [] } v :=
    ⟨h.stack, rfl, rfl, h.cap, h.data, rfl, h.saved⟩
  refine hclear (foldl_fine _ (fun s n hs => ?_) _ ?_)
  · simpa using emptyStack_fine s n hs
  · exact foldl_fine _ (fun s n hs => by split <;> simp [hs]) _ hs

@[simp] theorem lcWork_fine (s k) (hs : Fine s) : Fine (lcWork s k) := by simp [hs, lcWork]
@[simp] theorem execLcWorkDone_answersFine (s) (hs : Fine s) : AnswersFine (execLcWorkDone s) := by
  unfold execLcWorkDone
  split <;> simp [hs]

/-! ### Machine/Startup -/

@[simp] theorem reachAwaiting_mems (s) : SameMems s (reachAwaiting s) := by simp [reachAwaiting]
@[simp] theorem execStandbyRelease_answersFine (s) (hs : Fine s) : AnswersFine (execStandbyRelease s) := by
  simp [hs, execStandbyRelease]

@[simp] theorem execStrapSampled_answersFine (codes s) (hs : Fine s) : AnswersFine (execStrapSampled codes s) := by
  unfold execStrapSampled
  split <;> simp [hs]

@[simp] theorem execPllLock_answersFine (s) (hs : Fine s) : AnswersFine (execPllLock s) := by
  unfold execPllLock
  split <;> simp [hs]

@[simp] theorem failStage_mems (s stage) : SameMems s (failStage s stage) := by simp [failStage]

@[simp] theorem execBolzilMarchDone_answersFine (ok s) (hs : Fine s) : AnswersFine (execBolzilMarchDone ok s) := by
  unfold execBolzilMarchDone
  (repeat' split) <;> simp [hs]

@[simp] theorem execDieLinksTrained_answersFine (s) (hs : Fine s) : AnswersFine (execDieLinksTrained s) := by
  simp [hs, execDieLinksTrained]

@[simp] theorem execCoreMarchDone_answersFine (failed s) (hs : Fine s) : AnswersFine (execCoreMarchDone failed s) := by
  have h (xs : List (Fin 4 × Nat)) : Fine (xs.foldl (fun s x => coreFails s x.1 x.2) s) :=
    foldl_fine _ (fun s x hs => coreFails_fine s x.1 x.2 hs) xs hs
  unfold execCoreMarchDone
  split
  · simpa using hs
  · simpa using h failed

@[simp] theorem trainStack_fine (s failed n) (hs : Fine s) : Fine (trainStack s failed n) := by
  unfold trainStack
  split
  · simp [hs]
  · exact retireLane_fine _ _ _ _ (by simpa using hs)

@[simp] theorem execStackTrainingDone_answersFine (failed cap s) (hs : Fine s) :
    AnswersFine (execStackTrainingDone failed cap s) := by
  have h : Fine (laneNos.foldl (fun s n => trainStack s failed n) s) :=
    foldl_fine _ (fun s n hs => trainStack_fine s failed n hs) _ hs
  unfold execStackTrainingDone
  split
  · simpa using hs
  · simpa using h

@[simp] theorem execStartupStackTestDone_answersFine (failed s) (hs : Fine s) :
    AnswersFine (execStartupStackTestDone failed s) := by
  have h : Fine (failed.foldl (fun s n => retireLane s n 0x04 false) s) :=
    foldl_fine _ (fun s n hs => retireLane_fine s n 0x04 false hs) _ hs
  unfold execStartupStackTestDone
  split
  · simpa using hs
  · simpa using h

@[simp] theorem execBootImageChecked_answersFine (bootMs s) (hs : Fine s) : AnswersFine (execBootImageChecked bootMs s) := by
  unfold execBootImageChecked
  split <;> simp [hs]

@[simp] theorem execSysclkFail_answersFine (s) (hs : Fine s) : AnswersFine (execSysclkFail s) := by simp [hs, execSysclkFail]
@[simp] theorem execRefclkFail_answersFine (s) (hs : Fine s) : AnswersFine (execRefclkFail s) := by
  unfold execRefclkFail
  rw [answersFine_next]
  exact foldl_fine _ (fun s p hs => capDown_fine s p hs) _ (by simpa using hs)

@[simp] theorem relayDown_mems (s i) : SameMems s (relayDown s i) := ⟨rfl, rfl⟩
@[simp] theorem execEthclkFail_answersFine (s) (hs : Fine s) : AnswersFine (execEthclkFail s) := by simp [hs, execEthclkFail]

@[simp] theorem execClockRecovered_answersFine (c s) (hs : Fine s) : AnswersFine (execClockRecovered c s) := by
  unfold execClockRecovered
  split <;> simp [hs]

@[simp] theorem alertUpdate_mems (s) : SameMems s (alertUpdate s) := by simp [alertUpdate]
@[simp] theorem trip_mems (s x) : SameMems s (trip s x) := by simp [trip]

@[simp] theorem execThermalSample_answersFine (r s) (hs : Fine s) : AnswersFine (execThermalSample r s) := by
  unfold execThermalSample
  dsimp only
  split <;> simp [hs]

/-! ### Machine/RegWrite -/

theorem inRange_mems (ok s) {u} (h : inRange ok s = some u) : SameMems s u := by
  simp only [inRange] at h
  split at h <;> cases h
  exact ⟨rfl, rfl⟩

@[simp] theorem writeEvt_mems (s enable v) : SameMems s (writeEvt s enable v) := by simp [writeEvt]

theorem writeGlb_mems (s o v) {u} (h : writeGlb s o v = some u) : SameMems s u := by
  simp only [writeGlb, inRange] at h
  (repeat' split at h) <;> cases h <;> simp

@[simp] theorem writeSta_fine (s a o v) (hs : Fine s) : Fine (writeSta s a o v) := by unfold writeSta; split <;> simp [hs]
@[simp] theorem writeFus_mems (s o v) : SameMems s (writeFus s o v) := by unfold writeFus; (repeat' split) <;> simp
@[simp] theorem writeFwu_mems (s o v) : SameMems s (writeFwu s o v) := by unfold writeFwu; split <;> simp
@[simp] theorem writeLap_mems (s o v) : SameMems s (writeLap s o v) := by simp [writeLap]
@[simp] theorem writeMpl_mems (s o v) : SameMems s (writeMpl s o v) := by simp [writeMpl]
@[simp] theorem writeSrg_mems (s a o v) : SameMems s (writeSrg s a o v) := by unfold writeSrg; split <;> simp
@[simp] theorem writePath_mems (s a v) : SameMems s (writePath s a v) := by simp [writePath]

theorem writeTe_mems (s a o v) {u} (h : writeTe s a o v = some u) : SameMems s u := by
  simp only [writeTe, inRange] at h
  (repeat' split at h) <;> cases h <;> simp

@[simp] theorem demote_mems (s link lane) : SameMems s (demote s link lane) := ⟨rfl, rfl⟩

theorem writeRlyCtrl_mems (s link v) {u} (h : writeRlyCtrl s link v = some u) : SameMems s u := by
  simp only [writeRlyCtrl, inRange] at h
  (repeat' split at h) <;> cases h <;> simp

theorem writeRly_mems (s o v) {u} (h : writeRly s o v = some u) : SameMems s u := by
  grind [writeRly, writeRlyCtrl_mems]

theorem writePac_mems (s a o v) {u} (h : writePac s a o v = some u) : SameMems s u := by
  simp only [writePac, inRange] at h
  (repeat' split at h) <;> cases h <;> simp

@[simp] theorem writeBib_mems (s a o v) : SameMems s (writeBib s a o v) := by unfold writeBib; split <;> simp
@[simp] theorem writeMarCmd_fine (s v) (hs : Fine s) : Fine (writeMarCmd s v) := by unfold writeMarCmd; split <;> simp [hs]
@[simp] theorem writeRing_mems (s a v) : SameMems s (writeRing s a v) := by simp [writeRing]
@[simp] theorem writePortFence_mems (s v) : SameMems s (writePortFence s v) := by simp [writePortFence]
@[simp] theorem writeMar_fine (s a o v) (hs : Fine s) : Fine (writeMar s a o v) := by unfold writeMar; split <;> simp [hs]
@[simp] theorem writeCap_fine (s o v) (hs : Fine s) : Fine (writeCap s o v) := by unfold writeCap; split <;> simp [hs]
@[simp] theorem closeCtx_mems (s t) : SameMems s (closeCtx s t) := ⟨rfl, rfl⟩
@[simp] theorem openCtx_mems (s t v) : SameMems s (openCtx s t v) := ⟨rfl, rfl⟩

theorem writeCfg_mems (s t v) {u} (h : writeCfg s t v = some u) : SameMems s u := by
  simp only [writeCfg, inRange] at h
  (repeat' split at h) <;> cases h <;> simp

theorem writeCtx_mems (s a o v) {u} (h : writeCtx s a o v = some u) : SameMems s u := by
  simp only [writeCtx] at h
  (repeat' split at h) <;> grind [setCtx_mems, writeCfg_mems]

@[simp] theorem selCtx_mems (s a v) : SameMems s (selCtx s a v) := ⟨rfl, rfl⟩

theorem writeHif_mems (s a o v) {u} (h : writeHif s a o v = some u) : SameMems s u := by
  simp only [writeHif, inRange] at h
  (repeat' split at h) <;> try cases h
  · simp
  · exact ⟨rfl, rfl⟩
  · exact writeCtx_mems _ _ _ _ h

@[simp] theorem writeMgmt_mems (s o v) : SameMems s (writeMgmt s o v) := by unfold writeMgmt; split <;> simp
@[simp] theorem writeLane_fine (s n o v) (hs : Fine s) : Fine (writeLane s n o v) := by unfold writeLane; split <;> simp [hs]

theorem writeGlobal_fine (s a w o v) {u} (h : writeGlobal s a w o v = some u) (hs : Fine s) : Fine u := by
  simp only [writeGlobal] at h
  (repeat' split at h) <;> grind [writeGlb_mems, writeSta_fine, writeFus_mems, writeFwu_mems, writeLap_mems,
    writeMpl_mems, writeSrg_mems, writeTe_mems, writePac_mems, writeBib_mems, writeMar_fine, writeCap_fine,
    writeRly_mems, writeHif_mems, writeMgmt_mems]

theorem writeReg_fine (s a off v) {u} (h : writeReg s a off v = some u) (hs : Fine s) : Fine u := by
  grind [writeReg, writeLane_fine, writeGlobal_fine]

theorem writeVf_mems (s f off v) {u} (h : writeVf s f off v = some u) : SameMems s u := by
  grind [writeVf, selCtx_mems, writeCtx_mems]

theorem writeAt_fine (s a off v) {u} (h : writeAt s a off v = some u) (hs : Fine s) : Fine u := by
  simp only [writeAt] at h
  (repeat' split at h) <;> grind [writeVf_mems, writeReg_fine]

@[simp] theorem writeAccess_fine (s a off v full) (hs : Fine s) : Fine (writeAccess s a off v full) := by
  grind [writeAccess, recordAccess_mems, writeAt_fine]

@[simp] theorem rcSmall_mems (s w o f) : SameMems s (rcSmall s w o f) := by unfold rcSmall; split <;> simp
@[simp] theorem rcGlb_mems (s o f) : SameMems s (rcGlb s o f) := by unfold rcGlb; split <;> simp
@[simp] theorem rcSrg_mems (s a o f) : SameMems s (rcSrg s a o f) := by unfold rcSrg; (repeat' split) <;> simp
@[simp] theorem rcTe_mems (s o f) : SameMems s (rcTe s o f) := by unfold rcTe; (repeat' split) <;> simp
@[simp] theorem modMeter_mems (s a g) : SameMems s (modMeter s a g) := ⟨rfl, rfl⟩
@[simp] theorem rcPac_mems (s a o f) : SameMems s (rcPac s a o f) := by unfold rcPac; split <;> simp
@[simp] theorem rcLane_mems (s n o f) : SameMems s (rcLane s n o f) := by unfold rcLane; split <;> simp
@[simp] theorem rcMod_mems (s a off f) : SameMems s (rcMod s a off f) := by unfold rcMod; (repeat' split) <;> simp
@[simp] theorem takeRc_mems (s a off v) : SameMems s (takeRc s a off v) := by simp [takeRc]
@[simp] theorem latchHi_mems (s a off) : SameMems s (latchHi s a off) := by unfold latchHi; split <;> simp
@[simp] theorem capture_mems (s a off) : SameMems s (capture s a off).2.2 := by unfold capture; split <;> simp
@[simp] theorem readOne_mems (s a off) : SameMems s (readOne s a off).2 := by unfold readOne; split <;> simp

@[simp] theorem readBytes_mems (s a off len) : SameMems s (readBytes s a off len).2 := by
  unfold readBytes
  split <;> simp

@[simp] theorem readAccess_mems (s a off len) : SameMems s (readAccess s a off len) := by simp [readAccess]
@[simp] theorem execRlyDemote_answersFine (a link v s) (hs : Fine s) : AnswersFine (execRlyDemote a link v s) := by
  simp [hs, execRlyDemote]

@[simp] theorem execTeCtrWrite_answersFine (a v s) (hs : Fine s) : AnswersFine (execTeCtrWrite a v s) := by
  simp [hs, execTeCtrWrite]

@[simp] theorem execTePathEntryWrite_answersFine (a v s) (hs : Fine s) : AnswersFine (execTePathEntryWrite a v s) := by
  simp [hs, execTePathEntryWrite]

@[simp] theorem execTeKgenWrite_answersFine (a system v s) (hs : Fine s) : AnswersFine (execTeKgenWrite a system v s) := by
  simp [hs, execTeKgenWrite]

@[simp] theorem execTeTuningWrite_answersFine (a reg v s) (hs : Fine s) : AnswersFine (execTeTuningWrite a reg v s) := by
  simp [hs, execTeTuningWrite]

@[simp] theorem execGlbEvtWrite_answersFine (a enable v s) (hs : Fine s) : AnswersFine (execGlbEvtWrite a enable v s) := by
  simp [hs, execGlbEvtWrite]

@[simp] theorem execRcRead_answersFine (a off len s) (hs : Fine s) : AnswersFine (execRcRead a off len s) := by
  simp [hs, execRcRead]

@[simp] theorem execLoReadLatch_answersFine (a off len s) (hs : Fine s) : AnswersFine (execLoReadLatch a off len s) := by
  simp [hs, execLoReadLatch]

@[simp] theorem execUnmappedRead_answersFine (a off len s) (hs : Fine s) : AnswersFine (execUnmappedRead a off len s) := by
  simp [hs, execUnmappedRead]

@[simp] theorem execRegisterWrite_answersFine (a off v full s) (hs : Fine s) :
    AnswersFine (execRegisterWrite a off v full s) := by
  simp [hs, execRegisterWrite]

/-! ### Machine/Mgmt -/

@[simp] theorem spiOut_mems (s) : SameMems s (spiOut s) := ⟨rfl, rfl⟩
@[simp] theorem spiConsume_mems (s) : SameMems s (spiConsume s) := by unfold spiConsume; split <;> simp
@[simp] theorem setUnreach_mems (s held) : SameMems s (setUnreach s held) := by simp [setUnreach]
@[simp] theorem spiCapture_mems (s off) : SameMems s (spiCapture s off) := by simp [spiCapture]
@[simp] theorem spiStore_fine (s off v) (hs : Fine s) : Fine (spiStore s off v) := by simp [hs, spiStore]
@[simp] theorem spiCommand_mems (s w) : SameMems s (spiCommand s w) := by unfold spiCommand; (repeat' split) <;> simp
@[simp] theorem spiDiscarded_mems (s) : SameMems s (spiDiscarded s) := ⟨rfl, rfl⟩

@[simp] theorem spiFrame_fine (s w edges) (hs : Fine s) : Fine (spiFrame s w edges) := by
  unfold spiFrame
  dsimp only
  (repeat' split) <;> simp [hs]

@[simp] theorem execSpiRead_answersFine (w edges s) (hs : Fine s) : AnswersFine (execSpiRead w edges s) := by
  simp [hs, execSpiRead]

@[simp] theorem execSpiWrite_answersFine (w edges s) (hs : Fine s) : AnswersFine (execSpiWrite w edges s) := by
  simp [hs, execSpiWrite]

@[simp] theorem execSpiDataWord_answersFine (w edges s) (hs : Fine s) : AnswersFine (execSpiDataWord w edges s) := by
  simp [hs, execSpiDataWord]

@[simp] theorem execSpiNoop_answersFine (w edges s) (hs : Fine s) : AnswersFine (execSpiNoop w edges s) := by
  simp [hs, execSpiNoop]

@[simp] theorem execSpiFrameDiscard_answersFine (edges s) (hs : Fine s) : AnswersFine (execSpiFrameDiscard edges s) := by
  simp [hs, execSpiFrameDiscard]

@[simp] theorem uartReply_mems (s status v) : SameMems s (uartReply s status v) := ⟨rfl, rfl⟩
@[simp] theorem uartOpen_mems (s status) : SameMems s (uartOpen s status) := ⟨rfl, rfl⟩

@[simp] theorem uartRequest_fine (s crcOk opOk write off v) (hs : Fine s) : Fine (uartRequest s crcOk opOk write off v) := by
  simp [hs, uartRequest]

@[simp] theorem uartPacket_fine (s p) (hs : Fine s) : Fine (uartPacket s p) := by simp [hs, uartPacket]
@[simp] theorem uartTake_fine (s b) (hs : Fine s) : Fine (uartTake s b) := by simp [hs, uartTake]

@[simp] theorem execUartByteRx_answersFine (b stopOk parityOk early s) (hs : Fine s) :
    AnswersFine (execUartByteRx b stopOk parityOk early s) := by
  simp [hs, execUartByteRx]

@[simp] theorem execUartRead_answersFine (addr crcOk opOk s) (hs : Fine s) : AnswersFine (execUartRead addr crcOk opOk s) := by
  simp [hs, execUartRead]

@[simp] theorem execUartWrite_answersFine (addr v crcOk opOk s) (hs : Fine s) :
    AnswersFine (execUartWrite addr v crcOk opOk s) := by
  simp [hs, execUartWrite]

@[simp] theorem execUartPacketGap_answersFine (s) (hs : Fine s) : AnswersFine (execUartPacketGap s) := by
  simp [hs, execUartPacketGap]

@[simp] theorem i2cAnswer_mems (s code data) : SameMems s (i2cAnswer s code data) := ⟨rfl, rfl⟩
@[simp] theorem execI2cReadByte_answersFine (code s) (hs : Fine s) : AnswersFine (execI2cReadByte code s) := by
  simp [hs, execI2cReadByte]

@[simp] theorem execI2cReadWord_answersFine (code s) (hs : Fine s) : AnswersFine (execI2cReadWord code s) := by
  simp [hs, execI2cReadWord]

@[simp] theorem execAlertResponse_answersFine (s) (hs : Fine s) : AnswersFine (execAlertResponse s) := by
  simp [hs, execAlertResponse]

@[simp] theorem execI2cSclTimeout_answersFine (s) (hs : Fine s) : AnswersFine (execI2cSclTimeout s) := by
  simp [hs, execI2cSclTimeout]

@[simp] theorem execTelemetryUpdate_answersFine (r s) (hs : Fine s) : AnswersFine (execTelemetryUpdate r s) := by
  simp [hs, execTelemetryUpdate]

@[simp] theorem tapSelect_mems (s code v driven hiZ) : SameMems s (tapSelect s code v driven hiZ) := ⟨rfl, rfl⟩
@[simp] theorem tapBoundary_mems (s code cells driven) : SameMems s (tapBoundary s code cells driven) := ⟨rfl, rfl⟩
@[simp] theorem execExtest_answersFine (cells s) (hs : Fine s) : AnswersFine (execExtest cells s) := by simp [hs, execExtest]
@[simp] theorem execIdcode_answersFine (s) (hs : Fine s) : AnswersFine (execIdcode s) := by simp [hs, execIdcode]
@[simp] theorem execSamplePreload_answersFine (cells s) (hs : Fine s) : AnswersFine (execSamplePreload cells s) := by
  simp [hs, execSamplePreload]

@[simp] theorem execClamp_answersFine (s) (hs : Fine s) : AnswersFine (execClamp s) := by simp [hs, execClamp]
@[simp] theorem execHighz_answersFine (s) (hs : Fine s) : AnswersFine (execHighz s) := by simp [hs, execHighz]
@[simp] theorem execDebug_answersFine (s) (hs : Fine s) : AnswersFine (execDebug s) := by simp [hs, execDebug]
@[simp] theorem execBypass_answersFine (code s) (hs : Fine s) : AnswersFine (execBypass code s) := by simp [hs, execBypass]

/-! ### Machine/Tick -/

@[simp] theorem tick_mems (s) : SameMems s (tick s) := by simp [tick]



/-! ### Step -/

/-- Every command leaves the memories canonical, by its own lemma. -/
theorem exec_answersFine (i : Instr) (s : State) (hs : Fine s) : AnswersFine (exec i s) := by
  unfold exec
  split <;> simp [hs]

/-- Settles O55: on an empty queue `tick` leaves the memories as they were; else the command at the front runs on the state with
    the
queue's rest, and its own lemma says that it leaves them canonical. The form of the memories is the model's choice (log 5). -/
theorem stepKeepsMemories : Obligations.StepKeepsMemories := by
  intro s t hs h
  rw [memsOk_iff_fine] at hs ⊢
  unfold step at h
  split at h
  · cases h
    simpa using hs
  · next c cs _ =>
    exact exec_answersFine c { s with pending := cs } hs t h

end Sys2Proof.Machine

end

section

/-! PROOFS. Track's register writes (R231, R237, R240, R246, R415). -/

namespace Sys2Proof.Machine

open Sys2Proof

/-- A register of Track's window that acts does on a whole word what `writeTe` says. -/
theorem writeAccess_te {s t : State} {a : Accessor} {v : Word} {o : Nat} (h : RegActs s a (0x000C0000 + o)) (ho : o < 0x100)
    (halign : o % 4 = 0) (hread : (readTe s a o).isSome) (hwrite : writeTe s a o v = some t) :
    writeAccess s a (0x000C0000 + o) v true = t := by
  obtain ⟨w, hw⟩ := Option.isSome_iff_exists.1 hread
  have hlane : laneWindow (0x000C0000 + o) = none := by
    rw [laneWindow, dif_neg (by omega)]
  have hwindow : (0x000C0000 + o) / 0x10000 = 0x0C := by omega
  have hoff : (0x000C0000 + o) % 0x10000 = o := by omega
  refine writeAccess_regActs (w := w) h (by omega) (by omega) ?_ ?_
  · simpa only [readReg, hlane, hwindow, hoff, readGlobal] using hw
  · simpa only [writeReg, hlane, hwindow, hoff, writeGlobal] using hwrite

theorem writeAccess_te_outOfRange {s : State} {a : Accessor} {v : Word} (h : RegActs s a 0x000C0000)
    (hv : (v.setWidth 24).toNat < 1000) : writeAccess s a 0x000C0044 v true = recordAccess s a 3 0x000C0044 := by
  have h44 : RegActs s a 0x000C0044 := h
  refine writeAccess_outOfRange (w := s.te.rateMin.setWidth 32) (inBar_of_regActs h44 (by decide)) (regAt_of_regActs h44 rfl)
    (by decide) ((writeAt_eq_writeReg h44.1).trans ?_)
  have hrange : within 1000 800000 (bits v.toNat 23 0) = false := by
    simp [within, bits] at hv ⊢
    omega
  change inRange (within 1000 800000 (bits v.toNat 23 0)) _ = none
  rw [hrange]
  rfl

/-- Settles O14: each write is one of `writeTe`'s cases, on a register that acts. -/
theorem trackRegisterWrites : Obligations.TrackRegisterWrites := by
  intro s a v h
  have hacts {o : Nat} (ho : RegActs s a (0x000C0000 + o)) {t : State} (hlt : o < 0x100) (halign : o % 4 = 0)
      (hread : (readTe s a o).isSome) (hwrite : writeTe s a o v = some t) :
      (.next (writeAccess s a (0x000C0000 + o) v true) : Res) = .next t :=
    congrArg _ (writeAccess_te ho hlt halign hread hwrite)
  refine ⟨hacts (o := 0x1C) h (by decide) rfl rfl rfl, fun hpath => hacts (o := 0x4C) h (by decide) rfl rfl ?_,
    hacts (o := 0x00) h (by decide) rfl rfl rfl, hacts (o := 0x14) h (by decide) rfl rfl rfl,
    fun hlow hhigh => hacts (o := 0x0C) h (by decide) rfl rfl ?_, fun hlow => hacts (o := 0x40) h (by decide) rfl rfl ?_,
    fun hlow hhigh => hacts (o := 0x44) h (by decide) rfl rfl ?_, fun hlow => congrArg _ (writeAccess_te_outOfRange h hlow)⟩
  case refine_1 => exact if_pos hpath
  all_goals
    refine if_pos ?_
    simp [within, bits] at *
    omega

end Sys2Proof.Machine

end

section

/-! PROOFS. Coach's watchdog, its timeout and its return to service (R51, R370, R371). -/

namespace Sys2Proof.Machine

open Sys2Proof

section
variable {s : State}

theorem deliverCpl_frame (s : State) (x : Cpl) : ∃ o h, deliverCpl s x = { s with out := o, hif := h } := by
  unfold deliverCpl
  dsimp only
  split
  · obtain ⟨o, c, h⟩ := pumpCpl_frame (setCtx s x.tenant { ctxOf s x.tenant with heldCpl := (ctxOf s x.tenant).heldCpl ++ [x] })
      x.tenant
    rw [h]
    exact ⟨o, _, rfl⟩
  · exact ⟨s.out, _, rfl⟩

theorem deliverAll_frame (xs : List Cpl) (s : State) : ∃ o h, xs.foldl deliverCpl s = { s with out := o, hif := h } := by
  induction xs generalizing s with
  | nil => exact ⟨s.out, s.hif, rfl⟩
  | cons x xs ih =>
    obtain ⟨o, h, hx⟩ := deliverCpl_frame s x
    obtain ⟨o', h', hxs⟩ := ih (deliverCpl s x)
    exact ⟨o', h', by rw [List.foldl_cons, hxs, hx]⟩

/-- What waited for Coach goes to HIF: outputs and HIF change, and nothing waits any more. -/
theorem flushLate_frame (s : State) : ∃ o h, flushLate s = { s with out := o, hif := h, coach := { s.coach with late := [] } } :=
  deliverAll_frame s.coach.late { s with coach := { s.coach with late := [] } }

/-! ### The watchdog -/

/-- Coach stopped by its watchdog, with the restart counted. -/
def watchdogStop (s : State) : State :=
  { s with coach := { s.coach with
    phase := .restarting, pause := .watchdog, imageActive := false
    restarts := if s.coach.restarts = 0xFF then 0xFF else s.coach.restarts + 1 } }

/-- A watchdog that finds an image on trial rejects it and runs what stands behind it. -/
def trialStopped (s : State) (b : Bool) : State :=
  { rejectTrial (watchdogStop s) b with fwu := { (rejectTrial (watchdogStop s) b).fwu with running := fallbackTo (watchdogStop s) b } }

theorem rejectTrial_fwu (s : State) (b : Bool) : (rejectTrial s b).fwu = { (setSlotState s b .rejected).fwu with
    fellBack := true, healthy := false, fallbackCnt := satInc (setSlotState s b .rejected).fwu.fallbackCnt } :=
  raiseEvt_fwu ..

theorem trialStopped_effect (s : State) (b : Bool) :
    (trialStopped s b).coach = (watchdogStop s).coach ∧ (trialStopped s b).mem = s.mem ∧ (trialStopped s b).lanes = s.lanes ∧
      (fwuSlot (trialStopped s b) b).state = .rejected ∧ (trialStopped s b).fwu.fellBack = true := by
  refine ⟨(raiseEvt_coach ..).trans rfl, (raiseEvt_mem ..).trans rfl, (raiseEvt_lanes ..).trans rfl, ?_, ?_⟩
  · rw [fwuSlot, trialStopped, rejectTrial_fwu]
    cases b <;> rfl
  · rw [trialStopped, rejectTrial_fwu]

/-- The watchdog stops Coach; of the rest it changes FWU alone, or it rejects the image on trial. -/
theorem exec_coachWatchdog_stops (hruns : coachRuns s = true) : ∃ t, exec .coachWatchdog s = .next t ∧
    t.coach = (watchdogStop s).coach ∧ t.mem = s.mem ∧ t.lanes = s.lanes ∧
    ∀ b, runningSlot s = some b → inTrial s b = true → (fwuSlot t b).state = .rejected ∧ t.fwu.fellBack = true := by
  change ∃ t, execCoachWatchdog s = .next t ∧ _
  have hslot : runningSlot (watchdogStop s) = runningSlot s := rfl
  have hexec : execCoachWatchdog s = match runningSlot (watchdogStop s) with
      | some b =>
        if inTrial (watchdogStop s) b then .next (trialStopped s b)
        else if (fwuSlot (watchdogStop s) b).state = .good then .next (watchdogStop s)
        else .next { watchdogStop s with
          fwu := { (watchdogStop s).fwu with running := fallbackTo (watchdogStop s) b, fallback := false } }
      | none => .next (watchdogStop s) := by
    rw [execCoachWatchdog, hruns]
    rfl
  rw [hexec, hslot]
  cases hrun : runningSlot s with
  | none => exact ⟨_, rfl, rfl, rfl, rfl, nofun⟩
  | some b =>
    dsimp only
    split
    · obtain ⟨hcoach, hmem, hlanes, hslot⟩ := trialStopped_effect s b
      refine ⟨_, rfl, hcoach, hmem, hlanes, fun c hc _ => ?_⟩
      cases hc
      exact hslot
    · next htrial =>
      have hnot : ∀ c, some b = some c → inTrial s c = true → False := fun c hc h => by
        cases hc
        exact htrial h
      split <;> exact ⟨_, rfl, rfl, rfl, rfl, fun c hc h => (hnot c hc h).elim⟩

/-! ### The return to service -/

/-- Coach back in service, or waiting for a plan, before its pause's command ends. -/
def coachBack (s : State) : State :=
  { s with
    coach := { s.coach with
      phase := if s.mpl.current.isSome then .serving else .awaiting, pause := .none
      imageActive := s.fwu.running != .rom }
    fwu := { s.fwu with rev := runningRev { s with coach := { s.coach with
      phase := if s.mpl.current.isSome then .serving else .awaiting, pause := .none
      imageActive := s.fwu.running != .rom } } } }

/-- The pause's command ends with OK. -/
def pauseEnds (s : State) : State :=
  match s.fwu.op with
  | .activate _ => { s with fwu := { s.fwu with op := .none, result := finishCode .ok, reason := 0, fallback := false } }
  | .rom => { s with fwu := { s.fwu with op := .none, result := finishCode .ok, reason := 0, fallback := false } }
  | .none => { s with fwu := { s.fwu with fallback := false } }
  | .stage _ _ => { s with fwu := { s.fwu with fallback := false } }

theorem exec_coachServesAgain (hphase : s.coach.phase = .restarting) : exec .coachServesAgain s =
    .next (pauseAtOnce (flushLate (if s.coach.pause = .service then pauseEnds (coachBack s) else coachBack s))) := by
  change execCoachServesAgain s = _
  rw [execCoachServesAgain, if_neg (by simp [hphase])]
  rfl

theorem pauseEnds_frame (s : State) : { pauseEnds s with fwu := s.fwu } = s := by
  unfold pauseEnds
  split <;> rfl

/-- With no pause due, nothing is checked again and Coach goes on. -/
theorem pauseAtOnce_notDue (hdue : pauseDue s = false) : pauseAtOnce s = s := by
  have hrecheck : recheck s = s := by
    unfold recheck
    cases hop : s.fwu.op with
    | activate b => simp [pauseDue, hop] at hdue
    | none | stage _ _ | rom => rfl
  simp [pauseAtOnce, pauseAtBoundary, hrecheck, hdue]

theorem pauseDue_pauseEnds (s : State) : pauseDue (pauseEnds s) = false := by
  unfold pauseEnds
  split <;> simp_all [pauseDue]

/-- The end of a restart with no pause due then: the state before, with what waited delivered. -/
theorem exec_coachServesAgain_resumes (hphase : s.coach.phase = .restarting) {u : State}
    (hu : (if s.coach.pause = .service then pauseEnds (coachBack s) else coachBack s) = u) (hdue : pauseDue u = false) :
    ∃ o h, exec .coachServesAgain s = .next { u with out := o, hif := h, coach := { u.coach with late := [] } } := by
  obtain ⟨o, h, hflush⟩ := flushLate_frame u
  refine ⟨o, h, ?_⟩
  rw [exec_coachServesAgain hphase, hu, hflush, pauseAtOnce_notDue]
  exact hdue

end

/-- Settles O18: the watchdog stops Coach in every case and rejects the image on trial; the end of a restart puts Coach back and ends the
pause's command, after which no pause is due. -/
theorem coachRestarts : Obligations.CoachRestarts := by
  refine fun s => ⟨fun hruns => ?watchdog, fun hphase hpause => ?timeout, fun hphase hdue => ?back, fun b hphase hpause hop => ?ends⟩
  case watchdog =>
    obtain ⟨t, hexec, hcoach, hmem, hlanes, htrial⟩ := exec_coachWatchdog_stops hruns
    exact ⟨t, hexec, by rw [hcoach]; rfl, by rw [hcoach]; rfl, by rw [hcoach]; rfl, by rw [hcoach]; rfl, hmem, hlanes, htrial⟩
  case timeout =>
    change execCoachRestartTimeout s = _
    simp [execCoachRestartTimeout, hphase, hpause]
  case back =>
    let u := if s.coach.pause = .service then pauseEnds (coachBack s) else coachBack s
    have hframe : { u with fwu := (coachBack s).fwu } = coachBack s := by
      simp only [u]
      split
      · exact pauseEnds_frame _
      · rfl
    have hback : pauseDue u = false := by
      simp only [u]
      split
      · exact pauseDue_pauseEnds _
      · exact hdue
    obtain ⟨o, h, hexec⟩ := exec_coachServesAgain_resumes hphase rfl hback
    have hcoach : u.coach = (coachBack s).coach := (congrArg State.coach hframe :)
    exact ⟨_, hexec, (congrArg Coach.phase hcoach :), (congrArg Coach.pause hcoach :), (congrArg Coach.imageActive hcoach :),
      (congrArg State.mem hframe :), (congrArg State.lanes hframe :)⟩
  case ends =>
    obtain ⟨o, h, hexec⟩ := exec_coachServesAgain_resumes hphase (if_pos hpause) (pauseDue_pauseEnds _)
    have hends : pauseEnds (coachBack s) = { coachBack s with
        fwu := { (coachBack s).fwu with op := .none, result := finishCode .ok, reason := 0, fallback := false } } := by
      unfold pauseEnds
      rw [show (coachBack s).fwu.op = .activate b from hop]
    exact ⟨_, hexec, by rw [hends], by rw [hends]; rfl, by rw [hends]⟩

end Sys2Proof.Machine

end

section

/-!
PROOFS. What the clocks, laps and plan of the device rest on. Most operations that a boundary, a commit point, a plan
switch, a port that goes down or a lane that retires is made of leave LST, the clocks, MPL, the fuses, the host link's state
and MAR's record of failed cores as they were (`f_steady`). Each is said once, in the order of the model's files.
-/

namespace Sys2Proof.Machine

open Sys2Proof

/-- Two states have the same laps, clocks, plan loader, fuses, host link state and record of failed cores. -/
@[simp] abbrev Steady (s t : State) : Prop :=
  t.lap = s.lap ∧ t.clk = s.clk ∧ t.mpl = s.mpl ∧ t.fus = s.fus ∧ t.hif.linkUp = s.hif.linkUp ∧
    t.mar.lastFailed = s.mar.lastFailed

theorem steady_trans {s t u : State} (hst : Steady s t) (htu : Steady t u) : Steady s u := by
  obtain ⟨hlap, hclk, hmpl, hfus, hlink, hfailed⟩ := hst
  obtain ⟨hlap', hclk', hmpl', hfus', hlink', hfailed'⟩ := htu
  exact ⟨hlap'.trans hlap, hclk'.trans hclk, hmpl'.trans hmpl, hfus'.trans hfus, hlink'.trans hlink, hfailed'.trans hfailed⟩

theorem steady_of_pair {α : Type} {s t : State} {x : State × α} {y : α} (h : Steady s x.1) (hx : x = (t, y)) : Steady s t := by
  rwa [hx] at h

theorem steady_of_sansTransport {s t : State} (h : sansTransport t = sansTransport s) : Steady s t :=
  ⟨(congrArg State.lap h :), (congrArg State.clk h :), (congrArg State.mpl h :), (congrArg State.fus h :),
    (congrArg (fun u => u.hif.linkUp) h :), (congrArg (fun u => u.mar.lastFailed) h :)⟩

@[simp] theorem ite_steady (c : Prop) [Decidable c] (s t : State) :
    (if c then s else t).lap = (if c then s.lap else t.lap) ∧ (if c then s else t).clk = (if c then s.clk else t.clk) ∧
    (if c then s else t).mpl = (if c then s.mpl else t.mpl) ∧ (if c then s else t).fus = (if c then s.fus else t.fus) ∧
    (if c then s else t).hif.linkUp = (if c then s.hif.linkUp else t.hif.linkUp) ∧
    (if c then s else t).mar.lastFailed = if c then s.mar.lastFailed else t.mar.lastFailed := by
  split <;> simp

@[simp] theorem foldl_steady {α : Type} (f : State → α → State) (xs : List α) (s : State) (hlap : ∀ s x, (f s x).lap = s.lap)
    (hclk : ∀ s x, (f s x).clk = s.clk) (hmpl : ∀ s x, (f s x).mpl = s.mpl) (hfus : ∀ s x, (f s x).fus = s.fus)
    (hlink : ∀ s x, (f s x).hif.linkUp = s.hif.linkUp) (hfailed : ∀ s x, (f s x).mar.lastFailed = s.mar.lastFailed) :
    Steady s (xs.foldl f s) :=
  ⟨foldl_keeps State.lap f hlap xs s, foldl_keeps State.clk f hclk xs s, foldl_keeps State.mpl f hmpl xs s,
    foldl_keeps State.fus f hfus xs s, foldl_keeps (fun s => s.hif.linkUp) f hlink xs s,
    foldl_keeps (fun s => s.mar.lastFailed) f hfailed xs s⟩

theorem steady_foldl {α : Type} {f : State → α → State} (h : ∀ s x, Steady s (f s x)) (xs : List α) (s : State) :
    Steady s (xs.foldl f s) :=
  foldl_steady f xs s (fun s x => (h s x).1) (fun s x => (h s x).2.1) (fun s x => (h s x).2.2.1) (fun s x => (h s x).2.2.2.1)
    (fun s x => (h s x).2.2.2.2.1) fun s x => (h s x).2.2.2.2.2

theorem steady_foldl_fst {α β : Type} {f : State × β → α → State × β} (h : ∀ y x, Steady y.1 (f y x).1) (xs : List α)
    (y : State × β) : Steady y.1 (xs.foldl f y).1 := by
  induction xs generalizing y with
  | nil => simp
  | cons x xs ih =>
    have hx := h y x
    have hxs := ih (f y x)
    grind

@[simp] theorem setLane_steady (s : State) (n : LaneNo) (l : Lane) : Steady s (setLane s n l) := ⟨rfl, rfl, rfl, rfl, rfl, rfl⟩
@[simp] theorem modLane_steady (s : State) (n : LaneNo) (f : Lane → Lane) : Steady s (modLane s n f) :=
  ⟨rfl, rfl, rfl, rfl, rfl, rfl⟩

@[simp] theorem setCtx_steady (s : State) (t : Tenant) (c : Ctx) : Steady s (setCtx s t c) := ⟨rfl, rfl, rfl, rfl, rfl, rfl⟩

theorem postCpl_steady (s : State) (x : Cpl) : Steady s (postCpl s x) := by
  obtain ⟨o, c, d, l, h⟩ := postCpl_frame s x
  rw [h]
  exact ⟨rfl, rfl, rfl, rfl, rfl, rfl⟩

@[simp] theorem postCpl_linkUp (s : State) (x : Cpl) : (postCpl s x).hif.linkUp = s.hif.linkUp := (postCpl_steady s x).2.2.2.2.1
@[simp] theorem complete_linkUp (s : State) (h op c) : (complete s h op c).hif.linkUp = s.hif.linkUp := postCpl_linkUp ..
@[simp] theorem completeR_linkUp (s : State) (h op c r) : (completeR s h op c r).hif.linkUp = s.hif.linkUp := postCpl_linkUp ..
@[simp] theorem completeB_linkUp (s : State) (h op c r b) : (completeB s h op c r b).hif.linkUp = s.hif.linkUp :=
  postCpl_linkUp ..

/-! ### The operations on parts of the state -/

theorem modLeg_steady (s : State) (i f) : Steady s (modLeg s i f) := ⟨rfl, rfl, rfl, rfl, rfl, rfl⟩
theorem modReplay_steady (s : State) (b f) : Steady s (modReplay s b f) := ⟨rfl, rfl, rfl, rfl, rfl, rfl⟩
theorem modReq_steady (s : State) (b f) : Steady s (modReq s b f) := ⟨rfl, rfl, rfl, rfl, rfl, rfl⟩
theorem setCtr_steady (s : State) (c v) : Steady s (setCtr s c v) := ⟨rfl, rfl, rfl, rfl, rfl, rfl⟩
theorem stpTake_steady (s : State) (n) : Steady s (stpTake s n) := ⟨rfl, rfl, rfl, rfl, rfl, rfl⟩
theorem sramWrite_steady (s : State) (n pos a bs) : Steady s (sramWrite s n pos a bs) := ⟨rfl, rfl, rfl, rfl, rfl, rfl⟩
theorem modRounds_steady (s : State) (f) : Steady s (modRounds s f) := ⟨rfl, rfl, rfl, rfl, rfl, rfl⟩

/-! ### Machine/Ops -/

@[simp] theorem completeAll_steady (s hs op code) : Steady s (completeAll s hs op code) := by simp [completeAll]
@[simp] theorem drivePin_steady (s p low) : Steady s (drivePin s p low) := ⟨rfl, rfl, rfl, rfl, rfl, rfl⟩

/-! ### Machine/Wire -/

@[simp] theorem pumpLoose_steady (s) : Steady s (pumpLoose s) := steady_of_sansTransport (pumpLoose_sansTransport ..)
@[simp] theorem sendLoose_steady (s port f) : Steady s (sendLoose s port f) :=
  steady_of_sansTransport (sendLoose_sansTransport ..)

@[simp] theorem countRetx_steady (s) : Steady s (countRetx s) := ⟨rfl, rfl, rfl, rfl, rfl, rfl⟩
@[simp] theorem resendWaiting_steady (s d leg) : Steady s (resendWaiting s d leg) :=
  steady_of_sansTransport (resendWaiting_sansTransport ..)

@[simp] theorem formAll_steady (s d leg n) : Steady s (formAll s d leg n) :=
  steady_of_sansTransport (formAll_sansTransport ..)

@[simp] theorem pumpSys_steady (s d leg n) : Steady s (pumpSys s d leg n) :=
  steady_of_sansTransport (pumpSys_sansTransport ..)

@[simp] theorem sysGive_steady (s f) : Steady s (sysGive s f) := steady_of_sansTransport (sysGive_sansTransport ..)
@[simp] theorem sysSendF_steady (s dst op flags aux addr payload) : Steady s (sysSendF s dst op flags aux addr payload) :=
  steady_of_sansTransport (sysSendF_sansTransport ..)

@[simp] theorem sysSend_steady (s dst op aux addr payload) : Steady s (sysSend s dst op aux addr payload) :=
  steady_of_sansTransport (sysSend_sansTransport ..)

/-! ### Machine/MarLog -/

@[simp] theorem marSend_steady (s dst m entry) : Steady s (marSend s dst m entry) := by simp [marSend]
@[simp] theorem marLog_steady (s ev lane subject core detail) : Steady s (marLog s ev lane subject core detail) := by
  simp [marLog]

@[simp] theorem reportFreeRun_steady (s) : Steady s (reportFreeRun s) := by simp [reportFreeRun]

/-! ### Machine/BibOps -/

@[simp] theorem endBatch_steady (s b code failing) : Steady s (endBatch s b code failing) := by simp [endBatch]
@[simp] theorem bibBoundary_steady (s) : Steady s (bibBoundary s) := by
  unfold bibBoundary
  dsimp only
  (repeat' split) <;> simp

@[simp] theorem ringDropped_steady (s) : Steady s (ringDropped s) := ⟨rfl, rfl, rfl, rfl, rfl, rfl⟩
@[simp] theorem dropHeld_steady (s) : Steady s (dropHeld s) := by unfold dropHeld; split <;> simp
@[simp] theorem pumpRing_steady (s) : Steady s (pumpRing s) := by unfold pumpRing; dsimp only; (repeat' split) <;> simp
@[simp] theorem cascade_steady (s q p i) : Steady s (cascade s q p i) := by simp [cascade]
@[simp] theorem lookup_steady (s q) : Steady s (lookup s q).2 := by unfold lookup; (repeat' split) <;> simp

/-! ### Machine/Kv -/

@[simp] theorem freeSlot_steady (s n k) : Steady s (freeSlot s n k) := modLane_steady ..
@[simp] theorem freeSlots_steady (s n ks) : Steady s (freeSlots s n ks) := by simp [freeSlots]
@[simp] theorem freeCell_steady (s n k) : Steady s (freeCell s n k) := modLane_steady ..
@[simp] theorem freeEnt_steady (s n e) : Steady s (freeEnt s n e) := by simp [freeEnt]
@[simp] theorem countReclaim_steady (s n) : Steady s (countReclaim s n) := by simp [countReclaim]
theorem reclaim_steady (s n t) {u} (h : reclaim s n t = some u) : Steady s u := by
  simp only [reclaim] at h
  split at h <;> cases h <;> simp

theorem takeFreeSlot_steady (s n t) {a' u} (h : takeFreeSlot s n t = some (a', u)) : Steady s u := by
  simp only [takeFreeSlot] at h
  (repeat' split at h) <;> cases h <;> simp

@[simp] theorem takeOrReclaim_steady (n s k t) : Steady s (takeOrReclaim n s k t).1 := by
  fun_induction takeOrReclaim n s k t <;> grind [takeFreeSlot_steady, reclaim_steady]

@[simp] theorem takeSlot_steady (s n t) : Steady s (takeSlot s n t).1 := by unfold takeSlot; split <;> simp
@[simp] theorem takeSlots_steady (s n t m) : Steady s (takeSlots s n t m).1 := by
  fun_induction takeSlots s n t m <;> grind [takeSlot_steady]

theorem openEntry_steady (s mk) {a' u} (h : openEntry s mk = some (a', u)) : Steady s u := by
  simp only [openEntry] at h
  split at h <;> cases h
  simp

@[simp] theorem dropStaleFetches_steady (s b) : Steady s (dropStaleFetches s b) := ⟨rfl, rfl, rfl, rfl, rfl, rfl⟩
@[simp] theorem meetNeed_steady (s n b m x) : Steady s (meetNeed s n b m x).1 := by
  unfold meetNeed
  grind [foldl_steady, takeSlot_steady, openEntry_steady, modReq_steady, freeSlot_steady, modLane_steady, takeSlots_steady,
    freeSlots_steady]

@[simp] theorem meetNeeds_steady (s n b m xs) : Steady s (meetNeeds s n b m xs).1 := by
  fun_induction meetNeeds s n b m xs <;> grind [meetNeed_steady]

@[simp] theorem undoNeeds_steady (s n b before) : Steady s (undoNeeds s n b before) := by
  unfold undoNeeds
  split <;> simp

@[simp] theorem missReq_steady (s b c) : Steady s (missReq s b c) := ⟨rfl, rfl, rfl, rfl, rfl, rfl⟩
@[simp] theorem holdReq_steady (s n b c) : Steady s (holdReq s n b c) := by simp [holdReq]
@[simp] theorem serveSeq_steady (s n b work) : Steady s (serveSeq s n b work) := by
  unfold serveSeq
  dsimp only
  (repeat' split) <;> simp

@[simp] theorem storeProbe_steady (s n m r) : Steady s (storeProbe s n m r) := by simp [storeProbe]
@[simp] theorem commitPages_steady (s n b) : Steady s (commitPages s n b) := by
  unfold commitPages
  (repeat' split) <;> simp

@[simp] theorem discardPages_steady (s n b) : Steady s (discardPages s n b) := by unfold discardPages; split <;> simp
@[simp] theorem freeHbm_steady (s b) : Steady s (freeHbm s b) := by unfold freeHbm; (repeat' split) <;> simp
@[simp] theorem freeTier_steady (s b) : Steady s (freeTier s b) := by unfold freeTier; (repeat' split) <;> simp
@[simp] theorem freePages_steady (s b) : Steady s (freePages s b) := by simp [freePages]
@[simp] theorem startFetches_steady (s n b) : Steady s (startFetches s n b) := by
  unfold startFetches
  (repeat' split) <;> simp

@[simp] theorem capTake_steady (s p bytes) : Steady s (capTake s p bytes).2 := ⟨rfl, rfl, rfl, rfl, rfl, rfl⟩

/-! ### Machine/Streams -/

@[simp] theorem sendEntries_steady (s st xs irq) : Steady s (sendEntries s st xs irq) := by simp [sendEntries]
@[simp] theorem readCons_steady (s st) : Steady s (readCons s st).2 := by unfold readCons; split <;> simp
@[simp] theorem flushRing_steady (s b) : Steady s (flushRing s b) := by
  unfold flushRing
  dsimp only
  (repeat' split) <;> simp

@[simp] theorem flushRings_steady (s) : Steady s (flushRings s) := by simp [flushRings]
@[simp] theorem setSrgTenant_steady (s t x) : Steady s (setSrgTenant s t x) := ⟨rfl, rfl, rfl, rfl, rfl, rfl⟩
@[simp] theorem recordTtft_steady (s t target us) : Steady s (recordTtft s t target us) := by simp [recordTtft]
@[simp] theorem recordTbt_steady (s t target us) : Steady s (recordTbt s t target us) := by simp [recordTbt]
@[simp] theorem streamToken_steady (s b tok pos) : Steady s (streamToken s b tok pos) := by
  unfold streamToken
  split <;> simp

@[simp] theorem finalCpl_steady (s r code reason pos) : Steady s (finalCpl s r code reason pos) := by simp [finalCpl]
@[simp] theorem streamResume_steady (s b ring) : Steady s (streamResume s b ring) := ⟨rfl, rfl, rfl, rfl, rfl, rfl⟩

/-! ### Machine/ReqOps -/

@[simp] theorem unqueue_steady (s b) : Steady s (unqueue s b) := by unfold unqueue; (repeat' split) <;> simp
@[simp] theorem dirChange_steady (s n add b) : Steady s (dirChange s n add b) := by simp [dirChange]
@[simp] theorem endRequest_steady (s b reason pattern) : Steady s (endRequest s b reason pattern) := by
  unfold endRequest
  split <;> simp

@[simp] theorem completeCmd_steady (s b op h code) : Steady s (completeCmd s b op h code) := by simp [completeCmd]
@[simp] theorem completeEach_steady (s b xs code) : Steady s (completeEach s b xs code) := by simp [completeEach]
@[simp] theorem endCmds_steady (s b code) : Steady s (endCmds s b code) := by unfold endCmds; split <;> simp
@[simp] theorem ungrant_steady (s n a b) : Steady s (ungrant s n a b) := ⟨rfl, rfl, rfl, rfl, rfl, rfl⟩
@[simp] theorem dropReplayLegs_steady (s b) : Steady s (dropReplayLegs s b) := by
  refine steady_foldl (fun s g => ?_) _ s
  simp [dropLeg]

@[simp] theorem endAudit_steady (s b code) : Steady s (endAudit s b code) := by
  unfold endAudit
  (repeat' split) <;> simp

@[simp] theorem bumpSlot_steady (s b) : Steady s (bumpSlot s b) := by simp [bumpSlot]
@[simp] theorem freeReq_steady (s b rest) : Steady s (freeReq s b rest) := by unfold freeReq; (repeat' split) <;> simp
@[simp] theorem abortReq_steady (s b code) : Steady s (abortReq s b code) := by unfold abortReq; split <;> simp
@[simp] theorem scrub_steady (s b) : Steady s (scrub s b) := by unfold scrub; split <;> simp
@[simp] theorem setPhase_steady (s b p) : Steady s (setPhase s b p) := ⟨rfl, rfl, rfl, rfl, rfl, rfl⟩

/-! ### Machine/LegOps -/

@[simp] theorem allocItem_steady (s n m it) : Steady s (allocItem s n m it).1 := by
  unfold allocItem
  dsimp only
  (repeat' split) <;> simp

@[simp] theorem freeItem_steady (s n it ks) : Steady s (freeItem s n it ks) := by simp [freeItem]
@[simp] theorem allocEach_steady (s n m xs) : Steady s (allocEach s n m xs).1 := by
  fun_induction allocEach s n m xs <;> grind [allocItem_steady, freeItem_steady]

@[simp] theorem allocItems_steady (s n m its) : Steady s (allocItems s n m its).1 := by
  unfold allocItems
  dsimp only
  (repeat' split) <;> simp

@[simp] theorem allocTier_steady (s port bytes) : Steady s (allocTier s port bytes).1 := by
  unfold allocTier
  dsimp only
  (repeat' split) <;> simp

@[simp] theorem freeTierSpace_steady (s t) : Steady s (freeTierSpace s t) := by unfold freeTierSpace; split <;> simp
@[simp] theorem btnMsg_steady (s dst leg kind ws) : Steady s (btnMsg s dst leg kind ws) :=
  steady_of_sansTransport (btnMsg_sansTransport ..)

@[simp] theorem legMsg_steady (s g kind a b c) : Steady s (legMsg s g kind a b c) :=
  steady_of_sansTransport (legMsg_sansTransport ..)

@[simp] theorem clearControl_steady (s g blocks) : Steady s (clearControl s g blocks) := by simp [clearControl]
@[simp] theorem clearData_steady (s g pages grans) : Steady s (clearData s g pages grans) := by simp [clearData]
@[simp] theorem sendAsk_steady (s dst r) : Steady s (sendAsk s dst r) := by simp [sendAsk]
@[simp] theorem clearPage_steady (s g k a b) : Steady s (clearPage s g k a b) :=
  steady_of_sansTransport (clearPage_sansTransport ..)

@[simp] theorem clearLeg_steady (n s m) : Steady s (clearLeg n s m) :=
  steady_of_sansTransport (clearLeg_sansTransport ..)

@[simp] theorem testWaiting_steady (s xs ys) : Steady s (testWaiting s xs ys).1 :=
  steady_of_sansTransport (testWaiting_sansTransport ..)

@[simp] theorem retest_steady (s) : Steady s (retest s) := steady_of_sansTransport (retest_sansTransport ..)
@[simp] theorem takeBlocks_steady (s) : Steady s (takeBlocks s).2 := ⟨rfl, rfl, rfl, rfl, rfl, rfl⟩
@[simp] theorem giveBlocks_steady (s i) : Steady s (giveBlocks s i) := by unfold giveBlocks; split <;> simp
@[simp] theorem regrantBlocks_steady (s) : Steady s (regrantBlocks s) := by simp [regrantBlocks]
@[simp] theorem freeBlocks_steady (s g) : Steady s (freeBlocks s g) := by simp [freeBlocks]
@[simp] theorem acceptLeg_steady (s a m) : Steady s (acceptLeg s a m).1 := by
  have hitems (t : State) (x) (h : allocItems s a.dst m a.items = (t, x)) : Steady s t := by
    simpa [h] using allocItems_steady s a.dst m a.items
  have htier (t u : State) (x) (h : allocTier t a.port a.tierBytes = (u, x)) : Steady t u := by
    simpa [h] using allocTier_steady t a.port a.tierBytes
  have hfree (t : State) (xs : List (LegItem × List Nat × Nat)) :
      Steady t (xs.foldl (fun t p => freeItem t a.dst p.1 p.2.1) t) :=
    steady_foldl (fun t p => freeItem_steady t a.dst p.1 p.2.1) xs t
  unfold acceptLeg
  dsimp only
  split
  · simp
  · split
    · next t h => exact hitems _ _ h
    · next t places h =>
      split
      · next u hu => exact steady_trans (hitems _ _ h) (steady_trans (htier _ _ _ hu) (hfree _ _))
      · next u tier hu =>
        have hs := steady_trans (hitems _ _ h) (htier _ _ _ hu)
        split
        · next i v hv =>
          have hv := openEntry_steady _ _ hv
          exact steady_trans hs (steady_trans (stpTake_steady u a.states) (steady_trans hv (giveBlocks_steady v i)))
        · exact hs

@[simp] theorem checkRest_steady (s b) : Steady s (checkRest s b) := by unfold checkRest; split <;> simp
@[simp] theorem legPhase_steady (s type b) : Steady s (legPhase s type b) := by simp [legPhase]
@[simp] theorem openLocal_steady (s type b dst) : Steady s (openLocal s type b dst).1 := by
  unfold openLocal
  have hcheck := checkRest_steady s b
  have haccept (a : LegAccept) (m : ModelSec) (t : State) (k : Option Nat) (h : acceptLeg (checkRest s b) a m = (t, k)) :
      Steady s t := by
    have ha := acceptLeg_steady (checkRest s b) a m
    rw [h] at ha
    simpa using ha
  dsimp only
  (repeat' split) <;> try exact hcheck
  · next h => simpa using haccept _ _ _ _ h
  · next h _ => simpa using haccept _ _ _ _ h
  · next h _ => simpa using haccept _ _ _ _ h

@[simp] theorem sourceDone_steady (s i) : Steady s (sourceDone s i) := ⟨rfl, rfl, rfl, rfl, rfl, rfl⟩
@[simp] theorem sendParts_steady (n s m) : Steady s (sendParts n s m) := by
  fun_induction sendParts n s m <;> grind [sourceDone_steady, sysSendF_steady, modLeg_steady]

@[simp] theorem openRemote_steady (s type b dev dst) : Steady s (openRemote s type b dev dst).1 := by
  unfold openRemote
  dsimp only
  (repeat' split) <;> grind [openEntry_steady, checkRest_steady, sendAsk_steady, legPhase_steady, dropStaleFetches_steady,
    unqueue_steady]

@[simp] theorem tryTargets_steady (s type b ok xs) : Steady s (tryTargets s type b ok xs).1 := by
  fun_induction tryTargets s type b ok xs <;> grind [openLocal_steady, openRemote_steady]

@[simp] theorem setTried_steady (s b k) : Steady s (setTried s b k) := ⟨rfl, rfl, rfl, rfl, rfl, rfl⟩
@[simp] theorem tryPark_steady (s b) : Steady s (tryPark s b) := by unfold tryPark; split <;> simp
@[simp] theorem tryHandoff_steady (s b) : Steady s (tryHandoff s b) := by unfold tryHandoff; (repeat' split) <;> simp
@[simp] theorem dirDrop_steady (s n b) : Steady s (dirDrop s n b) := by simp [dirDrop]
@[simp] theorem clearStaged_steady (s i) : Steady s (clearStaged s i) := ⟨rfl, rfl, rfl, rfl, rfl, rfl⟩
@[simp] theorem freeLegSpace_steady (s g) : Steady s (freeLegSpace s g) := by simp [freeLegSpace]
@[simp] theorem legCpl_steady (s b code) : Steady s (legCpl s b code) := by simp [legCpl]
@[simp] theorem takeUp_steady (s b) : Steady s (takeUp s b) := by unfold takeUp; (repeat' split) <;> simp
@[simp] theorem afterAbort_steady (s g code b) : Steady s (afterAbort s g code b) := by
  unfold afterAbort
  split <;> simp

@[simp] theorem setPrecopy_steady (s) : Steady s (setPrecopy s) := by simp [setPrecopy]
@[simp] theorem swapEnd_steady (s) : Steady s (swapEnd s) := by simp [swapEnd]
@[simp] theorem swapLost_steady (s g code) : Steady s (swapLost s g code) := by simp [swapLost]
@[simp] theorem endPull_steady (s p code) : Steady s (endPull s p code) := by simp [endPull]
@[simp] theorem afterRemoteAbort_steady (s g code) : Steady s (afterRemoteAbort s g code) := by simp [afterRemoteAbort]
@[simp] theorem abortLeg_steady (s g code tell) : Steady s (abortLeg s g code tell) := by simp [abortLeg]
@[simp] theorem queueExt_steady (s n b) : Steady s (queueExt s n b) := by unfold queueExt; split <;> simp
@[simp] theorem takeLanding_steady (s b) : Steady s (takeLanding s b) := by unfold takeLanding; (repeat' split) <;> simp
@[simp] theorem commitLocal_steady (s g b) : Steady s (commitLocal s g b) := by unfold commitLocal; split <;> simp
@[simp] theorem openSpill_steady (s b n tier) : Steady s (openSpill s b n tier) := by
  grind [openSpill, openEntry_steady, modReq_steady]

@[simp] theorem afterLanding_steady (s g b) : Steady s (afterLanding s g b) := by unfold afterLanding; split <;> simp
@[simp] theorem commitHere_steady (s g) : Steady s (commitHere s g) := by simp [commitHere]
@[simp] theorem takePull_steady (s b n) : Steady s (takePull s b n) := by unfold takePull; split <;> simp
@[simp] theorem commitRemote_steady (s g b k) : Steady s (commitRemote s g b k) := by
  unfold commitRemote
  dsimp only
  split <;> simp

@[simp] theorem commitReplay_steady (s g b) : Steady s (commitReplay s g b) := ⟨rfl, rfl, rfl, rfl, rfl, rfl⟩
@[simp] theorem commitLeg_steady (s g) : Steady s (commitLeg s g) := by simp [commitLeg]
@[simp] theorem commitLegs_steady (s) : Steady s (commitLegs s) := by simp [commitLegs]
@[simp] theorem openRecall_steady (s b n) : Steady s (openRecall s b n).1 := by
  unfold openRecall
  dsimp only
  (repeat' split) <;> grind [allocItems_steady, openEntry_steady, setPhase_steady]

@[simp] theorem tryResumeLanes_steady (s b xs) : Steady s (tryResumeLanes s b xs).1 := by
  fun_induction tryResumeLanes s b xs <;> grind [openLocal_steady]

/-! ### Machine/LaneOps -/

@[simp] theorem failQueued_steady (s code b) : Steady s (failQueued s code b) := by unfold failQueued; split <;> simp
@[simp] theorem failQueues_steady (s n code) : Steady s (failQueues s n code) := by simp [failQueues]
@[simp] theorem missLap_steady (s n b) : Steady s (missLap s n b) := by simp [missLap]
@[simp] theorem clearMiss_steady (s bs) : Steady s (clearMiss s bs) := steady_foldl (fun s b => modReq_steady s b _) bs s
@[simp] theorem discardReplays_steady (s n) : Steady s (discardReplays s n) := ⟨rfl, rfl, rfl, rfl, rfl, rfl⟩
@[simp] theorem missAll_steady (s n) : Steady s (missAll s n) := by simp [missAll]
@[simp] theorem loseLap_steady (s n) : Steady s (loseLap s n) := by simp [loseLap]
@[simp] theorem enterStopped_steady (s n) : Steady s (enterStopped s n) := by simp [enterStopped]
@[simp] theorem overrunStop_steady (s n) : Steady s (overrunStop s n) := by simp [overrunStop]
@[simp] theorem loseShare_steady (s b) : Steady s (loseShare s b) := by unfold loseShare; split <;> simp
@[simp] theorem loseShares_steady (s n) : Steady s (loseShares s n) := by simp [loseShares]
@[simp] theorem abortLaneLegs_steady (s n code) : Steady s (abortLaneLegs s n code) := by simp [abortLaneLegs]
@[simp] theorem failLaneCmds_steady (s n code) : Steady s (failLaneCmds s n code) := by
  unfold failLaneCmds
  dsimp only
  (repeat' split) <;> simp

@[simp] theorem returnSpares_steady (s n) : Steady s (returnSpares s n) := by simp [returnSpares]
@[simp] theorem retireLane_steady (s n cause stackOpen) : Steady s (retireLane s n cause stackOpen) := by
  simp [retireLane]

@[simp] theorem applySubst_steady (s n) : Steady s (applySubst s n) := by simp [applySubst]

/-! ### Machine/ReqCmds -/

@[simp] theorem parkRequest_steady (s b) : Steady s (parkRequest s b) := by simp [parkRequest]
@[simp] theorem holdRemote_steady (s b r) : Steady s (holdRemote s b r) := by unfold holdRemote; split <;> simp
@[simp] theorem applyPause_steady (s b r h) : Steady s (applyPause s b r h) := by
  unfold applyPause
  (repeat' split) <;> simp

@[simp] theorem applyCancel_steady (s b r h) : Steady s (applyCancel s b r h) := by simp [applyCancel]
@[simp] theorem applyRelease_steady (s b r h) : Steady s (applyRelease s b r h) := by
  unfold applyRelease
  (repeat' split) <;> simp

@[simp] theorem applyExtend_steady (s b r h tokens since) : Steady s (applyExtend s b r h tokens since) := by
  unfold applyExtend
  (repeat' split) <;> simp

@[simp] theorem resumeCpl_steady (s b h code) : Steady s (resumeCpl s b h code) := by simp [resumeCpl]
@[simp] theorem resumeLocal_steady (s b h ring ext) : Steady s (resumeLocal s b h ring ext) := by
  have hs : Steady s (scrub (retest (endAudit s b .discarded)) b) := by simp
  unfold resumeLocal
  dsimp only
  split
  · simp
  · split
    · simp
    · split
      · simp
      · split
        · simp
        · split
          · split
            · next t ht => simpa using steady_trans hs (steady_of_pair (openRecall_steady ..) ht)
            · next t ht => simpa using steady_trans hs (steady_of_pair (openRecall_steady ..) ht)
          · split
            · next t ht => simpa using steady_trans hs (steady_of_pair (tryResumeLanes_steady ..) ht)
            · next t ht => simpa using steady_trans hs (steady_of_pair (tryResumeLanes_steady ..) ht)

@[simp] theorem resumeFrom_steady (s b h ring ext dev) : Steady s (resumeFrom s b h ring ext dev) := by
  simp [resumeFrom]

@[simp] theorem resumeFound_steady (s b h ring ext x) : Steady s (resumeFound s b h ring ext x) := by
  unfold resumeFound
  split <;> simp

@[simp] theorem resumeReach_steady (s b h ring ext) : Steady s (resumeReach s b h ring ext) := by
  grind [resumeReach, lookup_steady, resumeFound_steady, resumeFrom_steady]

theorem applyResume_steady (s b r h ring ext) {u} (h : applyResume s b r h ring ext = some u) : Steady s u := by
  simp only [applyResume] at h
  (repeat' split at h) <;> cases h <;> simp

theorem applyCmd_steady (s b r c since) {u} (h : applyCmd s b r c since = some u) : Steady s u := by
  simp only [applyCmd] at h
  (repeat' split at h) <;> grind [applyPause_steady, applyResume_steady, applyCancel_steady, applyRelease_steady,
    applyExtend_steady]

@[simp] theorem applyHead_steady (s b) : Steady s (applyHead s b) := by
  grind [applyHead, applyCmd_steady, modReq_steady]

@[simp] theorem applyAtBoundary_steady (s b) : Steady s (applyAtBoundary s b) := by
  unfold applyAtBoundary
  (repeat' split) <;> simp

@[simp] theorem applyPullHead_steady (s b) : Steady s (applyPullHead s b) := by
  unfold applyPullHead
  (repeat' split) <;> simp

/-! ### Machine/TrackOps -/

@[simp] theorem incCtr_steady (s c) : Steady s (incCtr s c) := ⟨rfl, rfl, rfl, rfl, rfl, rfl⟩
@[simp] theorem pumpTrackCpl_steady (s q) : Steady s (pumpTrackCpl s q) := by unfold pumpTrackCpl; split <;> simp
@[simp] theorem postTrack_steady (s q w) : Steady s (postTrack s q w) := by unfold postTrack; split <;> simp
@[simp] theorem endOp_steady (s q o code) : Steady s (endOp s q o code) := by unfold endOp; split <;> simp
@[simp] theorem endAll_steady (s q code) : Steady s (endAll s q code) := by
  unfold endAll
  dsimp only
  (repeat' split) <;> simp

@[simp] theorem closeSq_steady (s q) : Steady s (closeSq s q) := by simp [closeSq]
@[simp] theorem closeRq_steady (s q) : Steady s (closeRq s q) := by unfold closeRq; split <;> simp
@[simp] theorem zeroLapCtrs_steady (s) : Steady s (zeroLapCtrs s) := by
  unfold zeroLapCtrs
  split
  · exact steady_foldl (fun s c => setCtr_steady s _ _) _ s
  · simp

/-! ### Machine/MarOps -/

@[simp] theorem clearFence_steady (s d epoch) : Steady s (clearFence s d epoch) := ⟨rfl, rfl, rfl, rfl, rfl, rfl⟩
@[simp] theorem takeRing_steady (s) : Steady s (takeRing s) := ⟨rfl, rfl, rfl, rfl, rfl, rfl⟩
@[simp] theorem readmitSelf_steady (s epoch) : Steady s (readmitSelf s epoch) := by simp [readmitSelf]
@[simp] theorem ringState_steady (s) : Steady s (ringState s) := by
  unfold ringState
  split
  · dsimp only
    split
    · simpa using modRounds_steady { s with mar := { s.mar with state := .live } } _
    · simp
  · split <;> simp
  · simp

@[simp] theorem marSwitch_steady (s epoch) : Steady s (marSwitch s epoch) := by simp [marSwitch]
@[simp] theorem swapAdd_steady (s g early) : Steady s (swapAdd s g early) := by
  unfold swapAdd
  dsimp only
  split <;> simp

@[simp] theorem swapSealed_steady (s) : Steady s (swapSealed s) := by simp [swapSealed]
@[simp] theorem leaveBatch_steady (s n) : Steady s (leaveBatch s n) := by simp [leaveBatch]
@[simp] theorem swapFinal_steady (s g) : Steady s (swapFinal s g) := by simp [swapFinal]
@[simp] theorem swapSwitch_steady (s before after) : Steady s (swapSwitch s before after) := by simp [swapSwitch]

/-! ### Machine/Pacer -/

@[simp] theorem releaseHeads_steady (s) : Steady s (releaseHeads s) := by simp [releaseHeads]
@[simp] theorem pacRefill_steady (s) : Steady s (pacRefill s) := by unfold pacRefill; split <;> simp

/-! ### Machine/Track -/

@[simp] theorem postRq_steady (s q ws) : Steady s (postRq s q ws) := by unfold postRq; split <;> simp

/-! ### Machine/Blocks -/

@[simp] theorem endMsgs_steady (s q code) : Steady s (endMsgs s q code) := by unfold endMsgs; split <;> simp
@[simp] theorem discardRq_steady (s q) : Steady s (discardRq s q) := by simp [discardRq]
@[simp] theorem closeQueues_steady (s) : Steady s (closeQueues s) := by simp [closeQueues]
@[simp] theorem endFetches_steady (s b) : Steady s (endFetches s b) := by unfold endFetches; (repeat' split) <;> simp
@[simp] theorem endLoads_steady (s) : Steady s (endLoads s) := by unfold endLoads; dsimp only; (repeat' split) <;> simp

/-! ### Machine/LapOps -/

@[simp] theorem leaveOne_steady (s b) : Steady s (leaveOne s b) := by unfold leaveOne; split <;> simp
@[simp] theorem joinOne_steady (s n t x) : Steady s (joinOne s n t x) := by
  unfold joinOne
  dsimp only
  (repeat' split) <;> simp

@[simp] theorem joins_steady (s n) : Steady s (joins s n) := by unfold joins; dsimp only; split <;> simp
@[simp] theorem serveExt_steady (s n m xs) : Steady s (serveExt s n m xs) := by
  fun_induction serveExt s n m xs <;> grind [modReq_steady]

@[simp] theorem serveReplays_steady (s n m xs) : Steady s (serveReplays s n m xs) := by
  fun_induction serveReplays s n m xs <;> simp_all

@[simp] theorem missPreempted_steady (s n) : Steady s (missPreempted s n) := by
  refine steady_foldl (fun s m => ?_) _ s
  split
  · split <;> simp
  · simp

@[simp] theorem preempt_steady (s n) : Steady s (preempt s n) := by unfold preempt; dsimp only; (repeat' split) <;> simp
@[simp] theorem stepReplays_steady (s n) : Steady s (stepReplays s n) := by
  unfold stepReplays
  split
  · simp
  · exact steady_foldl (fun s q => modReplay_steady s _ _) _ s

@[simp] theorem takePrompts_steady (s n m xs) : Steady s (takePrompts s n m xs) := by
  fun_induction takePrompts s n m xs <;> simp_all

@[simp] theorem holdFetch_steady (s n b) : Steady s (holdFetch s n b) := by unfold holdFetch; (repeat' split) <;> simp
@[simp] theorem serveWork_steady (s n b) : Steady s (serveWork s n b) := by unfold serveWork; split <;> simp
@[simp] theorem seqNeeds_steady (s n b) : Steady s (seqNeeds s n b) := by unfold seqNeeds; split <;> simp
@[simp] theorem clearHeld_steady (s bs) : Steady s (clearHeld s bs) := steady_foldl (fun s b => modReq_steady s b _) bs s
@[simp] theorem clearRunning_steady (s n bs) : Steady s (clearRunning s n bs) :=
  steady_foldl (fun s b => modReq_steady s b _) bs s

@[simp] theorem replayNeed_steady (s n q) : Steady s (replayNeed s n q) := by unfold replayNeed; split <;> simp
@[simp] theorem replayNeeds_steady (s n) : Steady s (replayNeeds s n) := by simp [replayNeeds]
@[simp] theorem laneNeeds_steady (s n) : Steady s (laneNeeds s n) := by simp [laneNeeds]
@[simp] theorem writeTable_steady (s n) : Steady s (writeTable s n) := by
  have hslots (s : State) (xs : List Slot) (bs : List Byte) : Steady s (xs.foldl (fun s x =>
      ((List.range 24).filter fun i => x.cores.getLsbD i).foldl (fun s i => sramWrite s n i (Config.lenTableAt x.kernel) bs) s)
        s) :=
    steady_foldl (fun s x => steady_foldl (fun s i => sramWrite_steady s n i _ bs) _ s) xs s
  unfold writeTable
  dsimp only
  (repeat' split) <;> simp [hslots]

@[simp] theorem heatBoundary_steady (s n) : Steady s (heatBoundary s n) := by simp [heatBoundary]
@[simp] theorem heatHold_steady (s n) : Steady s (heatHold s n) := by simp [heatHold]
@[simp] theorem loadSlots_steady (s n) : Steady s (loadSlots s n) := modLane_steady ..
@[simp] theorem loadSeals_steady (s n) : Steady s (loadSeals s n) := by simp [loadSeals]
@[simp] theorem countInto_steady (s b toks) : Steady s (countInto s b toks) := by unfold countInto; split <;> simp
@[simp] theorem stepPatterns_steady (s b tok) : Steady s (stepPatterns s b tok) := ⟨rfl, rfl, rfl, rfl, rfl, rfl⟩
@[simp] theorem stopCheck_steady (s b) : Steady s (stopCheck s b).1 := by unfold stopCheck; (repeat' split) <;> simp
@[simp] theorem commitDraw_steady (s n b r tok) : Steady s (commitDraw s n b r tok) := by simp [commitDraw]
@[simp] theorem commitNone_steady (s n b) : Steady s (commitNone s n b) := by simp [commitNone]
@[simp] theorem ringMiss_steady (s b) : Steady s (ringMiss s b) := ⟨rfl, rfl, rfl, rfl, rfl, rfl⟩
@[simp] theorem ranOnce_steady (s b) : Steady s (ranOnce s b) := ⟨rfl, rfl, rfl, rfl, rfl, rfl⟩
@[simp] theorem commitMember_steady (s n b) : Steady s (commitMember s n b) := by
  unfold commitMember
  (repeat' split) <;> simp

@[simp] theorem commitPromptTokens_steady (s b r) : Steady s (commitPromptTokens s b r) := by simp [commitPromptTokens]
@[simp] theorem setPromptLeft_steady (s n b k) : Steady s (setPromptLeft s n b k) := by simp [setPromptLeft]
@[simp] theorem commitPrompt_steady (s n b) : Steady s (commitPrompt s n b) := by
  unfold commitPrompt
  dsimp only
  (repeat' split) <;> simp

@[simp] theorem appendExt_steady (s b xs) : Steady s (appendExt s b xs) := by
  fun_induction appendExt s b xs <;> grind [modReq_steady, countInto_steady, stopCheck_steady, stepPatterns_steady]

@[simp] theorem missExt_steady (s n b r) : Steady s (missExt s n b r) := by simp [missExt]
@[simp] theorem commitExt_steady (s n b) : Steady s (commitExt s n b) := by unfold commitExt; split <;> simp
@[simp] theorem commitScratch_steady (s q) : Steady s (commitScratch s q) := by unfold commitScratch; split <;> simp
@[simp] theorem recordHard_steady (s n i) : Steady s (recordHard s n i) := by simp [recordHard]
@[simp] theorem commitLane_steady (s n) : Steady s (commitLane s n).1 := by
  unfold commitLane
  dsimp only
  (repeat' split) <;> simp

/-! ### Machine/Lanes -/

@[simp] theorem loseRegions_steady (s n) : Steady s (loseRegions s n) := ⟨rfl, rfl, rfl, rfl, rfl, rfl⟩
@[simp] theorem emptyStack_steady (s n) : Steady s (emptyStack s n) := by simp [emptyStack]

/-! ### Machine/Regions -/

@[simp] theorem freeRegionSpace_steady (s r) : Steady s (freeRegionSpace s r) := by
  unfold freeRegionSpace
  split <;> simp

/-! ### Machine/SlotWork -/

@[simp] theorem fetchArrived_steady (s n) : Steady s (fetchArrived s n) := by simp [fetchArrived]

/-! ### Machine/Plan -/

@[simp] theorem planCpl_steady (s h code second reason) : Steady s (planCpl s h code second reason) := by simp [planCpl]
@[simp] theorem dropRegionsIn_steady (s n) : Steady s (dropRegionsIn s n) := by simp [dropRegionsIn]
@[simp] theorem endAuditsIn_steady (s n) : Steady s (endAuditsIn s n) := by simp [endAuditsIn]
@[simp] theorem dropLost_steady (s n) : Steady s (dropLost s n) := ⟨rfl, rfl, rfl, rfl, rfl, rfl⟩
@[simp] theorem rebuildLane_steady (s p n) : Steady s (rebuildLane s p n) := by simp [rebuildLane]
@[simp] theorem dropReplacement_steady (s n) : Steady s (dropReplacement s n) := by simp [dropReplacement]
@[simp] theorem switchLane_steady (s p n) : Steady s (switchLane s p n) := by simp [switchLane]
@[simp] theorem switchBib_steady (s old new) : Steady s (switchBib s old new) := by simp [switchBib]
@[simp] theorem trimRegions_steady (s k) : Steady s (trimRegions s k) := by simp [trimRegions]
@[simp] theorem switchTrack_steady (s old p) : Steady s (switchTrack s old p) := by unfold switchTrack; split <;> simp
@[simp] theorem switchModels_steady (s p) : Steady s (switchModels s p) := ⟨rfl, rfl, rfl, rfl, rfl, rfl⟩
@[simp] theorem takeVariant_steady (s n) : Steady s (takeVariant s n) := by
  unfold takeVariant
  dsimp only
  split <;> simp

@[simp] theorem swapTable_steady (s n m) : Steady s (swapTable s n m) := by unfold swapTable; dsimp only; split <;> simp

/-! ### Machine/Fwu -/

@[simp] theorem setFwuSlot_steady (s b x) : Steady s (setFwuSlot s b x) := ⟨rfl, rfl, rfl, rfl, rfl, rfl⟩
@[simp] theorem setSlotState_steady (s b x) : Steady s (setSlotState s b x) := ⟨rfl, rfl, rfl, rfl, rfl, rfl⟩
@[simp] theorem fwuResult_steady (s code reason) : Steady s (fwuResult s code reason) := ⟨rfl, rfl, rfl, rfl, rfl, rfl⟩
@[simp] theorem fwuRefuse_steady (s reason) : Steady s (fwuRefuse s reason) := ⟨rfl, rfl, rfl, rfl, rfl, rfl⟩
@[simp] theorem startPause_steady (s) : Steady s (startPause s) := by
  unfold startPause
  dsimp only
  (repeat' split) <;> simp

@[simp] theorem recheck_steady (s) : Steady s (recheck s) := by unfold recheck; split <;> simp
@[simp] theorem pauseAtBoundary_steady (s) : Steady s (pauseAtBoundary s) := by simp [pauseAtBoundary]

/-! ### Machine/Laps -/

@[simp] theorem countProductive_steady (s done) : Steady s (countProductive s done) := by simp [countProductive]
@[simp] theorem commitLanes_steady (s) : Steady s (commitLanes s).1 := by
  unfold commitLanes
  generalize laneNos = ns
  refine steady_foldl_fst (β := List (LaneNo × Bool)) ?_ ns (s, [])
  exact fun y n => commitLane_steady y.1 n

@[simp] theorem throttleUpdate_steady (s) : Steady s (throttleUpdate s) := by simp [throttleUpdate]
@[simp] theorem leadPulse_steady (s) : Steady s (leadPulse s) := by simp [leadPulse]
@[simp] theorem startDrain_steady (s n) : Steady s (startDrain s n) := by simp [startDrain]
@[simp] theorem laneCommands_steady (s n) : Steady s (laneCommands s n) := by simp [laneCommands]
@[simp] theorem boundaryStops_steady (s n) : Steady s (boundaryStops s n) := by simp [boundaryStops]
@[simp] theorem retrySpill_steady (s b) : Steady s (retrySpill s b) := by
  unfold retrySpill
  grind [openSpill_steady, allocTier_steady]

@[simp] theorem retryPark_steady (s b) : Steady s (retryPark s b) := by unfold retryPark; split <;> simp
@[simp] theorem retryHandoff_steady (s b) : Steady s (retryHandoff s b) := by simp [retryHandoff]
@[simp] theorem boundaryReqs_steady (s) : Steady s (boundaryReqs s) := by simp [boundaryReqs]
@[simp] theorem drainedLane_steady (s n) : Steady s (drainedLane s n) := by simp [drainedLane]
@[simp] theorem dirBoundary_steady (s n) : Steady s (dirBoundary s n) := by simp [dirBoundary]
@[simp] theorem countClean_steady (s n) : Steady s (countClean s n) := by simp [countClean]
@[simp] theorem startLane_steady (s n) : Steady s (startLane s n) := by
  unfold startLane
  dsimp only
  (repeat' split) <;> simp

/-! ### Machine/HostPort -/

@[simp] theorem voidCopies_steady (s p b) : Steady s (voidCopies s p b) := by unfold voidCopies; split <;> simp
@[simp] theorem dropRegionsOn_steady (s p) : Steady s (dropRegionsOn s p) := ⟨rfl, rfl, rfl, rfl, rfl, rfl⟩

end Sys2Proof.Machine

end

section

/-! PROOFS. LAP_SYNC, its loss and its return, and straggler reports (R93, R95, R112, R334, R338). -/

namespace Sys2Proof.Machine

open Sys2Proof

section
variable {s : State}

/-! ### The boundary's source -/

@[simp] theorem marSend_sansTransport (s : State) (dst : DevId) (m : MarMsg) (entry : List Word) :
    sansTransport (marSend s dst m entry) = sansTransport s := by
  unfold marSend
  split
  · exact foldl_keeps sansTransport _ (fun _ _ => sendLoose_sansTransport ..) _ _
  · rfl

/-- A report that this device runs free draws two free words and goes out. -/
theorem reportFreeRun_frame (s : State) : ∃ k, sansTransport (reportFreeRun s) = { sansTransport s with free := k } := by
  unfold reportFreeRun
  split
  · exact ⟨s.free, rfl⟩
  · exact ⟨s.free + 1 + 1, marSend_sansTransport ..⟩

/-- A new source of the boundary is LST's alone, but for the report that a device which runs free sends. -/
theorem setSource_frame (s : State) (src : BitVec 2) :
    ∃ k, sansTransport (setSource s src) = { sansTransport s with lap := { s.lap with source := src }, free := k } := by
  unfold setSource
  dsimp only
  split
  · exact reportFreeRun_frame { s with lap := { s.lap with source := src } }
  · exact ⟨s.free, rfl⟩

theorem setSource_lap (s : State) (src : BitVec 2) : (setSource s src).lap = { s.lap with source := src } := by
  obtain ⟨k, h⟩ := setSource_frame s src
  exact (congrArg State.lap h :)

theorem setSource_mem (s : State) (src : BitVec 2) : (setSource s src).mem = s.mem := by
  obtain ⟨k, h⟩ := setSource_frame s src
  exact (congrArg State.mem h :)

theorem setSource_lanes (s : State) (src : BitVec 2) : (setSource s src).lanes = s.lanes := by
  obtain ⟨k, h⟩ := setSource_frame s src
  exact (congrArg State.lanes h :)

theorem setSource_reqs (s : State) (src : BitVec 2) : (setSource s src).reqs = s.reqs := by
  obtain ⟨k, h⟩ := setSource_frame s src
  exact (congrArg State.reqs h :)

theorem setSource_glb (s : State) (src : BitVec 2) : (setSource s src).glb = s.glb := by
  obtain ⟨k, h⟩ := setSource_frame s src
  exact (congrArg State.glb h :)

theorem setSource_clk (s : State) (src : BitVec 2) : (setSource s src).clk = s.clk := by
  obtain ⟨k, h⟩ := setSource_frame s src
  exact (congrArg State.clk h :)

/-! ### LAP_SYNC -/

theorem exec_lapSyncEdge_follower (hlead : s.lap.leader = false) (hrun : s.lap.running = true) (off : Int) :
    exec (.lapSyncEdge off) s = .next { s with lap := { s.lap with
      offset := offsetField off
      boundaryAt := if s.lap.source = 1 && (decide (-2000 ≤ off) && decide (off ≤ 2000)) then
        (Int.ofNat s.lap.boundaryAt - off).toNat else s.lap.boundaryAt } } := by
  change execLapSyncEdge off s = _
  simp [execLapSyncEdge, hlead, hrun]

theorem exec_syncLost_follower (hlead : s.lap.leader = false) (hrun : s.lap.running = true) (hsrc : s.lap.source = 1) :
    exec .syncLost s = .next (setSource (raiseEvt { s with lap := { s.lap with syncLost := true } } 7) (ptpSource s)) := by
  change execSyncLost s = _
  simp [execSyncLost, hlead, hrun, hsrc, ptpSource]

theorem exec_syncRegained_follower (hlead : s.lap.leader = false) (hrun : s.lap.running = true) (hsrc : s.lap.source ≠ 1) :
    exec .syncRegained s = .next { s with lap := { s.lap with source := 1 } } := by
  change execSyncRegained s = _
  rw [execSyncRegained, hlead, hrun, beq_eq_false_iff_ne.2 hsrc]
  rfl

/-! ### Stragglers -/

theorem exec_stragglerReport_due {d : DevId} (hlate : s.mar.stragLimit.toNat < lateCount s d) (hheld : marHeld s = false)
    (hdue : ∀ t, tblGet s.mar.reportedAt d.toNat = some t → t + 1000000000 ≤ s.clk.now) :
    exec (.stragglerReport d) s = .next (marLog { s with mar := { s.mar with
      reportedAt := tblSet s.mar.reportedAt d.toNat s.clk.now } } evStraggler 0xF d 0xFF (lo32 (lateCount s d))) := by
  change execStragglerReport d s = _
  unfold execStragglerReport
  cases hlast : tblGet s.mar.reportedAt d.toNat with
  | none =>
    simp only [hlate, hheld, decide_true, Bool.not_false, Bool.and_self, if_pos]
    rfl
  | some t =>
    simp only [hlate, hheld, hdue t hlast, decide_true, Bool.not_false, Bool.and_self, if_pos]
    rfl

theorem exec_stragglerReport_notDue {d : DevId} (h : lateCount s d ≤ s.mar.stragLimit.toNat ∨
    ∃ t, tblGet s.mar.reportedAt d.toNat = some t ∧ s.clk.now < t + 1000000000) : exec (.stragglerReport d) s = .next s := by
  change execStragglerReport d s = _
  unfold execStragglerReport
  rcases h with h | ⟨t, ht, h⟩
  · simp [Nat.not_lt.2 h]
  · simp [ht, Nat.not_le.2 h]

end

/-- Settles O33: an edge and the return of LAP_SYNC change LST alone; its loss raises SYNC_LOST and then sets the source, which changes
nothing else but what a report sends. A straggler's report is due only when the last one is a second old. -/
theorem lapAlignment : Obligations.LapAlignment := by
  refine fun s => ⟨fun off hlead hrun => ⟨_, exec_lapSyncEdge_follower hlead hrun off, rfl, ?_, rfl, rfl⟩,
    fun hlead hrun hsrc => ⟨_, exec_syncLost_follower hlead hrun hsrc, ?_, ?_, ?_, ?_⟩,
    exec_syncRegained_follower, fun d => exec_stragglerReport_due, fun d => exec_stragglerReport_notDue⟩
  · simp
  · rw [setSource_lap, raiseEvt_lap, ptpSource]
  · rw [setSource_glb]
    exact raiseEvt_getLsbD_self _ (by decide)
  · rw [setSource_mem, raiseEvt_mem]
  · rw [setSource_lanes, raiseEvt_lanes]

end Sys2Proof.Machine

end

section

/-! PROOFS. Replacement tables and staged variants (R109, R113, R114, R333). -/

namespace Sys2Proof.Machine

open Sys2Proof

/-! ### The two copies of a lane's table -/

section
variable {l : Lane} {x : Option LapTable}

theorem fgTable_setBgTable (l : Lane) (x : Option LapTable) : fgTable { l with tables := setBgTable l.tables x } = fgTable l := by
  unfold fgTable setBgTable
  cases l.tables.fg <;> rfl

theorem bgTable_setBgTable (l : Lane) (x : Option LapTable) : bgTable { l with tables := setBgTable l.tables x } = x := by
  unfold bgTable setBgTable
  cases l.tables.fg <;> rfl

end

section
variable {s : State} {n : LaneNo}

/-! ### The replacement -/

/-- The lane with a replacement in its background copy. -/
def replacing (l : Lane) (t : LapTable) (a d : BitVec 48) : Lane :=
  { l with tables := { setBgTable l.tables (some t) with repl := some ⟨a, d, false⟩ } }

theorem exec_lapTableReplacement_taken {t : LapTable} {a d : BitVec 48} (hheld : mplHeld s = false)
    (hretired : (laneOf s n).ctl ≠ .retired) (hunassigned : (laneOf s n).ctl ≠ .unassigned) (hrepl : (laneOf s n).tables.repl = none)
    (htime : a.toNat ≤ d.toNat) :
    exec (.lapTableReplacement n t a d) s = .next (setLane s n (replacing (laneOf s n) t a d)) := by
  change execLapTableReplacement n t a d s = _
  have hok : ¬ (mplHeld s || (laneOf s n).ctl = .retired || (laneOf s n).ctl = .unassigned || (laneOf s n).tables.repl.isSome ||
      decide (d.toNat < a.toNat)) = true := by
    simp [hheld, hretired, hunassigned, hrepl, htime]
  exact if_neg hok

theorem exec_lapTableReplacement_refused {t : LapTable} {a d : BitVec 48}
    (h : (laneOf s n).ctl = .retired ∨ (laneOf s n).ctl = .unassigned ∨ (laneOf s n).tables.repl ≠ none) :
    exec (.lapTableReplacement n t a d) s = .next (emit s (.replacement n .refused)) := by
  change execLapTableReplacement n t a d s = _
  refine if_pos ?_
  rcases h with h | h | h
  · simp [h]
  · simp [h]
  · simp [Option.isSome_iff_ne_none.2 h]

theorem fgTable_replacing (l : Lane) (t : LapTable) (a d : BitVec 48) : fgTable (replacing l t a d) = fgTable l :=
  fgTable_setBgTable l (some t)

theorem bgTable_replacing (l : Lane) (t : LapTable) (a d : BitVec 48) : bgTable (replacing l t a d) = some t :=
  bgTable_setBgTable l (some t)

/-- What a refused replacement leaves of the lane: no background copy, no replacement, and the reason where there is one. -/
def tableRefused (c : Byte) (l : Lane) : Lane :=
  { l with tables := { setBgTable l.tables none with repl := none, reason := if c = 0 then l.tables.reason else c } }

theorem laneOf_refuseTable (s : State) (n : LaneNo) (c : Byte) : laneOf (refuseTable s n c) n = tableRefused c (laneOf s n) :=
  laneOf_modLane_self s n (tableRefused c)

theorem fgTable_refuseTable (s : State) (n : LaneNo) (c : Byte) : fgTable (laneOf (refuseTable s n c) n) = fgTable (laneOf s n) := by
  rw [laneOf_refuseTable]
  exact fgTable_setBgTable (laneOf s n) none

theorem exec_lapTableReady {r : Replacement} {t : LapTable} {p : PlanImage} (hrepl : (laneOf s n).tables.repl = some r)
    (hready : r.ready = false) (hbg : bgTable (laneOf s n) = some t) (hplan : s.mpl.current = some p) :
    exec (.lapTableReady n) s = .next (if fitTest (fitEnv p n) t = 0 then
      setLane s n { laneOf s n with tables := { (laneOf s n).tables with repl := some { r with ready := true } } }
      else refuseTable s n (fitTest (fitEnv p n) t)) := by
  change execLapTableReady n s = _
  rw [execLapTableReady, hrepl, hbg, hplan]
  simp only [hready, Bool.false_eq_true, if_false]
  split <;> rfl

/-- The lane after its replacement came too late. -/
def tableLate (s : State) (n : LaneNo) : State :=
  modLane (refuseTable s n 0) n fun l => { l with tables := { l.tables with late := true } }

theorem exec_lapTableLate {r : Replacement} (hrepl : (laneOf s n).tables.repl = some r)
    (hlate : r.deadlineLap.toNat ≤ s.lap.count.toNat) : exec (.lapTableLate n) s = .next (raiseEvt (tableLate s n) 2) := by
  change execLapTableLate n s = _
  rw [execLapTableLate, hrepl]
  exact if_pos hlate

theorem laneOf_tableLate (s : State) (n : LaneNo) : laneOf (tableLate s n) n =
    { laneOf (refuseTable s n 0) n with tables := { (laneOf (refuseTable s n 0) n).tables with late := true } } :=
  laneOf_modLane_self ..

/-! ### Staged variants -/

theorem exec_variantLanded {h : HostHdr} {i : Nat} {m : ModelSec} {d : Digest} (hcmd : (laneOf s n).stagingCmd = some (h, i))
    (hready : (laneOf s n).variantReady = none) (hmodel : variantModel s n i = some m) :
    exec (.variantLanded n d) s = if stagedAll s (laneOf s n) m = false then .next s
      else if m.weightDigest = d then .next (modLane s n fun l => { l with variantReady := some i })
      else .next (complete (modLane s n fun l => { l with stagingCmd := none }) h 0x24 .refused) := by
  change execVariantLanded n d s = _
  rw [execVariantLanded, hcmd]
  dsimp only
  rw [hready, hmodel]
  simp

end

/-- Settles O34: only the background copy is written, whichever it is; what is refused leaves the copy that runs alone, and so does a
variant. -/
theorem tableReplacement : Obligations.TableReplacement := by
  refine fun s n => ⟨fun t a d hheld hretired hunassigned hrepl htime => ?taken,
    fun t a d h => exec_lapTableReplacement_refused h, fun r t p hrepl hready hbg hplan => ?ready,
    fun r hrepl hlate => ?late, fun h i m d hcmd hready hmodel => ?landed⟩
  case taken =>
    have hexec := exec_lapTableReplacement_taken (t := t) hheld hretired hunassigned hrepl htime
    refine ⟨hexec, fun u hu => ?_⟩
    rw [hexec] at hu
    cases hu
    rw [laneOf_setLane_self]
    exact ⟨fgTable_replacing .., bgTable_replacing ..⟩
  case ready =>
    refine ⟨_, exec_lapTableReady hrepl hready hbg hplan, ?_⟩
    split
    · next hfit => simp [fgTable, hfit]
    · next hfit => exact ⟨fgTable_refuseTable .., by rw [laneOf_refuseTable]; rfl,
        fun _ => by rw [laneOf_refuseTable]; exact if_neg hfit, rfl, rfl⟩
  case late =>
    refine ⟨_, exec_lapTableLate hrepl hlate, ?_⟩
    rw [laneOf_raiseEvt, laneOf_tableLate]
    exact ⟨by rw [laneOf_refuseTable]; rfl, rfl, fgTable_refuseTable s n 0, raiseEvt_getLsbD_self _ (by decide), raiseEvt_mem ..,
      raiseEvt_reqs ..⟩
  case landed =>
    rw [exec_variantLanded hcmd hready hmodel]
    exact ⟨fun hall => if_pos hall, fun hall hd => by simp [hall, hd], fun hall hd => by simp [hall, hd]⟩

end Sys2Proof.Machine

end

section

/-! PROOFS. Device-wide resets (R340, R341, R421, R422). -/

namespace Sys2Proof.Machine

open Sys2Proof

section
variable {s : State}

/-! ### Power-on -/

theorem exec_powerOnReset (s : State) : ∃ o, exec .powerOnReset s = .next { State.reset with
    pending := s.pending, out := o, free := s.free
    glb := { Glb.reset with bolzilStep := s.glb.bolzilStep, poletteStep := s.glb.poletteStep }
    coach := { Coach.reset with romRev := s.coach.romRev }
    sta := { Sta.reset with por := true, rail := 0xF, boot := { Boot.reset with
      railGood := s.sta.boot.railGood, resetN := s.sta.boot.resetN, perstN := s.sta.boot.perstN } }
    fus := { Fus.reset with
      serial := s.fus.serial, hbmCode := s.fus.hbmCode, pinMap := s.fus.pinMap, sramRepair := s.fus.sramRepair
      coreFailed := s.fus.coreFailed, intent := s.fus.intent, commit := s.fus.commit, planKey := s.fus.planKey
      fwKey := s.fus.fwKey, family := s.fus.family, returnKey := s.fus.returnKey } } := by
  change ∃ o, execPowerOnReset s = _
  unfold execPowerOnReset
  dsimp only
  split
  · exact ⟨s.out ++ [.pin .fatalN false], rfl⟩
  · exact ⟨s.out, rfl⟩

/-! ### The reset that every domain but the standby one takes -/

theorem runAfterReset_frame (s : State) : ∃ w, (runAfterReset s).1 = { s with fwu := w } := by
  unfold runAfterReset
  split
  · exact ⟨s.fwu, rfl⟩
  · dsimp only
    split
    · exact ⟨_, rfl⟩
    · split
      · exact ⟨s.fwu, rfl⟩
      · exact ⟨_, rfl⟩

/-- Of the state before a reset, FWU alone is worked on. -/
theorem fwuReset_frame (s : State) : ∃ w, (fwuReset s).1 = { s with fwu := w } := by
  have hop : ∃ w, (match s.fwu.op with
      | .stage b _ => setFwuSlot s b FwSlot.empty
      | .none => s
      | .activate _ => s
      | .rom => s) = { s with fwu := w } := by
    split <;> exact ⟨_, rfl⟩
  obtain ⟨w, hw⟩ := hop
  obtain ⟨w', hw'⟩ := runAfterReset_frame { s with fwu := w }
  have h : (fwuReset s).1 = { (runAfterReset { s with fwu := w }).1 with fwu := { (runAfterReset { s with fwu := w }).1.fwu with
      op := .none, fallback := false, result := 0, reason := 0, rev := 0 } } := by
    rw [← hw]
    rfl
  exact ⟨_, h.trans (by rw [hw'])⟩

/-- What a device-wide reset leaves, but for FWU, GLB and what is driven outwards. -/
def deviceAgain (s : State) (mark : Sta → Sta) : State :=
  { State.reset with
    pending := s.pending, free := s.free
    clk := { s.clk with now := 0, ptpLock := false, ptpHold := none }
    coach := { Coach.reset with romRev := s.coach.romRev }
    sel := s.sel.filter fun e => !hostAccessor e.1
    sta := staAgain s.sta s.glb.fatal mark
    fus := s.fus, lanes := Vector.ofFn (laneAgain s)
    spi := s.spi, uar := s.uar, i2c := s.i2c, jtg := s.jtg }

/-- An event leaves the fatal state as it was. -/
theorem raiseEvt_fatal (s : State) (b : Nat) : (raiseEvt s b).glb.fatal = s.glb.fatal := by
  have hsend (s : State) : (sendEvt s).glb.fatal = s.glb.fatal := by
    unfold sendEvt
    split <;> simp
  unfold raiseEvt
  dsimp only
  split
  · exact hsend _
  · rfl

/-- The same with FWU as the reset leaves it, before the events and pins. -/
def deviceReborn (s : State) (mark : Sta → Sta) (w : Fwu) : State :=
  { deviceAgain s mark with
    out := s.out, glb := { Glb.reset with bolzilStep := s.glb.bolzilStep, poletteStep := s.glb.poletteStep }, fwu := w }

theorem deviceReset_eq (s : State) (mark : Sta → Sta) : ∃ w, deviceReset s mark =
    (let u := if (fwuReset s).2 then raiseEvt (deviceReborn s mark w) 8 else deviceReborn s mark w
    if s.sta.fatalPin then drivePin u .fatalN false else u) := by
  obtain ⟨w, hw⟩ := fwuReset_frame s
  refine ⟨w, ?_⟩
  unfold deviceReset
  simp only [hw]
  rfl

/-- A device-wide reset in one state: FWU and GLB apart, it is `deviceAgain`, and no fatal error stands. -/
theorem deviceReset_frame (s : State) (mark : Sta → Sta) : ∃ o g w,
    deviceReset s mark = { deviceAgain s mark with out := o, glb := g, fwu := w } ∧ g.fatal = false := by
  obtain ⟨w, hw⟩ := deviceReset_eq s mark
  have hevent : ∃ o g, (if (fwuReset s).2 then raiseEvt (deviceReborn s mark w) 8 else deviceReborn s mark w) =
      { deviceAgain s mark with out := o, glb := g, fwu := w } ∧ g.fatal = false := by
    split
    · obtain ⟨o, g, h⟩ := raiseEvt_frame (deviceReborn s mark w) 8
      have hfatal := raiseEvt_fatal (deviceReborn s mark w) 8
      rw [h] at hfatal
      exact ⟨o, g, h, hfatal⟩
    · exact ⟨_, _, rfl, rfl⟩
  obtain ⟨o, g, h, hfatal⟩ := hevent
  rw [hw]
  simp only [h]
  split <;> exact ⟨_, g, w, rfl, hfatal⟩

theorem lanes_deviceAgain (s : State) (mark : Sta → Sta) (n : LaneNo) : (deviceAgain s mark).lanes.get n = laneAgain s n := by
  simp [deviceAgain]

theorem laneAgain_effect (s : State) (n : LaneNo) :
    (laneAgain s n).ctl = (if (s.lanes.get n).ctl = .retired then .retired else .unassigned) ∧ (laneAgain s n).dataOpen = false ∧
      (laneAgain s n).hbc.repaired = (s.lanes.get n).hbc.repaired := by
  have hlane : laneOf s n = s.lanes.get n := rfl
  unfold laneAgain
  dsimp only
  rw [hlane]
  split <;> exact ⟨rfl, rfl, rfl⟩

/-- What each cause of a reset adds to STA keeps what stands of the causes before it. -/
def Marks (mark : Sta → Sta) : Prop :=
  ∀ t, (mark t).por = t.por ∧ (mark t).afterFatal = t.afterFatal ∧ (mark t).boot.fabricUp = t.boot.fabricUp

/-- What a device-wide reset reaches and keeps, as the statement of R341 says it. -/
def ResetReaches (s t : State) : Prop :=
  t.pending = s.pending ∧ t.mem = Mems.reset ∧ t.reqs = [] ∧ t.mpl = Mpl.reset ∧ t.te = Te.reset ∧ t.hif.linkUp = false ∧
  t.btn = Btn.reset ∧ t.mar = Mar.reset ∧ t.fus = s.fus ∧ t.spi = s.spi ∧ t.uar = s.uar ∧ t.i2c = s.i2c ∧ t.jtg = s.jtg ∧
  (∀ n, (t.lanes.get n).ctl = (if (s.lanes.get n).ctl = .retired then .retired else .unassigned) ∧ (t.lanes.get n).dataOpen = false ∧
    (t.lanes.get n).hbc.repaired = (s.lanes.get n).hbc.repaired) ∧
  t.coach.phase = .booting ∧ t.sta.boot.fabricUp = false ∧ t.glb.fatal = false ∧
  (s.sta.por = true → t.sta.por = true) ∧ (s.glb.fatal = true → t.sta.afterFatal = true)

theorem deviceReset_reaches (s : State) {mark : Sta → Sta} (hmark : Marks mark) : ResetReaches s (deviceReset s mark) := by
  obtain ⟨o, g, w, h, hfatal⟩ := deviceReset_frame s mark
  obtain ⟨hpor, hafter, hfabric⟩ := hmark { coolLevels s.sta with
    afterFatal := s.sta.afterFatal || s.glb.fatal, blockHeld := 0, fatalPin := false, boot := bootAgain s.sta.boot }
  rw [h]
  refine ⟨rfl, rfl, rfl, rfl, rfl, rfl, rfl, rfl, rfl, rfl, rfl, rfl, rfl, fun n => ?_, rfl, hfabric, hfatal,
    fun hs => hpor.trans hs, fun hs => hafter.trans ?_⟩
  · have hn := lanes_deviceAgain s mark n
    rw [hn]
    exact laneAgain_effect s n
  · simp [hs]

/-- The main domain's start changes its own flag of the boot, which the reset does not speak of. -/
theorem mainStart_reaches {t : State} (h : ResetReaches s t) : ResetReaches s (mainStart t) := h

theorem deviceReset_sta (s : State) (mark : Sta → Sta) : (deviceReset s mark).sta = staAgain s.sta s.glb.fatal mark := by
  obtain ⟨o, g, w, h, -⟩ := deviceReset_frame s mark
  rw [h]
  rfl

/-! ### The three causes -/

def brownoutMark (rails : BitVec 8) (t : Sta) : Sta :=
  { t with brownout := true, rail := lowestRail rails, boot := { t.boot with railGood := t.boot.railGood &&& ~~~rails } }

def pinMark (t : Sta) : Sta := { t with pinCause := true, boot := { t.boot with resetN := false } }
def softwareMark (t : Sta) : Sta := { t with software := true }

theorem exec_mainBrownout {rails : BitVec 8} (hrails : rails ≠ 0) :
    exec (.mainBrownout rails) s = .next (deviceReset s (brownoutMark rails)) :=
  if_neg hrails

theorem exec_resetPin (s : State) : exec .resetPin s = .next (deviceReset s pinMark) := rfl

theorem bits_resetKey (v : Word) : bits v.toNat 31 16 = 0x5A5A ↔ v >>> 16 = 0x5A5A := by
  have hlt : v.toNat < 2 ^ 32 := v.isLt
  rw [bits, ← BitVec.toNat_inj, BitVec.toNat_ushiftRight, Nat.shiftRight_eq_div_pow, show (0x5A5A : Word).toNat = 0x5A5A from rfl]
  omega

section
variable {a : Accessor} {v : Word}

theorem exec_deviceSoftwareReset (h : RegActs s a 0x0001000C) (hmay : mayReset s a = true) (hkey : v >>> 16 = 0x5A5A)
    (hgo : v.getLsbD 0 = true) : exec (.deviceSoftwareReset a v) s = .next (mainStart (deviceReset s softwareMark)) := by
  refine (regCmd_acts h _).trans (congrArg _ (if_pos ?_))
  rw [decide_eq_true ((bits_resetKey v).2 hkey), hgo, hmay]
  rfl

theorem exec_deviceSoftwareReset_locked (h : RegActs s a 0x0001000C) (hkey : v >>> 16 ≠ 0x5A5A) :
    exec (.deviceSoftwareReset a v) s = .next s := by
  refine (regCmd_acts h _).trans (congrArg _ (if_neg ?_))
  rw [decide_eq_false fun hbits => hkey ((bits_resetKey v).1 hbits)]
  simp

end

end

/-- Settles O20: the three device-wide resets are one reset with three marks; `deviceReset_frame` says all that it leaves. The values that
the spec does not give are the model's (logs 6 and 42). -/
theorem resets : Obligations.Resets := by
  refine ⟨exec_powerOnReset, fun s c t hc ht => ?reaches, fun s => ⟨fun rails hrails => ?brownout, ?pin,
    fun a v h hmay hkey hgo => ?software, fun a v h hkey => exec_deviceSoftwareReset_locked h hkey,
    ⟨_, rfl, rfl, ?_, rfl⟩, fun r => ⟨_, rfl, rfl, rfl⟩⟩⟩
  case reaches =>
    rcases hc with ⟨rails, rfl, hrails⟩ | rfl | ⟨a, v, rfl, h, hmay, hkey, hgo⟩
    · rw [exec_mainBrownout hrails] at ht
      cases ht
      exact deviceReset_reaches s fun t => ⟨rfl, rfl, rfl⟩
    · rw [exec_resetPin] at ht
      cases ht
      exact deviceReset_reaches s fun t => ⟨rfl, rfl, rfl⟩
    · rw [exec_deviceSoftwareReset h hmay hkey hgo] at ht
      cases ht
      exact mainStart_reaches (deviceReset_reaches s fun t => ⟨rfl, rfl, rfl⟩)
  case brownout =>
    refine ⟨_, exec_mainBrownout hrails, ?_⟩
    rw [deviceReset_sta]
    exact ⟨rfl, rfl, rfl⟩
  case pin =>
    refine ⟨_, exec_resetPin s, ?_⟩
    rw [deviceReset_sta]
    exact ⟨rfl, rfl⟩
  case software =>
    refine ⟨_, exec_deviceSoftwareReset h hmay hkey hgo, ?_⟩
    change (deviceReset s softwareMark).sta.software = true
    rw [deviceReset_sta]
    rfl
  · simp [mainStart]

end Sys2Proof.Machine

end

section

/-! PROOFS. What a frame that goes out beside the channels reaches: its queue at the Pacer, and Track's list of such frames. -/

namespace Sys2Proof.Machine

open Sys2Proof

/-- The state with the Pacer blank and no frame waiting beside the channels. -/
def sansLoose (s : State) : State := { s with pac := State.reset.pac, te := { s.te with loose := [], looseRot := 0 } }

section
variable {s t : State}

theorem enqueue_sansLoose {port : Nat} {f : TxFrame} (h : enqueue s port f = some t) : sansLoose t = sansLoose s := by
  simp only [enqueue] at h
  split at h <;> cases h
  rfl

theorem sendOn_sansLoose {table rot r : Nat} {f g : TxFrame} (h : sendOn s table rot f = some (t, g, r)) :
    sansLoose t = sansLoose s := by
  simp only [sendOn] at h
  (repeat' split at h) <;> cases h
  exact enqueue_sansLoose ‹_›

theorem trySend_sansLoose {x : Option Nat × TxFrame} (h : trySend s x = some t) : sansLoose t = sansLoose s := by
  simp only [trySend] at h
  (repeat' split at h) <;> try cases h
  · exact enqueue_sansLoose h
  · exact (sendOn_sansLoose ‹_› :)

theorem pumpLoose_sansLoose (s : State) : sansLoose (pumpLoose s) = sansLoose s := by
  refine foldl_fst_keeps sansLoose _ (fun y x => ?_) _ _
  split
  · next h => exact trySend_sansLoose h
  · rfl

theorem sendLoose_sansLoose (s : State) (port : Option Nat) (f : TxFrame) : sansLoose (sendLoose s port f) = sansLoose s :=
  pumpLoose_sansLoose _

theorem marSend_sansLoose (s : State) (dst : DevId) (m : MarMsg) (entry : List Word) :
    sansLoose (marSend s dst m entry) = sansLoose s := by
  unfold marSend
  split
  · exact foldl_keeps sansLoose _ (fun _ _ => sendLoose_sansLoose ..) _ _
  · rfl

/-- An entry of MAR's log changes MAR and what is driven outwards, but for the report that goes out. -/
theorem marLog_frame (s : State) (ev lane : Nat) (subject : DevId) (core : Nat) (detail : Word) :
    ∃ o m, sansLoose (marLog s ev lane subject core detail) = { sansLoose s with out := o, mar := m } := by
  unfold marLog
  dsimp only
  split
  · exact ⟨s.out, _, rfl⟩
  · obtain ⟨o, h⟩ := msix_frame { s with mar := { s.mar with
      log := tblSet s.mar.log s.mar.logNext.toNat (logWords s ev lane subject core detail), logNext := s.mar.logNext + 1
      logWrapped := s.mar.logWrapped || decide (s.mar.logNext.toNat = 255) } } 0 0
    rw [h]
    split
    · exact ⟨o, _, (marSend_sansLoose ..).trans rfl⟩
    · exact ⟨o, _, rfl⟩

/-- The parts of a state that two states with one `sansLoose` share. -/
theorem te_of_sansLoose {α : Type} (p : Te → α) (hp : ∀ x : Te, p { x with loose := [], looseRot := 0 } = p x)
    (h : sansLoose t = sansLoose s) : p t.te = p s.te :=
  (hp t.te).symm.trans ((congrArg (fun u : State => p u.te) h :).trans (hp s.te))

end

end Sys2Proof.Machine

end

section

/-! PROOFS. Clock failures (R423 to R425, R95) and the temperature trip (R400, R426, R429). -/

namespace Sys2Proof.Machine

open Sys2Proof

section
variable {s : State}

/-! ### Clocks -/

theorem exec_sysclkFail_fatal (hup : s.sta.boot.fabricUp = true) :
    exec .sysclkFail s = .next (fatalError { s with clk := { s.clk with sysOk := false, sysFail := true } }) := by
  change execSysclkFail s = _
  simp [execSysclkFail, hup]

/-- A capacity port that goes down keeps the clocks and the host link. -/
theorem capDown_clk (s : State) (p : Fin 4) : (capDown s p).clk = s.clk ∧ (capDown s p).hif.linkUp = s.hif.linkUp := by
  have hlose (s : State) : (loseStaging s p).clk = s.clk ∧ (loseStaging s p).hif.linkUp = s.hif.linkUp := by
    unfold loseStaging
    split <;> simp
  unfold capDown
  dsimp only
  (repeat' split) <;> simp [hlose]

theorem capsDown_clk (ps : List (Fin 4)) (s : State) :
    (ps.foldl capDown s).clk = s.clk ∧ (ps.foldl capDown s).hif.linkUp = s.hif.linkUp :=
  ⟨foldl_keeps State.clk capDown (fun s p => (capDown_clk s p).1) ps s,
    foldl_keeps (fun s => s.hif.linkUp) capDown (fun s p => (capDown_clk s p).2) ps s⟩

theorem exec_refclkFail (s : State) :
    ∃ t, exec .refclkFail s = .next t ∧ t.clk.refOk = false ∧ t.clk.refFail = true ∧ t.hif.linkUp = false := by
  change ∃ t, execRefclkFail s = .next t ∧ _
  unfold execRefclkFail
  refine ⟨_, rfl, ?_⟩
  rw [(capsDown_clk ..).1, (capsDown_clk ..).2]
  split
  · exact ⟨rfl, rfl, rfl⟩
  · next hlink => exact ⟨rfl, rfl, Bool.eq_false_iff.2 hlink⟩

/-- The state whose ports ETHCLK's failure leaves down, before what is logged and the links. -/
def ethclkLost (s : State) : State :=
  { s with
    clk := { s.clk with ethOk := false, ethFail := true, ptpLock := false, ptpHold := some s.clk.now }
    te := { s.te with portUp := 0 } }

/-- Ports logged as down change MAR and what is driven outwards, but for the reports that go out. -/
theorem portsLogged_frame (ps : List Nat) (s : State) : ∃ o m, sansLoose (ps.foldl (fun s p =>
    marLog s evPortDown 0xF s.mpl.devId 0xFF (lo32 p)) s) = { sansLoose s with out := o, mar := m } := by
  induction ps generalizing s with
  | nil => exact ⟨s.out, s.mar, rfl⟩
  | cons p ps ih =>
    obtain ⟨o, m, h⟩ := marLog_frame s evPortDown 0xF s.mpl.devId 0xFF (lo32 p)
    obtain ⟨o', m', h'⟩ := ih (marLog s evPortDown 0xF s.mpl.devId 0xFF (lo32 p))
    exact ⟨o', m', h'.trans (congrArg (fun u : State => { u with out := o', mar := m' }) h)⟩

/-- Links that go down change themselves alone; each then has state 0, and one that had it keeps it. -/
theorem relaysDown_frame (is : List (Fin 3)) (s : State) : ∃ r, is.foldl relayDown s = { s with rly := r } ∧
    ∀ i, i ∈ is ∨ (s.rly.get i).state = 0 → (r.get i).state = 0 := by
  induction is generalizing s with
  | nil => exact ⟨s.rly, rfl, fun i hi => hi.resolve_left List.not_mem_nil⟩
  | cons k is ih =>
    obtain ⟨r, h, hdown⟩ := ih (relayDown s k)
    refine ⟨r, h, fun i hi => hdown i ?_⟩
    by_cases hik : i = k
    · exact .inr (by simp [hik, relayDown])
    · refine hi.imp (fun hmem => (List.mem_cons.1 hmem).resolve_left hik) fun h0 => ?_
      simpa [relayDown, vmod_get_ne _ _ _ _ hik] using h0

/-- ETHCLK's failure up to the source of the boundary. -/
def ethclkDown (s : State) : State :=
  (List.finRange 3).foldl relayDown (((List.range 16).filter fun p => s.te.portUp.getLsbD p).foldl
    (fun s p => marLog s evPortDown 0xF s.mpl.devId 0xFF (lo32 p)) (ethclkLost s))

theorem exec_ethclkFail (s : State) : exec .ethclkFail s = .next
    (if (ethclkDown s).lap.running && (ethclkDown s).lap.source = 2 then setSource (ethclkDown s) 0 else ethclkDown s) := rfl

/-- Before the source is set, ETHCLK's failure has reached the clocks, the ports, MAR's log, the links and what is driven outwards. -/
theorem ethclkDown_frame (s : State) : ∃ o m r,
    sansLoose (ethclkDown s) = { sansLoose (ethclkLost s) with out := o, mar := m, rly := r } ∧ (ethclkDown s).rly = r ∧
      ∀ i, (r.get i).state = 0 := by
  obtain ⟨o, m, h⟩ := portsLogged_frame ((List.range 16).filter fun p => s.te.portUp.getLsbD p) (ethclkLost s)
  obtain ⟨r, hr, hdown⟩ := relaysDown_frame (List.finRange 3) (((List.range 16).filter fun p => s.te.portUp.getLsbD p).foldl
    (fun s p => marLog s evPortDown 0xF s.mpl.devId 0xFF (lo32 p)) (ethclkLost s))
  refine ⟨o, m, r, ?_, ?_, fun i => hdown i (.inl (List.mem_finRange i))⟩
  · rw [ethclkDown, hr]
    exact congrArg (fun u : State => { u with rly := r }) h
  · rw [ethclkDown, hr]

/-- The source of the boundary after a clock that it may come from is lost. -/
theorem freed_source (s : State) (hrun : s.lap.running = true) (hsrc : s.lap.source = 2) :
    (if s.lap.running && s.lap.source = 2 then setSource s 0 else s).lap.source = 0 := by
  simp [hrun, hsrc, setSource_lap]

theorem setSource_portUp (s : State) (src : BitVec 2) : (setSource s src).te.portUp = s.te.portUp := by
  have hreport (s : State) : (reportFreeRun s).te.portUp = s.te.portUp := by
    unfold reportFreeRun
    split
    · rfl
    · exact (te_of_sansLoose Te.portUp (fun _ => rfl) (marSend_sansLoose ..) :)
  unfold setSource
  dsimp only
  split
  · exact hreport _
  · rfl

/-- Whether or not this device runs free then, all but LST and what a report reaches stays. -/
theorem freed_frame (s : State) : let t := if s.lap.running && s.lap.source = 2 then setSource s 0 else s
    t.clk = s.clk ∧ t.mem = s.mem ∧ t.lanes = s.lanes ∧ t.reqs = s.reqs ∧ t.lap.count = s.lap.count ∧ t.rly = s.rly ∧
      t.te.portUp = s.te.portUp := by
  dsimp only
  split
  · obtain ⟨k, h⟩ := setSource_frame s 0
    exact ⟨(congrArg State.clk h :), (congrArg State.mem h :), (congrArg State.lanes h :), (congrArg State.reqs h :),
      (congrArg (fun u => u.lap.count) h :), (congrArg State.rly h :), setSource_portUp s 0⟩
  · exact ⟨rfl, rfl, rfl, rfl, rfl, rfl, rfl⟩

theorem exec_ptpLockLost (s : State) : exec .ptpLockLost s =
    .next (if s.lap.running && s.lap.source = 2 then setSource { s with clk := { s.clk with ptpLock := false } } 0
      else { s with clk := { s.clk with ptpLock := false } }) := by
  change execPtpLockLost s = _
  unfold execPtpLockLost
  dsimp only
  split <;> rfl

/-! ### Temperatures -/

/-- The readings of a sample, with what STA keeps of them. -/
def sampleTaken (s : State) (r : ThermalReading) : Sta :=
  let sta := { s.sta with dieTemp := r.die, bolzilTemp := r.bolzil, stackTemp := r.stack }
  { sta with
    coolSince := Vector.ofFn fun d => coolSinceOf s.clk.now sta d
    power := powerWindow sta.power r.power
    lowSince := if r.power < 3400 then (match sta.lowSince with | some t => some t | none => some s.clk.now) else none
    hotAtTrip := ((sensors r).filter fun x => decide (tripC ≤ x.2)).map (·.1) }

/-- The sensors that were as hot in the sample before. -/
def stillHot (s : State) (r : ThermalReading) : List (Nat × Int) :=
  (sensors r).filter fun x => decide (tripC ≤ x.2) && s.sta.hotAtTrip.contains x.1

theorem stillHot_eq (s : State) (r : ThermalReading) : stillHot s r =
    ((sensors r).filter fun x => decide (tripC ≤ x.2)).filter fun x => s.sta.hotAtTrip.contains x.1 := by
  rw [List.filter_filter]
  simp only [stillHot, Bool.and_comm]

theorem exec_thermalSample_cool {r : ThermalReading} (hcool : stillHot s r = []) :
    exec (.thermalSample r) s = .next (alertUpdate { s with sta := sampleTaken s r }) := by
  change execThermalSample r s = _
  rw [stillHot_eq] at hcool
  unfold execThermalSample
  dsimp only
  split
  · next h => cases h.symm.trans hcool
  · rfl

theorem exec_thermalSample_hot {r : ThermalReading} {x : Nat × Int} {xs : List (Nat × Int)} (hhot : stillHot s r = x :: xs) :
    exec (.thermalSample r) s = .next (if (alertUpdate { s with sta := sampleTaken s r }).glb.fatal &&
        (alertUpdate { s with sta := sampleTaken s r }).sta.polStopped then alertUpdate { s with sta := sampleTaken s r }
      else trip (alertUpdate { s with sta := sampleTaken s r }) x) := by
  change execThermalSample r s = _
  rw [stillHot_eq] at hhot
  unfold execThermalSample
  dsimp only
  split
  · next h =>
    cases h.symm.trans hhot
    rfl
  · next h => cases h.symm.trans hhot

/-- A fatal error keeps the readings, the record of a trip, the memories and the requests. -/
theorem fatalError_effect (s : State) : (fatalError s).mem = s.mem ∧ (fatalError s).reqs = s.reqs ∧ (fatalError s).glb.fatal = true ∧
    { (fatalError s).sta with fatalPin := s.sta.fatalPin } = s.sta := by
  unfold fatalError
  split
  · next h => exact ⟨rfl, rfl, h, rfl⟩
  · split <;> exact ⟨rfl, rfl, rfl, rfl⟩

/-- STA of a device that trips at sensor `x`. -/
def tripSta (sta : Sta) (x : Nat × Int) : Sta :=
  { sta with tripped := true, tripTemp := BitVec.ofInt 12 x.2, tripSource := BitVec.ofNat 5 x.1, polStopped := true }

theorem trip_effect (s : State) (x : Nat × Int) : (trip s x).mem = s.mem ∧ (trip s x).reqs = s.reqs ∧
    (trip s x).glb.fatal = true ∧ { (trip s x).sta with fatalPin := s.sta.fatalPin } = tripSta s.sta x :=
  fatalError_effect { s with sta := tripSta s.sta x }

/-- Every sample stores its readings; a trip, where one is due, comes after and keeps them. -/
theorem exec_thermalSample (s : State) (r : ThermalReading) : ∃ t, exec (.thermalSample r) s = .next t ∧ t.mem = s.mem ∧
    t.reqs = s.reqs ∧ (t.sta.dieTemp = r.die ∧ t.sta.bolzilTemp = r.bolzil ∧ t.sta.stackTemp = r.stack) ∧
    (stillHot s r = [] → t.sta = sampleTaken s r ∧ t.glb = s.glb) ∧
    (∀ x xs, stillHot s r = x :: xs → s.glb.fatal = false →
      { t.sta with fatalPin := s.sta.fatalPin } = tripSta (sampleTaken s r) x ∧ t.glb.fatal = true) := by
  obtain ⟨o, a, b, hu⟩ := alertUpdate_frame { s with sta := sampleTaken s r }
  generalize hcase : stillHot s r = hot
  cases hot with
  | nil =>
    rw [exec_thermalSample_cool hcase, hu]
    exact ⟨_, rfl, rfl, rfl, ⟨rfl, rfl, rfl⟩, fun _ => ⟨rfl, rfl⟩, nofun⟩
  | cons x xs =>
    rw [exec_thermalSample_hot hcase, hu]
    refine ⟨_, rfl, ?_⟩
    split
    · next hfatal =>
      refine ⟨rfl, rfl, ⟨rfl, rfl, rfl⟩, nofun, fun _ _ _ hnot => ?_⟩
      rw [hnot] at hfatal
      cases hfatal
    · obtain ⟨hmem, hreqs, hfatal, hsta⟩ := trip_effect { s with sta := sampleTaken s r, out := o, i2c := { s.i2c with alert := a, alertRead := b } } x
      refine ⟨hmem, hreqs, ⟨(congrArg Sta.dieTemp hsta :), (congrArg Sta.bolzilTemp hsta :), (congrArg Sta.stackTemp hsta :)⟩, nofun,
        fun y ys h _ => ?_⟩
      cases h
      exact ⟨hsta, hfatal⟩

end

/-- Settles O23: clocks that fail and return change the parts named; what a device that runs free reports reaches Track's frames alone. A
sample is stored before the trip that it may cause. -/
theorem clocksAndTemperatures : Obligations.ClocksAndTemperatures := by
  refine ⟨fun s => ⟨exec_sysclkFail_fatal, exec_refclkFail s, ?ethclk, rfl, rfl, ⟨_, rfl, rfl, rfl, rfl⟩, ?ptp⟩, fun s r => ?sample⟩
  case ethclk =>
    obtain ⟨o, m, r, h, hrly, hdown⟩ := ethclkDown_frame s
    obtain ⟨hclk, hmem, hlanes, hreqs, -, hrly', hport⟩ := freed_frame (ethclkDown s)
    have hclk' : (ethclkDown s).clk = (ethclkLost s).clk := (congrArg State.clk h :)
    have hlap : (ethclkDown s).lap = s.lap := (congrArg State.lap h :)
    refine ⟨_, exec_ethclkFail s, hport.trans (congrArg (fun u => u.te.portUp) h :), by rw [hclk, hclk']; rfl, by rw [hclk, hclk']; rfl,
      by rw [hclk, hclk']; rfl, fun i => by rw [hrly', hrly, hdown], fun hrun hsrc => ?_, hmem.trans (congrArg State.mem h :),
      hlanes.trans (congrArg State.lanes h :), hreqs.trans (congrArg State.reqs h :)⟩
    exact freed_source (ethclkDown s) (by rw [hlap, hrun]) (by rw [hlap, hsrc])
  case ptp =>
    obtain ⟨hclk, hmem, hlanes, -, hcount, -, -⟩ := freed_frame { s with clk := { s.clk with ptpLock := false } }
    exact ⟨_, exec_ptpLockLost s, (congrArg Clk.ptpLock hclk :), fun hrun hsrc =>
      freed_source { s with clk := { s.clk with ptpLock := false } } hrun hsrc, hmem, hlanes, hcount⟩
  case sample =>
    obtain ⟨t, hexec, hmem, hreqs, ⟨hdie, hbolzil, hstack⟩, hcool, hhot⟩ := exec_thermalSample s r
    refine ⟨t, hexec, hdie, hbolzil, hstack, hmem, hreqs, fun h => ?_, fun x xs hx hfatal => ?_⟩
    · obtain ⟨hsta, hglb⟩ := hcool (List.filter_eq_nil_iff.2 fun x hx => by simpa using h x hx)
      exact ⟨by rw [hsta]; rfl, hglb⟩
    · obtain ⟨hsta, hfatal⟩ := hhot x xs hx hfatal
      exact ⟨(congrArg Sta.tripped hsta :), (congrArg Sta.tripTemp hsta :), (congrArg Sta.tripSource hsta :),
        (congrArg Sta.polStopped hsta :), hfatal⟩

end Sys2Proof.Machine

end

section

/-! PROOFS. Boundaries and commit points (R90 to R92), and what a plan switch puts in force (R93, R94, R312, R315). -/

namespace Sys2Proof.Machine

open Sys2Proof

section
variable {s : State}

/-! ### The boundary's work -/

/-- LST without the leader and the source of the boundary, which alone the work at a boundary may change. -/
def sansLead (l : Lap) : Lap := { l with leadPos := 0, leader := false, source := 0 }

theorem eq_of_sansLead {l k : Lap} (h : sansLead l = sansLead k) :
    l.count = k.count ∧ l.inQuiet = k.inQuiet ∧ l.running = k.running :=
  ⟨(congrArg Lap.count h :), (congrArg Lap.inQuiet h :), (congrArg Lap.running h :)⟩

@[simp] theorem leaderTakeover_sansLead (s : State) : sansLead (leaderTakeover s).lap = sansLead s.lap := by
  unfold leaderTakeover
  dsimp only
  split
  · rfl
  · rw [setSource_lap]
    rfl

theorem boundaryWork_sansLead (s : State) : sansLead (boundaryWork s).lap = sansLead s.lap := by
  simp [boundaryWork]

/-! ### The plan switch -/

/-- LST as a plan puts it, but for its leader and source. -/
theorem switchLap_lap (s : State) (p : PlanImage) (m : Nat) : (switchLap s p m).lap.running = true ∧
    (switchLap s p m).lap.count = BitVec.ofNat 48 m ∧ (switchLap s p m).lap.period = p.system.periodUs.toNat ∧
    (switchLap s p m).lap.quiet = p.system.quietUs.toNat ∧ (switchLap s p m).lap.inQuiet = false := by
  simp [switchLap, setSource_lap]

theorem switchLap_mpl (s : State) (p : PlanImage) (m : Nat) : (switchLap s p m).mpl = s.mpl := by
  have hsource (s : State) (src : BitVec 2) : (setSource s src).mpl = s.mpl := by
    obtain ⟨k, h⟩ := setSource_frame s src
    exact (congrArg State.mpl h :)
  simp [switchLap, hsource]

@[simp] theorem switchLanes_steady (s : State) (p : PlanImage) : Steady s (laneNos.foldl (fun s n => switchLane s p n) s) := by simp

/-- The state in which a plan switch has put the plan in force, before its completion. -/
def switched (s : State) (p : PlanImage) (m : Nat) : State :=
  let before := if s.mpl.current.isSome then groupDevs s else []
  let t := takePlan (laneNos.foldl (fun s n => switchLane s p n) s) p
  let t := { t with mar := { t.mar with spares := Vector.ofFn fun d => plannedSpares t p d } }
  let t := switchTrack (switchBib (pacRefill (switchLap (switchModels t p) p m)) (s.mpl.current.bind (·.bib)) p.bib) s.mpl.current p
  raiseEvt (marSwitch (swapSwitch t before (groupDevs t)) p.system.epoch) 6

/-- The completion of the load that is switched to, where one waits. -/
def switchCpl (t : State) (cmd : Option HostHdr) (code : Finish) : State :=
  match cmd with
  | some h => planCpl t h code true 0
  | none => t

theorem switchCpl_frame (t : State) (cmd : Option HostHdr) (code : Finish) :
    ∃ o c d l, switchCpl t cmd code =
      { t with out := o, hif := { t.hif with ctxs := c, cplDrop := d }, coach := { t.coach with late := l } } := by
  cases cmd with
  | none => exact ⟨t.out, t.hif.ctxs, t.hif.cplDrop, t.coach.late, rfl⟩
  | some h => exact postCpl_frame ..

theorem planSwitch_eq (s : State) (p : PlanImage) (m : Nat) : planSwitch s p m = match keptRetired (switched s p m) p with
    | some n => switchCpl { switched s p m with mpl := { (switched s p m).mpl with refuseLane := BitVec.ofNat 4 n.val } }
        s.mpl.stagedCmd .laneRetired
    | none => switchCpl (switched s p m) s.mpl.stagedCmd .ok := rfl

/-- A plan switch is that state, but for the lane that it refuses and the completion that it posts. -/
theorem planSwitch_frame (s : State) (p : PlanImage) (m : Nat) :
    (planSwitch s p m).lap = (switched s p m).lap ∧ (planSwitch s p m).glb = (switched s p m).glb ∧
      (planSwitch s p m).mem = (switched s p m).mem ∧
      ∃ k, (planSwitch s p m).mpl = { (switched s p m).mpl with refuseLane := k } := by
  rw [planSwitch_eq]
  split
  · next n _ =>
    obtain ⟨o, c, d, l, h⟩ := switchCpl_frame { switched s p m with
      mpl := { (switched s p m).mpl with refuseLane := BitVec.ofNat 4 n.val } } s.mpl.stagedCmd .laneRetired
    rw [h]
    exact ⟨rfl, rfl, rfl, _, rfl⟩
  · obtain ⟨o, c, d, l, h⟩ := switchCpl_frame (switched s p m) s.mpl.stagedCmd .ok
    rw [h]
    exact ⟨rfl, rfl, rfl, _, rfl⟩

/-- What follows a plan's own laps keeps them: the laps of a switched device are those of `switchLap`. -/
theorem switched_lap (s : State) (p : PlanImage) (m : Nat) : ∃ u, (switched s p m).lap = (switchLap u p m).lap := by
  refine ⟨switchModels { takePlan (laneNos.foldl (fun s n => switchLane s p n) s) p with
    mar := { (takePlan (laneNos.foldl (fun s n => switchLane s p n) s) p).mar with
      spares := Vector.ofFn fun d => plannedSpares (takePlan (laneNos.foldl (fun s n => switchLane s p n) s) p) p d } } p, ?_⟩
  simp [switched]

/-- MPL of a switched device is what `takePlan` makes of it. -/
theorem switched_mpl (s : State) (p : PlanImage) (m : Nat) : (switched s p m).mpl = (takePlan s p).mpl := by
  have hlanes : (laneNos.foldl (fun s n => switchLane s p n) s).mpl = s.mpl := (switchLanes_steady s p).2.2.1
  simp [switched, switchLap_mpl, switchModels, takePlan, hlanes]

/-! ### No byte of a page stack changes -/

theorem clearStaged_stack (s : State) (i : Nat) : (clearStaged s i).mem.stack = s.mem.stack := rfl

theorem freeLegSpace_stack (s : State) (g : Leg) : (freeLegSpace s g).mem.stack = s.mem.stack := by
  unfold freeLegSpace
  dsimp only
  rw [clearStaged_stack]
  split <;> simp

theorem abortLeg_stack (s : State) (g : Leg) (code : Finish) (tell : Bool) :
    (abortLeg s g code tell).mem.stack = s.mem.stack := by
  unfold abortLeg
  simp
  (repeat' split) <;> simp [freeLegSpace_stack]

theorem abortLaneLegs_stack (s : State) (n : LaneNo) (code : Finish) : (abortLaneLegs s n code).mem.stack = s.mem.stack :=
  foldl_keeps (fun s => s.mem.stack) _ (fun s g => abortLeg_stack s g code true) _ s

theorem rebuildLane_stack (s : State) (p : PlanImage) (n : LaneNo) : (rebuildLane s p n).mem.stack = s.mem.stack := by
  simp [rebuildLane, setLane, abortLaneLegs_stack]

theorem switchLane_stack (s : State) (p : PlanImage) (n : LaneNo) : (switchLane s p n).mem.stack = s.mem.stack := by
  unfold switchLane
  dsimp only
  (repeat' split) <;> simp [rebuildLane_stack, modLane]

theorem switchLanes_stack (p : PlanImage) (ns : List LaneNo) (s : State) :
    (ns.foldl (fun s n => switchLane s p n) s).mem.stack = s.mem.stack :=
  foldl_keeps (fun s => s.mem.stack) _ (fun s n => switchLane_stack s p n) ns s

theorem switched_stack (s : State) (p : PlanImage) (m : Nat) : (switched s p m).mem.stack = s.mem.stack := by
  simp [switched, takePlan, switchLanes_stack]

/-! ### Boundaries -/

/-- The lap that a boundary begins. -/
def lapOpened (s : State) : State :=
  { s with
    clk := { s.clk with now := max s.clk.now (nextBoundary s) }
    lap := { s.lap with count := s.lap.count + 1, inQuiet := false, boundaryAt := nextBoundary s } }

/-- The state in which a boundary finds the staged plan: the lap before it committed, its own opened. -/
def boundaryOpened (s : State) : State := lapOpened (if s.lap.inQuiet then s else doCommit s)

theorem nextLap_eq (s : State) :
    nextLap s = boundaryWork (stagedAt (endGrace (boundaryOpened s)) (boundaryOpened s).lap.count.toNat) := rfl

theorem doCommit_lap (s : State) : (doCommit s).lap = { s.lap with inQuiet := true } := by simp [doCommit]

theorem doCommit_clk (s : State) : (doCommit s).clk = { s.clk with now := max s.clk.now (commitAt s) } := by simp [doCommit]

theorem endGrace_lap (s : State) : (endGrace s).lap = s.lap := by
  unfold endGrace
  split <;> rfl

/-- A staged plan that switches at this boundary takes its lap. -/
theorem stagedAt_lap (s : State) (hrun : s.lap.running = true) (hquiet : s.lap.inQuiet = false) :
    (stagedAt s s.lap.count.toNat).lap.count = s.lap.count ∧ (stagedAt s s.lap.count.toNat).lap.inQuiet = false ∧
      (stagedAt s s.lap.count.toNat).lap.running = true := by
  unfold stagedAt
  split
  · exact ⟨rfl, hquiet, hrun⟩
  · next p _ =>
    split
    · obtain ⟨u, hu⟩ := switched_lap s p s.lap.count.toNat
      obtain ⟨hruns, hcount, -, -, hopen⟩ := switchLap_lap u p s.lap.count.toNat
      rw [(planSwitch_frame ..).1, hu]
      exact ⟨by rw [hcount, BitVec.ofNat_toNat, BitVec.setWidth_eq], hopen, hruns⟩
    · split <;> exact ⟨rfl, hquiet, hrun⟩

theorem nextLap_lap (s : State) (hrun : s.lap.running = true) :
    (nextLap s).lap.count = s.lap.count + 1 ∧ (nextLap s).lap.inQuiet = false ∧ (nextLap s).lap.running = true := by
  have hcommit : (if s.lap.inQuiet then s else doCommit s).lap = { s.lap with inQuiet := true } := by
    split
    · next hquiet => exact (congrArg (fun b => { s.lap with inQuiet := b }) hquiet :)
    · exact doCommit_lap s
  have hcount : (boundaryOpened s).lap.count = s.lap.count + 1 := by simp only [boundaryOpened, lapOpened, hcommit]
  have hruns : (boundaryOpened s).lap.running = true := by simp only [boundaryOpened, lapOpened, hcommit, hrun]
  obtain ⟨hstaged, hopen, hgoes⟩ := stagedAt_lap (endGrace (boundaryOpened s)) (by rw [endGrace_lap, hruns])
    (by rw [endGrace_lap]; rfl)
  rw [endGrace_lap] at hstaged hopen hgoes
  obtain ⟨hlead, hleadOpen, hleadRuns⟩ := eq_of_sansLead
    (boundaryWork_sansLead (stagedAt (endGrace (boundaryOpened s)) (boundaryOpened s).lap.count.toNat))
  rw [nextLap_eq]
  exact ⟨(hlead.trans hstaged).trans hcount, hleadOpen.trans hopen, hleadRuns.trans hgoes⟩

theorem exec_lapBoundary_runs (hrun : s.lap.running = true) : exec .lapBoundary s = .next (pumpAll (nextLap s)) :=
  if_pos hrun

theorem exec_lapBoundary_idle (hrun : s.lap.running = false) (hplan : s.mpl.current.isSome = true ∨ s.mpl.staged = none) :
    exec .lapBoundary s = .next s := by
  change execLapBoundary s = _
  rw [execLapBoundary, hrun]
  rcases hplan with hplan | hplan
  · obtain ⟨p, hp⟩ := Option.isSome_iff_exists.1 hplan
    rw [hp]
    rfl
  · rw [hplan]
    cases s.mpl.current <;> rfl

/-- In the quiet window, with no plan staged and none leaving, a boundary opens the lap and does its work. -/
theorem nextLap_plain (hquiet : s.lap.inQuiet = true) (hstaged : s.mpl.staged = none) (hgrace : s.mpl.grace = false) :
    nextLap s = boundaryWork (lapOpened s) := by
  have hend : endGrace (lapOpened s) = lapOpened s := if_neg (by rw [show (lapOpened s).mpl.grace = s.mpl.grace from rfl, hgrace]; simp)
  have hstay : ∀ m, stagedAt (lapOpened s) m = lapOpened s := fun m => by
    rw [stagedAt, show (lapOpened s).mpl.staged = none from hstaged]
  rw [nextLap_eq, boundaryOpened, if_pos hquiet, hend, hstay]

theorem exec_commitPoint_commits (hrun : s.lap.running = true) (hquiet : s.lap.inQuiet = false) :
    exec .commitPoint s = .next (pumpAll (doCommit s)) := by
  change execCommitPoint s = _
  simp [execCommitPoint, hrun, hquiet]

theorem exec_commitPoint_nothing (h : s.lap.running = false ∨ s.lap.inQuiet = true) : exec .commitPoint s = .next s := by
  change execCommitPoint s = _
  rcases h with h | h <;> simp [execCommitPoint, h]

end

/-- Settles O49: MPL is what `takePlan` makes of it, LST what `switchLap` makes of it, and what follows both keeps them; the page stacks
stay through the lanes that are rebuilt. -/
theorem planSwitches : Obligations.PlanSwitches := by
  intro s p m
  obtain ⟨hlap, hglb, hmem, k, hmpl⟩ := planSwitch_frame s p m
  obtain ⟨u, hu⟩ := switched_lap s p m
  obtain ⟨hruns, hcount, hperiod, hquiet, hopen⟩ := switchLap_lap u p m
  rw [switched_mpl] at hmpl
  rw [hu] at hlap
  dsimp only
  rw [hmpl, hlap, hglb, hmem]
  exact ⟨rfl, rfl, rfl, rfl, rfl, rfl, rfl, rfl, hruns, hcount, hperiod, hquiet, hopen, raiseEvt_getLsbD_self _ (by decide),
    switched_stack s p m⟩

/-- Settles O30: a boundary opens the lap before a staged plan may take it, and the work at the boundary changes LST's leader and source
alone; a commit point changes the clock and the quiet window. -/
theorem lapAdvances : Obligations.LapAdvances := by
  refine fun s => ⟨fun hrun => ⟨_, exec_lapBoundary_runs hrun, ?_⟩, fun hrun hquiet => ⟨_, exec_commitPoint_commits hrun hquiet, ?_, ?_⟩,
    exec_commitPoint_nothing, exec_lapBoundary_idle, fun hrun hquiet hstaged hgrace => ?_⟩
  · rw [(steady_of_sansTransport (pumpAll_sansTransport (nextLap s))).1]
    exact nextLap_lap s hrun
  · rw [(steady_of_sansTransport (pumpAll_sansTransport (doCommit s))).1, doCommit_lap]
  · rw [(steady_of_sansTransport (pumpAll_sansTransport (doCommit s))).2.1, doCommit_clk]
  · rw [exec_lapBoundary_runs hrun, nextLap_plain hquiet hstaged hgrace]
    rfl

end Sys2Proof.Machine

end

section
/-! PROOFS. What the commit point leaves of a member (O31): the draw of a request joins its log once, or is given up. -/
namespace Sys2Proof.Machine
open Sys2Proof

/-- What a draw turns on in a request: its log, its lap position, the counters of its sampler and its held draw. -/
def drawView (r : Req) : List Word × Nat × Nat × Nat × Option (Option (BitVec 18)) :=
  (r.log, r.done, r.samp.counter, r.samp.drawn, r.draw)

/-- The draw view of the request that a baton names. -/
def drawOf (s : State) (b : BatonId) : Option (List Word × Nat × Nat × Nat × Option (Option (BitVec 18))) :=
  (findReq s b).map drawView

theorem drawOf_of_reqs {s t : State} (h : t.reqs = s.reqs) (b : BatonId) : drawOf t b = drawOf s b := by
  rw [drawOf, drawOf, findReq_eq_of_reqs h]

theorem drawOf_modReq {f : Req → Req} (hid : ∀ r, (f r).id = r.id) (hview : ∀ r, drawView (f r) = drawView r) (s : State)
    (k b : BatonId) : drawOf (modReq s k f) b = drawOf s b := by
  rw [drawOf, drawOf, findReq_modReq hid, Option.map_map]
  congr 1
  funext r
  simp only [Function.comp]
  split
  · exact hview r
  · rfl

theorem exists_of_drawOf {s t : State} {b : BatonId} {r : Req} (hreq : findReq s b = some r) (h : drawOf t b = drawOf s b) :
    ∃ r', findReq t b = some r' ∧ drawView r' = drawView r := by
  rw [drawOf, drawOf, hreq, Option.map_some, Option.map_eq_some_iff] at h
  exact h

theorem drawView_pushEntry (r : Req) (e : RingEnt) : drawView (pushEntry r e) = drawView r := by
  unfold pushEntry
  split <;> rfl

/-! ## Giving up the pages of a lap -/

theorem freeSlots_lanes (s : State) (n : LaneNo) (ks : List Nat) : ∃ l, freeSlots s n ks = { s with lanes := l } := by
  unfold freeSlots
  induction ks generalizing s with
  | nil => exact ⟨s.lanes, rfl⟩
  | cons k ks ih => exact ih (freeSlot s n k)

theorem freeCells_lanes (s : State) (n : LaneNo) (ks : List Nat) :
    ∃ l, ks.foldl (fun s k => freeCell s n k) s = { s with lanes := l } := by
  induction ks generalizing s with
  | nil => exact ⟨s.lanes, rfl⟩
  | cons k ks ih => exact ih (freeCell s n k)

theorem freeEnt_lanes (s : State) (n : LaneNo) (e : PageEnt) : ∃ l, freeEnt s n e = { s with lanes := l } := by
  obtain ⟨l, hl⟩ := freeSlots_lanes s n (entSlots (isCache (laneOf s n)) e)
  unfold freeEnt
  simp only [hl]
  split
  · exact freeCells_lanes ..
  · exact ⟨l, rfl⟩

theorem freeEnts_lanes (s : State) (n : LaneNo) (es : List PageEnt) :
    ∃ l, es.foldl (fun s e => freeEnt s n e) s = { s with lanes := l } := by
  induction es generalizing s with
  | nil => exact ⟨s.lanes, rfl⟩
  | cons e es ih =>
    obtain ⟨l, hl⟩ := freeEnt_lanes s n e
    rw [List.foldl_cons, hl]
    exact ih _

/-- A request whose lap is given up: what it drew and took in the lap goes. -/
def lapDropped (old : List PageEnt) (r : Req) : Req :=
  { r with pages := old, heatNew := r.heat, probeNew := [], selNew := [], logits := none, draw := none }

theorem discardPages_frame {s : State} {b : BatonId} {r : Req} (hreq : findReq s b = some r) (n : LaneNo) :
    ∃ old l, discardPages s n b = { modReq s b (lapDropped old) with lanes := l } := by
  let old := (r.pages.filter fun e => !e.lapNew).map fun e => { e with sealSlot := none, sealedNow := false, wrote := 0 }
  obtain ⟨l, hl⟩ := freeEnts_lanes (modReq s b (lapDropped old)) n (r.pages.filter (·.lapNew))
  obtain ⟨m, hm⟩ := freeSlots_lanes { modReq s b (lapDropped old) with lanes := l } n
    ((r.pages.filter fun e => !e.lapNew).flatMap fun e => e.sealSlot.toList)
  refine ⟨old, m, ?_⟩
  unfold discardPages
  rw [hreq]
  exact (congrArg (fun t => freeSlots t n _) hl).trans hm

theorem findReq_discardPages {s : State} {b : BatonId} {r : Req} (hreq : findReq s b = some r) (n : LaneNo) :
    ∃ old, findReq (discardPages s n b) b = some (lapDropped old r) := by
  obtain ⟨old, l, h⟩ := discardPages_frame hreq n
  refine ⟨old, ?_⟩
  rw [h]
  exact findReq_modReq_self (f := lapDropped old) (fun _ => rfl) hreq

/-! ## Ending a request -/

theorem drawOf_finalCpl (s : State) (r : Req) (code : Finish) (reason : Byte) (pos : Nat) (b : BatonId) :
    drawOf (finalCpl s r code reason pos) b = drawOf s b := by
  unfold finalCpl
  split
  · exact (drawOf_of_reqs (postCpl_reqs ..) b).trans (drawOf_modReq (fun _ => by rfl) (fun _ => by rfl) ..)
  · rfl

/-- The request that ends, with its end in the ring. -/
def ended (s : State) (reason : Byte) (pattern : Nat) (r : Req) : Req :=
  { pushEntry r (endEntry reason (lastPos r) (lapLo s) .ok pattern) with
    endReason := reason, stopPattern := pattern, parkNext := true, extQ := [] }

theorem ended_id (s : State) (reason : Byte) (pattern : Nat) (r : Req) : (ended s reason pattern r).id = r.id :=
  pushEntry_id ..

theorem drawView_ended (s : State) (reason : Byte) (pattern : Nat) (r : Req) : drawView (ended s reason pattern r) = drawView r :=
  drawView_pushEntry ..

theorem endRequest_eq {s : State} {b : BatonId} {r : Req} (hreq : findReq s b = some r) (reason : Byte) (pattern : Nat) :
    endRequest s b reason pattern = finalCpl (modReq s b (ended s reason pattern)) r
      (if r.cancelled then .cancelledDropped else .ok) reason (lastPos r) := by
  unfold endRequest
  rw [hreq]
  rfl

theorem drawOf_endRequest (s : State) (k : BatonId) (reason : Byte) (pattern : Nat) (b : BatonId) :
    drawOf (endRequest s k reason pattern) b = drawOf s b := by
  cases hreq : findReq s k with
  | none => rw [endRequest, hreq]
  | some r =>
    rw [endRequest_eq hreq, drawOf_finalCpl]
    exact drawOf_modReq (ended_id s reason pattern) (drawView_ended s reason pattern) ..

/-- Why a request ends and that it parks next. -/
def endView (r : Req) : Byte × Bool × List Word := (r.endReason, r.parkNext, r.log)

theorem endView_finalCpl (s : State) (r : Req) (code : Finish) (reason : Byte) (pos : Nat) (b : BatonId) :
    (findReq (finalCpl s r code reason pos) b).map endView = (findReq s b).map endView := by
  unfold finalCpl
  split
  · rw [findReq_eq_of_reqs (postCpl_reqs ..), findReq_modReq fun _ => by rfl, Option.map_map]
    congr 1
    funext q
    simp only [Function.comp]
    split <;> rfl
  · rfl

theorem findReq_endRequest {s : State} {b : BatonId} {r : Req} (hreq : findReq s b = some r) (reason : Byte) (pattern : Nat) :
    ∃ r', findReq (endRequest s b reason pattern) b = some r' ∧ endView r' = (reason, true, r.log) := by
  have h := endView_finalCpl (modReq s b (ended s reason pattern)) r
    (if r.cancelled then .cancelledDropped else .ok) reason (lastPos r) b
  rw [← endRequest_eq hreq, findReq_modReq_self (ended_id s reason pattern) hreq, Option.map_some, Option.map_eq_some_iff] at h
  obtain ⟨r', hr', hv⟩ := h
  refine ⟨r', hr', hv.trans ?_⟩
  have hlog : (pushEntry r (endEntry reason (lastPos r) (lapLo s) .ok pattern)).log = r.log :=
    congrArg Prod.fst (drawView_pushEntry r _)
  exact congrArg (fun x => (reason, true, x)) hlog

theorem finalCpl_jdg (s : State) (r : Req) (code : Finish) (reason : Byte) (pos : Nat) :
    (finalCpl s r code reason pos).jdg = s.jdg := by
  unfold finalCpl
  split
  · exact postCpl_jdg ..
  · rfl

theorem endRequest_jdg (s : State) (b : BatonId) (reason : Byte) (pattern : Nat) :
    (endRequest s b reason pattern).jdg = s.jdg := by
  cases hreq : findReq s b with
  | none => rw [endRequest, hreq]
  | some r => rw [endRequest_eq hreq, finalCpl_jdg]; rfl

/-! ## The parts of a committed draw -/

theorem drawOf_recordTtft (s : State) (t : Tenant) (target us : Nat) (b : BatonId) :
    drawOf (recordTtft s t target us) b = drawOf s b := by
  unfold recordTtft
  dsimp only
  split <;> rfl

theorem drawOf_recordTbt (s : State) (t : Tenant) (target us : Nat) (b : BatonId) :
    drawOf (recordTbt s t target us) b = drawOf s b := by
  unfold recordTbt
  dsimp only
  split <;> rfl

/-- A request whose token has gone into its ring. -/
def tokenStreamed (e : RingEnt) (now : Nat) (r : Req) : Req :=
  { r with strm := { (pushEntry r e).strm with missed := 0, cause := 0, ext := false, resumed := false, lastCommit := now } }

theorem drawOf_streamToken (s : State) (k : BatonId) (tok : BitVec 18) (pos : Nat) (b : BatonId) :
    drawOf (streamToken s k tok pos) b = drawOf s b := by
  unfold streamToken
  split
  · rfl
  · split
    · rfl
    · refine (drawOf_modReq (f := tokenStreamed _ _) (fun _ => rfl) (fun _ => rfl) ..).trans ?_
      split
      · exact drawOf_recordTtft ..
      · split
        · exact drawOf_recordTbt ..
        · rfl

theorem drawOf_countInto (s : State) (k : BatonId) (toks : List (BitVec 18)) (b : BatonId) :
    drawOf (countInto s k toks) b = drawOf s b := by
  unfold countInto
  split
  · rfl
  · exact drawOf_modReq (fun _ => by rfl) (fun _ => by rfl) s k b

theorem drawOf_stepPatterns (s : State) (k : BatonId) (tok : BitVec 18) (b : BatonId) :
    drawOf (stepPatterns s k tok) b = drawOf s b := drawOf_modReq (fun _ => by rfl) (fun _ => by rfl) ..

theorem drawOf_commitPages (s : State) (n : LaneNo) (k b : BatonId) : drawOf (commitPages s n k) b = drawOf s b := by
  unfold commitPages
  split
  · rfl
  · split
    · rfl
    · refine (drawOf_of_reqs (modLane_reqs ..) b).trans ?_
      refine (drawOf_of_reqs (freeSlots_reqs ..) b).trans ?_
      refine (drawOf_modReq (fun _ => by rfl) (fun _ => by rfl) ..).trans ?_
      exact drawOf_of_reqs (setStack_reqs ..) b

theorem drawOf_stopCheck (s : State) (k b : BatonId) : drawOf (stopCheck s k).1 b = drawOf s b := by
  unfold stopCheck
  split
  · rfl
  · split
    · exact drawOf_endRequest ..
    · rfl

/-- The request that a draw joins: the token at the end of its log, and its counters one further. -/
def drawLogged (tok : BitVec 18) (r : Req) : Req :=
  { r with log := r.log ++ [logWord tok 1], done := r.log.length, draw := none, take := 0
           samp := { r.samp with counter := r.samp.counter + 1, drawn := r.samp.drawn + 1 } }

theorem drawOf_logged {s : State} {b : BatonId} {r : Req} (hreq : findReq s b = some r) (tok : BitVec 18) :
    drawOf (modReq (streamToken s b tok r.samp.counter) b (drawLogged tok)) b =
      some (r.log ++ [logWord tok 1], r.log.length, r.samp.counter + 1, r.samp.drawn + 1, none) := by
  obtain ⟨q, hq, hview⟩ := exists_of_drawOf hreq (drawOf_streamToken s b tok r.samp.counter b)
  simp only [drawView, Prod.mk.injEq] at hview
  obtain ⟨hlog, -, hcounter, hdrawn, -⟩ := hview
  rw [drawOf, findReq_modReq_self (f := drawLogged tok) (fun _ => rfl) hq, Option.map_some, drawView, ← hlog, ← hcounter, ← hdrawn]
  rfl

theorem drawOf_commitDraw {s : State} {b : BatonId} {r : Req} (hreq : findReq s b = some r) (n : LaneNo) (tok : BitVec 18) :
    drawOf (commitDraw s n b r tok) b =
      some (r.log ++ [logWord tok 1], r.log.length, r.samp.counter + 1, r.samp.drawn + 1, none) := by
  have hcommitted (t : State) : drawOf (commitPages (stepPatterns (countInto t b [tok]) b tok) n b) b = drawOf t b := by
    rw [drawOf_commitPages, drawOf_stepPatterns, drawOf_countInto]
  have hstopped := (drawOf_stopCheck _ b b).trans ((hcommitted _).trans (drawOf_logged hreq tok))
  unfold commitDraw
  dsimp only
  split
  · exact hstopped
  · split
    · exact (drawOf_endRequest ..).trans hstopped
    · exact hstopped

theorem drawOf_ranOnce (s : State) (k b : BatonId) : drawOf (ranOnce s k) b = drawOf s b :=
  drawOf_modReq (fun _ => by rfl) (fun _ => by rfl) ..

/-! ## The member at the commit point -/

section member
variable {s : State} {b : BatonId} {r : Req} (hreq : findReq s b = some r) (htake : r.take = 0) (hmiss : r.missNow = 0)
include hreq htake hmiss

theorem commitMember_drawn (n : LaneNo) {tok : BitVec 18} (hdraw : r.draw = some (some tok)) (hroom : ringBlocked r.strm = false) :
    commitMember s n b = ranOnce (commitDraw s n b r tok) b := by
  simp [commitMember, hreq, htake, hmiss, hdraw, hroom]

theorem commitMember_full (n : LaneNo) {tok : BitVec 18} (hdraw : r.draw = some (some tok)) (hroom : ringBlocked r.strm = true) :
    commitMember s n b = missLap (ringMiss s b) n b := by
  simp [commitMember, hreq, htake, hmiss, hdraw, hroom]

theorem commitMember_empty (n : LaneNo) (hdraw : r.draw = some none) : commitMember s n b = commitNone s n b := by
  simp [commitMember, hreq, htake, hmiss, hdraw]

theorem commitMember_undrawn (n : LaneNo) (hdraw : r.draw = none) : commitMember s n b = ranOnce (discardPages s n b) b := by
  simp [commitMember, hreq, htake, hmiss, hdraw]

end member

theorem commitNone_ends {s : State} {b : BatonId} {r : Req} (hreq : findReq s b = some r) (n : LaneNo) :
    (∃ r', findReq (commitNone s n b) b = some r' ∧ endView r' = (reasonNoCandidate, true, r.log)) ∧
      (commitNone s n b).jdg.noCand = satInc s.jdg.noCand := by
  obtain ⟨old, l, hframe⟩ := discardPages_frame hreq n
  have hgiven : findReq (discardPages s n b) b = some (lapDropped old r) := by
    rw [hframe]
    exact findReq_modReq_self (f := lapDropped old) (fun _ => rfl) hreq
  have hcounted (j : Jdg) : findReq { discardPages s n b with jdg := j } b = some (lapDropped old r) := hgiven
  refine ⟨findReq_endRequest (hcounted _) .., ?_⟩
  unfold commitNone
  dsimp only
  rw [endRequest_jdg, hframe]
  rfl

/-- A request whose lap is a miss. -/
def lapMissed (r : Req) : Req := { streamMiss r with take := 0, expertWait := r.missNow == 3 }

theorem missLap_keeps {s : State} {b : BatonId} {r : Req} (hreq : findReq s b = some r) (n : LaneNo) :
    (∃ r', findReq (missLap s n b) b = some r' ∧ r'.log = r.log ∧ r'.samp.counter = r.samp.counter) ∧
      (missLap s n b).srg = s.srg := by
  obtain ⟨old, l, hframe⟩ := discardPages_frame hreq n
  have hgiven : findReq (discardPages s n b) b = some (lapDropped old r) := by
    rw [hframe]
    exact findReq_modReq_self (f := lapDropped old) (fun _ => rfl) hreq
  refine ⟨⟨_, findReq_modReq_self (f := lapMissed) (fun _ => rfl) hgiven, rfl, rfl⟩, ?_⟩
  unfold missLap
  rw [hframe]
  rfl

theorem ringMiss_reports {s : State} {b : BatonId} {r : Req} (hreq : findReq s b = some r) :
    (∃ r', findReq (ringMiss s b) b = some r' ∧ r'.log = r.log ∧ r'.samp.counter = r.samp.counter) ∧
      (ringMiss s b).srg.ringFull = satInc s.srg.ringFull := by
  have hid (q : Req) : (miss q 6).id = q.id := by
    unfold miss
    split <;> rfl
  have hlog : (miss r 6).log = r.log ∧ (miss r 6).samp.counter = r.samp.counter := by
    unfold miss
    split <;> exact ⟨rfl, rfl⟩
  exact ⟨⟨_, findReq_modReq_self (s := { s with srg := _ }) hid hreq, hlog⟩, rfl⟩

/-- Settles O31: the draw view of the request through the parts of the commit, branch by branch. -/
theorem drawsCommitOnce : Obligations.DrawsCommitOnce := by
  intro s n b r hreq htake hmiss
  refine ⟨fun tok hdraw hroom => ?_, fun hdraw => ?_, fun tok hdraw hroom => ?_, fun hdraw => ?_⟩
  · rw [commitMember_drawn hreq htake hmiss n hdraw hroom]
    have h := (drawOf_ranOnce _ b b).trans (drawOf_commitDraw hreq n tok)
    rw [drawOf, Option.map_eq_some_iff] at h
    obtain ⟨r', hr', hv⟩ := h
    simp only [drawView, Prod.mk.injEq] at hv
    exact ⟨r', hr', hv⟩
  · rw [commitMember_empty hreq htake hmiss n hdraw]
    obtain ⟨⟨r', hr', hv⟩, hcount⟩ := commitNone_ends hreq n
    simp only [endView, Prod.mk.injEq] at hv
    obtain ⟨hreason, hpark, hlog⟩ := hv
    exact ⟨r', hr', hlog, hreason, hpark, hcount⟩
  · rw [commitMember_full hreq htake hmiss n hdraw hroom]
    obtain ⟨⟨q, hq, hlogq, hcounterq⟩, hfull⟩ := ringMiss_reports hreq
    obtain ⟨⟨r', hr', hlog, hcounter⟩, hsrg⟩ := missLap_keeps hq n
    exact ⟨r', hr', hlog.trans hlogq, hcounter.trans hcounterq, by rw [hsrg, hfull]⟩
  · rw [commitMember_undrawn hreq htake hmiss n hdraw]
    obtain ⟨old, hgiven⟩ := findReq_discardPages hreq n
    exact ⟨_, findReq_modReq_self (f := fun r => { r with expertWait := false }) (fun _ => rfl) hgiven, rfl, rfl⟩

end Sys2Proof.Machine
end

section
/-! PROOFS. The timers of channels and contexts (O46): what each does once its time has come. -/
namespace Sys2Proof.Machine
open Sys2Proof

/-- A frame that goes again on a queue leaves memory, the counts of Track and the queue's operations. -/
theorem resendSq_frame {s u : State} {q : Nat} {psn : Word} {x : SendQ} (hsq : getSq s q = some x) (h : resendSq s q psn = some u) :
    u.mem = s.mem ∧ u.te.cnt = s.te.cnt ∧ (getSq u q).map (·.ops) = some x.ops := by
  simp only [resendSq, hsq] at h
  (repeat' split at h) <;> cases h
  next hsent =>
    have hloose := sendOn_sansLoose hsent
    have hmem : _ = s.mem := (congrArg State.mem hloose :)
    have hcnt : _ = s.te.cnt := (congrArg (fun t : State => t.te.cnt) hloose :)
    refine ⟨hmem, hcnt, ?_⟩
    rw [getSq_putSq_self]
    rfl

theorem sendAgain_of_resendSq {s u : State} {q : Nat} {psn : Word} (h : resendSq s q psn = some u) :
    sendAgain s q psn false = { u with te := { u.te with cnt := { u.te.cnt with retx := satInc u.te.cnt.retx } } } ∧
      sendAgain s q psn true = { u with te := { u.te with cnt := { u.te.cnt with pfResend := satInc u.te.cnt.pfResend } } } := by
  rw [sendAgain, sendAgain, h]
  exact ⟨rfl, rfl⟩

theorem sendAgainSys_of_resendSys {s u : State} {d : DevId} {psn : Word} (h : resendSys s d psn = some u) :
    sendAgainSys s d psn = { u with te := { u.te with cnt := { u.te.cnt with retx := satInc u.te.cnt.retx } } } := by
  rw [sendAgainSys, h]
  rfl

/-- A context whose acknowledgement goes out: nothing is owed any more. -/
def rxAcked (x : RxCtx) : RxCtx := { x with marked := 0, total := 0, owed := none }

theorem ackCtx_eq {s : State} {n : Nat} {x : RxCtx} (h : getRx s n = some x) :
    ackCtx s n = sendAckFrame (putRx s n (rxAcked x)) x.source (BitVec.ofNat 14 n) x.expected
      (ackPayload x.expected x.got x.marked x.total) := by
  rw [getRx] at h
  rw [ackCtx, h]
  rfl

theorem getRx_of_sansLoose {s t : State} (h : sansLoose t = sansLoose s) (n : Nat) : getRx t n = getRx s n :=
  (congrArg (fun u : State => tblGet u.te.rxs n) h :)

theorem getRx_ackCtx {s : State} {n : Nat} {x : RxCtx} (h : getRx s n = some x) : getRx (ackCtx s n) n = some (rxAcked x) := by
  rw [ackCtx_eq h]
  exact (getRx_of_sansLoose (sendLoose_sansLoose ..) n).trans (getRx_putRx_self ..)

theorem closeSysTx_lone {s : State} {d : DevId} {x : SysTx} (h : tblGet s.te.sysTx d.toNat = some x) (hwait : s.te.ctxWait = []) :
    closeSysTx s d = { s with te := { s.te with
      sysTx := tblErase s.te.sysTx d.toNat, sysPsn := tblSet s.te.sysPsn d.toNat x.nextPsn } } := by
  rw [closeSysTx, h]
  simp only [hwait, List.filter_nil, List.foldl_nil]

/-! ## The timers of a queue -/

section queue
variable {s : State} {q : BitVec 13} {x : SendQ} (hsq : getSq s q.toNat = some x)
include hsq

theorem exec_retxTimeout_num (hlive : s.te.dead.contains x.target = false) (psn : Word) :
    exec (.retxTimeout (.num q) psn) s =
      .next (if x.unacked.any (timerOut s.clk.now psn) = true then sendAgain s q.toNat psn false else s) := by
  change execRetxTimeout (.num q) psn s = _
  simp only [execRetxTimeout, hsq, hlive, Bool.not_false, Bool.true_and]

theorem exec_pageFaultRetry (psn : Word) : exec (.pageFaultRetry q psn) s =
    .next (if x.unacked.any (faultOut s.clk.now psn) = true then sendAgain s q.toNat psn true else s) := by
  change execPageFaultRetry _ _ s = _
  simp only [execPageFaultRetry, hsq]

theorem exec_rxNoBufferRetry (m : Word) : exec (.rxNoBufferRetry q m) s = .next (pumpSq (putSq s q.toNat { x with
    ops := x.ops.map fun o => if o.desc.op = opSend && o.message = m && o.waitRetry && decide (o.retryAt ≤ s.clk.now) then
      { o with waitRetry := false } else o }) q.toNat 4096) := by
  change execRxNoBufferRetry _ _ s = _
  simp only [execRxNoBufferRetry, hsq]

theorem exec_rateIncrease_num : exec (.rateIncrease (.num q)) s = .next (if x.law.lastInc + 20000 ≤ s.clk.now then
    putSq s q.toNat { x with law := rateStep x.law x.rateMax s.clk.now } else s) := by
  change execRateIncrease (.num q) s = _
  simp only [execRateIncrease, hsq]

end queue

/-! ## The timers of contexts -/

theorem exec_ackTimer_num {s : State} {q : BitVec 13} {x : RxCtx} (h : getRx s q.toNat = some x) :
    exec (.ackTimer (.num q)) s = .next (if ackDue s.clk.now x.owed = true then ackCtx s q.toNat else s) := by
  change execAckTimer (.num q) s = _
  simp only [execAckTimer, h]

theorem exec_ackTimer_sys {s : State} {d : DevId} {x : SysRx} (h : tblGet s.te.sysRx d.toNat = some x) :
    exec (.ackTimer (.sys d)) s = .next (if ackDue s.clk.now x.owed = true then ackSys s d else s) := by
  change execAckTimer (.sys d) s = _
  simp only [execAckTimer, h]

theorem exec_pagePresent (s : State) (t : Tenant) (page : Nat) : exec (.pagePresent t page) s =
    .next (if pageWanted s t page = true then { s with te := { s.te with
      present := s.te.present ++ [(t, page)], wanted := s.te.wanted.filter (· ≠ (t, page)) } } else s) := rfl

section system
variable {s : State} {d : DevId} {x : SysTx} (h : tblGet s.te.sysTx d.toNat = some x)
include h

theorem exec_retxTimeout_sys (hlive : s.te.dead.contains d = false) (psn : Word) :
    exec (.retxTimeout (.sys d) psn) s =
      .next (if x.unacked.any (timerOut s.clk.now psn) = true then sendAgainSys s d psn else s) := by
  change execRetxTimeout (.sys d) psn s = _
  simp only [execRetxTimeout, h, hlive, Bool.not_false, Bool.true_and]

theorem exec_rateIncrease_sys : exec (.rateIncrease (.sys d)) s = .next (if x.law.lastInc + 20000 ≤ s.clk.now then
    putSysTx s d { x with law := rateStep x.law rateDefault s.clk.now } else s) := by
  change execRateIncrease (.sys d) s = _
  simp only [execRateIncrease, h]

theorem exec_systemContextIdle : exec (.systemContextIdle d) s = .next (if (x.unacked.isEmpty && x.ctlWait.isEmpty &&
    x.legWait.isEmpty && decide (x.lastUse + 500000000 ≤ s.clk.now)) = true then closeSysTx s d else s) := by
  change execSystemContextIdle _ s = _
  simp only [execSystemContextIdle, h]

theorem exec_systemContextIdle_idle (hun : x.unacked = []) (hctl : x.ctlWait = []) (hleg : x.legWait = [])
    (htime : x.lastUse + 500000000 ≤ s.clk.now) : exec (.systemContextIdle d) s = .next (closeSysTx s d) := by
  rw [exec_systemContextIdle h, hun, hctl, hleg, decide_eq_true htime]
  rfl

theorem exec_systemContextIdle_early (htime : s.clk.now < x.lastUse + 500000000) : exec (.systemContextIdle d) s = .next s := by
  rw [exec_systemContextIdle h, decide_eq_false (Nat.not_le.mpr htime), Bool.and_false]
  rfl

end system

/-- Settles O46: each timer's command is one test of its time, so each clause reads off one side of it. -/
theorem channelTimers : Obligations.ChannelTimers := by
  intro s q
  refine ⟨fun x psn hsq hlive => ⟨fun hdue => ?_, fun hdue => ?_, fun hdue => ?_, fun hdue => ?_, fun u hu => ?_⟩,
    fun d psn x hlive h => ⟨fun hdue => ⟨?_, fun u hu => sendAgainSys_of_resendSys hu⟩, fun hdue => ?_⟩,
    fun x m hsq => exec_rxNoBufferRetry hsq m, fun t page => ⟨fun hwant => ?_, fun hwant => ?_⟩,
    fun x hrx => ⟨fun hdue => ⟨?_, ?_⟩, fun hdue => ?_⟩, fun d x h hdue => ?_, fun x hsq => exec_rateIncrease_num hsq,
    fun d x h => exec_rateIncrease_sys h,
    fun d x h => ⟨fun hun hctl hleg htime => ⟨exec_systemContextIdle_idle h hun hctl hleg htime, closeSysTx_lone h⟩,
      exec_systemContextIdle_early h⟩⟩
  · rw [exec_retxTimeout_num hsq hlive, if_pos hdue]
  · rw [exec_retxTimeout_num hsq hlive, hdue, if_neg Bool.false_ne_true]
  · rw [exec_pageFaultRetry hsq, if_pos hdue]
  · rw [exec_pageFaultRetry hsq, hdue, if_neg Bool.false_ne_true]
  · obtain ⟨hplain, hfault⟩ := sendAgain_of_resendSq hu
    exact ⟨hplain, hfault, resendSq_frame hsq hu⟩
  · rw [exec_retxTimeout_sys h hlive, if_pos hdue]
  · rw [exec_retxTimeout_sys h hlive, hdue, if_neg Bool.false_ne_true]
  · rw [exec_pagePresent, if_pos hwant]
  · rw [exec_pagePresent, hwant, if_neg Bool.false_ne_true]
  · rw [exec_ackTimer_num hrx, if_pos hdue]
  · rw [getRx_ackCtx hrx]
    rfl
  · rw [exec_ackTimer_num hrx, hdue, if_neg Bool.false_ne_true]
  · rw [exec_ackTimer_sys h, if_pos hdue]

end Sys2Proof.Machine
end

section
/-! PROOFS. The descriptor at the head of a queue (O28): the code that stops it, its wait, or the operation it becomes. -/
namespace Sys2Proof.Machine
open Sys2Proof

theorem postTrack_sansPosts (s : State) (q : Nat) (w : List Word) : sansPosts (postTrack s q w) = sansPosts s := by
  unfold postTrack
  split
  · rfl
  · exact pumpTrackCpl_sansPosts ..

/-- The descriptor that ends at the head of its queue. -/
theorem endDesc_sansPosts (s : State) (q : Nat) (x : SendQ) (d : Descriptor) (code : Finish) :
    sansPosts (endDesc s q x d code) = sansPosts s := postTrack_sansPosts (dropHead s q x) ..

theorem deadLoad_pac (s : State) (x : SendQ) (d : Descriptor) : (deadLoad s x d).pac = s.pac := by
  unfold deadLoad
  split
  · dsimp only
    split <;> exact msix_pac ..
  · rfl

/-- The queue whose head descriptor is now an operation. -/
def headOpened (s : State) (x : SendQ) (d : Descriptor) (ds : List Descriptor) : SendQ :=
  { x with posted := ds, head := x.head + 1, ops := x.ops ++ [mkOp s x d]
           message := if d.op = opSend then x.message + 1 else x.message }

theorem getSq_dropHead (s : State) (q : Nat) (x : SendQ) :
    getSq (dropHead s q x) q = some { x with posted := x.posted.tail, head := x.head + 1 } := getSq_putSq_self ..

section head
variable {s : State} {q : BitVec 13} {x : SendQ} {d : Descriptor} {ds : List Descriptor} (hsq : getSq s q.toNat = some x)
  (hpost : x.posted = d :: ds) (hheld : teHeld s = false)
include hsq hpost hheld

theorem descriptorSplit_fenced (hf : isFenced s = true) :
    exec (.descriptorSplit q) s = .next (endDesc s q.toNat x d .fenced) := by
  change execDescriptorSplit q s = _
  simp [execDescriptorSplit, hsq, hpost, hheld, hf]

theorem descriptorSplit_dead (hf : isFenced s = false) (hdead : s.te.dead.contains x.target = true) :
    exec (.descriptorSplit q) s = .next (endDesc (deadLoad s x d) q.toNat x d .deadTarget) := by
  change execDescriptorSplit q s = _
  simp only [execDescriptorSplit, hsq, hpost, hheld, hf, hdead, Bool.false_eq_true, if_false, if_true]

section live
variable (hf : isFenced s = false) (hdead : s.te.dead.contains x.target = false)
include hf hdead

theorem descriptorSplit_fencedTarget (hfence : s.te.fenced.contains x.target = true) :
    exec (.descriptorSplit q) s = .next (endDesc s q.toNat x d .fenced) := by
  change execDescriptorSplit q s = _
  simp only [execDescriptorSplit, hsq, hpost, hheld, hf, hdead, hfence, Bool.false_eq_true, if_false, if_true]

variable (hfence : s.te.fenced.contains x.target = false)
include hfence

theorem descriptorSplit_refused (hok : descOk s x d = false) :
    exec (.descriptorSplit q) s = .next (endDesc s q.toNat x d .refused) := by
  change execDescriptorSplit q s = _
  simp only [execDescriptorSplit, hsq, hpost, hheld, hf, hdead, hfence, hok, Bool.not_false, Bool.false_eq_true, if_false, if_true]

theorem descriptorSplit_waits (hok : descOk s x d = true)
    (hwait : waitMet s d = false ∨ limitsOk s x d = false ∨ tableValid s x.pathTable = false) :
    exec (.descriptorSplit q) s = .next s := by
  have hstop : (!waitMet s d || !limitsOk s x d || !tableValid s x.pathTable) = true := by
    obtain h | h | h := hwait <;> simp [h]
  change execDescriptorSplit q s = _
  simp only [execDescriptorSplit, hsq, hpost, hheld, hf, hdead, hfence, hok, hstop, Bool.not_true, Bool.false_eq_true, if_false,
    if_true]

theorem descriptorSplit_opens (hok : descOk s x d = true) (hwait : waitMet s d = true) (hroom : limitsOk s x d = true)
    (htable : tableValid s x.pathTable = true) : exec (.descriptorSplit q) s =
      .next (pumpSq (putSq (dropHead s q.toNat x) q.toNat (headOpened s x d ds)) q.toNat 4096) := by
  change execDescriptorSplit q s = _
  simp only [execDescriptorSplit, hsq, hpost, hheld, hf, hdead, hfence, hok, hwait, hroom, htable, getSq_dropHead, Bool.not_true,
    Bool.false_eq_true, Bool.or_self, if_false]
  rfl

end live

end head

/-- What the queue that takes its head descriptor leaves of the machine. -/
theorem headOpened_frame (s : State) (q : Nat) (x y : SendQ) :
    getSq (putSq (dropHead s q x) q y) q = some y ∧ (∀ k, k ≠ q → getSq (putSq (dropHead s q x) q y) k = getSq s k) ∧
      { putSq (dropHead s q x) q y with te := s.te } = s ∧ (pumpSq (putSq (dropHead s q x) q y) q 4096).mem = s.mem :=
  ⟨getSq_putSq_self .., fun k hk => (getSq_putSq_ne _ q k y hk).trans (getSq_putSq_ne _ q k _ hk), rfl, (pumpSq_mems ..).1⟩

/-- Settles O28: one lemma for each answer of the split, in the order of its tests. -/
theorem descriptorsAreTaken : Obligations.DescriptorsAreTaken := by
  refine ⟨fun s q x d ds hsq hpost hheld => ⟨descriptorSplit_fenced hsq hpost hheld, descriptorSplit_dead hsq hpost hheld,
    descriptorSplit_fencedTarget hsq hpost hheld, fun hf hdead hfence =>
      ⟨descriptorSplit_refused hsq hpost hheld hf hdead hfence, descriptorSplit_waits hsq hpost hheld hf hdead hfence,
        fun hok hwait hroom htable => ?_⟩⟩, fun s q x d code => ?_⟩
  · exact ⟨_, descriptorSplit_opens hsq hpost hheld hf hdead hfence hok hwait hroom htable, headOpened_frame ..⟩
  · have h := endDesc_sansPosts s q x d code
    exact ⟨(congrArg State.pac h :), (congrArg State.mem h :), deadLoad_pac s x d⟩

end Sys2Proof.Machine
end

section
/-! PROOFS. Capacity ports and relay links (O29): training, loss, lanes and credits. -/
namespace Sys2Proof.Machine
open Sys2Proof

theorem vector_replicate_get {α : Type} {n : Nat} (x : α) (c : Fin n) : (Vector.replicate n x).get c = x := by
  rw [get_eq_getElem, Vector.getElem_replicate]

/-! ## Capacity ports -/

/-- What a capacity port that goes down leaves: nothing on it, nothing in use, and its event where it was up. -/
theorem capDown_lost {s : State} {p : Fin 4} (hp : (s.cap.ports.get p).state ≠ 0) :
    ((capDown s p).cap.ports.get p).state = 0 ∧ ((capDown s p).cap.ports.get p).used = 0 ∧ (capDown s p).mem.cap.get p = [] ∧
      (∀ w ∈ (capDown s p).cap.weights, w.2.1 ≠ p) ∧
      (capUp (s.cap.ports.get p) = true → (capDown s p).glb.evt.getLsbD 10 = true) := by
  unfold capDown
  rw [if_neg hp]
  dsimp only
  split
  · refine ⟨?_, ?_, ?_, fun w hw => ?_, fun _ => raiseEvt_getLsbD_self _ (by decide)⟩
    · rw [raiseEvt_cap, vmod_get_self]
      rfl
    · rw [raiseEvt_cap, vmod_get_self]
      rfl
    · rw [raiseEvt_mem, vset_get_self]
    · rw [raiseEvt_cap] at hw
      simpa using (List.mem_filter.1 hw).2
  · next hup =>
    refine ⟨?_, ?_, vset_get_self .., fun w hw => ?_, fun h => absurd h hup⟩
    · rw [vmod_get_self]
      rfl
    · rw [vmod_get_self]
      rfl
    · simpa using (List.mem_filter.1 hw).2

theorem capDown_of_down {s : State} {p : Fin 4} (hp : (s.cap.ports.get p).state = 0) : capDown s p = s := if_pos hp

/-- The port in training, whatever it held before. -/
def capTraining (s : State) (p : Fin 4) : State :=
  { s with cap := { s.cap with ports := vmod s.cap.ports p fun c => { c with state := 1 } } }

theorem exec_capRetrain {s : State} {a : Accessor} {p : Fin 4} {v : Word} (hacts : RegActs s a (0x0010000C + 0x100 * p.val))
    (hv : v.getLsbD 0 = true) (hp : (s.cap.ports.get p).state ≠ 1) :
    exec (.capRetrain a p v) s = .next (capTraining (capDown s p) p) := by
  refine (regCmd_acts hacts _).trans (congrArg _ ?_)
  simp only [retrainCap, hv, hp, Bool.not_true, Bool.false_or, decide_false, Bool.false_eq_true, if_false]
  rfl

theorem capTraining_port (s : State) (p : Fin 4) : (capTraining s p).cap.ports.get p = { s.cap.ports.get p with state := 1 } :=
  vmod_get_self ..

/-- The port after its training. -/
theorem exec_capPortTrained {s : State} {p : Fin 4} (hp : (s.cap.ports.get p).state = 1) (r : CapTrain) :
    exec (.capPortTrained p r) s = .next { s with cap := { s.cap with
      ports := vmod s.cap.ports p fun c => { capTrained r with poison := c.poison } } } := if_pos hp

theorem capTrained_state (r : CapTrain) :
    (capTrained r).state = (if r.deviceOk && r.up16 then 2 else if r.deviceOk && r.up8 then 3 else 0) ∧
      (capTrained r).size = (if r.deviceOk && (r.up16 || r.up8) then min 8192 r.sizeUnits else 0) := by
  unfold capTrained
  cases r.deviceOk <;> cases r.up16 <;> cases r.up8 <;> exact ⟨rfl, rfl⟩

/-- Capacity ports: the statement's first half. -/
theorem capPorts_commands (s : State) (a : Accessor) (p : Fin 4) (v : Word) :
    (RegActs s a (0x0010000C + 0x100 * p.val) → v.getLsbD 0 = true → (s.cap.ports.get p).state = 0 →
      exec (.capRetrain a p v) s = .next (capTraining s p)) ∧
    (RegActs s a (0x0010000C + 0x100 * p.val) → v.getLsbD 0 = true → (s.cap.ports.get p).state ≠ 1 →
      ∃ t, exec (.capRetrain a p v) s = .next t ∧ (t.cap.ports.get p).state = 1 ∧
        ((s.cap.ports.get p).state ≠ 0 → t.mem.cap.get p = [] ∧ (t.cap.ports.get p).used = 0)) ∧
    (∀ r, (s.cap.ports.get p).state = 1 → ∃ t, exec (.capPortTrained p r) s = .next t ∧
      (t.cap.ports.get p).state = (if r.deviceOk && r.up16 then 2 else if r.deviceOk && r.up8 then 3 else 0) ∧
      (t.cap.ports.get p).size = (if r.deviceOk && (r.up16 || r.up8) then min 8192 r.sizeUnits else 0) ∧
      (t.cap.ports.get p).poison = (s.cap.ports.get p).poison ∧ (∀ k, k ≠ p → t.cap.ports.get k = s.cap.ports.get k) ∧
      t.mem = s.mem ∧ t.lanes = s.lanes ∧ t.reqs = s.reqs) := by
  refine ⟨fun hacts hv hp => ?_, fun hacts hv hp => ⟨_, exec_capRetrain hacts hv hp, ?_, fun hdown => ?_⟩, fun r hp =>
    ⟨_, exec_capPortTrained hp r, ?_, ?_, ?_, fun k hk => vmod_get_ne _ _ _ _ hk, rfl, rfl, rfl⟩⟩
  · rw [exec_capRetrain hacts hv (by rw [hp]; decide), capDown_of_down hp]
  · rw [capTraining_port]
  · obtain ⟨-, hused, hmem, -⟩ := capDown_lost hdown
    rw [capTraining_port]
    exact ⟨hmem, hused⟩
  · rw [vmod_get_self]
    exact (capTrained_state r).1
  · rw [vmod_get_self]
    exact (capTrained_state r).2
  · rw [vmod_get_self]

/-! ## Relay links -/

theorem getLsbD_foldl_or {ks : List (Fin 17)} (b : BitVec 17) (k : Fin 17) (h : b.getLsbD k.val = true ∨ k ∈ ks) :
    (ks.foldl (fun (b : BitVec 17) (i : Fin 17) => b ||| (1 <<< i.val)) b).getLsbD k.val = true := by
  induction ks generalizing b with
  | nil => exact h.resolve_right List.not_mem_nil
  | cons j js ih =>
    refine ih _ ?_
    obtain h | h := h
    · exact .inl (by rw [BitVec.getLsbD_or, h, Bool.true_or])
    · obtain rfl | h := List.mem_cons.1 h
      · have hbit : ((1 <<< k.val : Nat) : BitVec 17).getLsbD k.val = true := by
          simp [BitVec.getLsbD_ofNat, Nat.testBit_shiftLeft]
        exact .inl (by rw [BitVec.getLsbD_or, hbit, Bool.or_true])
      · exact .inr h

/-- A link after its training: its peer, its tags, the lanes out of use and the state and credits that follow. -/
def linkTrained (peer : DevId) (a b : BitVec 64) (o : BitVec 17) (r : Rly) : Rly :=
  { r with peer, tagCur := a, tagNext := b, out := o, spareUsed := spareIn o r.demoted, state := linkState o r.demoted
           credits := if linkState o r.demoted = 0 then Vector.replicate 4 0 else fullCredits }

/-- The lanes out of use after a training that finds these failed. -/
def lanesFailed (out : BitVec 17) (failed : List (Fin 17)) : BitVec 17 :=
  out ||| failed.foldl (fun (b : BitVec 17) (i : Fin 17) => b ||| (1 <<< i.val)) 0

theorem exec_rlyLinkTrained {s : State} (heth : s.clk.ethOk = true) (hheld : s.sta.blockHeld.getLsbD 5 = false) (i : Fin 3)
    (peer : DevId) (a b : BitVec 64) (failed : List (Fin 17)) : exec (.rlyLinkTrained i peer a b failed) s =
      .next (pumpAll { s with
        rly := vmod s.rly i fun r => linkTrained peer a b (lanesFailed r.out failed) r }) := by
  change execRlyLinkTrained i peer a b failed s = _
  simp only [execRlyLinkTrained, heth, hheld, Bool.not_true, Bool.or_self, Bool.false_eq_true, if_false]
  rfl

theorem linkTrained_credits (peer : DevId) (a b : BitVec 64) (o : BitVec 17) (r : Rly) (c : Fin 4) :
    (linkTrained peer a b o r).credits.get c = if (linkTrained peer a b o r).state = 0 then 0 else creditPool c.val := by
  change (if linkState o r.demoted = 0 then Vector.replicate 4 0 else fullCredits).get c =
    if linkState o r.demoted = 0 then 0 else creditPool c.val
  split
  · exact vector_replicate_get ..
  · exact ofFn_get ..

theorem linkState_eq (o : BitVec 17) (d : Bool) :
    linkState o d = if 2 < lanesOut o then 0 else if lanesOut o = 2 ∨ d = true then 3 else 2 := by
  unfold linkState
  simp only [Bool.or_eq_true, decide_eq_true_eq]

/-- What the lanes that go out of use do to their link and no other. -/
theorem takeLanesOut_link (s : State) (i : Fin 3) (o : BitVec 17) :
    (((takeLanesOut s i o).rly.get i).out = (s.rly.get i).out ||| o) ∧
      (((takeLanesOut s i o).rly.get i).state = if lanesOut ((takeLanesOut s i o).rly.get i).out ≤ 2 then 1 else 0) ∧
      (∀ c, ((takeLanesOut s i o).rly.get i).credits.get c = 0) ∧
      ((takeLanesOut s i o).rly.get i).demoted = (s.rly.get i).demoted ∧
      ∀ k, k ≠ i → (takeLanesOut s i o).rly.get k = s.rly.get k := by
  unfold takeLanesOut
  dsimp only
  rw [vmod_get_self]
  exact ⟨rfl, rfl, fun c => vector_replicate_get .., rfl, fun k hk => vmod_get_ne _ _ _ _ hk⟩

/-- The lane that goes out of use is logged, and the log reaches no link, memory or lane. -/
theorem exec_rlyLaneOut {s : State} {i : Fin 3} {lane : Fin 17} (h : (s.rly.get i).out.getLsbD lane.val = false) :
    ∃ t, exec (.rlyLaneOut i lane) s = .next t ∧ t.rly = (takeLanesOut s i (1 <<< lane.val)).rly ∧ t.mem = s.mem ∧
      t.lanes = s.lanes := by
  change ∃ t, execRlyLaneOut i lane s = .next t ∧ _
  simp only [execRlyLaneOut, h, Bool.false_eq_true, if_false]
  obtain ⟨o, m, hlog⟩ := marLog_frame (takeLanesOut s i (1 <<< lane.val)) evRelayLaneOut 0xF
    ((takeLanesOut s i (1 <<< lane.val)).rly.get i).peer 0xFF (lo32 (at_ i.val 4 + lane.val % 16))
  exact ⟨_, rfl, (congrArg State.rly hlog :), (congrArg State.mem hlog :), (congrArg State.lanes hlog :)⟩

theorem vmodN_get {α : Type} {n : Nat} (v : Vector α n) (k : Nat) (f : α → α) (c : Fin n) :
    (vmodN v k f).get c = if c.val = k then f (v.get c) else v.get c := by
  unfold vmodN
  split
  · next hk =>
    by_cases h : c = ⟨k, hk⟩
    · rw [if_pos (congrArg Fin.val h), h, vmod_get_self]
    · rw [vmod_get_ne _ _ _ _ h, if_neg fun e => h (Fin.ext e)]
  · next hk => rw [if_neg fun (e : c.val = k) => hk (e ▸ c.isLt)]

theorem vmodN_credits (v : Vector Nat 4) (cls : BitVec 2) (n : Nat) (c : Fin 4) :
    (vmodN v cls.toNat fun x => min (creditPool cls.toNat) (x + n)).get c =
      if c.val = cls.toNat then min (creditPool c.val) (v.get c + n) else v.get c := by
  rw [vmodN_get]
  split
  · next h => rw [h]
  · rfl

/-- A write to RLY_CTRL that demotes the link. -/
theorem writeRly_demotes (s : State) (i : Fin 3) {v : Word} (hbit : v.getLsbD 5 = true) (hlane : bits v.toNat 4 0 ≤ 16) :
    writeRly s (4 + 0x100 * i.val) v = some (demote { s with rly := vmod s.rly i fun r =>
      { r with errLimit := v.extractLsb' 16 16, bypass := v.extractLsb' 0 5 } } i (bits v.toNat 4 0)) := by
  have hi : (4 + 0x100 * i.val) / 0x100 = i.val := by omega
  have hoff : (4 + 0x100 * i.val) % 0x100 = 4 := by omega
  simp only [writeRly, hi, hoff, i.isLt, dif_pos, if_true, writeRlyCtrl, hbit, inRange, hlane, decide_true]

theorem writeAccess_rlyDemote {s : State} {a : Accessor} {i : Fin 3} {v : Word} (h : RegActs s a (0x00110004 + 0x100 * i.val))
    (hbit : v.getLsbD 5 = true) (hlane : bits v.toNat 4 0 ≤ 16) :
    writeAccess s a (0x00110004 + 0x100 * i.val) v true = demote { s with rly := vmod s.rly i fun r =>
      { r with errLimit := v.extractLsb' 16 16, bypass := v.extractLsb' 0 5 } } i (bits v.toNat 4 0) := by
  have hi := i.isLt
  have hnone : laneWindow (0x00110004 + 0x100 * i.val) = none := by
    rw [laneWindow, dif_neg (by omega)]
  have hwindow : (0x00110004 + 0x100 * i.val) / 0x10000 = 0x11 := by omega
  have hoff : (0x00110004 + 0x100 * i.val) % 0x10000 = 4 + 0x100 * i.val := by omega
  have hrow : (4 + 0x100 * i.val) / 0x100 = i.val := by omega
  have hcol : (4 + 0x100 * i.val) % 0x100 = 4 := by omega
  refine writeAccess_regActs (w := fields [(16, (s.rly.get i).errLimit.toNat), (0, (s.rly.get i).bypass.toNat)]) h (by omega)
    (by omega) ?_ ?_
  · simp only [readReg, hnone, hwindow, hoff, readGlobal, readRly, hrow, hcol, i.isLt, dif_pos]
  · simp only [writeReg, hnone, hwindow, hoff, writeGlobal]
    exact writeRly_demotes s i hbit hlane

theorem demote_link (s : State) (i : Fin 3) (lane : Nat) :
    (((demote s i lane).rly.get i).demoted = true) ∧ ((demote s i lane).rly.get i).out = (s.rly.get i).out ||| (1 <<< lane) ∧
      (∀ c, ((demote s i lane).rly.get i).credits.get c = 0) ∧
      (((demote s i lane).rly.get i).state = if lanesOut ((demote s i lane).rly.get i).out ≤ 2 then 1 else 0) ∧
      ∀ k, k ≠ i → (demote s i lane).rly.get k = s.rly.get k := by
  obtain ⟨hout, hstate, hcredits, hdemoted, hrest⟩ :=
    takeLanesOut_link { s with rly := vmod s.rly i fun r => { r with demoted := true } } i (1 <<< lane)
  rw [vmod_get_self] at hout hdemoted
  exact ⟨hdemoted, hout, hcredits, hstate, fun k hk => (hrest k hk).trans (vmod_get_ne _ _ _ _ hk)⟩

/-- Settles O29: the port's and the link's commands each have an equation, from which every clause is read. -/
theorem portsAndLinks : Obligations.PortsAndLinks := by
  refine ⟨fun s a p v => ?_, fun s i => ⟨fun peer a b failed heth hheld => ⟨_, exec_rlyLinkTrained heth hheld i peer a b failed, ?_⟩,
    linkState_eq, fun lane hlane => ?_, rfl, fun cls n => ⟨_, rfl, fun c => ?_, fun k hk => vmod_get_ne _ _ _ _ hk, rfl⟩,
    fun a v hacts hbit hlane => ⟨_, congrArg Host.Outcome.next (writeAccess_rlyDemote hacts hbit hlane), ?_⟩⟩⟩
  · obtain ⟨hdown, hretrain, htrained⟩ := capPorts_commands s a p v
    exact ⟨hdown, hretrain, htrained, fun hp => ⟨_, rfl, capDown_lost hp⟩⟩
  · dsimp only
    rw [vmod_get_self]
    refine ⟨rfl, rfl, rfl, fun k hk => ?_, rfl, fun hstate c => ?_, fun hstate c => ?_, fun k hk => vmod_get_ne _ _ _ _ hk, rfl⟩
    · change ((s.rly.get i).out ||| _).getLsbD k.val = true
      rw [BitVec.getLsbD_or, getLsbD_foldl_or 0 k (.inr hk), Bool.or_true]
    · rw [linkTrained_credits, if_neg hstate]
    · rw [linkTrained_credits, if_pos hstate]
  · obtain ⟨t, hexec, hrly, hmem, hlanes⟩ := exec_rlyLaneOut hlane
    obtain ⟨hout, hstate, hcredits, -, hrest⟩ := takeLanesOut_link s i (1 <<< lane.val)
    rw [← hrly] at hout hstate hcredits hrest
    exact ⟨t, hexec, hout, hstate, hcredits, hrest, hmem, hlanes⟩
  · dsimp only
    rw [vmod_get_self]
    exact vmodN_credits ..
  · obtain ⟨hdemoted, hout, hcredits, hstate, hrest⟩ := demote_link { s with rly := vmod s.rly i fun r =>
      { r with errLimit := v.extractLsb' 16 16, bypass := v.extractLsb' 0 5 } } i (bits v.toNat 4 0)
    rw [vmod_get_self] at hout
    exact ⟨hdemoted, hout, hcredits, hstate, fun k hk => (hrest k hk).trans (vmod_get_ne _ _ _ _ hk), rfl, rfl⟩

end Sys2Proof.Machine
end

section
/-! PROOFS. A request that fails a check (O44): it is a false start or a NACK, and nothing of it executes. -/
namespace Sys2Proof.Machine
open Sys2Proof

/-- What a frame that goes out on any path leaves: all but the frames that wait and the Pacer. -/
theorem sendNack_sansLoose (s : State) (h : Hdr) (code : Byte) (us : Nat) : sansLoose (sendNack s h code us) = sansLoose s :=
  sendLoose_sansLoose ..

/-- Track's records of bad frames, blank: what a failed check writes, with the frames that wait. -/
def sansFaults (s : State) : State :=
  { sansLoose s with te := { (sansLoose s).te with wanted := [], fs := State.reset.te.fs, nackAt := [] } }

theorem sansFaults_of_sansLoose {s t : State} (h : sansLoose t = sansLoose s) : sansFaults t = sansFaults s := by
  rw [sansFaults, sansFaults, h]

theorem sendNack_sansFaults (s : State) (h : Hdr) (code : Byte) (us : Nat) : sansFaults (sendNack s h code us) = sansFaults s :=
  sansFaults_of_sansLoose (sendNack_sansLoose ..)

theorem kept_of_sansFaults {s t : State} (h : sansFaults t = sansFaults s) : t.mem = s.mem ∧ t.reqs = s.reqs ∧ t.lanes = s.lanes ∧
    t.te.rxs = s.te.rxs ∧ t.te.rqs = s.te.rqs :=
  ⟨(congrArg State.mem h :), (congrArg State.reqs h :), (congrArg State.lanes h :), (congrArg (fun u : State => u.te.rxs) h :),
    (congrArg (fun u : State => u.te.rqs) h :)⟩

theorem falseStart_sansFaults (s : State) (f : Frame) (h : Hdr) (code : Byte) : sansFaults (falseStart s f h code) = sansFaults s := by
  unfold falseStart
  dsimp only
  rw [apply_ite sansFaults, sendNack_sansFaults]
  exact ite_self (sansFaults s)

theorem checkFail_sansFaults (s : State) (f : Frame) (h : Hdr) (code : Byte) : sansFaults (checkFail s f h code) = sansFaults s := by
  unfold checkFail
  dsimp only
  split
  · exact (sendNack_sansFaults ..).trans rfl
  · split
    · exact sendNack_sansFaults ..
    · split
      · exact sendNack_sansFaults ..
      · exact falseStart_sansFaults ..

theorem getRx_taken (s : State) (f : Frame) (n : Nat) : getRx (taken s f) n = getRx s n := by rw [getRx, getRx, te_taken]

theorem accessCheck_taken (s : State) (f : Frame) (h : Hdr) : accessCheck (taken s f) h f = accessCheck s h f := by
  obtain ⟨o, ho⟩ := taken_frame s f
  exact (congrArg (accessCheck · h f) ho :)

/-- A frame that passes the header checks as `op` is of that opcode. -/
theorem op_of_headOk {s : State} {f : Frame} {op : Byte} (h : HeadOk s f op) : (parseHdr s f).op = op := by
  have hsound : malformed (parseHdr s f) f op = false := by
    by_contra hbad
    have hcheck := h.2
    rw [headCheck, if_pos (by simpa using hbad)] at hcheck
    cases hcheck
  simp only [malformed, Bool.or_eq_false_iff, bne_eq_false_iff_eq] at hsound
  exact hsound.1.1.1.1.1.1.2

section request
variable {s : State} {f : Frame} {op : Byte}

theorem rxRequest_headFails {code : Byte} (ha : Arrives s f) (h : headCheck s (parseHdr s f) f op = some code) :
    rxRequest s f op = checkFail (taken s f) f (parseHdr s f) code := by
  unfold rxRequest
  rw [arrive_taken ha]
  simp only [parseHdr_taken, headCheck_taken, h]

variable {x : RxCtx} (h : OnChannel s f op x)
include h

/-- A request on its channel meets the checks of its PSN and of what it reaches. -/
theorem rxRequest_onChannel : rxRequest s f op =
    if (2147483648 ≤ ((parseHdr s f).psn - x.expected).toNat || x.got.contains (parseHdr s f).psn) = true then
      duplicate (taken s f) (parseHdr s f).dstCh.toNat x (parseHdr s f) f
    else if 4096 ≤ ((parseHdr s f).psn - x.expected).toNat then checkFail (taken s f) f (parseHdr s f) 0x04
    else ((accessCheck s (parseHdr s f) f).map (checkFail (taken s f) f (parseHdr s f))).getD
      (acceptReq (taken s f) (parseHdr s f).dstCh.toNat x (parseHdr s f) f) := by
  obtain ⟨⟨ha, hhead⟩, hch, hctx, hsrc, hten⟩ := h
  have hown : (decide ((parseHdr s f).dstCh = sysCh) || x.source != (parseHdr s f).src || x.tenant != frameTenant f) = false := by
    simp [hch, hsrc, hten]
  unfold rxRequest
  rw [arrive_taken ha]
  simp only [parseHdr_taken, headCheck_taken, hhead, getRx_taken, hctx, hown, Bool.false_eq_true, if_false, accessCheck_taken]
  cases accessCheck s (parseHdr s f) f <;> rfl

theorem rxRequest_again (hop : op ∈ [opWrite, opAtomicAdd, opSend])
    (hold : 2147483648 ≤ ((parseHdr s f).psn - x.expected).toNat ∨ x.got.contains (parseHdr s f).psn = true) :
    rxRequest s f op = ackCtx (taken s f) (parseHdr s f).dstCh.toNat := by
  have hcode := op_of_headOk h.1
  have hnone : wantsResponse op = false ∧ (op == opReadReq) = false := by
    simp only [List.mem_cons, List.not_mem_nil, or_false] at hop
    obtain rfl | rfl | rfl := hop <;> decide
  rw [rxRequest_onChannel h, if_pos (by simpa using hold), duplicate, hcode]
  have hread : ¬ op = opReadReq := by simpa using hnone.2
  simp only [hread, hnone.1, decide_false, Bool.false_and, Bool.false_eq_true, if_false]
  split <;> rfl

theorem rxRequest_far (hnew : x.got.contains (parseHdr s f).psn = false) (hfar : 4096 ≤ ((parseHdr s f).psn - x.expected).toNat)
    (hahead : ((parseHdr s f).psn - x.expected).toNat < 2147483648) :
    rxRequest s f op = checkFail (taken s f) f (parseHdr s f) 0x04 := by
  rw [rxRequest_onChannel h, if_neg (by simp only [hnew, Bool.or_false, decide_eq_true_eq]; omega), if_pos hfar]

theorem rxRequest_inWindow (hnew : FreshPsn x.expected x.got (parseHdr s f).psn) : rxRequest s f op =
    ((accessCheck s (parseHdr s f) f).map (checkFail (taken s f) f (parseHdr s f))).getD
      (acceptReq (taken s f) (parseHdr s f).dstCh.toNat x (parseHdr s f) f) := by
  obtain ⟨hnear, hgot⟩ := hnew
  rw [rxRequest_onChannel h, if_neg (by simp only [hgot, Bool.or_false, decide_eq_true_eq]; omega), if_neg (Nat.not_le.2 hnear)]

theorem rxRequest_denied {code : Byte} (hnew : FreshPsn x.expected x.got (parseHdr s f).psn)
    (hdeny : accessCheck s (parseHdr s f) f = some code) : rxRequest s f op = checkFail (taken s f) f (parseHdr s f) code := by
  rw [rxRequest_inWindow h hnew, hdeny, Option.map_some, Option.getD_some]

end request

/-- The answers of one request command to the checks that it fails. -/
theorem requestFails {s : State} {f : Frame} (ha : Arrives s f) {op : Byte} {i : Instr}
    (hexec : exec i s = .next (rxRequest s f op)) :
    (∀ code, headCheck s (parseHdr s f) f op = some code → exec i s = .next (checkFail (taken s f) f (parseHdr s f) code)) ∧
      (∀ x, OnChannel s f op x → op ∈ [opWrite, opAtomicAdd, opSend] →
        (2147483648 ≤ ((parseHdr s f).psn - x.expected).toNat ∨ x.got.contains (parseHdr s f).psn = true) →
        exec i s = .next (ackCtx (taken s f) (parseHdr s f).dstCh.toNat)) ∧
      (∀ x, OnChannel s f op x → x.got.contains (parseHdr s f).psn = false → 4096 ≤ ((parseHdr s f).psn - x.expected).toNat →
        ((parseHdr s f).psn - x.expected).toNat < 2147483648 → exec i s = .next (checkFail (taken s f) f (parseHdr s f) 0x04)) ∧
      (∀ x code, OnChannel s f op x → FreshPsn x.expected x.got (parseHdr s f).psn →
        accessCheck s (parseHdr s f) f = some code → exec i s = .next (checkFail (taken s f) f (parseHdr s f) code)) := by
  rw [hexec]
  exact ⟨fun code h => congrArg _ (rxRequest_headFails ha h), fun x h hop hold => congrArg _ (rxRequest_again h hop hold),
    fun x h hnew hfar hahead => congrArg _ (rxRequest_far h hnew hfar hahead),
    fun x code h hnew hdeny => congrArg _ (rxRequest_denied h hnew hdeny)⟩

/-- Settles O44: every request command is `rxRequest` of its opcode, whose checks come one after another. -/
theorem badRequestsDoNothing : Obligations.BadRequestsDoNothing := by
  refine ⟨fun s f ha p hp => ?_, fun s f h code => ?_⟩
  · simp only [List.mem_cons, List.not_mem_nil, or_false] at hp
    obtain rfl | rfl | rfl | rfl | rfl | rfl := hp <;> exact requestFails ha rfl
  · exact kept_of_sansFaults (checkFail_sansFaults s f h code)

end Sys2Proof.Machine
end

section
/-! PROOFS. Atomics and reads (O42): the state in which an accepted request runs, and what its answer leaves. -/
namespace Sys2Proof.Machine
open Sys2Proof

/-! ## What an answer leaves -/

/-- What requests may change beside their context: memory, requests, lanes, the plan, what is driven outwards, queues and regions. -/
def requestView (s : State) : Mems × List Req × Vector Lane 12 × Mpl × List Out × Tbl SendQ × Tbl RecvQ × Tbl Region × TeCnt :=
  (s.mem, s.reqs, s.lanes, s.mpl, s.out, s.te.sqs, s.te.rqs, s.te.regions, s.te.cnt)

/-- The next PSN that a context expects, and the old values that it keeps. -/
def ctxView (s : State) (n : Nat) : Option (Word × List (Word × BitVec 64)) := (getRx s n).map fun x => (x.expected, x.atoms)

theorem requestView_putRx (s : State) (n : Nat) (x : RxCtx) : requestView (putRx s n x) = requestView s := rfl

theorem requestView_of_sansLoose {s t : State} (h : sansLoose t = sansLoose s) : requestView t = requestView s :=
  (congrArg requestView h :)

theorem ctxView_of_sansLoose {s t : State} (h : sansLoose t = sansLoose s) (n : Nat) : ctxView t n = ctxView s n := by
  rw [ctxView, ctxView, getRx_of_sansLoose h]

theorem ctxView_putRx {s : State} {n : Nat} {x y : RxCtx} (h : getRx s n = some x) (hexp : y.expected = x.expected)
    (hatoms : y.atoms = x.atoms) : ctxView (putRx s n y) n = ctxView s n := by
  rw [ctxView, ctxView, getRx_putRx_self, h, Option.map_some, Option.map_some, hexp, hatoms]

theorem ackCtx_views (s : State) (n : Nat) : requestView (ackCtx s n) = requestView s ∧ ctxView (ackCtx s n) n = ctxView s n := by
  cases h : getRx s n with
  | none =>
    rw [getRx] at h
    rw [ackCtx, h]
    exact ⟨rfl, rfl⟩
  | some x =>
    rw [ackCtx_eq h]
    have hsent := sendLoose_sansLoose (putRx s n (rxAcked x))
    exact ⟨(requestView_of_sansLoose (hsent ..)).trans rfl, (ctxView_of_sansLoose (hsent ..) n).trans (ctxView_putRx h rfl rfl)⟩

theorem sendResponse_views (s : State) (n : Nat) (op : Byte) (flags : BitVec 16) (aux : Word) (addr : BitVec 64) (bs : List Byte) :
    requestView (sendResponse s n op flags aux addr bs) = requestView s ∧
      ctxView (sendResponse s n op flags aux addr bs) n = ctxView s n := by
  cases h : getRx s n with
  | none =>
    rw [sendResponse, h]
    exact ⟨rfl, rfl⟩
  | some x =>
    rw [sendResponse, h]
    have hsent := sendLoose_sansLoose (putRx s n { x with respPsn := x.respPsn + 1 })
    exact ⟨(requestView_of_sansLoose (hsent ..)).trans rfl, (ctxView_of_sansLoose (hsent ..) n).trans (ctxView_putRx h rfl rfl)⟩

theorem sendRead_views (s : State) (n : Nat) (h : Hdr) (a len : Nat) :
    requestView (sendRead s n h a len) = requestView s ∧ ctxView (sendRead s n h a len) n = ctxView s n :=
  ⟨foldl_keeps requestView _ (fun _ _ => (sendResponse_views ..).1) _ _,
    foldl_keeps (ctxView · n) _ (fun _ _ => (sendResponse_views ..).2) _ _⟩

/-! ## The state in which an accepted request runs -/

/-- The state in which a request runs: metered and numbered, in place of the context it came on. -/
structure RunsIn (s : State) (f : Frame) (x : RxCtx) (v : State) (y : RxCtx) : Prop where
  frame : ∃ o p r, taken s f = { s with out := o } ∧ v = { s with out := o, pac := p, te := { s.te with rxs := r } }
  ctx : getRx v (parseHdr s f).dstCh.toNat = some y
  numbered : ∃ marked total owed least, y = { x with
    expected := (takePsn x.expected x.got (parseHdr s f).psn).1, got := (takePsn x.expected x.got (parseHdr s f).psn).2
    minDelay := least, marked, total, owed, waiting := [] }

theorem pacPort_out (s : State) (o : List Out) (port : Nat) : pacPort { s with out := o } port = pacPort s port := rfl

theorem fillPort_frame (s : State) (port : Nat) : ∃ p, fillPort s port = { s with pac := p } := by
  unfold fillPort
  split <;> exact ⟨_, rfl⟩

theorem fillPort_out (s : State) (o : List Out) (port : Nat) : fillPort { s with out := o } port = { fillPort s port with out := o } := by
  unfold fillPort
  rw [pacPort_out]
  split <;> rfl

theorem meterFrame_frame (s : State) (f : Frame) (t : Tenant) : ∃ p, (meterFrame s f t).2 = { s with pac := p } := by
  obtain ⟨p, hp⟩ := fillPort_frame s f.port.val
  unfold meterFrame
  split
  · exact ⟨s.pac, rfl⟩
  · split
    · exact ⟨s.pac, rfl⟩
    · rw [hp]
      exact ⟨_, rfl⟩

theorem meterFrame_out (s : State) (o : List Out) (f : Frame) (t : Tenant) :
    (meterFrame { s with out := o } f t).1 = (meterFrame s f t).1 := by
  unfold meterFrame
  rw [pacPort_out, fillPort_out]
  split
  · rfl
  · split <;> rfl
theorem meterFrame_taken (s : State) (f : Frame) (t : Tenant) : (meterFrame (taken s f) f t).1 = (meterFrame s f t).1 := by
  obtain ⟨o, ho⟩ := taken_frame s f
  rw [ho]
  exact meterFrame_out ..

/-- The context of a request that is numbered (R229, R234, R243). -/
def numberedCtx (s : State) (c : Colour) (x : RxCtx) (h : Hdr) (f : Frame) : RxCtx :=
  { x with
    expected := (takePsn x.expected x.got h.psn).1, got := (takePsn x.expected x.got h.psn).2
    minDelay := (congestion s h f x.minDelay).2
    marked := if h.op != opReadReq && ((congestion s h f x.minDelay).1 || c = .yellow) then x.marked + h.len else x.marked
    total := if h.op != opReadReq then x.total + h.len else x.total
    owed := if h.op != opReadReq then some (x.owed.getD s.clk.now) else x.owed }

/-- Nothing else waits on the channel, so the request is in its place or needs none. -/
theorem mayExec_numbered {s : State} {f : Frame} {x y : RxCtx}
    (hplace : (x.got = [] ∧ (parseHdr s f).psn = x.expected) ∨
      ((parseHdr s f).flags.getLsbD 2 = false ∧ (parseHdr s f).flags.getLsbD 3 = false))
    (hexp : y.expected = (takePsn x.expected x.got (parseHdr s f).psn).1) (hwait : y.waiting = [] ∨ y.waiting = [f]) :
    mayExec s y f = true := by
  unfold mayExec
  obtain ⟨hgot, hpsn⟩ | ⟨h2, h3⟩ := hplace
  · have hnext : y.expected = (parseHdr s f).psn + 1 := by
      rw [hexp, hgot, hpsn]
      simp [takePsn, advance]
    have horder : inOrder s y (parseHdr s f).psn = true := by
      rw [inOrder, hnext]
      obtain h | h := hwait <;> simp [h, psnLe]
    simp [horder]
  · dsimp only
    rw [h2, h3]
    rfl

theorem acceptReq_eq (s : State) (n : Nat) (x : RxCtx) (h : Hdr) (f : Frame) {c : Colour} {u : State} {y : RxCtx}
    (hmeter : meterFrame s f x.tenant = (c, u)) (hcol : c ≠ .red) (hy : y = numberedCtx u c x h f)
    (hgo : (!mayExec u y f || sendWaits u y h f) = false) : acceptReq s n x h f =
      if (decide (h.psn ≠ x.expected) || h.flags.getLsbD 6 || decide (65536 ≤ y.total)) = true then
        ackCtx (drainCtx (putRx u n { y with waiting := y.waiting ++ [f] }) n (y.waiting.length + 1)) n
      else drainCtx (putRx u n { y with waiting := y.waiting ++ [f] }) n (y.waiting.length + 1) := by
  subst hy
  simp only [numberedCtx] at hgo
  unfold acceptReq
  rw [hmeter]
  simp only [hcol, hgo, if_false, Bool.false_and, Bool.false_eq_true]
  rfl

/-- A request that may run at once runs, and is then acknowledged where R243 asks. -/
theorem acceptReq_runs {s u w : State} {n : Nat} {x y : RxCtx} {f : Frame} {c : Colour}
    (hmeter : meterFrame s f x.tenant = (c, u)) (hcol : c ≠ .red) (hwait : x.waiting = [])
    (hplace : (x.got = [] ∧ (parseHdr s f).psn = x.expected) ∨
      ((parseHdr s f).flags.getLsbD 2 = false ∧ (parseHdr s f).flags.getLsbD 3 = false))
    (hsend : (parseHdr s f).op = opSend → ∀ r, tblGet s.te.rqs x.queue = some r → f.aux = r.nextMsg)
    (hy : y = numberedCtx u c x (parseHdr s f) f)
    (hrun : runFrame (putRx (putRx u n { y with waiting := [f] }) n { y with waiting := [] }) n f = some w) :
    acceptReq s n x (parseHdr s f) f = w ∨ acceptReq s n x (parseHdr s f) f = ackCtx w n := by
  obtain ⟨p, hu⟩ := meterFrame_frame s f x.tenant
  rw [hmeter] at hu
  change u = _ at hu
  have hparse : parseHdr u f = parseHdr s f := by rw [hu]; rfl
  have hyw : y.waiting = [] := by rw [hy]; exact hwait
  have hyexp : y.expected = (takePsn x.expected x.got (parseHdr s f).psn).1 := by rw [hy]; rfl
  have hmay : mayExec u y f = true :=
    mayExec_numbered (by rw [hparse]; exact hplace) (by rw [hparse]; exact hyexp) (.inl hyw)
  have hmay' : mayExec (putRx u n { y with waiting := [f] }) { y with waiting := [f] } f = true :=
    mayExec_numbered (x := x) (by rw [← hparse] at hplace; exact hplace) (by rw [← hparse] at hyexp; exact hyexp) (.inr rfl)
  have hnowait : sendWaits u y (parseHdr s f) f = false := by
    have hq : y.queue = x.queue := by rw [hy]; rfl
    have hrqs : u.te.rqs = s.te.rqs := by rw [hu]
    unfold sendWaits
    rw [hq, hrqs]
    by_cases hop : (parseHdr s f).op = opSend
    · cases hr : tblGet s.te.rqs x.queue with
      | none => simp
      | some r => simp [hsend hop r hr]
    · simp [hop]
  have hexec : execWaiting (putRx u n { y with waiting := [f] }) n [f] = some w := by
    have hfilter : [f].filter (· ≠ f) = [] := by simp
    simp only [execWaiting, getRx_putRx_self, hmay', if_true, hfilter, hrun]
  have hdrain : drainCtx (putRx u n { y with waiting := y.waiting ++ [f] }) n (y.waiting.length + 1) = w := by
    simp only [hyw, List.nil_append, List.length_nil, drainCtx, getRx_putRx_self, hexec]
  have hall : acceptReq s n x (parseHdr s f) f =
      if (decide ((parseHdr s f).psn ≠ x.expected) || (parseHdr s f).flags.getLsbD 6 || decide (65536 ≤ y.total)) = true then ackCtx w n
      else w := by
    rw [acceptReq_eq s n x _ f hmeter hcol hy (by rw [hmay, hnowait]; rfl), hdrain]
  rw [hall]
  split
  · exact .inr rfl
  · exact .inl rfl

/-- An accepted request runs in a state that differs from the one it came in by its own context and the meters. -/
theorem rxRequest_runs {s : State} {f : Frame} {op : Byte} {x : RxCtx} (h : RunsRequest s f op x)
    (hsend : op = opSend → ∀ r, tblGet s.te.rqs x.queue = some r → f.aux = r.nextMsg) :
    ∃ v y, RunsIn s f x v y ∧ ∀ w, runFrame v (parseHdr s f).dstCh.toNat f = some w →
      rxRequest s f op = w ∨ rxRequest s f op = ackCtx w (parseHdr s f).dstCh.toNat := by
  obtain ⟨hch, hnew, haccess, hcol, hwait, hplace⟩ := h
  have hop := op_of_headOk hch.1
  obtain ⟨o, ho⟩ := taken_frame s f
  obtain ⟨p, hp⟩ := meterFrame_frame (taken s f) f x.tenant
  let u := (meterFrame (taken s f) f x.tenant).2
  let y := numberedCtx u (meterFrame (taken s f) f x.tenant).1 x (parseHdr s f) f
  let n := (parseHdr s f).dstCh.toNat
  have haccept : rxRequest s f op = acceptReq (taken s f) n x (parseHdr s f) f := by
    rw [rxRequest_inWindow hch hnew, haccess]
    rfl
  refine ⟨putRx (putRx u n { y with waiting := [f] }) n { y with waiting := [] }, { y with waiting := [] },
    ⟨⟨o, p, tblSet (tblSet s.te.rxs n { y with waiting := [f] }) n { y with waiting := [] }, ho, ?_⟩, getRx_putRx_self ..,
      ⟨_, _, _, _, rfl⟩⟩, fun w hw => ?_⟩
  · have hu : u = { s with out := o, pac := p } := by rw [show u = _ from hp, ho]
    rw [hu]
    rfl
  · rw [haccept, ← parseHdr_taken]
    refine acceptReq_runs Prod.mk.eta.symm (by rw [meterFrame_taken]; exact hcol) hwait (by rw [parseHdr_taken]; exact hplace)
      ?_ ?_ hw
    · rw [parseHdr_taken, te_taken, hop]
      exact hsend
    · rw [parseHdr_taken]

/-! ## The requests that run -/

/-- The plain or counted end of a request: its channel's counter where the frame asks for it. -/
def notified (h : Hdr) (y : RxCtx) (s : State) : State :=
  if h.flags.getLsbD 3 then (match y.counter with | some c => incCtr s c.toNat | none => s) else s

theorem notified_requestView (h : Hdr) (y : RxCtx) (s : State) : requestView (notified h y s) = requestView s := by
  unfold notified
  split
  · cases y.counter <;> rfl
  · rfl

theorem ctxView_notified (h : Hdr) (y : RxCtx) (s : State) (n : Nat) : ctxView (notified h y s) n = ctxView s n := by
  unfold notified
  split
  · cases y.counter <;> rfl
  · rfl

section run
variable {s : State} {f : Frame} {op : Byte} {x : RxCtx} {v : State} {y : RxCtx}

theorem RunsIn.parse (h : RunsIn s f x v y) : parseHdr v f = parseHdr s f := by
  obtain ⟨⟨o, p, r, -, hv⟩, -, -⟩ := h
  rw [hv]
  rfl

theorem RunsIn.target (h : RunsIn s f x v y) : targetAddr v f = targetAddr s f := by
  obtain ⟨⟨o, p, r, -, hv⟩, -, -⟩ := h
  rw [hv]
  rfl

theorem RunsIn.view (h : RunsIn s f x v y) :
    requestView v = (s.mem, s.reqs, s.lanes, s.mpl, (taken s f).out, s.te.sqs, s.te.rqs, s.te.regions, s.te.cnt) := by
  obtain ⟨⟨o, p, r, ho, hv⟩, -, -⟩ := h
  rw [hv, ho]
  rfl

theorem RunsIn.ctxView (h : RunsIn s f x v y) : ctxView v (parseHdr s f).dstCh.toNat =
    some ((takePsn x.expected x.got (parseHdr s f).psn).1, x.atoms) := by
  obtain ⟨-, hctx, _, _, _, _, rfl⟩ := h
  rw [Machine.ctxView, hctx]
  rfl

/-- A WRITE stores its payload. -/
theorem runFrame_write (h : RunsIn s f x v y) (hop : (parseHdr s f).op = opWrite) :
    runFrame v (parseHdr s f).dstCh.toNat f =
      some (notified (parseHdr s f) y (placeData v (targetAddr s f) f.payload)) := by
  rw [runFrame, h.ctx]
  simp only [h.parse, h.target, hop, if_true]
  rfl

/-- A READ_REQ sends the bytes that it names. -/
theorem runFrame_read (h : RunsIn s f x v y) (hop : (parseHdr s f).op = opReadReq) :
    runFrame v (parseHdr s f).dstCh.toNat f = some (notified (parseHdr s f) y
      (sendRead v (parseHdr s f).dstCh.toNat (parseHdr s f) (targetAddr s f) f.aux.toNat)) := by
  have hne : ¬ opReadReq = opWrite := by decide
  rw [runFrame, h.ctx]
  simp only [h.parse, h.target, hop, hne, if_true, if_false]
  rfl

theorem runFrame_atomic (h : RunsIn s f x v y) (hop : (parseHdr s f).op = op)
    (hatomic : op = opAtomicAdd ∨ op = opFetchAdd ∨ op = opCmpSwap) :
    runFrame v (parseHdr s f).dstCh.toNat f = some (notified (parseHdr s f) y
      (execAtomic v (parseHdr s f).dstCh.toNat y (parseHdr s f) f)) := by
  have hne : ¬ op = opWrite ∧ ¬ op = opReadReq ∧ ¬ op = opSend := by
    obtain rfl | rfl | rfl := hatomic <;> decide
  obtain ⟨hwrite, hread, hsend⟩ := hne
  rw [runFrame, h.ctx]
  simp only [h.parse, hop, hwrite, hread, hsend, if_false]
  rfl

end run

theorem execAtomic_requestView (v : State) (n : Nat) (y : RxCtx) (h : Hdr) (f : Frame) : requestView (execAtomic v n y h f) =
    requestView (placeData v (targetAddr v f) (u64Bytes (atomicNew h.op (memU64 v.mem.data (targetAddr v f)) f.payload))) := by
  unfold execAtomic
  dsimp only
  generalize u64Bytes (atomicNew h.op (memU64 v.mem.data (targetAddr v f)) f.payload) = bs
  split
  · rfl
  · rw [sendOld, (sendResponse_views ..).1, requestView_putRx]

theorem ctxView_execAtomic {v : State} {n : Nat} {y : RxCtx} (hctx : getRx v n = some y) (h : Hdr) (f : Frame) :
    ctxView (execAtomic v n y h f) n = some (y.expected, if h.op = opAtomicAdd then y.atoms else
      (y.atoms ++ [(h.psn, memU64 v.mem.data (targetAddr v f))]).drop (y.atoms.length + 1 - 256)) := by
  unfold execAtomic
  dsimp only
  split
  · exact congrArg (Option.map fun x : RxCtx => (x.expected, x.atoms)) hctx
  · refine (sendResponse_views ..).2.trans ?_
    rw [ctxView, getRx_putRx_self, Option.map_some]

/-- What a request that runs leaves is what its frame leaves: the acknowledgement that may follow changes none of it. -/
theorem rxRequest_views {s : State} {f : Frame} {op : Byte} {x : RxCtx} (h : RunsRequest s f op x)
    (hsend : op = opSend → ∀ r, tblGet s.te.rqs x.queue = some r → f.aux = r.nextMsg) :
    ∃ v y, RunsIn s f x v y ∧ ∀ w, runFrame v (parseHdr s f).dstCh.toNat f = some w →
      requestView (rxRequest s f op) = requestView w ∧
        ctxView (rxRequest s f op) (parseHdr s f).dstCh.toNat = ctxView w (parseHdr s f).dstCh.toNat := by
  obtain ⟨v, y, hin, hruns⟩ := rxRequest_runs h hsend
  refine ⟨v, y, hin, fun w hw => ?_⟩
  obtain heq | heq := hruns w hw
  · rw [heq]
    exact ⟨rfl, rfl⟩
  · rw [heq]
    exact ackCtx_views ..

theorem requestView_eq_iff {t : State} {m : Mems} {r : List Req} {l : Vector Lane 12} {p : Mpl} {o : List Out} {q : Tbl SendQ}
    {rq : Tbl RecvQ} {g : Tbl Region} {c : TeCnt} : requestView t = (m, r, l, p, o, q, rq, g, c) ↔
      t.mem = m ∧ t.reqs = r ∧ t.lanes = l ∧ t.mpl = p ∧ t.out = o ∧ t.te.sqs = q ∧ t.te.rqs = rq ∧ t.te.regions = g ∧ t.te.cnt = c := by
  simp only [requestView, Prod.mk.injEq]

/-- What storing bytes in the data space leaves, in the state in which a request runs. -/
theorem RunsIn.placed {s : State} {f : Frame} {x : RxCtx} {v : State} {y : RxCtx} (h : RunsIn s f x v y) (a : Nat) (bs : List Byte) :
    requestView (placeData v a bs) = ({ s.mem with data := memStore s.mem.data a bs }, s.reqs, s.lanes, s.mpl, (taken s f).out,
      s.te.sqs, s.te.rqs, s.te.regions.map (fun g => (g.1, touchRegion s a bs.length g.2)), s.te.cnt) := by
  obtain ⟨⟨o, p, r, ho, hv⟩, -, -⟩ := h
  rw [hv, ho]
  rfl

theorem atomicNew_add {op : Byte} (h : op ≠ opCmpSwap) (old : BitVec 64) (bs : List Byte) :
    atomicNew op old bs = old + operand bs 0 := if_neg h

theorem atomicNew_swap (old : BitVec 64) (bs : List Byte) :
    atomicNew opCmpSwap old bs = if old = operand bs 0 then operand bs 8 else old := if_pos rfl

/-- An atomic that runs: the 8 bytes at its target take the new value, and nothing else of memory changes. -/
theorem rxRequest_atomic {s : State} {f : Frame} {op : Byte} {x : RxCtx} (h : RunsRequest s f op x)
    (hatomic : op = opAtomicAdd ∨ op = opFetchAdd ∨ op = opCmpSwap) :
    let n := (parseHdr s f).dstCh.toNat
    let old := memU64 s.mem.data (targetAddr s f)
    let t := rxRequest s f op
    t.mem = { s.mem with data := memStore s.mem.data (targetAddr s f) (u64Bytes (atomicNew op old f.payload)) } ∧
      (getRx t n).map (·.atoms) = some (if op = opAtomicAdd then x.atoms else
        (x.atoms ++ [((parseHdr s f).psn, old)]).drop (x.atoms.length + 1 - 256)) ∧
      t.reqs = s.reqs ∧ t.lanes = s.lanes ∧ t.te.sqs = s.te.sqs ∧ t.out = (taken s f).out := by
  have hsend : op = opSend → ∀ r, tblGet s.te.rqs x.queue = some r → f.aux = r.nextMsg := by
    rintro rfl
    exact absurd hatomic (by decide)
  have hop := op_of_headOk h.1.1
  obtain ⟨v, y, hin, hviews⟩ := rxRequest_views h hsend
  obtain ⟨hview, hctxView⟩ := hviews _ (runFrame_atomic hin hop hatomic)
  have hdata : v.mem = s.mem := congrArg Prod.fst hin.view
  have hatoms : y.atoms = x.atoms := by
    obtain ⟨-, -, _, _, _, _, rfl⟩ := hin
    rfl
  rw [notified_requestView, execAtomic_requestView, hin.target, hin.placed, hop, hdata] at hview
  obtain ⟨hmem, hreqs, hlanes, -, hout, hsqs, -⟩ := requestView_eq_iff.1 hview
  rw [ctxView_notified, ctxView_execAtomic hin.ctx, hin.target, hop, hdata, hatoms] at hctxView
  refine ⟨hmem, ?_, hreqs, hlanes, hsqs, hout⟩
  have hkept := congrArg (Option.map Prod.snd) hctxView
  rw [ctxView, Option.map_map] at hkept
  exact hkept

/-- A READ_REQ that runs changes no memory and takes its PSN. -/
theorem rxRequest_read {s : State} {f : Frame} {x : RxCtx} (h : RunsRequest s f opReadReq x) :
    ∃ v y, RunsIn s f x v y ∧
      (let w := notified (parseHdr s f) y (sendRead v (parseHdr s f).dstCh.toNat (parseHdr s f) (targetAddr s f) f.aux.toNat)
       rxRequest s f opReadReq = w ∨ rxRequest s f opReadReq = ackCtx w (parseHdr s f).dstCh.toNat) ∧
      requestView (rxRequest s f opReadReq) =
        (s.mem, s.reqs, s.lanes, s.mpl, (taken s f).out, s.te.sqs, s.te.rqs, s.te.regions, s.te.cnt) ∧
      ctxView (rxRequest s f opReadReq) (parseHdr s f).dstCh.toNat =
        some ((takePsn x.expected x.got (parseHdr s f).psn).1, x.atoms) := by
  have hsend : opReadReq = opSend → ∀ r, tblGet s.te.rqs x.queue = some r → f.aux = r.nextMsg := by
    intro hne
    exact absurd hne (by decide)
  obtain ⟨v, y, hin, hruns⟩ := rxRequest_runs h hsend
  have hw := hruns _ (runFrame_read hin (op_of_headOk h.1.1))
  have hread := sendRead_views v (parseHdr s f).dstCh.toNat (parseHdr s f) (targetAddr s f) f.aux.toNat
  refine ⟨v, y, hin, hw, ?_, ?_⟩
  · obtain heq | heq := hw <;> rw [heq]
    · rw [notified_requestView, hread.1, hin.view]
    · rw [(ackCtx_views ..).1, notified_requestView, hread.1, hin.view]
  · obtain heq | heq := hw <;> rw [heq]
    · rw [ctxView_notified, hread.2, hin.ctxView]
    · rw [(ackCtx_views ..).2, ctxView_notified, hread.2, hin.ctxView]

/-- Settles O42: the views of the frame that runs, through its counter and its acknowledgement. -/
theorem readsAndAtomics : Obligations.ReadsAndAtomics := by
  intro s f x
  dsimp only
  refine ⟨fun h => ⟨_, rfl, ?_⟩, fun h => ⟨_, rfl, ?_⟩, fun h => ⟨_, rfl, ?_⟩, fun h hflag => ?_, fun h => ⟨_, rfl, ?_⟩⟩
  · have hruns := rxRequest_atomic h (.inl rfl)
    dsimp only at hruns
    rwa [atomicNew_add (op := opAtomicAdd) (by decide), if_pos rfl] at hruns
  · have hruns := rxRequest_atomic h (.inr (.inl rfl))
    dsimp only at hruns
    rwa [atomicNew_add (op := opFetchAdd) (by decide), if_neg (by decide)] at hruns
  · have hruns := rxRequest_atomic h (.inr (.inr rfl))
    dsimp only at hruns
    rwa [if_neg (show ¬ opCmpSwap = opAtomicAdd by decide), atomicNew_swap] at hruns
  · obtain ⟨v, y, hin, hends, hview, -⟩ := rxRequest_read h
    obtain ⟨hmem, hreqs, hlanes, -, hout, -⟩ := requestView_eq_iff.1 hview
    have hplain (w : State) : notified (parseHdr s f) y w = w := if_neg (by rw [hflag]; exact Bool.false_ne_true)
    rw [hplain] at hends
    exact ⟨_, v, rfl, congrArg Prod.fst hin.view, hends, hmem, hreqs, hlanes, hout⟩
  · obtain ⟨v, y, hin, hends, hview, hctx⟩ := rxRequest_read h
    obtain ⟨hmem, -⟩ := requestView_eq_iff.1 hview
    have hkept := congrArg (Option.map Prod.fst) hctx
    rw [ctxView, Option.map_map] at hkept
    exact ⟨hmem, hkept⟩

end Sys2Proof.Machine
end

section
/-! PROOFS. What a WRITE stores (O41): the statement takes every state, and in one whose data space is not in canonical form (log 5) a
zero byte that is stored does not replace the byte that is read. -/
namespace Sys2Proof.Machine
open Sys2Proof

/-- A plan of the KEYED scheme with one tenant and no lane in use. -/
def keyedPlan : PlanImage :=
  { magic := 0, format := 1, nsect := 0, totalBytes := 0, targetDev := 5, hdrRsvClear := true, dir := [], keyHash := 0
    sigValid := true, planDigest := 0
    system := { epoch := 1, scheme := 1, quietUs := 20, periodUs := 250, devices := 8, regions := 1, lapBase := 0, activate := 0
                deadline := 0, groups := [], rsvClear := true }
    device := { leader := 0, idleLaps := 8, handoffWait := 16, holdLimit := 8, scrubS := 60, spares := Vector.replicate 4 []
                park := [], ctrLap := [], rsvClear := true }
    tenants := [(1, ⟨true, 1, 64, 1024, 0, true⟩)], models := []
    lanes := Vector.replicate 12
      { role := 0, dirEntries := 0, model := Vector.replicate 4 0, mflags := Vector.replicate 4 0, cores := Vector.replicate 24 0
        windowKib := 0, weight2m := 0, slot4k := 0, kvFlags := 0, reserve := 0, shared := 0, runCells := 0, guar := 0, cap := 0
        handoff := [], exch := [], table := none, rsvClear := true }
    pacer := Vector.replicate 19
      { legQ := 31, overhead := 20, police := 0, pcp := 0, maxFrame := 9216, queues := Vector.replicate 32 ⟨16, 1, 1000, 64⟩
        meters := Vector.replicate 30 ⟨1000, 1000, 16, 16⟩, rsvClear := true }
    bib := none }

/-- The context of the tenant's channel from device 6. -/
def channelCtx : RxCtx :=
  { source := 6, tenant := 1, expected := 20, got := [], waiting := [], minDelay := none, marked := 0, total := 0, owed := none
    atoms := [], counter := none, queue := 1, respPsn := 0 }

/-- A device with one region and one channel whose data space is out of order: address 9 stands before address 8. -/
def unsortedDev : State :=
  { State.reset with
    clk := { Clk.reset with ethOk := true }
    sta := { Sta.reset with blockHeld := 0 }
    mpl := { Mpl.reset with current := some keyedPlan, devSet := true, devId := 5 }
    te := { Te.reset with ethertype := 0x88B5, portUp := 1, regions := [(0, ⟨1, 0, 4096, 0xF, [], none⟩)], rxs := [(4, channelCtx)] }
    mem := { State.reset.mem with data := [(9, 1), (8, 7)] } }

/-- A WRITE of one zero byte to address 8, the next of its channel. -/
def zeroWrite : Frame :=
  { port := 0
    head := (0 : BitVec 2) ++ (1 : BitVec 14) ++ (0 : BitVec 2) ++ (4 : BitVec 14) ++ (0 : BitVec 44) ++ (6 : BitVec 20) ++
      (0 : BitVec 16) ++ opWrite ++ (1 : BitVec 4) ++ clsData ++ (0 : BitVec 2)
    psn := 20, txTime := 0, planTag := 0, tenant := 1, kgen := 0, rkey := 0, aux := 0, addr := 8, payload := [0], rsvTail := 0
    tagDei := false, mac := macOf 5 0, fcsOk := true, linkCrc := 0 }

theorem zeroWrite_runs : RunsRequest unsortedDev zeroWrite opWrite channelCtx := by
  unfold RunsRequest OnChannel HeadOk Arrives MacTakes FreshPsn
  decide +kernel

/-- Refutes O41: on the unordered data space [(9, 1), (8, 7)] a WRITE of a zero byte to address 8 leaves 7 to be read there, since a
zero byte is stored by erasing its address and the search for it stops at address 9. -/
theorem not_writeStoresItsPayload : ¬ Obligations.WriteStoresItsPayload := by
  intro h
  obtain ⟨t, -, hread, -, hmem, -⟩ := h unsortedDev zeroWrite channelCtx zeroWrite_runs
  have hbyte := hread 0 (by decide)
  have htarget : targetAddr unsortedDev zeroWrite = 8 := by decide +kernel
  rw [hmem, htarget] at hbyte
  exact absurd hbyte (by decide)

end Sys2Proof.Machine
end

section
/-! PROOFS. A SEND at its receive queue (O43): it fills the buffers that its message claims, or its message is abandoned. -/
namespace Sys2Proof.Machine
open Sys2Proof

/-- What a SEND may change: memory and the buffers of its queue; and what it must keep. -/
def sendView (s : State) (q : Nat) : Mems × List Req × Vector Lane 12 × Tbl SendQ × TeCnt × Option (List RxBuffer) :=
  (s.mem, s.reqs, s.lanes, s.te.sqs, s.te.cnt, (tblGet s.te.rqs q).map (·.bufs))

theorem sendView_of_requestView {s t : State} (h : requestView t = requestView s) (q : Nat) : sendView t q = sendView s q := by
  obtain ⟨hmem, hreqs, hlanes, -, -, hsqs, hrqs, -, hcnt⟩ := requestView_eq_iff.1 h
  rw [sendView, hmem, hreqs, hlanes, hsqs, hrqs, hcnt, sendView]

theorem sendView_postRq (s : State) (q : Nat) (ws : List (List Word)) : sendView (postRq s q ws) q = sendView s q := by
  unfold postRq
  cases hq : tblGet s.te.rqs q with
  | none => rfl
  | some r =>
    dsimp only
    split
    · rfl
    · rw [sendView, sendView, msix_mem, msix_reqs, msix_lanes, msix_te, emitAll_te, tblGet_tblSet_self, hq]
      rfl

/-- A receive queue put back with the same buffers in place. -/
theorem sendView_setRq (s : State) (q : Nat) (r : RecvQ) (c : TeCnt) :
    sendView { s with te := { s.te with rqs := tblSet s.te.rqs q r, cnt := c } } q =
      (s.mem, s.reqs, s.lanes, s.te.sqs, c, some r.bufs) := by
  rw [sendView, tblGet_tblSet_self]
  rfl

theorem putMsg_bufs (r : RecvQ) (x : RxMsg) : (putMsg r x).bufs = r.bufs := rfl

/-- Storing a message's bytes does not look at contexts, meters or what is driven outwards. -/
theorem placeMsg_elsewhere (o : List Out) (p : Pac) (rxs : Tbl RxCtx) (t : Tenant) (bufs : List RxBuffer) (s : State)
    (cs : List Nat) (off : Nat) (bs : List Byte) :
    placeMsg { s with out := o, pac := p, te := { s.te with rxs := rxs } } t bufs cs off bs =
      ({ (placeMsg s t bufs cs off bs).1 with
          out := o, pac := p, te := { (placeMsg s t bufs cs off bs).1.te with rxs := rxs } }, (placeMsg s t bufs cs off bs).2) := by
  induction bufs generalizing s cs off bs with
  | nil => rfl
  | cons b bufs ih =>
    unfold placeMsg
    dsimp only
    split
    · rw [ih]
    · have haddr : localAddr { s with out := o, pac := p, te := { s.te with rxs := rxs } } t b.localKey
          (b.localOff + BitVec.ofNat 48 off) (bs.take (b.len.toNat - off)).length =
          localAddr s t b.localKey (b.localOff + BitVec.ofNat 48 off) (bs.take (b.len.toNat - off)).length := rfl
      rw [haddr]
      cases localAddr s t b.localKey (b.localOff + BitVec.ofNat 48 off) (bs.take (b.len.toNat - off)).length with
      | none =>
        dsimp only
        rw [ih]
      | some a =>
        have hplace := ih (placeData s a (bs.take (b.len.toNat - off))) cs.tail 0 (bs.drop (b.len.toNat - off))
        exact congrArg (fun r : State × List Nat => (r.1, (cs.headD 0 + (bs.take (b.len.toNat - off)).length) :: r.2)) hplace

theorem placeMsg_te (t : Tenant) (bufs : List RxBuffer) (s : State) (cs : List Nat) (off : Nat) (bs : List Byte) :
    let u := (placeMsg s t bufs cs off bs).1
    u.reqs = s.reqs ∧ u.lanes = s.lanes ∧ u.te.sqs = s.te.sqs ∧ u.te.rqs = s.te.rqs ∧ u.te.cnt = s.te.cnt := by
  induction bufs generalizing s cs off bs with
  | nil => exact ⟨rfl, rfl, rfl, rfl, rfl⟩
  | cons b bufs ih =>
    unfold placeMsg
    dsimp only
    split
    · exact ih ..
    · split
      · exact ih (placeData s _ _) ..
      · exact ih ..

/-- A SEND frame of the next message, at its queue. -/
structure NextSend (v : State) (x : RxCtx) (r : RecvQ) (f : Frame) : Prop where
  queue : tblGet v.te.rqs x.queue = some r
  next : f.aux = r.nextMsg
  live : tblGet r.dropped f.aux.toNat = none

section send
variable {v : State} {x : RxCtx} {r : RecvQ} {f : Frame} {h : Hdr} (hs : NextSend v x r f)
include hs

theorem runSend_abandons
    (hclaim : claim ((f.addr.extractLsb' 0 32).toNat + h.len) (getMsg r f.aux).bufs r.bufs = none) :
    ∃ u, runSend v x h f = .dropped u ∧ sendView u x.queue = (v.mem, v.reqs, v.lanes, v.te.sqs,
      { v.te.cnt with rxAbandon := satInc v.te.cnt.rxAbandon }, some []) := by
  obtain ⟨hq, hnext, hlive⟩ := hs
  have hnowait : (f.aux != r.nextMsg && psnLe r.nextMsg f.aux) = false := by simp [hnext]
  simp only [runSend, hq, hlive, hnowait, Bool.false_eq_true, if_false]
  rw [if_pos hnext, hclaim]
  exact ⟨_, rfl, (sendView_postRq ..).trans (sendView_setRq ..)⟩

theorem runSend_places {bufs ring : List RxBuffer}
    (hclaim : claim ((f.addr.extractLsb' 0 32).toNat + h.len) (getMsg r f.aux).bufs r.bufs = some (bufs, ring)) :
    ∃ u, runSend v x h f = .placed u ∧ sendView u x.queue = ((placeMsg v x.tenant bufs ((getMsg r f.aux).written ++
        List.replicate (bufs.length - (getMsg r f.aux).written.length) 0) (f.addr.extractLsb' 0 32).toNat f.payload).1.mem,
      v.reqs, v.lanes, v.te.sqs, v.te.cnt, some ring) := by
  obtain ⟨hq, hnext, hlive⟩ := hs
  have hnowait : (f.aux != r.nextMsg && psnLe r.nextMsg f.aux) = false := by simp [hnext]
  simp only [runSend, hq, hlive, hnowait, Bool.false_eq_true, if_false]
  rw [if_pos hnext, hclaim]
  refine ⟨_, rfl, ?_⟩
  obtain ⟨hreqs, hlanes, hsqs, -, hcnt⟩ := placeMsg_te x.tenant bufs v ((getMsg r f.aux).written ++
    List.replicate (bufs.length - (getMsg r f.aux).written.length) 0) (f.addr.extractLsb' 0 32).toNat f.payload
  generalize placeMsg v x.tenant bufs _ _ f.payload = P at *
  have hset (q : RecvQ) (hq : q.bufs = ring) : sendView { P.1 with te := { P.1.te with rqs := tblSet P.1.te.rqs x.queue q } } x.queue =
      (P.1.mem, v.reqs, v.lanes, v.te.sqs, v.te.cnt, some ring) := by
    rw [← hreqs, ← hlanes, ← hsqs, ← hcnt, ← hq]
    exact sendView_setRq P.1 x.queue q P.1.te.cnt
  split
  · split
    · exact (sendView_postRq ..).trans (hset _ rfl)
    · exact (sendView_postRq ..).trans (hset _ rfl)
  · exact hset _ rfl

end send

theorem len_of_headOk {s : State} {f : Frame} {op : Byte} (h : HeadOk s f op) : (parseHdr s f).len = f.payload.length := by
  have hsound : malformed (parseHdr s f) f op = false := by
    by_contra hbad
    have hcheck := h.2
    rw [headCheck, if_pos (by simpa using hbad)] at hcheck
    cases hcheck
  simp only [malformed, Bool.or_eq_false_iff, decide_eq_false_iff_not, not_not] at hsound
  exact hsound.1.1.1.2

/-- A SEND runs at its queue: what it stored there is counted, what it abandoned is answered. -/
theorem runFrame_send {s v : State} {f : Frame} {x y : RxCtx} (hin : RunsIn s f x v y) (hop : (parseHdr s f).op = opSend) :
    (∀ u, runSend v y (parseHdr s f) f = .placed u →
      runFrame v (parseHdr s f).dstCh.toNat f = some (notified (parseHdr s f) y u)) ∧
    (∀ u, runSend v y (parseHdr s f) f = .dropped u →
      runFrame v (parseHdr s f).dstCh.toNat f = some (sendNack u (parseHdr s f) 0x0B 100)) := by
  have hwrite : ¬ opSend = opWrite := by decide
  have hread : ¬ opSend = opReadReq := by decide
  refine ⟨fun u hu => ?_, fun u hu => ?_⟩
  · rw [runFrame, hin.ctx]
    simp only [hin.parse, hop, hwrite, hread, if_true, if_false, hu]
    rfl
  · rw [runFrame, hin.ctx]
    simp only [hin.parse, hop, hwrite, hread, if_true, if_false, hu]

section accepted
variable {s : State} {f : Frame} {x : RxCtx} {r : RecvQ} (h : RunsRequest s f opSend x) (hq : tblGet s.te.rqs x.queue = some r)
  (hnext : f.aux = r.nextMsg) (hlive : tblGet r.dropped f.aux.toNat = none)
include h hq hnext hlive

/-- The SEND that runs does so as the next message of its queue, and its answer leaves what the queue made of it. -/
theorem rxRequest_send : ∃ v y, RunsIn s f x v y ∧ NextSend v y r f ∧ y.queue = x.queue ∧ y.tenant = x.tenant ∧
    ∀ u, (runSend v y (parseHdr s f) f = .placed u ∨ runSend v y (parseHdr s f) f = .dropped u) →
      sendView (rxRequest s f opSend) x.queue = sendView u x.queue := by
  have hsend : opSend = opSend → ∀ r', tblGet s.te.rqs x.queue = some r' → f.aux = r'.nextMsg := by
    intro _ r' hr'
    rw [hq] at hr'
    cases hr'
    exact hnext
  obtain ⟨v, y, hin, hviews⟩ := rxRequest_views h hsend
  obtain ⟨hplaced, hdropped⟩ := runFrame_send hin (op_of_headOk h.1.1)
  have hctx : y.queue = x.queue ∧ y.tenant = x.tenant := by
    obtain ⟨-, -, _, _, _, _, rfl⟩ := hin
    exact ⟨rfl, rfl⟩
  obtain ⟨-, -, -, -, -, -, hrqs, -⟩ := requestView_eq_iff.1 hin.view
  refine ⟨v, y, hin, ⟨by rw [hrqs, hctx.1, hq], hnext, hlive⟩, hctx.1, hctx.2, fun u hu => ?_⟩
  obtain hu | hu := hu
  · exact sendView_of_requestView ((hviews _ (hplaced u hu)).1.trans (notified_requestView ..)) _
  · exact sendView_of_requestView ((hviews _ (hdropped u hu)).1.trans (requestView_of_sansLoose (sendNack_sansLoose ..))) _

end accepted

theorem placeMsg_mem_of_runsIn {s v : State} {f : Frame} {x y : RxCtx} (h : RunsIn s f x v y) (t : Tenant) (bufs : List RxBuffer)
    (cs : List Nat) (off : Nat) (bs : List Byte) : (placeMsg v t bufs cs off bs).1.mem = (placeMsg s t bufs cs off bs).1.mem := by
  obtain ⟨⟨o, p, rxs, -, hv⟩, -, -⟩ := h
  rw [hv, placeMsg_elsewhere]

theorem sendView_eq_iff {t : State} {q : Nat} {m : Mems} {r : List Req} {l : Vector Lane 12} {sq : Tbl SendQ} {c : TeCnt}
    {bs : Option (List RxBuffer)} : sendView t q = (m, r, l, sq, c, bs) ↔
      t.mem = m ∧ t.reqs = r ∧ t.lanes = l ∧ t.te.sqs = sq ∧ t.te.cnt = c ∧ (tblGet t.te.rqs q).map (·.bufs) = bs := by
  simp only [sendView, Prod.mk.injEq]

/-- Settles O43: the frame runs at its queue, whose claim covers the message's next bytes or runs dry. -/
theorem sendsFillBuffers : Obligations.SendsFillBuffers := by
  intro s f x r h hq hnext hlive off msg
  obtain ⟨v, y, hin, hat, hqueue, hten, hview⟩ := rxRequest_send h hq hnext hlive
  obtain ⟨hmem, hreqs, hlanes, -, -, hsqs, -, -, hcnt⟩ := requestView_eq_iff.1 hin.view
  rw [← len_of_headOk h.1.1]
  refine ⟨fun bufs ring hclaim => ⟨_, rfl, ?_⟩, fun hclaim => ⟨_, rfl, ?_⟩⟩
  · obtain ⟨u, hrun, hu⟩ := runSend_places hat hclaim
    rw [hqueue, hten, placeMsg_mem_of_runsIn hin, hreqs, hlanes, hsqs, ← hview u (.inl hrun)] at hu
    obtain ⟨hm, hr, hl, hs, -, hb⟩ := sendView_eq_iff.1 hu
    exact ⟨hm, hb, hr, hl, hs⟩
  · obtain ⟨u, hrun, hu⟩ := runSend_abandons hat hclaim
    rw [hqueue, hmem, hreqs, hlanes, hsqs, hcnt, ← hview u (.inr hrun)] at hu
    obtain ⟨hm, hr, hl, hs, hc, hb⟩ := sendView_eq_iff.1 hu
    exact ⟨hm, hb, congrArg TeCnt.rxAbandon hc, hr, hl, hs⟩

end Sys2Proof.Machine
end

section
/-! PROOFS. Responses, acknowledgements and NACKs (O45): what each does to its operation. -/
namespace Sys2Proof.Machine
open Sys2Proof

theorem chanOf_taken (s : State) (f : Frame) (d : DevId) (ch : BitVec 14) : chanOf (taken s f) d ch = chanOf s d ch := by
  rw [chanOf, chanOf, te_taken]

theorem getSq_taken (s : State) (f : Frame) (q : Nat) : getSq (taken s f) q = getSq s q := by rw [getSq, getSq, te_taken]

theorem tenantCheck_taken (s : State) (f : Frame) : tenantCheck (taken s f) f = tenantCheck s f := by
  obtain ⟨o, ho⟩ := taken_frame s f
  exact (congrArg (tenantCheck · f) ho :)

/-! ## Responses -/

/-- A response that passes its checks is placed for its operation. -/
theorem rxResponse_runs {s : State} {f : Frame} {op : Byte} {q : Nat} {x : SendQ} {o : TxOp} (h : RunsResponse s f op q x o) :
    rxResponse s f op = placeResponse (meterFrame (taken s f) f x.tenant).2 q x o f := by
  obtain ⟨⟨ha, hhead⟩, hchan, hsq, hten, hcheck, hreq, hlen, hcol⟩ := h
  have hown : (x.tenant != frameTenant f) = false := by simp [hten]
  rw [← meterFrame_taken] at hcol
  unfold rxResponse
  rw [arrive_taken ha]
  simp only [parseHdr_taken, headCheck_taken, hhead, chanOf_taken, hchan, getSq_taken, hsq, hown, tenantCheck_taken, hcheck, hreq,
    Nat.not_lt.2 hlen, Bool.false_eq_true, if_false]
  generalize meterFrame (taken s f) f x.tenant = m at hcol ⊢
  exact if_neg hcol

/-- The state in which a response is placed: its bytes are metered. -/
theorem metered_frame (s : State) (f : Frame) (t : Tenant) :
    ∃ o p, (meterFrame (taken s f) f t).2 = { s with out := o, pac := p } := by
  obtain ⟨o, ho⟩ := taken_frame s f
  obtain ⟨p, hp⟩ := meterFrame_frame (taken s f) f t
  exact ⟨o, p, by rw [hp, ho]⟩

theorem endOp_mem (s : State) (q : Nat) (o : TxOp) (code : Finish) : (endOp s q o code).mem = s.mem := (endOp_mems ..).1

/-- A response that lands at an address stores its bytes there. -/
theorem placeResponse_mem {s : State} {q : Nat} {x : SendQ} {o : TxOp} {f : Frame} {a : Nat}
    (h : localAddr s x.tenant o.desc.localKey (o.desc.localOff + BitVec.ofNat 48 (if o.desc.op = opReadReq then f.addr.toNat else 0))
      f.payload.length = some a) :
    (placeResponse s q x o f).mem = { s.mem with data := memStore s.mem.data a f.payload } := by
  unfold placeResponse
  dsimp only
  generalize (if o.desc.op = opReadReq then f.addr.toNat else 0) = off at h ⊢
  rw [h]
  dsimp only
  split
  · rw [(pumpAll_mems _).1, endOp_mem]
    rfl
  · rfl

/-- What a response leaves before it is placed, and where it is placed. -/
theorem response_placed {s : State} {f : Frame} {q : Nat} {x : SendQ} {o : TxOp} :
    let u := (meterFrame (taken s f) f x.tenant).2
    u.mem = s.mem ∧ u.te.sqs = s.te.sqs ∧ ∀ a, localAddr s x.tenant o.desc.localKey
      (o.desc.localOff + BitVec.ofNat 48 (if o.desc.op = opReadReq then f.addr.toNat else 0)) f.payload.length = some a →
      (placeResponse u q x o f).mem = { s.mem with data := memStore s.mem.data a f.payload } := by
  obtain ⟨p, r, hu⟩ := metered_frame s f x.tenant
  dsimp only
  rw [hu]
  exact ⟨rfl, rfl, fun a ha => placeResponse_mem ha⟩

/-! ## Acknowledgements and NACKs -/

/-- An ACK or NACK of a channel in use has its effect. -/
theorem rxAckLike_runs {s : State} {f : Frame} {op : Byte} (h : RunsAck s f op) (k : State → Hdr → State) :
    rxAckLike s f op k = k (taken s f) (parseHdr s f) := by
  obtain ⟨⟨ha, hhead⟩, hkey, hknown⟩ := h
  have hkey' : (!isRelay f.port.val && f.kgen != s.te.sysKgen) = false := by
    obtain hrelay | hgen := hkey
    · simp [hrelay]
    · simp [hgen]
  have hknown' : (!if (parseHdr s f).dstCh = sysCh then (tblGet s.te.sysTx (parseHdr s f).src.toNat).isSome
      else (chanOf s (parseHdr s f).src (parseHdr s f).dstCh).isSome) = false := by
    split
    · next hch => rw [if_pos hch] at hknown; rw [hknown]; rfl
    · next hch => rw [if_neg hch] at hknown; rw [hknown]; rfl
  unfold rxAckLike
  rw [arrive_taken ha]
  simp only [parseHdr_taken, headCheck_taken, hhead, te_taken, chanOf_taken, hknown', hkey', Bool.false_eq_true, if_false]

section
variable {s : State} {f : Frame} {q : Nat}

theorem exec_ack_queue (h : RunsAck s f opAck) (hch : (parseHdr s f).dstCh ≠ sysCh)
    (hq : chanOf s (parseHdr s f).src (parseHdr s f).dstCh = some q) : exec (.ack f) s = .next (ackQueue (taken s f) q f) := by
  change execAck f s = _
  simp only [execAck, rxAckLike_runs h, hch, if_false, chanOf_taken, hq]

theorem exec_ack_peer (h : RunsAck s f opAck) (hch : (parseHdr s f).dstCh = sysCh) :
    exec (.ack f) s = .next (ackPeer (taken s f) (parseHdr s f).src f) := by
  change execAck f s = _
  simp only [execAck, rxAckLike_runs h, hch, if_true]

theorem exec_nack_queue (h : RunsAck s f opNack) (hch : (parseHdr s f).dstCh ≠ sysCh)
    (hq : chanOf s (parseHdr s f).src (parseHdr s f).dstCh = some q) (hcode : f.payload.headD 0 ≠ 0x0C) :
    exec (.nack f) s = .next (nackQueue (taken s f) q f.aux (f.payload.headD 0) (operand f.payload 4).toNat) := by
  change execNack f s = _
  simp only [execNack, rxAckLike_runs h, hch, if_false, chanOf_taken, hq, hcode, decide_false, Bool.false_and, Bool.false_eq_true]

theorem exec_nack_fences {y : SysTx} (h : RunsAck s f opNack) (hch : (parseHdr s f).dstCh = sysCh)
    (hy : tblGet s.te.sysTx (parseHdr s f).src.toNat = some y) (hnone : ∀ g ∈ y.unacked, g.psn ≠ f.aux)
    (hcode : f.payload.headD 0 = 0x0C) (hopen : isFenced s = false) : ∃ v : Word, exec (.nack f) s =
      .next (fenceSelf { taken s f with free := s.free + 1 } s.mpl.epoch (v.getLsbD 0)) := by
  obtain ⟨o, ho⟩ := taken_frame s f
  have hfind : y.unacked.find? (fun g => g.psn == f.aux) = none := by
    simpa [List.find?_eq_none] using hnone
  have hstray : nackSys (taken s f) (parseHdr s f).src f.aux 0x0C = taken s f := by
    rw [nackSys, te_taken, hy]
    simp only [hfind]
  have hopen' : isFenced (taken s f) = false := by
    rw [ho]
    exact hopen
  refine ⟨Config.freeWord (taken s f).free, ?_⟩
  change execNack f s = _
  simp only [execNack, rxAckLike_runs h, hch, if_true, hcode, hstray, hopen', decide_true, Bool.not_false, Bool.and_self, takeFree]
  rw [ho]

end

/-! ## A NACK at its operation -/

section nack
variable {s : State} {q : Nat} {x : SendQ} {o : TxOp} {psn : Word} {us : Nat} (hsq : getSq s q = some x)
  (hop : x.ops.find? (fun o => opHas o psn) = some o)
include hsq hop

theorem nackQueue_ends {code : Byte} {fin : Finish} (hfin : nackFinish code = some fin) :
    nackQueue s q psn code us = pumpAll (endOp (putSq s q { x with
      ops := x.ops.map fun y => if y = o then { o with lastNack := code } else y }) q { o with lastNack := code } fin) := by
  simp only [nackQueue, hsq, hop, hfin]

theorem nackQueue_faults : nackQueue s q psn 0x0A us = putSq s q { x with
    ops := x.ops.map fun y => if y = o then { o with lastNack := 0x0A, faulted := true } else y
    unacked := x.unacked.map fun g => if g.psn = psn then faultFrame s.clk.now us g else g } := by
  have hnone : nackFinish 0x0A = none := by decide
  simp only [nackQueue, hsq, hop, hnone, if_true]

theorem nackQueue_again (htries : o.retries < 7) : nackQueue s q psn 0x0B us = putSq s q { x with
    ops := x.ops.map fun y => if y = o then reformMsg o 0x0B (s.clk.now + 1000 * us) else y
    unacked := x.unacked.filter fun g => !opHas o g.psn } := by
  have hnone : nackFinish 0x0B = none := by decide
  have hne : ¬ (0x0B : Byte) = 0x0A := by decide
  simp only [nackQueue, hsq, hop, hnone, hne, Nat.not_le.2 htries, if_true, if_false]

theorem nackQueue_refused (htries : 7 ≤ o.retries) : nackQueue s q psn 0x0B us = pumpAll (endOp (putSq s q { x with
    ops := x.ops.map fun y => if y = o then { o with lastNack := 0x0B } else y }) q { o with lastNack := 0x0B } .refused) := by
  have hnone : nackFinish 0x0B = none := by decide
  have hne : ¬ (0x0B : Byte) = 0x0A := by decide
  simp only [nackQueue, hsq, hop, hnone, hne, htries, if_true, if_false]

end nack

/-- Settles O45: one lemma for a response, one for each acknowledgement, and one for each code of a NACK. -/
theorem responsesAndAcknowledgements : Obligations.ResponsesAndAcknowledgements := by
  refine ⟨fun s f q x o => ⟨fun h => ?_, fun h => ?_⟩, fun s f => ⟨fun q h hch hq => exec_ack_queue h hch hq, exec_ack_peer,
    fun q h hch hq hcode => exec_nack_queue h hch hq hcode, fun y h hch hy hnone hcode hopen =>
      exec_nack_fences h hch hy hnone hcode hopen⟩,
    fun s q x o psn us hsq hop => ⟨fun code fin hfin => nackQueue_ends hsq hop hfin, nackQueue_faults hsq hop,
      nackQueue_again hsq hop, nackQueue_refused hsq hop⟩⟩
  · obtain ⟨hmem, hsqs, hplaced⟩ := response_placed (s := s) (f := f) (q := q) (x := x) (o := o)
    exact ⟨congrArg _ (rxResponse_runs h), hmem, hsqs, hplaced⟩
  · obtain ⟨hmem, hsqs, hplaced⟩ := response_placed (s := s) (f := f) (q := q) (x := x) (o := o)
    refine ⟨congrArg _ (rxResponse_runs h), hmem, hsqs, fun a ha hne => hplaced a ?_⟩
    rw [if_neg hne]
    simpa using ha

end Sys2Proof.Machine
end

section

/-!
PROOFS. What the end of a lane's work leaves of every lane: its state, the cause of its retirement, whether its stack is open, its
memory controller and its test engine. Requests that fail, legs that end, spares and shares that go touch none of these
(`f_fates`). Each is said once, in the order of the model's files.
-/

namespace Sys2Proof.Machine

open Sys2Proof

/-- What only a lane's own life cycle changes: its state and cause, its stack's controller and opening, and its test engine. -/
def laneFate (l : Lane) : LaneCtl × Byte × Bool × LaneHbc × LaneMch := (l.ctl, l.cause, l.dataOpen, l.hbc, l.mch)

/-- The fate of every lane. -/
def fates (v : Vector Lane 12) (n : LaneNo) : LaneCtl × Byte × Bool × LaneHbc × LaneMch := laneFate (v.get n)

/-- Two states have the same fates of their lanes. -/
@[simp] abbrev SameFates (s t : State) : Prop := fates t.lanes = fates s.lanes

theorem fates_of_sansTransport {s t : State} (h : sansTransport t = sansTransport s) : SameFates s t :=
  (congrArg (fun u : State => fates u.lanes) h :)

@[simp] theorem fates_ite_lanes (c : Prop) [Decidable c] (s t : State) :
    fates (if c then s else t).lanes = if c then fates s.lanes else fates t.lanes :=
  apply_ite (fun u : State => fates u.lanes) ..

@[simp] theorem foldl_fates {α : Type} (f : State → α → State) (xs : List α) (s : State)
    (h : ∀ s x, fates (f s x).lanes = fates s.lanes) : SameFates s (xs.foldl f s) :=
  foldl_keeps (fun s => fates s.lanes) f h xs s

theorem fates_foldl {α : Type} {f : State → α → State} (h : ∀ s x, SameFates s (f s x)) (xs : List α) (s : State) :
    SameFates s (xs.foldl f s) := foldl_fates f xs s h

theorem fates_vset {v : Vector Lane 12} {n : LaneNo} {l : Lane} (h : laneFate l = laneFate (v.get n)) :
    fates (vset v n l) = fates v := by
  funext k
  by_cases hk : k = n
  · rw [hk, fates, fates, vset_get_self, h]
  · rw [fates, fates, vset_get_ne _ _ _ _ hk]

theorem modLane_sameFates (s : State) (n : LaneNo) (f : Lane → Lane) (h : laneFate (f (laneOf s n)) = laneFate (laneOf s n)) :
    SameFates s (modLane s n f) := fates_vset h

@[simp] theorem modLane_fates (s : State) (n : LaneNo) (f : Lane → Lane) (hctl : (f (laneOf s n)).ctl = (laneOf s n).ctl)
    (hcause : (f (laneOf s n)).cause = (laneOf s n).cause) (hopen : (f (laneOf s n)).dataOpen = (laneOf s n).dataOpen)
    (hhbc : (f (laneOf s n)).hbc = (laneOf s n).hbc) (hmch : (f (laneOf s n)).mch = (laneOf s n).mch) :
    SameFates s (modLane s n f) := by
  refine fates_vset ?_
  change laneFate (f (laneOf s n)) = laneFate (laneOf s n)
  rw [laneFate, laneFate, hctl, hcause, hopen, hhbc, hmch]

theorem modReq_fates (s : State) (b f) : SameFates s (modReq s b f) := rfl
theorem modLeg_fates (s : State) (i f) : SameFates s (modLeg s i f) := rfl
theorem setCtx_fates (s : State) (t c) : SameFates s (setCtx s t c) := rfl
theorem completeB_fates (s : State) (h op c r b) : SameFates s (completeB s h op c r b) := by simp

/-! ### Machine/Wire -/

@[simp] theorem pumpLoose_fates (s) : SameFates s (pumpLoose s) := fates_of_sansTransport (pumpLoose_sansTransport ..)
@[simp] theorem sendLoose_fates (s port f) : SameFates s (sendLoose s port f) :=
  fates_of_sansTransport (sendLoose_sansTransport ..)

@[simp] theorem countRetx_fates (s) : SameFates s (countRetx s) := rfl
@[simp] theorem resendWaiting_fates (s d leg) : SameFates s (resendWaiting s d leg) :=
  fates_of_sansTransport (resendWaiting_sansTransport ..)

@[simp] theorem formAll_fates (s d leg n) : SameFates s (formAll s d leg n) :=
  fates_of_sansTransport (formAll_sansTransport ..)

@[simp] theorem pumpSys_fates (s d leg n) : SameFates s (pumpSys s d leg n) :=
  fates_of_sansTransport (pumpSys_sansTransport ..)

@[simp] theorem sysGive_fates (s f) : SameFates s (sysGive s f) := fates_of_sansTransport (sysGive_sansTransport ..)
@[simp] theorem sysSendF_fates (s dst op flags aux addr payload) : SameFates s (sysSendF s dst op flags aux addr payload) :=
  fates_of_sansTransport (sysSendF_sansTransport ..)

@[simp] theorem sysSend_fates (s dst op aux addr payload) : SameFates s (sysSend s dst op aux addr payload) :=
  fates_of_sansTransport (sysSend_sansTransport ..)

/-! ### Machine/MarLog -/

@[simp] theorem marSend_fates (s dst m entry) : SameFates s (marSend s dst m entry) := by simp [marSend]
@[simp] theorem marLog_fates (s ev lane subject core detail) : SameFates s (marLog s ev lane subject core detail) := by
  simp [marLog]

/-! ### Machine/Kv -/

@[simp] theorem freeSlot_fates (s n k) : SameFates s (freeSlot s n k) := by
  unfold freeSlot
  exact modLane_sameFates _ _ _ (by
    split
    · rfl
    · rfl)

@[simp] theorem freeSlots_fates (s n ks) : SameFates s (freeSlots s n ks) := by simp [freeSlots]
@[simp] theorem freeCell_fates (s n k) : SameFates s (freeCell s n k) := by
  unfold freeCell
  exact modLane_sameFates _ _ _ (by
    split
    · rfl
    · rfl)

@[simp] theorem freeEnt_fates (s n e) : SameFates s (freeEnt s n e) := by simp [freeEnt]
@[simp] theorem missReq_fates (s b c) : SameFates s (missReq s b c) := rfl
@[simp] theorem discardPages_fates (s n b) : SameFates s (discardPages s n b) := by unfold discardPages; split <;> simp

/-! ### Machine/Streams -/

@[simp] theorem finalCpl_fates (s r code reason pos) : SameFates s (finalCpl s r code reason pos) := by simp [finalCpl]

/-! ### Machine/ReqOps -/

@[simp] theorem unqueue_fates (s b) : SameFates s (unqueue s b) := by unfold unqueue; (repeat' split) <;> simp
@[simp] theorem dirChange_fates (s n add b) : SameFates s (dirChange s n add b) := modLane_sameFates _ _ _ rfl
@[simp] theorem completeCmd_fates (s b op h code) : SameFates s (completeCmd s b op h code) := by simp [completeCmd]
@[simp] theorem completeEach_fates (s b xs code) : SameFates s (completeEach s b xs code) := by simp [completeEach]
@[simp] theorem endCmds_fates (s b code) : SameFates s (endCmds s b code) := by unfold endCmds; split <;> simp
@[simp] theorem ungrant_fates (s n a b) : SameFates s (ungrant s n a b) := by
  unfold ungrant
  simp

@[simp] theorem dropReplayLegs_fates (s b) : SameFates s (dropReplayLegs s b) := by
  refine fates_foldl (fun s g => ?_) _ s
  simp [dropLeg]

@[simp] theorem endAudit_fates (s b code) : SameFates s (endAudit s b code) := by
  unfold endAudit
  (repeat' split) <;> simp

@[simp] theorem setPhase_fates (s b p) : SameFates s (setPhase s b p) := rfl

/-! ### Machine/LegOps -/

@[simp] theorem freeItem_fates (s n it ks) : SameFates s (freeItem s n it ks) := by simp [freeItem]
@[simp] theorem freeTierSpace_fates (s t) : SameFates s (freeTierSpace s t) := by unfold freeTierSpace; split <;> simp
@[simp] theorem btnMsg_fates (s dst leg kind ws) : SameFates s (btnMsg s dst leg kind ws) :=
  fates_of_sansTransport (btnMsg_sansTransport ..)

@[simp] theorem legMsg_fates (s g kind a b c) : SameFates s (legMsg s g kind a b c) :=
  fates_of_sansTransport (legMsg_sansTransport ..)

@[simp] theorem clearControl_fates (s g blocks) : SameFates s (clearControl s g blocks) := by simp [clearControl]
@[simp] theorem clearData_fates (s g pages grans) : SameFates s (clearData s g pages grans) := by simp [clearData]
@[simp] theorem clearPage_fates (s g k a b) : SameFates s (clearPage s g k a b) :=
  fates_of_sansTransport (clearPage_sansTransport ..)

@[simp] theorem clearLeg_fates (n s m) : SameFates s (clearLeg n s m) :=
  fates_of_sansTransport (clearLeg_sansTransport ..)

@[simp] theorem testWaiting_fates (s xs ys) : SameFates s (testWaiting s xs ys).1 :=
  fates_of_sansTransport (testWaiting_sansTransport ..)

@[simp] theorem retest_fates (s) : SameFates s (retest s) := fates_of_sansTransport (retest_sansTransport ..)
@[simp] theorem takeBlocks_fates (s) : SameFates s (takeBlocks s).2 := by
  unfold takeBlocks
  rfl

@[simp] theorem giveBlocks_fates (s i) : SameFates s (giveBlocks s i) := by
  unfold giveBlocks
  split
  · rfl
  · dsimp only
    split
    · exact (clearControl_fates ..).trans (takeBlocks_fates s)
    · rfl

@[simp] theorem regrantBlocks_fates (s) : SameFates s (regrantBlocks s) := by simp [regrantBlocks]
@[simp] theorem freeBlocks_fates (s g) : SameFates s (freeBlocks s g) := by simp [freeBlocks]
@[simp] theorem dirDrop_fates (s n b) : SameFates s (dirDrop s n b) := by simp [dirDrop]
@[simp] theorem clearStaged_fates (s i) : SameFates s (clearStaged s i) := rfl
@[simp] theorem freeLegSpace_fates (s g) : SameFates s (freeLegSpace s g) := by simp [freeLegSpace]
@[simp] theorem legCpl_fates (s b code) : SameFates s (legCpl s b code) := by simp [legCpl]
@[simp] theorem takeUp_fates (s b) : SameFates s (takeUp s b) := by unfold takeUp; (repeat' split) <;> simp
@[simp] theorem afterAbort_fates (s g code b) : SameFates s (afterAbort s g code b) := by
  unfold afterAbort
  split <;> simp

@[simp] theorem swapEnd_fates (s) : SameFates s (swapEnd s) := by simp [swapEnd]
@[simp] theorem swapLost_fates (s g code) : SameFates s (swapLost s g code) := by simp [swapLost]
@[simp] theorem endPull_fates (s p code) : SameFates s (endPull s p code) := by simp [endPull]
@[simp] theorem afterRemoteAbort_fates (s g code) : SameFates s (afterRemoteAbort s g code) := by simp [afterRemoteAbort]
@[simp] theorem abortLeg_fates (s g code tell) : SameFates s (abortLeg s g code tell) := by simp [abortLeg]

/-! ### Machine/LaneOps -/

@[simp] theorem failQueued_fates (s code b) : SameFates s (failQueued s code b) := by unfold failQueued; split <;> simp
@[simp] theorem failQueues_fates (s n code) : SameFates s (failQueues s n code) := by simp [failQueues]
@[simp] theorem missLap_fates (s n b) : SameFates s (missLap s n b) := by simp [missLap]
@[simp] theorem clearMiss_fates (s bs) : SameFates s (clearMiss s bs) := fates_foldl (fun s b => modReq_fates s b _) bs s
@[simp] theorem discardReplays_fates (s n) : SameFates s (discardReplays s n) := by
  unfold discardReplays
  rfl

@[simp] theorem missAll_fates (s n) : SameFates s (missAll s n) := by simp [missAll]
@[simp] theorem loseLap_fates (s n) : SameFates s (loseLap s n) := by simp [loseLap]
@[simp] theorem loseShare_fates (s b) : SameFates s (loseShare s b) := by unfold loseShare; split <;> simp
@[simp] theorem loseShares_fates (s n) : SameFates s (loseShares s n) := by simp [loseShares]
@[simp] theorem abortLaneLegs_fates (s n code) : SameFates s (abortLaneLegs s n code) := by simp [abortLaneLegs]
@[simp] theorem returnSpares_fates (s n) : SameFates s (returnSpares s n) := modLane_sameFates { s with mar := _ } _ _ rfl
@[simp] theorem logCore_fates (s n core spare) : SameFates s (logCore s n core spare) := by simp [logCore]

end Sys2Proof.Machine
end

section
/-! PROOFS. Failed cores, lanes and die links (O36): what a retirement makes of its lane and of no other. -/
namespace Sys2Proof.Machine
open Sys2Proof

/-! ## Cores -/

theorem logCore_steady (s : State) (lane core spare : Nat) : Steady s (logCore s lane core spare) := marLog_steady ..

theorem substitute_steady (s : State) (n : LaneNo) (i core : Nat) : Steady s (substitute s n i core) := by
  have hspent (u : State) (v : Vector (List Nat) 4) : Steady u { u with mar := { u.mar with spares := v } } :=
    ⟨rfl, rfl, rfl, rfl, rfl, rfl⟩
  unfold substitute
  extract_lets d u
  have hlost : Steady s u := modLane_steady ..
  split
  · exact steady_trans hlost (steady_trans (logCore_steady ..) (retireLane_steady ..))
  · exact steady_trans hlost (steady_trans (hspent ..) (steady_trans (modLane_steady ..) (logCore_steady ..)))

/-- What follows the record of a failed core leaves the fuses and that record. -/
theorem coreFails_steady {s : State} {d : Fin 4} {core : Nat} (hcore : core < 74)
    (hnew : (s.fus.coreFailed.get d).getLsbD core = false) : Steady (recordCore s d core) (coreFails s d core) := by
  have hgo : (decide (74 ≤ core) || fusesCore s d core) = false := by
    rw [decide_eq_false (Nat.not_le.2 hcore), Bool.false_or]
    exact hnew
  unfold coreFails
  rw [hgo, if_neg Bool.false_ne_true]
  dsimp only
  split
  · exact logCore_steady ..
  · split
    · exact substitute_steady ..
    · split
      · exact substitute_steady ..
      · exact ⟨rfl, rfl, rfl, rfl, rfl, rfl⟩

theorem coreFails_known {s : State} {d : Fin 4} {core : Nat} (h : 74 ≤ core ∨ (s.fus.coreFailed.get d).getLsbD core = true) :
    coreFails s d core = s := by
  refine if_pos ?_
  obtain h | h := h
  · rw [decide_eq_true h, Bool.true_or]
  · rw [fusesCore, h, Bool.or_true]

theorem recordCore_fuse (s : State) (d : Fin 4) (core : Nat) : let t := recordCore s d core
    t.fus.coreFailed.get d = s.fus.coreFailed.get d ||| (1 <<< core) ∧
      (∀ k, k ≠ d → t.fus.coreFailed.get k = s.fus.coreFailed.get k) ∧ t.mar.lastFailed.get d = BitVec.ofNat 8 core :=
  ⟨vmod_get_self .., fun _ hk => vmod_get_ne _ _ _ _ hk, vset_get_self ..⟩

/-- A core newly found failed is recorded, and nothing that was recorded is lost. -/
theorem coreFails_records {s : State} {d : Fin 4} {core : Nat} (hcore : core < 74)
    (hnew : (s.fus.coreFailed.get d).getLsbD core = false) : let t := coreFails s d core
    (t.fus.coreFailed.get d).getLsbD core = true ∧
      (∀ k, (s.fus.coreFailed.get d).getLsbD k = true → (t.fus.coreFailed.get d).getLsbD k = true) ∧
      (∀ k, k ≠ d → t.fus.coreFailed.get k = s.fus.coreFailed.get k) ∧ t.mar.lastFailed.get d = BitVec.ofNat 8 core := by
  obtain ⟨-, -, -, hfus, -, hlast⟩ := coreFails_steady hcore hnew
  obtain ⟨hfuse, hother, hcored⟩ := recordCore_fuse s d core
  have hbit : ((1 <<< core : Nat) : BitVec 74).getLsbD core = true := by
    simp [BitVec.getLsbD_ofNat, Nat.testBit_shiftLeft, hcore]
  dsimp only
  rw [hfus, hlast, hfuse]
  refine ⟨?_, fun k hk => ?_, hother, hcored⟩
  · rw [BitVec.getLsbD_or, hbit, Bool.or_true]
  · rw [BitVec.getLsbD_or, hk, Bool.true_or]

/-! ## A lane that retires -/

/-- The fate of one lane after a change to another. -/
theorem laneFate_of_fates {s t : State} (h : SameFates s t) (n : LaneNo) : laneFate (laneOf t n) = laneFate (laneOf s n) :=
  congrFun h n

theorem completeAll_lanes (s : State) (hs : List HostHdr) (op : Byte) (code : Finish) : (completeAll s hs op code).lanes = s.lanes :=
  foldl_keeps State.lanes _ (fun _ _ => complete_lanes ..) _ _

theorem failLaneCmds_lanes (s : State) (n : LaneNo) (code : Finish) : (failLaneCmds s n code).lanes =
    (modLane s n fun l => { l with
      drainReq := false, serveReq := false, drainCmds := [], serveCmds := [], stagingCmd := none, variantReady := none
      mch := { l.mch with cmd := none } }).lanes := by
  unfold failLaneCmds
  dsimp only
  split
  · split <;> simp [completeAll_lanes]
  · split <;> simp [completeAll_lanes]

/-- The parts of a lane's fate that its retirement sets. -/
def retirement (l : Lane) : LaneCtl × Byte × Bool := (l.ctl, l.cause, l.dataOpen)

theorem retirement_of_laneFate {l m : Lane} (h : laneFate l = laneFate m) : retirement l = retirement m := by
  simp only [laneFate, Prod.mk.injEq] at h
  obtain ⟨hctl, hcause, hopen, -⟩ := h
  rw [retirement, retirement, hctl, hcause, hopen]

theorem laneOf_of_lanes {s t : State} (h : t.lanes = s.lanes) (n : LaneNo) : laneOf t n = laneOf s n :=
  congrArg (fun v : Vector Lane 12 => v.get n) h

/-- The state of a lane that begins to retire: its lap is lost, its spares are back and its commands have failed. -/
def workLost (s : State) (n : LaneNo) : State := failLaneCmds (returnSpares (loseLap s n) n) n .laneRetired

/-- The lane that is retired. -/
def retired (cause : Byte) (stackOpen : Bool) (l : Lane) : Lane :=
  { l with
    ctl := .retired, cause := cause, dataOpen := stackOpen && l.hbc.trained, build := .none
    tables := { l.tables with repl := none }
    mch := if l.mch.busy then { l.mch with busy := false, result := finishCode .laneRetired } else l.mch
    st := { l.st with hardRun := 0 } }

theorem laneOf_workLost (s : State) (n k : LaneNo) :
    retirement (laneOf (workLost s n) k) = retirement (laneOf s k) ∧ (laneOf (workLost s n) k).hbc = (laneOf s k).hbc := by
  have hkept : SameFates s (returnSpares (loseLap s n) n) := (returnSpares_fates ..).trans (loseLap_fates ..)
  have hfate := laneFate_of_fates hkept k
  have hlane := laneOf_of_lanes (failLaneCmds_lanes (returnSpares (loseLap s n) n) n .laneRetired) k
  have hboth : retirement (laneOf (workLost s n) k) = retirement (laneOf (returnSpares (loseLap s n) n) k) ∧
      (laneOf (workLost s n) k).hbc = (laneOf (returnSpares (loseLap s n) n) k).hbc := by
    rw [workLost, hlane]
    by_cases hk : k = n
    · rw [hk, laneOf_modLane_self]
      exact ⟨rfl, rfl⟩
    · rw [laneOf_modLane_ne _ n k _ hk]
      exact ⟨rfl, rfl⟩
  refine ⟨hboth.1.trans (retirement_of_laneFate hfate), hboth.2.trans ?_⟩
  simp only [laneFate, Prod.mk.injEq] at hfate
  exact hfate.2.2.2.1

theorem retireLane_fates {s : State} {n : LaneNo} (h : (laneOf s n).ctl ≠ .retired) (cause : Byte) (stackOpen : Bool) :
    SameFates (modLane (workLost s n) n (retired cause stackOpen)) (retireLane s n cause stackOpen) := by
  unfold retireLane
  rw [if_neg h]
  dsimp only
  have hrest (u : State) : SameFates u (loseShares (abortLaneLegs u n .laneRetired) n) :=
    (loseShares_fates ..).trans (abortLaneLegs_fates ..)
  have htested (c : Prop) [Decidable c] (u : State) : SameFates u (if c then raiseEvt u 12 else u) := by
    split
    · rw [SameFates, raiseEvt_lanes]
    · rfl
  rw [SameFates, raiseEvt_lanes, marLog_fates]
  split
  · exact (failQueues_fates ..).trans (htested ..)
  · exact (hrest _).trans ((failQueues_fates ..).trans (htested ..))

/-- A lane that retires takes the cause, and its stack stays open where it may and is trained; no other lane retires with it. -/
theorem retireLane_retires {s : State} {n : LaneNo} (h : (laneOf s n).ctl ≠ .retired) (cause : Byte) (stackOpen : Bool) :
    retirement (laneOf (retireLane s n cause stackOpen) n) = (.retired, cause, stackOpen && (laneOf s n).hbc.trained) ∧
      ∀ k, k ≠ n → retirement (laneOf (retireLane s n cause stackOpen) k) = retirement (laneOf s k) := by
  have hfate (k : LaneNo) := retirement_of_laneFate (laneFate_of_fates (retireLane_fates h cause stackOpen) k)
  refine ⟨?_, fun k hk => ?_⟩
  · rw [hfate n, laneOf_modLane_self, ← (laneOf_workLost s n n).2]
    rfl
  · rw [hfate k, laneOf_modLane_ne _ n k _ hk, (laneOf_workLost s n k).1]

theorem retireLane_evt {s : State} {n : LaneNo} (h : (laneOf s n).ctl ≠ .retired) (cause : Byte) (stackOpen : Bool) :
    (retireLane s n cause stackOpen).glb.evt.getLsbD 0 = true := by
  unfold retireLane
  rw [if_neg h]
  exact raiseEvt_getLsbD_self _ (by decide)

/-- A second cause closes the stack where it must, and replaces nothing. -/
theorem retireLane_again {s : State} {n : LaneNo} (h : (laneOf s n).ctl = .retired) (cause : Byte) :
    retireLane s n cause true = s ∧
      retirement (laneOf (retireLane s n cause false) n) = (.retired, (laneOf s n).cause, false) ∧
      ∀ k, k ≠ n → retirement (laneOf (retireLane s n cause false) k) = retirement (laneOf s k) := by
  have hclosed : retireLane s n cause false =
      loseShares (abortLaneLegs (modLane s n fun l => { l with dataOpen := false }) n .laneRetired) n := by
    unfold retireLane
    rw [if_pos h, if_neg Bool.false_ne_true]
  have hfate (k : LaneNo) : retirement (laneOf (retireLane s n cause false) k) =
      retirement (laneOf (modLane s n fun l => { l with dataOpen := false }) k) := by
    rw [hclosed]
    exact retirement_of_laneFate (laneFate_of_fates ((loseShares_fates ..).trans (abortLaneLegs_fates ..)) k)
  refine ⟨?_, ?_, fun k hk => ?_⟩
  · unfold retireLane
    rw [if_pos h, if_pos rfl]
  · rw [hfate n, laneOf_modLane_self, retirement, h]
  · rw [hfate k, laneOf_modLane_ne _ n k _ hk]

/-- With the stack closed, the lane is retired and closed whatever it was, and every other lane keeps its place. -/
theorem retireLane_closed (s : State) (n : LaneNo) (cause : Byte) :
    (laneOf (retireLane s n cause false) n).ctl = .retired ∧ (laneOf (retireLane s n cause false) n).dataOpen = false ∧
      ∀ k, k ≠ n → retirement (laneOf (retireLane s n cause false) k) = retirement (laneOf s k) := by
  by_cases h : (laneOf s n).ctl = .retired
  · obtain ⟨-, hself, hother⟩ := retireLane_again h cause
    simp only [retirement, Prod.mk.injEq] at hself
    exact ⟨hself.1, hself.2.2, hother⟩
  · obtain ⟨hself, hother⟩ := retireLane_retires h cause false
    simp only [retirement, Bool.false_and, Prod.mk.injEq] at hself
    exact ⟨hself.1, hself.2.2, hother⟩

/-- The lanes of a list retire one after another, and each stays retired and closed. -/
theorem retireLanes_closed (ns : List LaneNo) (cause : Byte) (s : State) (k : LaneNo)
    (hk : k ∈ ns ∨ ((laneOf s k).ctl = .retired ∧ (laneOf s k).dataOpen = false)) :
    (laneOf (ns.foldl (fun s n => retireLane s n cause false) s) k).ctl = .retired ∧
      (laneOf (ns.foldl (fun s n => retireLane s n cause false) s) k).dataOpen = false := by
  induction ns generalizing s with
  | nil => exact hk.resolve_left List.not_mem_nil
  | cons n ns ih =>
    obtain ⟨hctl, hopen, hother⟩ := retireLane_closed s n cause
    refine ih _ ?_
    by_cases hn : k = n
    · rw [hn]
      exact .inr ⟨hctl, hopen⟩
    · have hkept := hother k hn
      simp only [retirement, Prod.mk.injEq] at hkept
      rw [hkept.1, hkept.2.2]
      exact hk.imp_left fun h => (List.mem_cons.1 h).resolve_left hn

theorem mem_dieLanes (n k : LaneNo) (h : dieOf k = dieOf n) : k ∈ dieLanes (dieOf n) := by
  rw [dieLanes, List.mem_filter, laneNos]
  exact ⟨List.mem_finRange k, by simp [h]⟩

/-! ## A row of the stack -/

theorem marLog_work (s : State) (ev lane : Nat) (subject : DevId) (core : Nat) (detail : Word) :
    let t := marLog s ev lane subject core detail
    t.lanes = s.lanes ∧ t.mem = s.mem ∧ t.reqs = s.reqs := by
  obtain ⟨o, m, h⟩ := marLog_frame s ev lane subject core detail
  exact ⟨(congrArg State.lanes h :), (congrArg State.mem h :), (congrArg State.reqs h :)⟩

theorem logRow_work (s : State) (n : LaneNo) (bank what : Nat) :
    (logRow s n bank what).lanes = s.lanes ∧ (logRow s n bank what).mem = s.mem ∧ (logRow s n bank what).reqs = s.reqs :=
  marLog_work ..

/-- The lane whose lap an uncorrectable error loses. -/
def eccCounted (l : Lane) : Lane :=
  { l with hbc := { l.hbc with eccUe := satInc l.hbc.eccUe }, st := { l.st with lapLost := l.st.lapLost || !l.st.slots.isEmpty } }

/-- The lane whose repair list takes a row. -/
def rowListed (bank row : Nat) (lap : BitVec 48) (l : Lane) : Lane :=
  { l with hbc := { l.hbc with rows := l.hbc.rows ++ [⟨bank, row, lap⟩] } }

/-- An uncorrectable error of a row that is not listed yet, where the list has room. -/
theorem exec_hbmUncorrectable {s : State} {n : LaneNo} {bank row : Nat} (hroom : (laneOf s n).hbc.rows.length < 64)
    (hnew : ∀ r ∈ (laneOf s n).hbc.rows, ¬(r.bank = bank ∧ r.row = row)) :
    ∃ t, exec (.hbmUncorrectable n bank row) s = .next t ∧ (laneOf t n).hbc.eccUe = satInc (laneOf s n).hbc.eccUe ∧
      (laneOf t n).hbc.rows = (laneOf s n).hbc.rows ++ [⟨bank, row, s.lap.count⟩] ∧
      ((laneOf s n).st.slots ≠ [] → (laneOf t n).st.lapLost = true) ∧ t.mem = s.mem ∧ t.reqs = s.reqs := by
  have hold : ((laneOf s n).hbc.rows.find? fun r => decide (r.bank = bank) && decide (r.row = row)) = none := by
    rw [List.find?_eq_none]
    simpa using hnew
  have hcounted : laneOf (modLane s n eccCounted) n = eccCounted (laneOf s n) := laneOf_modLane_self ..
  have hlist : listRow (modLane s n eccCounted) n bank row =
      logRow (modLane (modLane s n eccCounted) n (rowListed bank row s.lap.count)) n bank 0x01 := by
    have hany : ((laneOf s n).hbc.rows.any fun r => decide (r.bank = bank) && decide (r.row = row)) = false := by
      rw [List.any_eq_false]
      simpa using hnew
    unfold listRow
    rw [hcounted]
    simp only [eccCounted, hany, Nat.not_le.2 hroom, Bool.false_eq_true, if_false]
    rfl
  refine ⟨logRow (modLane (modLane s n eccCounted) n (rowListed bank row s.lap.count)) n bank 0x01, ?_, ?_⟩
  · change execHbmUncorrectable n bank row s = _
    simp only [execHbmUncorrectable, hold, Bool.false_and, Bool.false_eq_true, if_false]
    exact congrArg Host.Outcome.next hlist
  · obtain ⟨hlanes, hmem, hreqs⟩ := logRow_work (modLane (modLane s n eccCounted) n (rowListed bank row s.lap.count)) n bank 0x01
    rw [laneOf_of_lanes hlanes, laneOf_modLane_self, hcounted]
    refine ⟨rfl, rfl, fun hslots => ?_, hmem, hreqs⟩
    change ((laneOf s n).st.lapLost || !(laneOf s n).st.slots.isEmpty) = true
    rw [List.isEmpty_eq_false_iff.2 hslots, Bool.not_false, Bool.or_true]

/-- Settles O36: a failed core is one record, a retirement one lane's fate, and a die's link the retirement of each of its lanes. -/
theorem coreAndLaneFailures : Obligations.CoreAndLaneFailures := by
  refine ⟨fun s d core => ⟨fun h => congrArg Host.Outcome.next (coreFails_known h), fun hcore hnew => ⟨_, rfl, coreFails_records hcore hnew⟩,
    fun n i => rfl⟩, fun s n => ⟨fun bank row hroom hnew => exec_hbmUncorrectable hroom hnew, fun h => ⟨_, rfl, ?_⟩,
    fun h => congrArg Host.Outcome.next (retireLane_again h 0x02).1, fun h => ⟨_, rfl, ?_⟩, fun h => ⟨_, rfl, ?_⟩,
    ⟨_, rfl, fun k hk => retireLanes_closed _ 0x05 s k (.inl (mem_dieLanes n k hk))⟩⟩⟩
  · have hself := (retireLane_retires h 0x02 true).1
    simp only [retirement, Bool.true_and, Prod.mk.injEq] at hself
    obtain ⟨hctl, hcause, hopen⟩ := hself
    exact ⟨hctl, hcause, hopen, retireLane_evt h ..⟩
  · have hself := (retireLane_retires h 0x03 false).1
    simp only [retirement, Bool.false_and, Prod.mk.injEq] at hself
    obtain ⟨hctl, hcause, hopen⟩ := hself
    exact ⟨hctl, hcause, hopen, retireLane_evt h ..⟩
  · have hself := (retireLane_again h 0x03).2.1
    simpa only [retirement, Prod.mk.injEq] using hself

end Sys2Proof.Machine
end

section
/-! PROOFS. Track's queues (O7): what opening and closing one makes of the queue or context that it names. -/
namespace Sys2Proof.Machine
open Sys2Proof

/-! ## A queue whose work ends -/

/-- The state without what is driven outwards, the send queues and the counters: what ending a queue's work does not reach. -/
def sansQueues (s : State) : State := { s with out := [], te := { s.te with sqs := [], ctrs := [] } }

theorem pumpTrackCpl_sansQueues (s : State) (q : Nat) : sansQueues (pumpTrackCpl s q) = sansQueues s := by
  unfold pumpTrackCpl
  split
  · rfl
  · next x _ =>
    split
    · dsimp only
      split
      · rfl
      · obtain ⟨o, h⟩ := msix_frame (emitAll (putSq s q (flushTrack x x.heldCpl).2) (flushTrack x x.heldCpl).1) x.func.val x.vector
        rw [h]
        rfl
    · rfl

theorem postTrack_sansQueues (s : State) (q : Nat) (w : List Word) : sansQueues (postTrack s q w) = sansQueues s := by
  unfold postTrack
  split
  · rfl
  · exact pumpTrackCpl_sansQueues ..

theorem endOp_sansQueues (s : State) (q : Nat) (o : TxOp) (code : Finish) : sansQueues (endOp s q o code) = sansQueues s := by
  have hcounted (c : Prop) [Decidable c] (u : State) (i : Nat) : sansQueues (if c then incCtr u i else u) = sansQueues u := by
    split <;> rfl
  unfold endOp
  split
  · rfl
  · dsimp only
    split
    · exact (postTrack_sansQueues ..).trans (hcounted ..)
    · exact hcounted ..

theorem endAll_sansQueues (s : State) (q : Nat) (code : Finish) : sansQueues (endAll s q code) = sansQueues s := by
  unfold endAll
  split
  · rfl
  · next x _ =>
    have hended : sansQueues (x.posted.foldl (fun s d => postTrack s q (trackCpl d.user code 0 q 0))
        (x.ops.foldl (fun s o => endOp s q o code) s)) = sansQueues s :=
      (foldl_keeps sansQueues _ (fun s d => postTrack_sansQueues s q _) _ _).trans
        (foldl_keeps sansQueues _ (fun s o => endOp_sansQueues s q o code) _ _)
    dsimp only
    split
    · exact hended
    · exact hended

theorem kept_of_sansQueues {s t : State} (h : sansQueues t = sansQueues s) :
    t.mem = s.mem ∧ t.te.rqs = s.te.rqs ∧ t.te.rxs = s.te.rxs ∧ t.reqs = s.reqs ∧ t.lanes = s.lanes :=
  ⟨(congrArg State.mem h :), (congrArg (fun u : State => u.te.rqs) h :), (congrArg (fun u : State => u.te.rxs) h :),
    (congrArg State.reqs h :), (congrArg State.lanes h :)⟩

/-! ## The commands -/

section
variable {s : State} {h : HostHdr} (hs : HostServed s h false)
include hs

theorem exec_sqOpen {a : SqOpenArg} (hok : sqOpenOk s h a = true) :
    ∃ x, exec (.sqOpen h a) s = .next (complete (putSq (fetched s h) a.queue.toNat x) h 0x12 .ok) ∧
      x.tenant = h.tenant ∧ x.target = a.target ∧ x.func = h.func ∧ x.pathTable = a.pathTable.toNat ∧
      x.relaxed = (a.mode == 1) ∧ x.rateMax = rateMaxOf a.rateMax ∧ x.law = RateLaw_open (rateMaxOf a.rateMax) s.clk.now ∧
      x.nextPsn = 0 ∧ x.message = 0 ∧ x.ops = [] ∧ x.posted = [] ∧ x.unacked = [] ∧ x.tail = 0 ∧ x.head = 0 := by
  have hok' : sqOpenOk (fetched s h) h a = true := hok
  change ∃ x, execSqOpen h a s = _ ∧ _
  simp only [execSqOpen, hostCmd_served hs, hok', Bool.not_true, Bool.false_eq_true, if_false]
  exact ⟨_, rfl, rfl, rfl, rfl, rfl, rfl, rfl, rfl, rfl, rfl, rfl, rfl, rfl, rfl, rfl⟩

theorem exec_rqOpen {a : RqOpenArg} (hok : rqOpenOk s h a = true) :
    ∃ c r, exec (.rqOpen h a) s = .next (complete { fetched s h with te := { s.te with
        rxs := tblSet s.te.rxs a.rxCtx.toNat c, rqs := tblSet s.te.rqs a.queue.toNat r } } h 0x13 .ok) ∧
      c.source = a.source ∧ c.tenant = h.tenant ∧ c.expected = 0 ∧ c.got = [] ∧ c.waiting = [] ∧
      c.queue = a.queue.toNat ∧ r.ctx = a.rxCtx.toNat ∧ r.bufs = [] ∧ r.msgs = [] ∧ r.nextMsg = 0 ∧ r.func = h.func := by
  have hok' : rqOpenOk (fetched s h) h a = true := hok
  change ∃ c r, execRqOpen h a s = _ ∧ _
  simp only [execRqOpen, hostCmd_served hs, hok', Bool.not_true, Bool.false_eq_true, if_false]
  exact ⟨_, _, rfl, rfl, rfl, rfl, rfl, rfl, rfl, rfl, rfl, rfl, rfl, rfl⟩

theorem exec_sqClose {q : BitVec 16} {x : SendQ} (hq : getSq s q.toNat = some x) (hown : x.tenant = h.tenant) :
    exec (.sqClose h q) s = .next (complete (closeSq (fetched s h) q.toNat) h 0x14 .ok) := by
  have hq' : getSq (fetched s h) q.toNat = some x := hq
  change execSqClose h q s = _
  simp only [execSqClose, hostCmd_served hs, hq', hown, if_true]

theorem exec_sqClose_foreign {q : BitVec 16} (hforeign : ∀ x, getSq s q.toNat = some x → x.tenant ≠ h.tenant) :
    exec (.sqClose h q) s = .next (complete (fetched s h) h 0x14 .refused) := by
  change execSqClose h q s = _
  unfold execSqClose
  rw [hostCmd_served hs]
  cases hq : getSq (fetched s h) q.toNat with
  | none => rfl
  | some x => simp only [hforeign x hq, if_false]

theorem exec_rqClose {q : BitVec 16} {r : RecvQ} {x : RxCtx} (hq : tblGet s.te.rqs q.toNat = some r)
    (hrx : getRx s r.ctx = some x) (hown : x.tenant = h.tenant) :
    exec (.rqClose h q) s = .next (complete { fetched s h with te := { s.te with
      rqs := tblErase s.te.rqs q.toNat, rxs := tblErase s.te.rxs r.ctx } } h 0x14 .ok) := by
  have hq' : tblGet (fetched s h).te.rqs q.toNat = some r := hq
  have hrx' : getRx (fetched s h) r.ctx = some x := hrx
  change execRqClose h q s = _
  simp only [execRqClose, hostCmd_served hs, hq', hrx', hown, if_true, closeRq]
  rfl

end

/-- Settles O7: each command is one equation on the state that has fetched it. -/
theorem trackQueues : Obligations.TrackQueues := by
  refine ⟨fun s h hs => ⟨fun a hok => exec_sqOpen hs hok, fun a hok => exec_rqOpen hs hok⟩, fun s h hs =>
    ⟨fun q x hq hown => ⟨exec_sqClose hs hq hown, ?_⟩, fun q r x hq hrx hown => exec_rqClose hs hq hrx hown,
      fun q hforeign => exec_sqClose_foreign hs hforeign⟩⟩
  have hkept := kept_of_sansQueues (endAll_sansQueues (fetched s h) q.toNat .discarded)
  exact hkept

end Sys2Proof.Machine
end

section
/-! PROOFS. Regions (O6): the entry and the space that an allocation takes and a freeing gives back. -/
namespace Sys2Proof.Machine
open Sys2Proof

/-! ## Space -/

theorem freeNear_lanes (s : State) (xs : List RegPage) : ∃ l, xs.foldl (fun s x => freeSlot s x.lane x.slot) s = { s with lanes := l } := by
  induction xs generalizing s with
  | nil => exact ⟨s.lanes, rfl⟩
  | cons x xs ih => exact ih (freeSlot s x.lane x.slot)

/-- Freeing a region's space gives back page slots and capacity-tier bytes, and touches nothing else. -/
theorem freeRegionSpace_frame (s : State) (r : Region) : ∃ l, freeRegionSpace s r = { s with
    lanes := l
    cap := { s.cap with ports := match r.far with
      | some (p, n) => vmod s.cap.ports p fun c => { c with used := c.used - n }
      | none => s.cap.ports } } := by
  obtain ⟨l, h⟩ := freeNear_lanes s r.near
  refine ⟨l, ?_⟩
  unfold freeRegionSpace
  rw [h]
  cases r.far <;> rfl

/-- What taking near slots changes of the state: lanes alone. -/
theorem takeNear_frame (s : State) (t : Tenant) (x : Option (LaneNo × List Nat)) :
    takeNear s t x = { s with lanes := (takeNear s t x).lanes } := by
  cases x <;> rfl

theorem takeFar_frame (s : State) (p : Option (Fin 4)) (len : Nat) : takeFar s p len = { s with cap := (takeFar s p len).cap } := by
  cases p <;> rfl

theorem takeFar_cap_of_cap {s t : State} (h : t.cap = s.cap) (p : Option (Fin 4)) (len : Nat) :
    (takeFar t p len).cap = (takeFar s p len).cap := by
  cases p with
  | none => exact h
  | some p => simp only [takeFar, h]

/-! ## The commands -/

/-- The state in which an allocation has its entry and its space. -/
def regionTaken (s : State) (t : Tenant) (len k : Nat) (near : Option (LaneNo × List Nat)) (far : Option (Fin 4)) : State :=
  { takeFar (takeNear s t near) far len with te := { s.te with
      regions := tblSet s.te.regions k ⟨t, s.te.dataTop, len, 0xF, nearPages s near, far.map fun p => (p, len)⟩
      dataTop := s.te.dataTop + len } }

section
variable {s : State} {h : HostHdr} (hs : HostServed s h false)
include hs

theorem exec_regionAlloc_unkeyed {flags : Byte} {len : BitVec 64} (hkeyed : schemeKeyed s = false) (hok : allocOk flags = true)
    (hlen : len ≠ 0) : exec (.regionAlloc h flags len) s = .next (complete (fetched s h) h 0x10 .ok) := by
  have hkeyed' : schemeKeyed (fetched s h) = false := hkeyed
  change execRegionAlloc h flags len s = _
  simp only [execRegionAlloc, hostCmd_served hs, hok, hlen, hkeyed', Bool.not_true, decide_false, Bool.or_self, Bool.false_eq_true,
    if_false, Bool.not_false, if_true]

theorem exec_regionFree_foreign {rkey : BitVec 16} {r : Region} (hreg : tblGet s.te.regions rkey.toNat = some r)
    (hforeign : r.tenant ≠ h.tenant) : exec (.regionFree h rkey) s = .next (complete (fetched s h) h 0x11 .refused) := by
  have hreg' : tblGet (fetched s h).te.regions rkey.toNat = some r := hreg
  change execRegionFree h rkey s = _
  simp only [execRegionFree, hostCmd_served hs, hreg', hforeign, decide_false, Bool.and_false, Bool.false_eq_true, if_false]

variable (hkeyed : schemeKeyed s = true)
include hkeyed

theorem exec_regionAlloc {flags : Byte} {len : BitVec 64} {k : Nat} {near : Option (LaneNo × List Nat)} {far : Option (Fin 4)}
    (hok : allocOk flags = true) (hlen : len ≠ 0) (hfree : freeRegion s = some k)
    (hplace : placeRegion s h.tenant flags len.toNat = some (near, far)) : exec (.regionAlloc h flags len) s =
      .next (completeB (regionTaken (fetched s h) h.tenant len.toNat k near far) h 0x10 .ok 0 [lo32 k]) := by
  have hkeyed' : schemeKeyed (fetched s h) = true := hkeyed
  have hfree' : freeRegion (fetched s h) = some k := hfree
  have hplace' : placeRegion (fetched s h) h.tenant flags len.toNat = some (near, far) := hplace
  have hte : (takeFar (takeNear (fetched s h) h.tenant near) far len.toNat).te = (fetched s h).te := by
    rw [takeFar_frame, takeNear_frame]
  change execRegionAlloc h flags len s = _
  simp only [execRegionAlloc, hostCmd_served hs, hok, hlen, hkeyed', hfree', hplace', Bool.not_true, decide_false, Bool.or_self,
    Bool.false_eq_true, if_false, hte]
  rfl

theorem exec_regionAlloc_refused {flags : Byte} {len : BitVec 64}
    (hnone : allocOk flags = false ∨ freeRegion s = none ∨ placeRegion s h.tenant flags len.toNat = none) :
    exec (.regionAlloc h flags len) s = .next (complete (fetched s h) h 0x10 .refused) := by
  have hkeyed' : schemeKeyed (fetched s h) = true := hkeyed
  change execRegionAlloc h flags len s = _
  unfold execRegionAlloc
  rw [hostCmd_served hs]
  by_cases hbad : (!allocOk flags || decide (len = 0)) = true
  · rw [if_pos hbad]
  · have hok : allocOk flags = true := by
      cases hok : allocOk flags
      · simp [hok] at hbad
      · rfl
    rw [if_neg hbad, hkeyed', Bool.not_true, if_neg Bool.false_ne_true]
    obtain h1 | h2 | h3 := hnone
    · rw [hok] at h1
      cases h1
    · have h2' : freeRegion (fetched s h) = none := h2
      simp only [h2']
    · have h3' : placeRegion (fetched s h) h.tenant flags len.toNat = none := h3
      rw [h3']
      cases freeRegion (fetched s h) <;> rfl

theorem exec_regionFree {rkey : BitVec 16} {r : Region} (hreg : tblGet s.te.regions rkey.toNat = some r) (hown : r.tenant = h.tenant) :
    exec (.regionFree h rkey) s = .next (complete { freeRegionSpace (fetched s h) r with
      te := { s.te with regions := tblErase s.te.regions rkey.toNat } } h 0x11 .ok) := by
  have hkeyed' : schemeKeyed (fetched s h) = true := hkeyed
  have hreg' : tblGet (fetched s h).te.regions rkey.toNat = some r := hreg
  obtain ⟨l, hspace⟩ := freeRegionSpace_frame (fetched s h) r
  have hte : (freeRegionSpace (fetched s h) r).te = s.te := by
    rw [hspace]
    rfl
  change execRegionFree h rkey s = _
  simp only [execRegionFree, hostCmd_served hs, hreg', hkeyed', hown, decide_true, Bool.and_self, if_true, hte]

end

/-- What an allocation leaves of the state that it is made in. -/
theorem regionTaken_frame (s : State) (t : Tenant) (len k : Nat) (near : Option (LaneNo × List Nat)) (far : Option (Fin 4)) :
    { regionTaken s t len k near far with te := s.te, lanes := s.lanes, cap := s.cap } = s ∧
      (regionTaken s t len k near far).lanes = (takeNear s t near).lanes ∧
      (regionTaken s t len k near far).cap = (takeFar s far len).cap := by
  have hcap : (takeNear s t near).cap = s.cap := by rw [takeNear_frame]
  unfold regionTaken
  rw [← takeFar_cap_of_cap hcap far len, takeFar_frame, takeNear_frame]
  exact ⟨rfl, rfl, rfl⟩

theorem freeRegionSpace_keeps (s : State) (r : Region) : (freeRegionSpace s r).mem = s.mem ∧ (freeRegionSpace s r).reqs = s.reqs ∧
    ∀ p n, r.far = some (p, n) → ((freeRegionSpace s r).cap.ports.get p).used = (s.cap.ports.get p).used - n := by
  obtain ⟨l, h⟩ := freeRegionSpace_frame s r
  rw [h]
  refine ⟨rfl, rfl, fun p n hfar => ?_⟩
  rw [hfar]
  dsimp only
  rw [vmod_get_self]

/-- Settles O6: each command is one equation, and the space that it takes or gives back is a frame. -/
theorem regionCommands : Obligations.RegionCommands := by
  refine ⟨fun s h hs hkeyed => ⟨fun flags len k near far hok hlen hfree hplace =>
      ⟨_, exec_regionAlloc hs hkeyed hok hlen hfree hplace, rfl, ?_⟩,
    fun rkey r hreg hown => ⟨exec_regionFree hs hkeyed hreg hown, freeRegionSpace_keeps (fetched s h) r⟩,
    fun rkey r hreg hforeign => exec_regionFree_foreign hs hreg hforeign,
    fun flags len hnone => exec_regionAlloc_refused hs hkeyed hnone⟩,
    fun s h flags len hs hkeyed hok hlen => exec_regionAlloc_unkeyed hs hkeyed hok hlen⟩
  obtain ⟨hrest, hlanes, hcap⟩ := regionTaken_frame (fetched s h) h.tenant len.toNat k near far
  refine ⟨hrest, hlanes.trans ?_, hcap.trans ?_⟩
  · cases near <;> rfl
  · exact takeFar_cap_of_cap (s := s) (t := fetched s h) rfl far len.toNat

end Sys2Proof.Machine
end

section
/-! PROOFS. An admitted SUBMIT (O4): one request in PROMPT, in the queue of the lane that the checks chose. -/
namespace Sys2Proof.Machine
open Sys2Proof

/-- The request that an admitted SUBMIT makes. -/
def submitted (s : State) (h : HostHdr) (blk : SubmitBlock) (m : ModelSec) (n : LaneNo) (slot : Nat) : Req :=
  newReq (fetched s h) h (mkBaton s.mpl.devId h.tenant slot (tblGetD s.slotGen slot 0)) n m blk (bellTime (fetched s h) h.tenant)

/-- A lane with a request at the end of its prompt queue. -/
def promptQueued (b : BatonId) (len : Nat) (l : Lane) : Lane := { l with st := { l.st with promptQ := l.st.promptQ ++ [(b, len)] } }

/-- The state in which a SUBMIT has been admitted. -/
def admitted (s : State) (n : LaneNo) (r : Req) : State :=
  modLane { stpTake s (stpUse r) with reqs := s.reqs ++ [r] } n (promptQueued r.id r.promptLen)

theorem exec_submit {s : State} {h : HostHdr} {blk : SubmitBlock} {m : ModelSec} {n : LaneNo} {slot : Nat} (hs : HostServed s h false)
    (hcoach : s.coach.phase = .serving) (hmodel : modelOf s blk.model.toNat = some m) (hblk : blockOk blk m.vocab.toNat = true)
    (hlane : chooseLane (fetched s h) h.tenant m blk.promptLen.toNat blk.maxNew.toNat (patStates blk.patterns) = some (n, slot)) :
    exec (.submit h blk) s = .next (completeB (admitted (fetched s h) n (submitted s h blk m n slot)) h 0x01 .ok 0
      (batonWords (mkBaton s.mpl.devId h.tenant slot (tblGetD s.slotGen slot 0)))) := by
  have hserves : coachServes (fetched s h) = true := by
    change decide (s.coach.phase = .serving) = true
    rw [hcoach]
    rfl
  have hmodel' : modelOf (fetched s h) blk.model.toNat = some m := hmodel
  change execSubmit h blk s = _
  simp only [execSubmit, hostCmd_served hs, hmodel', hserves, hblk, hlane, Bool.not_true, Bool.or_self, Bool.false_eq_true, if_false]
  rfl

/-- What an admission changes: the requests, the lane's prompt queue and the free Steeple states. -/
theorem admitted_frame (s : State) (n : LaneNo) (r : Req) : let t := admitted s n r
    t.reqs = s.reqs ++ [r] ∧ t.lanes.get n = promptQueued r.id r.promptLen (s.lanes.get n) ∧
      (∀ k, k ≠ n → t.lanes.get k = s.lanes.get k) ∧ t.stp.free = s.stp.free - stpUse r ∧
      { t with reqs := s.reqs, lanes := s.lanes, stp := { t.stp with free := s.stp.free } } = s :=
  ⟨rfl, laneOf_modLane_self .., fun k hk => laneOf_modLane_ne _ n k _ hk, rfl, rfl⟩

/-- Settles O4: the admission is one equation, whose state is a frame around the request that it makes. -/
theorem submitAdmits : Obligations.SubmitAdmits := by
  intro s h blk m n slot hs hcoach hmodel hblk hlane id
  obtain ⟨hreqs, hself, hother, hfree, hrest⟩ := admitted_frame (fetched s h) n (submitted s h blk m n slot)
  refine ⟨_, _, exec_submit hs hcoach hmodel hblk hlane, hreqs, rfl, rfl, rfl, rfl, rfl, rfl, rfl, rfl, rfl, rfl, rfl, rfl, rfl, rfl,
    ?_, ?_, hother, hfree, hrest⟩
  · rw [hself]
    rfl
  · rw [hself]
    rfl

end Sys2Proof.Machine
end

section
/-! PROOFS. Weights and lane builds (O10): the image that a port takes in, a staged variant, and the end of a lane's build. -/
namespace Sys2Proof.Machine
open Sys2Proof

/-! ## Weights and staged variants (R109, R306) -/

/-- A new image of the digest `d` on port `p`: its bytes, and its entry in the list. -/
def weightStored (s : State) (p : Fin 4) (len : Nat) (d : Digest) (data : List (Nat × Byte)) : State :=
  let x := capTake s p len
  let bytes := data.filter fun c => decide (c.1 < len)
  { x.2 with
    cap := { x.2.cap with weights := x.2.cap.weights ++ [(d, p, x.1, len)] }
    mem := { x.2.mem with
      cap := vset x.2.mem.cap p (bytes.foldl (fun m c => memWrite m (x.1 + c.1) c.2) (x.2.mem.cap.get p)) } }

theorem weightStored_frame (s : State) (p : Fin 4) (len : Nat) (d : Digest) (data : List (Nat × Byte)) :
    { weightStored s p len d data with
      cap := s.cap, mem := { (weightStored s p len d data).mem with cap := s.mem.cap } } = s := rfl

/-- Putting the image of a digest that is not in the list changes nothing before it takes the bytes. -/
theorem weights_of_new {ws : List (Digest × Fin 4 × Nat × Nat)} {d : Digest} (hnew : ∀ w ∈ ws, w.1 ≠ d) :
    ws.filter (fun w => w.1 == d) = [] ∧ ws.filter (fun w => w.1 != d) = ws := by
  constructor
  · rw [List.filter_eq_nil_iff]
    intro w hw
    simp [hnew w hw]
  · rw [List.filter_eq_self]
    intro w hw
    simp [hnew w hw]

section
variable {s : State} {h : HostHdr} (hs : HostServed s h true)
include hs

theorem exec_weightPut {len : BitVec 64} {d : Digest} {p : Fin 4} (data : List (Nat × Byte))
    (hnew : ∀ w ∈ s.cap.weights, w.1 ≠ d) (hport : bestPort s len.toNat = some p) :
    exec (.weightPut h len d data) s = .next (complete (weightStored (fetched s h) p len.toNat d data) h 0x23 .ok) := by
  obtain ⟨hold, hrest⟩ := weights_of_new (ws := (fetched s h).cap.weights) hnew
  have hport' : bestPort (fetched s h) len.toNat = some p := hport
  change execWeightPut h len d data s = _
  simp only [execWeightPut, hostCmd_served hs, hold, hrest, List.foldl_nil, hport']
  rfl

theorem exec_stageVariant {lane m : Byte} {n : LaneNo} {x : ModelSec} (hlane : laneArg lane = some n)
    (hmodel : variantModel s n m.toNat = some x) (hruns : runs (laneOf s n) = true) (hidle : (laneOf s n).stagingCmd = none)
    (hstore : inStore s x.weightDigest = true) : exec (.stageVariant h lane m) s = .next (modLane (fetched s h) n fun l =>
      { l with stagingCmd := some (h, m.toNat), variantReady := none, staged := 0 }) := by
  have hmodel' : variantModel (fetched s h) n m.toNat = some x := hmodel
  have hready : (runs (laneOf (fetched s h) n) && (laneOf (fetched s h) n).stagingCmd.isNone &&
      inStore (fetched s h) x.weightDigest) = true := by
    have hl : laneOf (fetched s h) n = laneOf s n := rfl
    have hx : inStore (fetched s h) x.weightDigest = inStore s x.weightDigest := rfl
    rw [hl, hx, hruns, hidle, hstore]
    rfl
  change execStageVariant h lane m s = _
  rw [execStageVariant, hostCmd_served hs]
  unfold laneArg at hlane
  split at hlane
  · next hl =>
    obtain rfl := Option.some.inj hlane
    simp only [hl, dite_true, hmodel', hready, if_true]
  · cases hlane

end

/-! ## Lane builds (R306, R312, R357) -/

/-- What a lane's build leaves alone: every lane, the requests, the data space, and the other lanes' stacks. -/
def besideStack (n : LaneNo) (s : State) : Vector Lane 12 × List Req × Mem × (LaneNo → Mem) :=
  (s.lanes, s.reqs, s.mem.data, fun k => if k = n then [] else s.mem.stack.get k)

theorem setStack_besideStack (s : State) (n : LaneNo) (m : Mem) : besideStack n (setStack s n m) = besideStack n s := by
  have hstack : (fun k => if k = n then [] else (setStack s n m).mem.stack.get k)
      = fun k => if k = n then [] else s.mem.stack.get k := by
    funext k
    split
    · rfl
    · next hk => exact vset_get_ne _ _ _ _ hk
  exact congrArg (fun f => (s.lanes, s.reqs, s.mem.data, f)) hstack

theorem copyWeights_besideStack (s : State) (n : LaneNo) (x : LaneSec) :
    besideStack n (copyWeights s n x) = besideStack n s := by
  refine foldl_keeps (besideStack n) _ (fun t i => ?_) _ s
  split
  · rfl
  · split
    · rfl
    · split
      · exact setStack_besideStack ..
      · rfl

/-- What other state a finished build leaves: the facts of `besideStack`, taken apart. -/
theorem copyWeights_kept (s : State) (n : LaneNo) (x : LaneSec) :
    (copyWeights s n x).lanes = s.lanes ∧ (copyWeights s n x).reqs = s.reqs ∧ (copyWeights s n x).mem.data = s.mem.data ∧
      ∀ k, k ≠ n → (copyWeights s n x).mem.stack.get k = s.mem.stack.get k := by
  have h := copyWeights_besideStack s n x
  simp only [besideStack, Prod.mk.injEq] at h
  obtain ⟨hlanes, hreqs, hdata, hstack⟩ := h
  refine ⟨hlanes, hreqs, hdata, fun k hk => ?_⟩
  have hk' := congrFun hstack k
  simpa only [hk, if_false] using hk'

theorem fgTable_of_replaced (t : Tables) (x y : Option LapTable) (l : Lane)
    (h : l.tables = setBgTable (setFgTable t x) y) : fgTable l = x := by
  unfold fgTable setBgTable setFgTable at *
  cases hfg : t.fg <;> simp [h, hfg]

theorem completeAll_kept (s : State) (hs : List HostHdr) (op : Byte) (code : Finish) :
    (completeAll s hs op code).mem = s.mem ∧ (completeAll s hs op code).reqs = s.reqs ∧
      (completeAll s hs op code).mpl = s.mpl :=
  ⟨foldl_keeps State.mem _ (fun _ _ => complete_mem ..) _ _, foldl_keeps State.reqs _ (fun _ _ => complete_reqs ..) _ _,
    foldl_keeps State.mpl _ (fun _ _ => complete_mpl ..) _ _⟩

/-- A lane whose build is refused. -/
def buildRefused (l : Lane) : Lane :=
  { l with build := .none, sec := none, ctl := .unassigned, role := 0, serveCmds := [], serveReq := false }

theorem laneOf_noteRefuse (s : State) (x : Refuse) (n : LaneNo) : laneOf (noteRefuse s x) n = laneOf s n := rfl

theorem vector_ofFn_get {α : Type} {n : Nat} (f : Fin n → α) (i : Fin n) : (Vector.ofFn f).get i = f i := by
  rw [Vector.get_eq_getElem, Vector.getElem_ofFn]

section
variable {s : State} {n : LaneNo} {p : PlanImage} (hbuild : (laneOf s n).build = .copying) (hplan : s.mpl.current = some p)
include hbuild hplan

theorem exec_laneBuildDone_built :
    exec (.laneBuildDone n (buildDigests p (p.lanes.get n))) s = .next (finishBuild s n (p.lanes.get n)) := by
  change execLaneBuildDone n (buildDigests p (p.lanes.get n)) s = _
  simp only [execLaneBuildDone, hbuild, hplan, if_true]

theorem exec_laneBuildDone_refused {ds : List Digest} (hds : ds ≠ buildDigests p (p.lanes.get n)) :
    exec (.laneBuildDone n ds) s = .next (completeAll (noteRefuse (modLane s n buildRefused)
        ⟨0x14, dirIx p secLane n.val, BitVec.ofNat 4 n.val⟩) (laneOf s n).serveCmds 0x22 .refused) := by
  change execLaneBuildDone n ds s = _
  simp only [execLaneBuildDone, hbuild, hplan, hds, if_false]
  rfl

end

/-- Settles O10: a new image adds its bytes and its entry and leaves the rest; a build copies weights into the lane's own stack and
sets the lane's record, and a refused one empties that record. -/
theorem weightsAndBuilds : Obligations.WeightsAndBuilds := by
  unfold Obligations.WeightsAndBuilds
  refine ⟨fun s h hs => ⟨fun len d data p hnew hport => ?_, fun lane m n x => exec_stageVariant hs⟩, fun s n p hbuild hplan =>
    ⟨⟨_, exec_laneBuildDone_built hbuild hplan, ?_⟩, fun ds hds => ⟨_, exec_laneBuildDone_refused hbuild hplan hds, ?_⟩⟩⟩
  · refine ⟨_, exec_weightPut hs data hnew hport, rfl, vset_get_self .., vset_get_self .., fun k hk =>
      ⟨vset_get_ne _ _ _ _ hk, vset_get_ne _ _ _ _ hk⟩, ?_⟩
    have hkept := weightStored_frame (fetched s h) p len.toNat d data
    exact hkept
  · obtain ⟨hlanes, hreqs, hdata, hstack⟩ := copyWeights_kept s n (p.lanes.get n)
    have hlane := laneOf_of_lanes hlanes
    simp only [finishBuild, laneOf_modLane_self]
    refine ⟨trivial, trivial, congrArg Lane.ctl (hlane n), fgTable_of_replaced _ _ _ _ rfl, fun i => ?_, trivial, fun k hk => ?_,
      hstack, hdata, hreqs⟩
    · rw [vector_ofFn_get]
    · rw [laneOf_modLane_ne _ _ _ _ hk, hlane]
  · obtain ⟨hmem, hreqs, hmpl⟩ := completeAll_kept (noteRefuse (modLane s n buildRefused)
      ⟨0x14, dirIx p secLane n.val, BitVec.ofNat 4 n.val⟩) (laneOf s n).serveCmds 0x22 .refused
    have hlane := fun k => (laneOf_of_lanes (completeAll_lanes (noteRefuse (modLane s n buildRefused)
      ⟨0x14, dirIx p secLane n.val, BitVec.ofNat 4 n.val⟩) (laneOf s n).serveCmds 0x22 .refused) k).trans (laneOf_noteRefuse ..)
    have hself := (hlane n).trans (laneOf_modLane_self ..)
    refine ⟨congrArg Lane.ctl hself, congrArg Lane.role hself, congrArg Lane.build hself, congrArg Mpl.refuseReason hmpl,
      congrArg Mpl.refuseLane hmpl, fun k hk => (hlane k).trans (laneOf_modLane_ne _ _ _ _ hk), hmem, hreqs⟩

end Sys2Proof.Machine
end

section
/-! PROOFS. Drain, serve and test commands of a lane (O11), and what the end of a test makes of the lane. -/
namespace Sys2Proof.Machine
open Sys2Proof

/-! ## Commands (R50, R381) -/

theorem modLane_congr {s : State} {n : LaneNo} {f g : Lane → Lane} (h : f (laneOf s n) = g (laneOf s n)) :
    modLane s n f = modLane s n g := congrArg (setLane s n) h

theorem laneCmd_served {s : State} {h : HostHdr} {lane : Byte} {n : LaneNo} (hs : HostServed s h true)
    (hlane : laneArg lane = some n) (serve : LaneNo → State → State) : laneCmd h lane serve s = .next (serve n (fetched s h)) := by
  rw [laneCmd, hostCmd_served hs, hlane]

section
variable {s : State} {h : HostHdr} {lane : Byte} {n : LaneNo} (hs : HostServed s h true) (hlane : laneArg lane = some n)
include hs hlane

theorem exec_laneDrain (hctl : (laneOf s n).ctl = .serving) : exec (.laneDrain h lane) s = .next (modLane (fetched s h) n fun l =>
    { l with drainReq := true, drainCmds := l.drainCmds ++ [h], drainAt := if l.drainReq then l.drainAt else s.clk.now }) := by
  have hctl' : (laneOf (fetched s h) n).ctl = .serving := hctl
  change laneCmd h lane (drainLane h) s = _
  rw [laneCmd_served hs hlane, drainLane, hctl']
  rfl

theorem exec_laneServe (hctl : (laneOf s n).ctl = .stopped) (hover : (laneOf s n).st.overrunStop = false)
    (hbuilt : (laneOf s n).destructed = false) : exec (.laneServe h lane) s = .next (modLane (fetched s h) n fun l =>
    { l with serveReq := true, serveCmds := l.serveCmds ++ [h], serveAt := if l.serveReq then l.serveAt else s.clk.now }) := by
  have hctl' : (laneOf (fetched s h) n).ctl = .stopped := hctl
  have hover' : (laneOf (fetched s h) n).st.overrunStop = false := hover
  have hbuilt' : (laneOf (fetched s h) n).destructed = false := hbuilt
  change laneCmd h lane (serveLane h) s = _
  simp only [laneCmd_served hs hlane, serveLane, hctl', hover', Bool.false_eq_true, if_false]
  refine congrArg Host.Outcome.next (modLane_congr ?_)
  simp only [hbuilt', Bool.not_false, Bool.false_and, Bool.false_eq_true, if_false]
  rfl

theorem exec_laneServe_overrun (hctl : (laneOf s n).ctl = .stopped) (hover : (laneOf s n).st.overrunStop = true) :
    exec (.laneServe h lane) s = .next (complete (fetched s h) h 0x22 .refused) := by
  have hctl' : (laneOf (fetched s h) n).ctl = .stopped := hctl
  have hover' : (laneOf (fetched s h) n).st.overrunStop = true := hover
  change laneCmd h lane (serveLane h) s = _
  simp only [laneCmd_served hs hlane, serveLane, hctl', hover', if_true]
  rfl

theorem exec_laneTest {mode : Byte} (hidle : (laneOf s n).mch.busy = false) (hok : testOk s n mode.toNat = true) :
    exec (.laneTest h lane mode) s = .next (startTest (fetched s h) n mode.toNat (some h)) := by
  have hidle' : (laneOf (fetched s h) n).mch.busy = false := hidle
  have hok' : testOk (fetched s h) n mode.toNat = true := hok
  change laneCmd h lane (testLane h mode) s = _
  simp only [laneCmd_served hs hlane, testLane, hidle', hok', Bool.false_eq_true, if_false, if_true]

end

/-! ## The start of a test (R354 to R357) -/

/-- A destructive test empties the lane's stack, closes it, and leaves the lane's state and its test engine. -/
theorem emptyStack_empties (s : State) (n : LaneNo) : let t := emptyStack s n
    (laneOf t n).ctl = (laneOf s n).ctl ∧ (laneOf t n).mch = (laneOf s n).mch ∧ (laneOf t n).dataOpen = false ∧
      (laneOf t n).destructed = true ∧ t.mem.stack.get n = [] := by
  have hfate := laneFate_of_fates (abortLaneLegs_fates (modLane s n fun l => { l with dataOpen := false }) n .discarded) n
  rw [laneOf_modLane_self] at hfate
  simp only [laneFate, Prod.mk.injEq] at hfate
  obtain ⟨hctl, -, hopen, -, hmch⟩ := hfate
  simp only [emptyStack, laneOf_modLane_self]
  exact ⟨hctl, hmch, hopen, trivial, vset_get_self ..⟩

theorem startTest_tests (s : State) (n : LaneNo) (mode : Nat) (cmd : Option HostHdr) : let t := startTest s n mode cmd
    (laneOf t n).ctl = .testing ∧ (laneOf t n).mch.busy = true ∧ (laneOf t n).mch.mode = BitVec.ofNat 3 mode ∧
      (laneOf t n).mch.cmd = cmd ∧ (mode = 3 ∨ mode = 5 →
        t.mem.stack.get n = [] ∧ (laneOf t n).destructed = true ∧ (laneOf t n).dataOpen = false) := by
  dsimp only [startTest]
  generalize (if coreMode (BitVec.ofNat 3 mode) = true then saveSram s n else s) = u
  split
  · obtain ⟨hctl, hmch, hopen, hgone, hstack⟩ := emptyStack_empties (modLane u n fun l => { l with
      ctl := .testing, mch := { l.mch with busy := true, mode := BitVec.ofNat 3 mode, progress := 0, cmd := cmd } }) n
    rw [hctl, hmch, laneOf_modLane_self]
    exact ⟨rfl, rfl, rfl, rfl, fun _ => ⟨hstack, hgone, hopen⟩⟩
  · next hmode =>
    rw [laneOf_modLane_self]
    refine ⟨rfl, rfl, rfl, rfl, fun h => absurd ?_ hmode⟩
    rcases h with rfl | rfl <;> rfl

section
variable {s : State} {a : Accessor} {n : LaneNo} {v : Word} (hacts : RegActs s a (0x010E0000 + n.val * 0x00100000))
include hacts

theorem exec_mchTestStart : exec (.mchTestStart a n v) s = .next (writeMchTest s n (bits v.toNat 2 0)) :=
  regCmd_acts hacts _

theorem exec_mchTestStart_zero (hmode : bits v.toNat 2 0 = 0) : exec (.mchTestStart a n v) s = .next s := by
  rw [exec_mchTestStart hacts, writeMchTest, hmode]
  rfl

theorem exec_mchTestStart_refused (hmode : bits v.toNat 2 0 ≠ 0) (hidle : (laneOf s n).mch.busy = false)
    (hbad : testOk s n (bits v.toNat 2 0) = false) :
    exec (.mchTestStart a n v) s = .next (modLane s n fun l => { l with mch := { l.mch with result := 0x03 } }) := by
  simp only [exec_mchTestStart hacts, writeMchTest, hmode, hidle, hbad, decide_false, Bool.or_self, Bool.false_eq_true, if_false]
  rfl

theorem exec_mchTestStart_taken (hidle : (laneOf s n).mch.busy = false) (hok : testOk s n (bits v.toNat 2 0) = true) :
    exec (.mchTestStart a n v) s = .next (startTest s n (bits v.toNat 2 0) none) := by
  have hmode : bits v.toNat 2 0 ≠ 0 := by
    intro h0
    rw [h0] at hok
    simp [testOk] at hok
  simp only [exec_mchTestStart hacts, writeMchTest, hmode, hidle, hok, decide_false, Bool.or_self, Bool.false_eq_true, if_false,
    if_true]

end

/-! ## The end of a test (R330, R331, R357) -/

/-- The state when the march is over: the stack open, failed cores replaced, rows listed and repaired. -/
def testMarched (s : State) (n : LaneNo) (found : TestFinding) : State :=
  let m := (laneOf s n).mch
  let t := modLane s n fun l => { l with dataOpen := true }
  let u := if coreMode m.mode then testCores (restoreSram t n) n true found.cores else t
  if stackMode m.mode then endStackTest u n (!coreMode m.mode || found.cores.isEmpty) found else u

/-- The result of a test, from the lane's state at its end. -/
def testCode (l : Lane) : Finish := if l.ctl == .retired then .laneRetired else .ok

/-- The lane at the end of a test. -/
def testOver (l : Lane) : Lane := { l with
  ctl := if l.ctl == .retired then .retired else .stopped
  mch := { l.mch with busy := false, result := finishCode (testCode l), progress := 100, cmd := none } }

/-- The completion of the command that began a test, if one did. -/
def testReport (s : State) (cmd : Option HostHdr) (code : Finish) : State :=
  match cmd with
  | some h => completeB s h opLane code 0 [(finishCode code).setWidth 32]
  | none => s

theorem testReport_lanes (s : State) (cmd : Option HostHdr) (code : Finish) : (testReport s cmd code).lanes = s.lanes := by
  cases cmd with
  | none => rfl
  | some h => exact completeB_lanes ..

/-- The state that MCH_TEST_DONE leaves of a marched one. -/
def testEnded (s : State) (n : LaneNo) : State :=
  raiseEvt (testReport (modLane s n testOver) (laneOf s n).mch.cmd (testCode (laneOf s n))) 12

theorem exec_mchTestDone {s : State} {n : LaneNo} (found : TestFinding) (hbusy : (laneOf s n).mch.busy = true) :
    exec (.mchTestDone n found) s = .next (testEnded (testMarched s n found) n) := by
  change execMchTestDone n found s = _
  simp only [execMchTestDone, hbusy, Bool.not_true, Bool.false_eq_true, if_false]
  rfl

theorem testEnded_lane (s : State) (n : LaneNo) : laneOf (testEnded s n) n = testOver (laneOf s n) := by
  refine (laneOf_of_lanes ?_ n).trans (laneOf_modLane_self s n testOver)
  rw [testEnded, raiseEvt_lanes, testReport_lanes]

theorem testOver_result (l : Lane) : ((testOver l).ctl = .retired ∧ (testOver l).mch.result = 0x0E) ∨
    ((testOver l).ctl = .stopped ∧ (testOver l).mch.result = 0x00) := by
  unfold testOver testCode
  cases l.ctl == .retired
  · exact Or.inr ⟨rfl, rfl⟩
  · exact Or.inl ⟨rfl, rfl⟩

theorem restoreSram_lanes (s : State) (n : LaneNo) : (restoreSram s n).lanes = s.lanes := by
  unfold restoreSram
  split <;> rfl

theorem logRow_lanes (s : State) (n : LaneNo) (bank what : Nat) : (logRow s n bank what).lanes = s.lanes := by
  obtain ⟨hlanes, -, -⟩ := logRow_work s n bank what
  exact hlanes

/-- The repair of the listed rows leaves the lane's state and the opening of its stack. -/
theorem repairRows_lane (s : State) (n : LaneNo) :
    (laneOf (repairRows s n) n).ctl = (laneOf s n).ctl ∧ (laneOf (repairRows s n) n).dataOpen = (laneOf s n).dataOpen := by
  have hrows : ((laneOf s n).hbc.rows.foldl (fun s r => logRow s n r.bank 0x02) s).lanes = s.lanes :=
    foldl_keeps State.lanes (fun s (r : BadRow) => logRow s n r.bank 0x02) (fun u r => logRow_lanes u n r.bank 0x02) _ _
  rw [repairRows, laneOf_modLane_self]
  have hlane := laneOf_of_lanes hrows n
  have hctl := congrArg Lane.ctl hlane
  have hopen := congrArg Lane.dataOpen hlane
  exact ⟨hctl, hopen⟩

/-- A test that finds nothing leaves the lane in TESTING with its stack open, until its end stops the lane. -/
theorem testMarched_clean {s : State} {n : LaneNo} (hctl : (laneOf s n).ctl = .testing) :
    (laneOf (testMarched s n ⟨[], [], false⟩) n).ctl = .testing ∧
      (laneOf (testMarched s n ⟨[], [], false⟩) n).dataOpen = true := by
  have hopened : (laneOf (modLane s n fun l => { l with dataOpen := true }) n).ctl = .testing ∧
      (laneOf (modLane s n fun l => { l with dataOpen := true }) n).dataOpen = true := by
    rw [laneOf_modLane_self]
    exact ⟨hctl, rfl⟩
  dsimp only [testMarched]
  generalize modLane s n (fun l => { l with dataOpen := true }) = t at hopened
  generalize hu : (if coreMode (laneOf s n).mch.mode = true then testCores (restoreSram t n) n true [] else t) = u
  have hlanes : u.lanes = t.lanes := by
    rw [← hu]
    split
    · exact restoreSram_lanes t n
    · rfl
  rw [← laneOf_of_lanes hlanes n] at hopened
  obtain ⟨htesting, hopen⟩ := hopened
  split
  · obtain ⟨hctl', hopen'⟩ := repairRows_lane u n
    simp only [endStackTest, testRows, htesting, reduceCtorEq, Bool.false_eq_true, if_false]
    exact ⟨hctl'.trans htesting, hopen'.trans hopen⟩
  · exact ⟨htesting, hopen⟩

/-- Settles O11: the commands are those of a served LANE command, the register's write those of `writeMchTest`; a test's end reads the
lane's state once the march is over. That later drains and serves join the first is the model's choice (log 53). -/
theorem laneCommandsAndTests : Obligations.LaneCommandsAndTests := by
  unfold Obligations.LaneCommandsAndTests
  refine ⟨fun s h lane n hs hlane => ⟨exec_laneDrain hs hlane, exec_laneServe hs hlane, exec_laneServe_overrun hs hlane,
    fun mode hidle hok => ⟨_, exec_laneTest hs hlane hidle hok, ?_⟩⟩, fun s a n v hacts => ⟨exec_mchTestStart_zero hacts,
    exec_mchTestStart_refused hacts, fun hidle hok => ⟨_, exec_mchTestStart_taken hacts hidle hok, ?_⟩,
    fun found hbusy => ⟨_, exec_mchTestDone found hbusy, ?_⟩, fun hbusy hctl => ⟨_, exec_mchTestDone _ hbusy, ?_⟩⟩⟩
  · obtain ⟨hctl, hbusy, hmode, hcmd, hgone⟩ := startTest_tests (fetched s h) n mode.toNat (some h)
    refine ⟨hctl, hbusy, hmode, hcmd, fun hm => ?_⟩
    obtain ⟨hstack, hdestructed, -⟩ := hgone (hm.imp (congrArg BitVec.toNat) (congrArg BitVec.toNat))
    exact ⟨hstack, hdestructed⟩
  · obtain ⟨hctl, hbusy, -, hcmd, hgone⟩ := startTest_tests s n (bits v.toNat 2 0) none
    refine ⟨hctl, hbusy, hcmd, fun hm => ?_⟩
    obtain ⟨hstack, -, hopen⟩ := hgone hm
    exact ⟨hstack, hopen⟩
  · rw [testEnded_lane]
    exact ⟨rfl, rfl, raiseEvt_getLsbD_self _ (by decide), testOver_result _⟩
  · obtain ⟨htesting, hopen⟩ := testMarched_clean hctl
    rw [testEnded_lane]
    refine ⟨?_, hopen⟩
    rw [testOver, htesting]
    rfl

end Sys2Proof.Machine
end

section
/-! PROOFS. MAR_CMD, the port fence, and what taking up a fence does where no work is in hand (O16). -/
namespace Sys2Proof.Machine
open Sys2Proof

/-! ## MAR_CMD and the port fence (R326, R327, R335, R337) -/

theorem sendAsk_sansTransport (s : State) (dst : DevId) (r : LegReq) : sansTransport (sendAsk s dst r) = sansTransport s :=
  foldl_keeps sansTransport _ (fun _ _ => sysSend_sansTransport ..) _ _

theorem openEntry_sansTransport {s t : State} {mk : Nat → BitVec 16 → Leg} {i : Nat} (h : openEntry s mk = some (i, t)) :
    sansTransport t = sansTransport s := by
  unfold openEntry at h
  split at h <;> cases h
  rfl

theorem openSwap_sansTransport (s : State) (dev : DevId) (n : LaneNo) :
    sansTransport (openSwap s dev n).1 = sansTransport s := by
  unfold openSwap
  dsimp only
  split
  · next hentry =>
    split
    · exact openEntry_sansTransport hentry
    · exact (sendAsk_sansTransport ..).trans (openEntry_sansTransport hentry)
  · rfl

/-- The SWAP that the arguments of MAR_CMD name, active. -/
def swapStarted (s : State) : State := { s with mar := { s.mar with
  busy := true, result := 0, swapActive := true, precopy := false, swapDev := s.mar.arg0
  swapEpoch := s.mar.argEpoch, swapLanes := s.mar.argLanes } }

/-- What setting the pre-copy word leaves of MAR: all but that word. -/
theorem setPrecopy_mar (s : State) : ∃ b, (setPrecopy s).mar = { s.mar with precopy := b } := by
  unfold setPrecopy
  split
  · exact ⟨_, rfl⟩
  · exact ⟨s.mar.precopy, rfl⟩

theorem marCmdSwapNow_starts {s : State} (h : swapRefusal s = none) :
    (∃ b, (marCmdSwapNow s).mar = { (swapStarted s).mar with precopy := b }) ∧ (marCmdSwapNow s).mem = s.mem := by
  obtain ⟨hmem, -⟩ := marCmdSwapNow_mems s
  refine ⟨?_, hmem⟩
  simp only [marCmdSwapNow, h]
  have hlegs (ns : List LaneNo) (t : State) :
      sansTransport (ns.foldl (fun s n => (openSwap s s.mar.swapDev n).1) t) = sansTransport t :=
    foldl_keeps sansTransport _ (fun _ _ => openSwap_sansTransport ..) _ _
  have hmar : ((laneNos.filter fun n => s.mar.argLanes.getLsbD n.val).foldl (fun s n => (openSwap s s.mar.swapDev n).1)
      (swapStarted s)).mar = (swapStarted s).mar := (congrArg State.mar (hlegs _ (swapStarted s)) :)
  obtain ⟨b, hb⟩ := setPrecopy_mar ((laneNos.filter fun n => s.mar.argLanes.getLsbD n.val).foldl
    (fun s n => (openSwap s s.mar.swapDev n).1) (swapStarted s))
  rw [hmar] at hb
  exact ⟨b, hb⟩

section
variable {s : State} {a : Accessor} (hacts : RegActs s a 0x000F0018)
include hacts

theorem exec_marCmdFenceAdmin : exec (.marCmdFenceAdmin a) s = .next (marCmdFence s) := regCmd_acts hacts _

theorem exec_marCmdReadmit : exec (.marCmdReadmit a) s = .next (marCmdReadmitNow s) := regCmd_acts hacts _

theorem exec_marCmdSwap : exec (.marCmdSwap a) s = .next (marCmdSwapNow s) := regCmd_acts hacts _

/-- MAR's registers act together: they are held in reset by the same block. -/
theorem exec_portFenceWrite (v : Word) : exec (.portFenceWrite a v) s =
    .next (pumpAll { s with mar := { s.mar with portFence := v.setWidth 16 } }) := by
  obtain ⟨hvf, hreach, hheld⟩ := hacts
  exact regCmd_acts (off := 0x000F0038) ⟨hvf, hreach, hheld⟩ _

end

/-! ## A fence where no work is in hand (R254, R322, R328) -/

theorem modLanes_frame (f : Lane → Lane) (ns : List LaneNo) (s : State) :
    ∃ l, ns.foldl (fun s n => modLane s n f) s = { s with lanes := l } := by
  induction ns generalizing s with
  | nil => exact ⟨s.lanes, rfl⟩
  | cons n ns ih => exact ih (modLane s n f)

/-- Without lookups in hand the fence of a cascade member changes the Bib alone. -/
theorem fenceMember_idle {s : State} (hwaits : s.bib.waits = []) (hlooks : s.bib.lookQ = []) (d : DevId) (declared : Bool) :
    ∃ b, fenceMember s d declared = { s with bib := b } := by
  have hends (b : Bib) (hw : b.waits = []) (hq : b.lookQ = []) (code : Finish) :
      ∃ b', endLookups { s with bib := b } code = { s with bib := b' } := by
    simp only [endLookups, hw, hq, List.map_nil, List.append_nil, List.foldl_nil]
    exact ⟨_, rfl⟩
  unfold fenceMember
  split
  · exact ⟨s.bib, rfl⟩
  · split
    · refine hends _ ?_ ?_ _
      · cases declared <;> exact hwaits
      · cases declared <;> exact hlooks
    · exact ⟨s.bib, rfl⟩

/-- Without requests the loss of a group's member changes the lanes alone. -/
theorem groupLost_idle {s : State} (hreqs : s.reqs = []) (d : DevId) : ∃ l, groupLost s d = { s with lanes := l } := by
  unfold groupLost
  split
  · dsimp only
    generalize lanesWhere s _ = ns
    obtain ⟨l, hl⟩ := modLanes_frame (fun l => { l with
      st := { l.st with stopNext := true, lapLost := l.st.lapLost || !l.st.slots.isEmpty } }) ns s
    rw [hl]
    simp only [hreqs, List.filter_nil, List.map_nil, List.foldl_nil]
    exact ⟨l, rfl⟩
  · exact ⟨s.lanes, rfl⟩

/-- No work toward any peer: no queue, system channel, waiting frame, leg, pull, request or lookup. -/
structure NoWork (s : State) : Prop where
  sqs : s.te.sqs = []
  sysTx : s.te.sysTx = []
  ctxWait : s.te.ctxWait = []
  legs : s.btn.legs = []
  pulls : s.btn.pulls = []
  reqs : s.reqs = []
  waits : s.bib.waits = []
  lookQ : s.bib.lookQ = []

theorem NoWork.of_sansLoose {s t : State} (h : sansLoose t = sansLoose s) (hs : NoWork s) : NoWork t where
  sqs := (congrArg (fun u : State => u.te.sqs) h :).trans hs.sqs
  sysTx := (congrArg (fun u : State => u.te.sysTx) h :).trans hs.sysTx
  ctxWait := (congrArg (fun u : State => u.te.ctxWait) h :).trans hs.ctxWait
  legs := (congrArg (fun u : State => u.btn.legs) h :).trans hs.legs
  pulls := (congrArg (fun u : State => u.btn.pulls) h :).trans hs.pulls
  reqs := (congrArg (fun u : State => u.reqs) h :).trans hs.reqs
  waits := (congrArg (fun u : State => u.bib.waits) h :).trans hs.waits
  lookQ := (congrArg (fun u : State => u.bib.lookQ) h :).trans hs.lookQ

/-- A device joins a list once. -/
def devAdd (ds : List DevId) (d : DevId) : List DevId := if ds.contains d then ds else ds ++ [d]

theorem mem_devAdd (ds : List DevId) (d : DevId) : d ∈ devAdd ds d := by
  unfold devAdd
  split
  · next h => exact List.contains_iff_mem.1 h
  · exact List.mem_append_right _ (List.mem_singleton_self d)

/-- The fence of `d` as Track and MAR hold it. -/
def fenceHeld (s : State) (d : DevId) (epoch : BitVec 16) (declared : Bool) : State := { s with
  te := { s.te with fenced := devAdd s.te.fenced d, dead := if declared then devAdd s.te.dead d else s.te.dead }
  mar := { s.mar with held := s.mar.held.filter (fun f => f.subject != d) ++ [⟨d, epoch, declared⟩] } }

namespace NoWork
variable {s : State} (h : NoWork s)
include h

theorem fenceHeld (d : DevId) (epoch : BitVec 16) (declared : Bool) : NoWork (fenceHeld s d epoch declared) :=
  ⟨h.sqs, h.sysTx, h.ctxWait, h.legs, h.pulls, h.reqs, h.waits, h.lookQ⟩

theorem closeSysTx (d : DevId) : closeSysTx s d = s := by
  rw [Machine.closeSysTx, h.sysTx]
  rfl

theorem deadTarget (d : DevId) : deadTarget s d = s := by
  rw [Machine.deadTarget, h.sqs]
  rfl

theorem fenceTarget (d : DevId) : fenceTarget s d = s := by
  rw [Machine.fenceTarget, h.sqs]
  rfl

theorem fencePulls (d : DevId) (code : Finish) : fencePulls s d code = s := by
  rw [Machine.fencePulls, h.pulls]
  rfl

theorem fenceLegs (d : DevId) (declared : Bool) :
    (s.btn.legs.filter fun g => g.peer == d).foldl (fun s g => fenceLeg s g declared) s = s := by
  rw [h.legs]
  rfl

end NoWork

theorem fencePeer_idle {s : State} (h : NoWork s) (d : DevId) (epoch : BitVec 16) (declared : Bool) :
    ∃ l b, fencePeer s d epoch declared = { fenceHeld s d epoch declared with lanes := l, bib := b } := by
  have hidle := h.fenceHeld d epoch declared
  obtain ⟨b, hb⟩ := fenceMember_idle hidle.waits hidle.lookQ d declared
  obtain ⟨l, hl⟩ := groupLost_idle (s := { fenceHeld s d epoch declared with bib := b }) hidle.reqs d
  have hpeer : fencePeer s d epoch declared = if declared then groupLost (fenceMember (fenceHeld s d epoch declared) d declared) d
      else fenceMember (fenceHeld s d epoch declared) d declared := by
    cases declared with
    | false =>
      have hends : fenceTarget (fenceHeld s d epoch false) d = fenceHeld s d epoch false := hidle.fenceTarget d
      change fenceMember (fencePulls (((fenceTarget (fenceHeld s d epoch false) d).btn.legs.filter fun g => g.peer == d).foldl
        (fun s g => fenceLeg s g false) (fenceTarget (fenceHeld s d epoch false) d)) d .fenced) d false = _
      rw [hends, hidle.fenceLegs, hidle.fencePulls]
      rfl
    | true =>
      have hends : deadTarget (closeSysTx (fenceHeld s d epoch true) d) d = fenceHeld s d epoch true := by
        rw [hidle.closeSysTx, hidle.deadTarget]
      change groupLost (fenceMember (fencePulls (((deadTarget (closeSysTx (fenceHeld s d epoch true) d) d).btn.legs.filter
        fun g => g.peer == d).foldl (fun s g => fenceLeg s g true) (deadTarget (closeSysTx (fenceHeld s d epoch true) d) d)) d
        .deadTarget) d true) d = _
      rw [hends, hidle.fenceLegs, hidle.fencePulls]
      rfl
  rw [hpeer, hb]
  cases declared with
  | false => exact ⟨s.lanes, b, rfl⟩
  | true => exact ⟨l, b, hl⟩

theorem marLog_fences (s : State) (ev lane : Nat) (subject : DevId) (core : Nat) (detail : Word) :
    let t := marLog s ev lane subject core detail
    t.mar.held = s.mar.held ∧ t.mar.seen = s.mar.seen := by
  have hsent (u : State) (dst : DevId) (m : MarMsg) (e : List Word) : (marSend u dst m e).mar = u.mar :=
    (congrArg State.mar (marSend_sansLoose u dst m e) :)
  dsimp only [marLog]
  split
  · exact ⟨rfl, rfl⟩
  · split
    · rw [hsent, msix_mar]
      exact ⟨rfl, rfl⟩
    · rw [msix_mar]
      exact ⟨rfl, rfl⟩

theorem marLog_targets (s : State) (ev lane : Nat) (subject : DevId) (core : Nat) (detail : Word) :
    let t := marLog s ev lane subject core detail
    t.te.fenced = s.te.fenced ∧ t.te.dead = s.te.dead := by
  obtain ⟨o, m, h⟩ := marLog_frame s ev lane subject core detail
  exact ⟨(congrArg (fun u : State => u.te.fenced) h :), (congrArg (fun u : State => u.te.dead) h :)⟩

/-- The state in which a fence has been seen and its message has gone out to the fan-out. -/
def fenceSpread (s : State) (d : DevId) (epoch : BitVec 16) (declared : Bool) (round : BitVec 48) : State :=
  let t := { s with mar := { s.mar with seen := s.mar.seen ++ [⟨d, epoch, declared⟩] } }
  marSendAll t (fanOut t) (mkMsg t mtFence (if declared then 0 else 1) d epoch round)

theorem marSendAll_sansLoose (s : State) (ds : List DevId) (m : MarMsg) : sansLoose (marSendAll s ds m) = sansLoose s :=
  foldl_keeps sansLoose _ (fun _ _ => marSend_sansLoose ..) _ _

theorem fenceIn_peer {s : State} {d : DevId} {epoch : BitVec 16} {declared : Bool} (hpeer : d ≠ s.mpl.devId)
    (hnew : fenceIgnored s d epoch declared = false) (round : BitVec 48) : fenceIn s d epoch declared false round =
      marLog (fencePeer (fenceSpread s d epoch declared round) d epoch declared) (if declared then evDeclared else evFenced) 0xF d
        0xFF (epoch.setWidth 32) := by
  simp only [fenceIn, hnew, hpeer, Bool.false_eq_true, if_false]
  rfl

/-- Settles O16: the commands and the register are `regCmd`'s; a fence without work in hand comes to what Track and MAR hold of it. That a
fenced device answers FENCE ADMIN with FENCED, and takes READMIT, is the model's choice (log 32). -/
theorem marshalCommandsAndFences : Obligations.MarshalCommandsAndFences := by
  unfold Obligations.MarshalCommandsAndFences
  refine ⟨fun s a hacts => ⟨fun hfree => ?_, exec_marCmdReadmit hacts, fun hfenced => ?_, fun hok => ?_, fun x hx => ?_,
    exec_portFenceWrite hacts⟩, fun s d e declared r hpeer hnew hsqs hsys hctx hlegs hpulls hreqs hwaits hlooks => ?_⟩
  · rw [exec_marCmdFenceAdmin hacts, marCmdFence, hfree]
    rfl
  · rw [exec_marCmdFenceAdmin hacts, marCmdFence, hfenced]
    rfl
  · obtain ⟨⟨b, hmar⟩, hmem⟩ := marCmdSwapNow_starts hok
    refine ⟨_, exec_marCmdSwap hacts, ?_, ?_, ?_, ?_, ?_, ?_, hmem⟩ <;> rw [hmar] <;> rfl
  · rw [exec_marCmdSwap hacts, marCmdSwapNow, hx]
    rfl
  · have hspread : sansLoose (fenceSpread s d e declared r) =
        sansLoose { s with mar := { s.mar with seen := s.mar.seen ++ [⟨d, e, declared⟩] } } := marSendAll_sansLoose ..
    have hidle : NoWork (fenceSpread s d e declared r) :=
      NoWork.of_sansLoose hspread ⟨hsqs, hsys, hctx, hlegs, hpulls, hreqs, hwaits, hlooks⟩
    obtain ⟨l, b, hheld⟩ := fencePeer_idle hidle d e declared
    have hin := fenceIn_peer hpeer hnew r
    rw [hheld] at hin
    obtain ⟨hfences, hseen⟩ := marLog_fences { fenceHeld (fenceSpread s d e declared r) d e declared with lanes := l, bib := b }
      (if declared then evDeclared else evFenced) 0xF d 0xFF (e.setWidth 32)
    obtain ⟨hfenced, hdead⟩ := marLog_targets { fenceHeld (fenceSpread s d e declared r) d e declared with lanes := l, bib := b }
      (if declared then evDeclared else evFenced) 0xF d 0xFF (e.setWidth 32)
    obtain ⟨-, hmem, hkept⟩ := marLog_work { fenceHeld (fenceSpread s d e declared r) d e declared with lanes := l, bib := b }
      (if declared then evDeclared else evFenced) 0xF d 0xFF (e.setWidth 32)
    dsimp only
    rw [hin, hfences, hseen, hfenced, hdead, hmem, hkept]
    have hsaw : (fenceSpread s d e declared r).mar.seen = s.mar.seen ++ [⟨d, e, declared⟩] :=
      (congrArg (fun u : State => u.mar.seen) hspread :)
    refine ⟨mem_devAdd .., List.mem_append_right _ (List.mem_singleton_self _), ?_, fun hdeclared => ?_,
      (congrArg State.mem hspread :), (congrArg State.reqs hspread :)⟩
    · change _ ∈ (fenceSpread s d e declared r).mar.seen
      rw [hsaw]
      exact List.mem_append_right _ (List.mem_singleton_self _)
    · subst hdeclared
      exact mem_devAdd ..

end Sys2Proof.Machine
end

section
/-! PROOFS. Slots and draws (O32): the record of a slot that starts and of one that completes, and Judge's return. -/
namespace Sys2Proof.Machine
open Sys2Proof

/-! ## The records of a lane's slots (R98, R108) -/

theorem getElem?_map_zipIdx {α β : Type} (xs : List α) (g : α × Nat → β) (j : Nat) :
    (xs.zipIdx.map g)[j]? = xs[j]?.map fun r => g (r, j) := by
  simp [List.getElem?_zipIdx, Option.map_map, Function.comp_def]

theorem setSlot_self (l : Lane) (i : Nat) (f : SlotRun → SlotRun) : (setSlot l i f).st.slots[i]? = l.st.slots[i]?.map f := by
  rw [setSlot, getElem?_map_zipIdx]
  simp only [if_true]

theorem setSlot_ne (l : Lane) (i : Nat) (f : SlotRun → SlotRun) {j : Nat} (h : j ≠ i) :
    (setSlot l i f).st.slots[j]? = l.st.slots[j]? := by
  rw [setSlot, getElem?_map_zipIdx]
  simp only [h, if_false, Option.map_id']

theorem fgTable_setSlot (l : Lane) (i : Nat) (f : SlotRun → SlotRun) : fgTable (setSlot l i f) = fgTable l := rfl

/-- A slot that a lane has lies in its table and has its record. -/
theorem slotAt_eq_some {l : Lane} {i : Nat} {x : Slot} {r : SlotRun} (h : slotAt l i = some (x, r)) :
    ∃ t, fgTable l = some t ∧ t.slots[i]? = some x ∧ l.st.slots[i]? = some r := by
  unfold slotAt at h
  split at h
  · next t ht =>
    split at h
    · next y z hy hz =>
      cases h
      exact ⟨t, ht, hy, hz⟩
    · cases h
  · cases h

/-! ## A slot that starts (R100, R108, R112) -/

/-- The lane once slot `i` has started: its record runs, and a streamed one lets the next load into the other half. -/
def slotStarted (now : Nat) (l : Lane) (x : Slot) (i : Nat) : Lane :=
  let l' := setSlot l i fun r => { r with phase := .running, startAt := now }
  if x.stream then streamStarts l' i else l'

theorem slotStarted_slots (now : Nat) (l : Lane) (x : Slot) (i : Nat) : (slotStarted now l x i).st.slots =
    (setSlot l i fun r => { r with phase := .running, startAt := now }).st.slots := by
  unfold slotStarted
  split <;> rfl

theorem slotStarted_win (now : Nat) {l : Lane} {x : Slot} (i : Nat) {t : LapTable} (hstream : x.stream = true)
    (ht : fgTable l = some t) : (slotStarted now l x i).st.win = {
      loading := streamFrom l t (i + 1), next := l.st.win.next + 1
      halves := vset l.st.win.halves (l.st.win.next + 1) none } := by
  simp only [slotStarted, hstream, if_true, streamStarts, fgTable_setSlot, ht]
  rfl

/-- The pages that a lap's attention lists are noted in their requests alone. -/
theorem touchReqs_frame (bs : List BatonId) (s : State) : ∃ rs, bs.foldl touchReq s = { s with reqs := rs } := by
  induction bs generalizing s with
  | nil => exact ⟨s.reqs, rfl⟩
  | cons b bs ih => exact ih (touchReq s b)

/-! ## A slot that completes (R98, R108, R111, R248) -/

/-- The lane on which a slot completes: past the slot's budget it counts the overrun. -/
def slotTimed (l : Lane) (x : Slot) (i cycles : Nat) : Lane :=
  if x.budget.toNat < cycles then softOverrun l i (cycles - x.budget.toNat) else l

theorem slotTimed_kept (l : Lane) (x : Slot) (i cycles : Nat) :
    fgTable (slotTimed l x i cycles) = fgTable l ∧ (slotTimed l x i cycles).st.slots = l.st.slots ∧
      (slotTimed l x i cycles).st.soft = if x.budget.toNat < cycles then satInc l.st.soft else l.st.soft := by
  unfold slotTimed
  split <;> exact ⟨rfl, rfl, rfl⟩

theorem completeSlot_soft (l : Lane) (i : Nat) : (completeSlot l i).st.soft = l.st.soft := by
  unfold completeSlot
  dsimp only
  split <;> rfl

/-- One predecessor less for a slot `y` that names slot `i`. -/
def predecessorDone (i : Nat) (y : Slot) (z : SlotRun) : SlotRun :=
  if y.deps.contains (BitVec.ofNat 10 i) then { z with pending := z.pending - 1 } else z

/-- Each record after a completion: its own slot's phase, then one predecessor less where its slot names the completed one. -/
theorem completeSlot_slots {l : Lane} {t : LapTable} (ht : fgTable l = some t) (i j : Nat) {y : Slot} (hy : t.slots[j]? = some y) :
    (completeSlot l i).st.slots[j]? =
      (setSlot l i fun r => { r with phase := .complete }).st.slots[j]?.map (predecessorDone i y) := by
  simp only [completeSlot, fgTable_setSlot, ht]
  rw [getElem?_map_zipIdx]
  simp only [hy]
  rfl

/-! ## The commands of slots and of the weight window (R100, R108, R248) -/

section
variable {s : State} {n : LaneNo} {i : Nat} {x : Slot} {r : SlotRun} (hslot : slotAt (laneOf s n) i = some (x, r))
include hslot

theorem exec_slotStart_waits (ws : List Work) (hwait : slotReady (laneOf s n) i x r = false ∨ firstReady (laneOf s n) i = false) :
    exec (.slotStart n i ws) s = .next s := by
  have hno : (lapOpen s (laneOf s n) && slotReady (laneOf s n) i x r && firstReady (laneOf s n) i) = false := by
    rcases hwait with h | h <;> simp [h]
  change execSlotStart n i ws s = _
  simp only [execSlotStart, hslot, hno, Bool.false_eq_true, if_false]

theorem exec_slotComplete_runs (cycles : Nat) (source : Option DevId)
    (hnot : r.phase ≠ .running ∨ slotDone s n i x r cycles = false) : exec (.slotComplete n i cycles source) s = .next s := by
  have hno : (lapOpen s (laneOf s n) && decide (r.phase = .running) && slotDone s n i x r cycles) = false := by
    rcases hnot with h | h <;> simp [h]
  change execSlotComplete n i cycles source s = _
  simp only [execSlotComplete, hslot, hno, Bool.false_eq_true, if_false]

variable (hopen : lapOpen s (laneOf s n) = true)
include hopen

theorem exec_slotStart (ws : List Work) (hready : slotReady (laneOf s n) i x r = true) (hfirst : firstReady (laneOf s n) i = true) :
    ∃ rs, exec (.slotStart n i ws) s = .next (settleLane (runSlot
      { setLane s n (slotStarted s.clk.now (laneOf s n) x i) with reqs := rs } n i x ws) n) := by
  obtain ⟨rs, hrs⟩ := touchReqs_frame (slotReaders (setLane s n (slotStarted s.clk.now (laneOf s n) x i)) n x)
    (setLane s n (slotStarted s.clk.now (laneOf s n) x i))
  refine ⟨rs, ?_⟩
  rw [← hrs]
  change execSlotStart n i ws s = _
  simp only [execSlotStart, hslot, hopen, hready, hfirst, Bool.and_self, if_true]
  rfl

theorem exec_slotComplete (cycles : Nat) (source : Option DevId) (hrun : r.phase = .running)
    (hdone : slotDone s n i x r cycles = true) : exec (.slotComplete n i cycles source) s =
      let u := slotEnd (setLane s n (completeSlot (slotTimed (laneOf s n) x i cycles) i)) n x
      .next (match source with
        | some d => if x.budget.toNat < cycles ∧ x.type = tExchange then lateSource u d else u
        | none => u) := by
  change execSlotComplete n i cycles source s = _
  simp only [execSlotComplete, hslot, hopen, hrun, hdone, decide_true, Bool.and_self, if_true, decide_eq_true_eq,
    Bool.and_eq_true]
  cases source <;> rfl

end

/-- R108: a load that is complete fills its half. -/
theorem exec_weightHalfFull {s : State} {n : LaneNo} (hopen : lapOpen s (laneOf s n) = true) {t : LapTable} {j : Nat} {y : Slot}
    (ht : fgTable (laneOf s n) = some t) (hload : (laneOf s n).st.win.loading = some j) (hy : t.slots[j]? = some y) :
    exec (.weightHalfFull n) s = .next (setLane s n { laneOf s n with st := { (laneOf s n).st with
        win := { (laneOf s n).st.win with
          loading := none
          halves := vset (laneOf s n).st.win.halves (laneOf s n).st.win.next (some (j, y.hbmRd.toNat * 4096)) } } }) := by
  change execWeightHalfFull n s = _
  simp only [execWeightHalfFull, hopen, if_true, halfFills, hload, ht, hy]

/-- Settles O32: a slot's start, completion and load change the lane's record by `slotStarted`, `completeSlot` and `halfFills`; a draw
goes into the request. -/
theorem slotsAndDraws : Obligations.SlotsAndDraws := by
  unfold Obligations.SlotsAndDraws
  refine ⟨fun s n i x r hslot hopen => ⟨fun ws hready hfirst => ?_, exec_slotStart_waits hslot,
    fun cycles hrun hdone => ?_, exec_slotComplete_runs hslot, fun t j y => exec_weightHalfFull hopen⟩,
    fun s n b xs r hreq hlogits hopen hlane hsampling hdraws hnone hheld => ?_⟩
  · obtain ⟨t, ht, -, hr⟩ := slotAt_eq_some hslot
    obtain ⟨rs, hexec⟩ := exec_slotStart hslot hopen ws hready hfirst
    have hself : laneOf { setLane s n (slotStarted s.clk.now (laneOf s n) x i) with reqs := rs } n =
        slotStarted s.clk.now (laneOf s n) x i := laneOf_setLane_self ..
    refine ⟨_, hexec, ?_, fun j hj => ?_, fun hstream t ht => ?_, fun k hk => laneOf_setLane_ne _ _ _ _ hk, rfl, rfl⟩
    · rw [hself, slotStarted_slots, setSlot_self, hr]
      rfl
    · rw [hself, slotStarted_slots, setSlot_ne _ _ _ hj]
    · rw [hself]
      exact slotStarted_win _ _ hstream ht
  · obtain ⟨t, ht, hx, hr⟩ := slotAt_eq_some hslot
    obtain ⟨htable, hslots, hsoft⟩ := slotTimed_kept (laneOf s n) x i cycles
    refine ⟨_, exec_slotComplete hslot hopen cycles none hrun hdone,
      fun src => exec_slotComplete hslot hopen cycles (some src) hrun hdone,
      ?_, ?_, fun t j y z ht hy hz hj => ?_, fun k hk => laneOf_setLane_ne _ _ _ _ hk, rfl, rfl⟩
    · rw [laneOf_setLane_self, completeSlot_slots (htable.trans ht) i i hx, setSlot_self, hslots, hr]
      simp only [Option.map_some, predecessorDone]
      split <;> rfl
    · rw [laneOf_setLane_self, completeSlot_soft, hsoft]
    · rw [laneOf_setLane_self, completeSlot_slots (htable.trans ht) i j hy, setSlot_ne _ _ _ hj, hslots, hz]
      rfl
  · change execJudgeReturn n b s = _
    simp only [execJudgeReturn, hreq, hlogits, hopen, hlane, hsampling, hdraws, hnone, hheld, beq_self_eq_true, Option.isNone_none,
      Bool.not_false, Bool.and_self, if_true]
    rfl

end Sys2Proof.Machine
end
